-- ==== Sys2Proof/Word.lean ====
section
/-!
DEFINITION. The word types of the Amiez package (spec/03_encoding.md R49, R60, R66) and their plainest
arithmetic. Everything a test could show wrong (sign extension of fields, byte order, bit fields) stands in
Decode.lean and Machine/, not here.
-/

namespace Sys2Proof

/-- One byte of any memory. -/
abbrev Byte := BitVec 8

/-- An instruction word (R49). -/
abbrev IWord := BitVec 32

/-- The contents of an x register, an address, a control register (R66). -/
abbrev Word := BitVec 64

/-- The contents of a v register (R66). -/
abbrev Vec := BitVec 128

/-- A register number as it stands in a field of a word (R60). -/
abbrev Reg := BitVec 5

end Sys2Proof
end

