-- ==== Sys2Proof/Config.lean ====
section
/-!
DEFINITION. What the part fixes once, and the free values: what the spec leaves open. A free value is an opaque
constant without a body, applied to the counter State.fresh or to the operands it depends on.
-/
namespace Sys2Proof.Config

/-- A byte the spec calls unpredictable: an overlapping destination byte of a COPY (R149). Free value, log 9. -/
opaque freeByte : Nat → Byte

/-- Whether a fetch of a word that was stored after it was cached returns the new word (R53). Free value, log 8. -/
opaque fetchIsNew : Nat → Bool

/-- Whether the exact value of a transcendental result lies above the rounding boundary that its 512-bit
enclosure straddles (R390). Free value, log 10. -/
opaque aboveBoundary : Nat → Bool

/-- The port of its spray set that a packet takes (R225, R231: the free credit of the ports decides). Free value,
log 12. -/
opaque sprayChoice : Nat → Nat

/-- The code of a packet's kind in its header, by the place of the kind in the model's list (R227: the codes are not stated).
Free value, log 12. -/
opaque kindCode : Nat → BitVec 6

/-- The route tag of a packet to a place, by LCN and offset (R227: its layout is not stated). Free value, log 12. -/
opaque placeTag : Nat → Nat → BitVec 32

/-- The route tag of a multicast, by group and tree (R227: its layout is not stated). Free value, log 12. -/
opaque groupTag : Nat → Nat → BitVec 32

/-- The tree of a group that a multicast of a version goes by (R227, R239: how trees are numbered is not stated). Free value,
log 12. -/
opaque treeOf : Nat → BitVec 16 → Nat

/-- The destination field of a multicast's packet, by its group (R227: which package it names is not stated). Free value,
log 12. -/
opaque mcastDestination : Nat → BitVec 13

/-- Whether the die ring is blocked, on both virtual channels, for the message at a place of the network in a cycle (R223).
Free value, log 12. -/
opaque ringBlocked : Nat → Nat → Bool

/-- The value and the status of a sensor, by cycle and by its place among the records (R274). Free values, log 43. -/
opaque sensorValue : Nat → Nat → BitVec 64

/-- The status of a sensor, as its value. Free value, log 43. -/
opaque sensorStatus : Nat → Nat → BitVec 32

/-- The mean module power over the window that ends in a cycle (R275). Free value, log 43. -/
opaque meanPower : Nat → Nat

/-- SHA-256 of a byte string (R279, R280): the digest algorithm is outside the spec. Free value, log 13. -/
opaque sha256 : List Byte → BitVec 256

/-- ECDSA P-256 verification of a firmware image against the fused key (R279). Free value, log 13. -/
opaque imageVerifies : List Byte → Bool

/-- The security version that a firmware image carries (R279). Free value, log 13. -/
opaque imageVersion : List Byte → Nat

/-- The fused minimum security version of this part (R279). Free value, log 13. -/
opaque fusedMinimum : Nat

/-- The signature made with the device identity key over a nonce and what GET_MEASUREMENTS returns: the digests of both
banks, the fused minimum version and the count of retired cores (R280). Free value, log 13. -/
opaque identitySign : List Byte → BitVec 256 → BitVec 256 → Nat → Nat → List Byte

/-- A byte of device memory homed in another package, as the walker, the dispatcher or the group reader reads it there: by
package, offset and cycle (R119, R124; log 42). -/
opaque awayByte : Nat → Nat → Nat → Byte

/-- A byte of the host window as the dispatcher reads it: by host address and cycle (R244; log 42). -/
opaque hostByte : Nat → Nat → Byte

/-- A byte of an event-log record as READLOG returns it, by the record's CYCLE, code, physical and logical core and
values (R276: the layout is not stated). Free value, log 17. -/
opaque recordByte : Nat → Nat → Nat → Nat → List Nat → Nat → Byte

/-- Q of R192: the quantum of a tenancy-class turn, in core cycles. -/
def quantum : Nat := 65536

/-- R274: sensors of the package: 4 and 3 rails on each of 8 compute dies, 2 and 2 rails on each of 8 stacks and 2 I/O
dies. -/
def sensorCount : Nat := 8 * 7 + 8 * 4 + 2 * 4

/-- R192: the dispatcher requests a pre-emption this many cycles before the turn limit. -/
def preemptLead : Nat := 16384

/-- R195 step 1: a slot that has not issued for this many cycles goes first. -/
def starveLimit : Nat := 4096

/-- R204: the bytes of one save image. -/
def imageBytes : Nat := 0x5C000

/-- R120: the device memory of one package, 768 GiB. -/
def deviceBytes : Nat := 768 * 2 ^ 30

/-- R8: packages of a load-store domain. -/
def packages : Nat := 4608

/-- R31: words of one channel FIFO. -/
def fifoWords : Nat := 64

/-- R40: oasis entries open to messages of every kind, and all oasis entries. -/
def oasisCommon : Nat := 960

/-- R40: oasis entries in all; the last 64 take only MIGRATE, CALL and REPLY. -/
def oasisAll : Nat := 1024

/-- R40: messages one NI's outbound buffer holds. -/
def outbound : Nat := 16

/-- R171: tiles of one die's versioned store. -/
def versionedTiles : Nat := 16384

/-- R183: entries of the launch table. -/
def launchEntries : Nat := 4096

end Sys2Proof.Config
end

