-- ==== Sys2Proof/Syntax.lean ====
section
/-!
DEFINITION. The whole table of operations as syntax: one constructor per row of spec/opcode_table.json. The 177
instruction words carry their operand fields (03_encoding Tables 3.6 to 3.10); L, STALL and K are the word's header
(R49) and stand in Header, not in the constructors. The 7 matrix commands and the 94 operations and events of the
part have no word; their constructors name the agent that acts (a core's site, a slot, a place in a queue) and carry
the data that comes from outside the part.
-/
namespace Sys2Proof

/-- Lane types, 03_encoding Table 3.9; code 15 (BFP) is not a vector lane type (R63). -/
inductive LaneType where
  | i8 | i16 | i32 | i64 | n8 | n16 | n32 | n64 | fp64 | fp32 | fp16 | bf16 | e4m3 | e5m2 | e2m1
  deriving DecidableEq, Repr, Inhabited

/-- VCMP conditions, R63. -/
inductive VCond where
  | eq | ne | lt | le | un | ord | ltn | len
  deriving DecidableEq, Repr

/-- Scope codes, 00_scope Table 0.2. -/
inductive Scope where
  | slot | core | group | sector | die | pkg | domain | sys
  deriving DecidableEq, Repr, Inhabited

/-- Access path classes, 07_ordering Table 7.1. -/
inductive PathClass where
  | lsu | copy | matrix | gather | stream | mcast | host
  deriving DecidableEq, Repr

/-- FENCE kinds, R312. -/
inductive FenceKind where
  | full | acq | rel
  deriving DecidableEq, Repr

/-- AMO operations, 14_reference Table 14.4. -/
inductive AmoOp where
  | add | and | or | xor | min | max | minn | maxn | swp | faddFp32 | faddFp16 | faddBf16
  deriving DecidableEq, Repr

/-- TRED operations, 16_reference Table 16.9. -/
inductive RedOp where
  | add | min | max
  deriving DecidableEq, Repr

/-- BKSEL key types, R297. -/
inductive KeyType where
  | fp32 | fp16 | bf16 | i32
  deriving DecidableEq, Repr

/-- The issue header of a word besides K (R49): the lone bit L and the STALL count. -/
structure Header where
  lone : Bool
  stall : BitVec 3
  deriving DecidableEq, Repr

/-! ### What messages, packets and host requests carry -/

/-- A place in the load-store domain, in launch-origin coordinates (R110): package and logical core number. -/
structure Place where
  pkg : Nat
  lcn : Nat
  deriving DecidableEq, Repr, Inhabited

/-- A word of a queue, with its poison mark (R217). -/
structure PWord where
  val : Word
  poison : Bool
  deriving DecidableEq, Repr, Inhabited

/-- What a remote LM access does at the target's LM port (R112, R109, R163, R291); a store carries the positions of
poisoned bytes (R217). -/
inductive RemoteOp where
  | load (size : Nat)
  | store (bytes : List Byte) (raiseSw : Option Nat) (bad : List Nat)
  | nibble (hi : Bool) (v : BitVec 4) (raiseSw : Option Nat)
  | amo (op : AmoOp) (dbl : Bool) (v : Word)
  | cas (dbl : Bool) (expected new : Word)
  | tred (op : RedOp) (ty : LaneType) (bytes : List Byte)
  | swset (target : BitVec 32)
  | barArrive (n : BitVec 32)
  | raise (n : Nat)
  deriving DecidableEq, Repr

/-- Who waits for the answer of a remote access: nobody (posted), a slot, a GATHER or SCATTER operation with the
element's position, or a COPY transfer with the byte's position. -/
inductive Waiter where
  | none
  | slot (i : Nat)
  | gather (op pos : Nat)
  | scatter (op pos : Nat)
  | copyRead (op pos : Nat)
  | copyWrite (op pos : Nat)
  deriving DecidableEq, Repr

/-- A TKSEND list on its way to a merge unit (R266, R267). -/
structure MergeList where
  k : Nat
  entries : List Word
  nans : Nat
  contributors : Nat
  deriving DecidableEq, Repr, Inhabited

/-- The body of a message between two cores: the kinds of 02_execution Table 2.7, and the asks, answers, reports,
remote accesses, responses, wake answers and lists that travel between NIs, and the activation message of the control class
(R233). -/
inductive MsgBody where
  | data (ch : Nat) (ws : List PWord)
  | spawn (pc : Word) (xs : List Word) (wid : Word) (queued : Bool)
  | migrate (pc : Word) (xs : List Word) (wid : Word)
  | call (pc : Word) (xs : List Word) (wid token : Word)
  | reply (ch : Nat) (w : PWord)
  | ask (slot : Nat)
  | answer (slot : Nat) (accepted : Bool)
  | endReport
  | access (op : RemoteOp) (off : Nat) (waiter : Waiter)
  | globalAccess (op : RemoteOp) (pa : Nat) (waiter : Waiter)
  | response (waiter : Waiter) (bytes : List Byte) (nack poison : Bool)
  | wake (slot : Nat) (sw : Nat) (gen : BitVec 32)
  | mcast (group : Nat) (off : Nat) (bytes : List Byte) (sw : Nat) (bad : List Nat)
  | list (tag : Nat) (rect : Nat × Nat × Nat × Nat) (result sw : Nat) (l : MergeList) (num : Nat)
  | activate (version : BitVec 16)
  deriving DecidableEq, Repr

/-- One message in the network: the launch it belongs to (its key), sender, sending slot and target in launch-origin
coordinates, whether it waits in the sending NI after a refusal (R40), the cycles it has been blocked on the die
ring and its virtual channel (R223), the cycle in which a remote access reaches its target's port (R9), the site
whose NI holds a place of its outbound buffer for it (R40), the placement generation that its NI knew (R210), the die whose
ring interface it stands at (R223), for one that leaves the package the launch that sent it (R236), the address of a held
remote store (R35, R111), the members of a multicast's group (R240), whether it was held for a context that comes
back (R203), and, for a multicast's line that has come in from the fabric, its sequence number and version (R239). -/
structure Msg where
  key : Nat
  src : Place
  slot : Nat
  dst : Place
  body : MsgBody
  retried : Bool := false
  stuck : Nat := 0
  vc : Nat := 0
  due : Nat := 0
  site : Nat := 0
  gen : Nat := 0
  ring : Nat := 0
  owner : Option Nat := none
  va : Word := 0
  members : Nat := 0
  held : Bool := false
  delivery : Option (BitVec 32 × BitVec 16) := none
  deriving DecidableEq, Repr

/-- The name of a Zynong stream (R228): class, source package and die, destination package; for multicast (class 2)
the destination field is the group. -/
structure StreamId where
  cls : Nat
  src : Nat
  die : Nat
  dst : Nat
  deriving DecidableEq, Repr

/-- A Zynong packet (R227, 10_fabric Table 10.3): its version, stream, sequence number and what it carries; the I/O die
that it leaves its source through (R225), and the cycle of its latest transmission (R230). -/
structure Packet where
  version : BitVec 16
  stream : StreamId
  seq : BitVec 32
  body : Msg
  die : Nat := 0
  sent : Nat := 0
  deriving DecidableEq, Repr

/-- A switch or a package's NI, as the place of a routing table or the end of a link (R224, R232). Switches are numbered
plane by plane, 136 each: the 64 leaves, then the 72 spines. -/
inductive Node where
  | switch (n : Nat)
  | package (p : Nat)
  deriving DecidableEq, Repr

/-- A routing table of one version (R232): the packages it holds a route to, the spray set per destination (next
nodes), and the children of each multicast group's tree. -/
structure RouteTable where
  version : BitVec 16
  members : List Nat
  routes : List (Nat × List Node)
  trees : List (Nat × List Node)
  deriving DecidableEq, Repr

/-- A merged multicast answer (R239, R240): positive and negative counts, the lowest negative member and its
cause. -/
structure McAnswer where
  pos : Nat
  neg : Nat
  low : Nat
  cause : Nat
  deriving DecidableEq, Repr, Inhabited

/-- A sensor record (R274): id, status and value. -/
structure SensorRec where
  id : BitVec 32
  status : BitVec 32
  value : Word
  deriving DecidableEq, Repr

/-- Where an uncorrectable error strikes (R217): a granule of device memory, a byte granule of a core's LM, A or W
buffer, or of a bank of the C buffer, a register, or a queue entry of 09_traps Table 9.5. -/
inductive Upset where
  | device (pa : Nat)
  | lm (core off : Nat)
  | abuf (core off : Nat)
  | wbuf (core off : Nat)
  | cbank (core : Nat) (acc visible : Bool) (off : Nat)
  | x (core slot : Nat) (r : Reg)
  | v (core slot : Nat) (r : Reg)
  | arrival (core e : Nat)
  | fifo (core ch w : Nat)
  | matrix (core e : Nat)
  | cim (core tile : Nat)
  | speculative (core slot : Nat)
  deriving DecidableEq, Repr

/-- What bring-up finds (R245, R277): the physical cores, by die and number, that fail self-test, and the host links that
train as CXL; the others train as PCIe. -/
structure BringupInput where
  badCores : List (Nat × Nat)
  cxl : List Nat := []
  deriving DecidableEq, Repr, Inhabited

/-- Every row of the table of operations. The docstring of a group names the fields' columns of 03_encoding; `d` is
the destination, `a` and `b` are registers in the order the form writes them, `m` is the M bit (R66). -/
inductive Instr where
  -- A-class scalar forms (R61, R62)
  | addA (d a b : Reg) (m : Bool)
  | subA (d a b : Reg) (m : Bool)
  | andA (d a b : Reg) (m : Bool)
  | orA (d a b : Reg) (m : Bool)
  | xorA (d a b : Reg) (m : Bool)
  | shlA (d a b : Reg) (m : Bool)
  | shrA (d a b : Reg) (m : Bool)
  | sraA (d a b : Reg) (m : Bool)
  | sltA (d a b : Reg) (m : Bool)
  | sltnA (d a b : Reg) (m : Bool)
  | minA (d a b : Reg) (m : Bool)
  | maxA (d a b : Reg) (m : Bool)
  | minnA (d a b : Reg) (m : Bool)
  | maxnA (d a b : Reg) (m : Bool)
  | mul (d a b : Reg) (m : Bool)
  | mulh (d a b : Reg) (m : Bool)
  | mulhn (d a b : Reg) (m : Bool)
  | div (d a b : Reg) (m : Bool)
  | divn (d a b : Reg) (m : Bool)
  | rem (d a b : Reg) (m : Bool)
  | remn (d a b : Reg) (m : Bool)
  | popc (d a : Reg)
  | clz (d a : Reg)
  | ctz (d a : Reg)
  -- C-class scalar forms (R62, R64)
  | addC (d a b : Reg)
  | subC (d a b : Reg)
  | andC (d a b : Reg)
  | orC (d a b : Reg)
  | xorC (d a b : Reg)
  | shlC (d a b : Reg)
  | shrC (d a b : Reg)
  | sraC (d a b : Reg)
  | sltC (d a b : Reg)
  | sltnC (d a b : Reg)
  | minC (d a b : Reg)
  | maxC (d a b : Reg)
  | minnC (d a b : Reg)
  | maxnC (d a b : Reg)
  -- immediate forms of both classes
  | addiA (d a : Reg) (imm : BitVec 11)
  | addiC (d a : Reg) (imm : BitVec 11)
  | andiA (d a : Reg) (imm : BitVec 11)
  | andiC (d a : Reg) (imm : BitVec 11)
  | oriA (d a : Reg) (imm : BitVec 11)
  | oriC (d a : Reg) (imm : BitVec 11)
  | xoriA (d a : Reg) (imm : BitVec 11)
  | xoriC (d a : Reg) (imm : BitVec 11)
  | sltiA (d a : Reg) (imm : BitVec 11)
  | sltiC (d a : Reg) (imm : BitVec 11)
  | shlImmA (d a : Reg) (amount : BitVec 6)
  | shlImmC (d a : Reg) (amount : BitVec 6)
  | shrImmA (d a : Reg) (amount : BitVec 6)
  | shrImmC (d a : Reg) (amount : BitVec 6)
  | sraImmA (d a : Reg) (amount : BitVec 6)
  | sraImmC (d a : Reg) (amount : BitVec 6)
  | extr (d a : Reg) (len : BitVec 5) (pos : BitVec 6)
  | ins (d a : Reg) (len : BitVec 5) (pos : BitVec 6)
  | widf (d : Reg) (n : BitVec 3)
  -- vector forms (16_reference Table 16.10)
  | vadd (sat : Bool) (t : LaneType) (d a b : Reg) (m : Bool)
  | vsub (sat : Bool) (t : LaneType) (d a b : Reg) (m : Bool)
  | vmul (t : LaneType) (d a b : Reg) (m : Bool)
  | vmin (t : LaneType) (d a b : Reg) (m : Bool)
  | vmax (t : LaneType) (d a b : Reg) (m : Bool)
  | vminn (t : LaneType) (d a b : Reg) (m : Bool)
  | vmaxn (t : LaneType) (d a b : Reg) (m : Bool)
  | vdot (t : LaneType) (d a b : Reg) (m : Bool)
  | vshlVector (t : LaneType) (d a b : Reg) (m : Bool)
  | vshrVector (t : LaneType) (d a b : Reg) (m : Bool)
  | vsraVector (t : LaneType) (d a b : Reg) (m : Bool)
  | vfma (neg : Bool) (t : LaneType) (d a b : Reg) (m : Bool)
  | vabs (t : LaneType) (d a : Reg)
  | vneg (t : LaneType) (d a : Reg)
  | vredsum (t : LaneType) (d a : Reg)
  | vredmax (t : LaneType) (d a : Reg)
  | vredmin (t : LaneType) (d a : Reg)
  | vrcp (t : LaneType) (d a : Reg)
  | vrsq (t : LaneType) (d a : Reg)
  | vexp2 (t : LaneType) (d a : Reg)
  | vlog2 (t : LaneType) (d a : Reg)
  | vtanh (t : LaneType) (d a : Reg)
  | vsplat (t : LaneType) (d a : Reg)
  | vzmask (t : LaneType) (d a : Reg)
  | vand (d a b : Reg) (m : Bool)
  | vor (d a b : Reg) (m : Bool)
  | vxor (d a b : Reg) (m : Bool)
  | vandn (d a b : Reg) (m : Bool)
  | vperm (d a b : Reg) (m : Bool)
  | vshlScalar (t : LaneType) (d a b : Reg)
  | vshrScalar (t : LaneType) (d a b : Reg)
  | vsraScalar (t : LaneType) (d a b : Reg)
  | vext (t : LaneType) (d a b : Reg)
  | vins (t : LaneType) (d a b : Reg)
  | vcmprs (t : LaneType) (d a b : Reg)
  | vexpnd (t : LaneType) (d a b : Reg)
  | vcmp (cond : VCond) (t : LaneType) (d a b : Reg)
  | vsel (t : LaneType) (d a mask : Reg)
  | vcvt (dst src : LaneType) (sat sr : Bool) (d a : Reg)
  | vmov (d a : Reg)
  -- SYS forms (03_encoding Table 3.10)
  | waitev (a : Reg)
  | asinv (a : Reg)
  | mswap (n : Bool)
  -- traps, control registers, masks, immediates
  | trap (code : BitVec 11)
  | crr (d : Reg) (num : BitVec 11)
  | crw (a d : Reg) (num : BitVec 11)
  | crs (a d : Reg) (num : BitVec 11)
  | crc (a d : Reg) (num : BitVec 11)
  | hmask (ch : BitVec 6)
  | hunmask (ch : BitVec 6)
  | lih (d : Reg) (imm : BitVec 16)
  | liq (d : Reg) (imm : BitVec 16)
  | liw (d : Reg) (imm : BitVec 16)
  -- branches and jumps
  | beq (a b : Reg) (off : BitVec 11)
  | bne (a b : Reg) (off : BitVec 11)
  | blt (a b : Reg) (off : BitVec 11)
  | bge (a b : Reg) (off : BitVec 11)
  | bltn (a b : Reg) (off : BitVec 11)
  | bgen (a b : Reg) (off : BitVec 11)
  | bbs (a : Reg) (bit : BitVec 6) (off : BitVec 10)
  | bbc (a : Reg) (bit : BitVec 6) (off : BitVec 10)
  | j (off : BitVec 21)
  | jal (off : BitVec 21)
  | jalr (d b : Reg) (imm : BitVec 11)
  | rpt (a : Reg) (len : BitVec 3) (stride : BitVec 4)
  | tbegin (a : Reg) (off : BitVec 11)
  | tabort (code : BitVec 8)
  -- memory
  | ldB (d b : Reg) (imm : BitVec 11)
  | ldH (d b : Reg) (imm : BitVec 11)
  | ldW (d b : Reg) (imm : BitVec 11)
  | ldD (d b : Reg) (imm : BitVec 11)
  | ldnB (d b : Reg) (imm : BitVec 11)
  | ldnH (d b : Reg) (imm : BitVec 11)
  | ldnW (d b : Reg) (imm : BitVec 11)
  | vld (d b : Reg) (imm : BitVec 11)
  | stB (a b : Reg) (imm : BitVec 11)
  | stH (a b : Reg) (imm : BitVec 11)
  | stW (a b : Reg) (imm : BitVec 11)
  | stD (a b : Reg) (imm : BitVec 11)
  | vst (a b : Reg) (imm : BitVec 11)
  | st4 (a b : Reg) (off : BitVec 10) (hi : Bool)
  | lda (dbl : Bool) (scope : Scope) (d b : Reg)
  | stl (dbl : Bool) (scope : Scope) (a b : Reg)
  | amo (op : AmoOp) (dbl ar : Bool) (d b c : Reg)
  | cas (dbl ar : Bool) (a b c : Reg)
  | fence (kind : FenceKind) (scope : Scope)
  | fencex (ca cb : PathClass) (scope : Scope)
  | swset (a b : Reg)
  | swwait (a b : Reg)
  | bar (scope : Scope) (a b : Reg)
  | tred (vec : Bool) (op : RedOp) (t : LaneType) (b c : Reg)
  -- messages
  | send (a b : Reg) (count : BitVec 2) (ch : BitVec 6)
  | spawn (a b : Reg)
  | spawnq (a b : Reg)
  | migrate (a b : Reg)
  | callat (a b : Reg) (ch : BitVec 6)
  | reply (a b : Reg)
  | chrd (d : Reg) (ch : BitVec 6)
  -- engines
  | copy (sat raise : Bool) (a b c : Reg)
  | gather (a : Reg)
  | scatter (a : Reg)
  | dlaunch (a : Reg)
  | tskip (a : Reg)
  | mcst (a b c : Reg)
  | tksend (a b c : Reg)
  | bksel (ty : KeyType) (d b : Reg)
  | sbind (a b : Reg)
  | compose (a b : Reg)
  -- matrix commands, run by the sequencer of core `c` (06_engines Table 6.5)
  | mzero (c : Nat)
  | mldw (c : Nat)
  | mma (c : Nat)
  | mmas (c : Nat)
  | mmab (c : Nat)
  | madp (c : Nat)
  | mdrain (c : Nat)
  -- events of a core: `c` is its site, `i` a slot
  | matrixCommandComplete (c : Nat)
  | mswapMarker (c : Nat)
  | slotFill (c : Nat)
  | loadLevel (c : Nat)
  | classTurnEnd (c : Nat)
  | preemptionRequest (c : Nat)
  | preemption (c : Nat)
  | imageSaveDone (c : Nat)
  | takeTrap (c i : Nat)
  | watchdogFire (c i : Nat)
  | swwaitReturn (c i : Nat)
  | waitevReturn (c i : Nat)
  | chrdWake (c i : Nat)
  | stallRelease (c i : Nat)
  | commit (c i : Nat)
  | streamPrefetch (c i : Nat) (r : Reg)
  | streamWrite (c i : Nat) (r : Reg)
  | copyDelivery (c n : Nat)
  | copyComplete (c n : Nat)
  | gatherElementIssue (c n : Nat)
  | writeBufferDrain (c n : Nat)
  | illegalEncoding (w : IWord)
  -- events of the network: `k` is the place of the message among those in flight
  | dataMessage (k : Nat)
  | spawnMessage (k : Nat)
  | migrateMessage (k : Nat)
  | callMessage (k : Nat)
  | replyMessage (k : Nat)
  | niRetry (k : Nat)
  | spawnAsk (k : Nat)
  | spawnAnswer (k : Nat)
  | childEndReport (k : Nat)
  | remoteAccess (k : Nat)
  | remoteResponse (k : Nat)
  | gatherReply (k : Nat)
  | scatterDelivery (k : Nat)
  | wakeAnswer (k : Nat)
  | escapeChannelMove (k : Nat)
  | forwarding (k : Nat)
  | listMerge (n : Nat)
  -- events of the dispatcher: `l` is the key of a launch
  | launchReady (l : Nat)
  | waitCounterRead (l : Nat)
  | launchComplete (l : Nat)
  | batchDeal (l c : Nat)
  | launchStart (l c : Nat)
  | teardown (l c : Nat)
  | newGenerationAck (l c : Nat)
  | subDispatch (die : Nat)
  | restore (img c : Nat)
  | liveMigration (c d : Nat)
  -- Telemark
  | setcap (box : Nat)
  | sensors (box : Nat)
  | readlog (box : Nat)
  | fwwrite (box : Nat)
  | fwactivate (box : Nat)
  | savepool (box : Nat)
  | cappool (box : Nat)
  | mailboxUnknownCmd (box : Nat)
  | mailboxDone (box : Nat)
  -- the fabric and the host links
  | zynongPacketReceive (p : Packet)
  | retryTimeout (id : StreamId)
  | switchForward (k : Nat)
  | answerMerge (sw : Nat) (child : Node) (id : StreamId) (seq : BitVec 32) (ver : BitVec 16) (children : Nat) (ans : McAnswer)
  | multicastAggregate (group : Nat) (seq : BitVec 32) (ver : BitVec 16) (ans : McAnswer)
  | sensorSample (recs : List SensorRec)
  | powerWindow (mean : Nat)
  | powerGood (inp : BringupInput)
  | spraySetRemove (p q : Node)
  | versionActivation (v : BitVec 16)
  | mcstDelivery (p : Packet)
  -- words without operands, and events without data
  | yield
  | endI
  | eret
  | bkpt
  | l1wb
  | l1inv
  | mwait
  | release
  | tend
  | alive
  | nopA
  | nopC
  | launchAccept
  | tinvComplete
  | lkillComplete
  | mcinvComplete
  | instructionFetchFault
  -- what the host, the fabric manager and the world outside do to the part, and what no operation leaves on the agenda
  | qrecWrite (q : Nat) (deferrable : Bool) (rec : List Word)
  | tinvctlRange (v : Word)
  | tinvctlAll (v : Word)
  | lkillLaunch (v : Word)
  | lkillAsid (v : Word)
  | mcinvGroup (v : Word)
  | mcinvMap (v : Word)
  | registerWrite (die off : Nat) (v : Word)
  | checkerMismatch (c i : Nat) (persists matrix : Bool)
  | uncorrectableError (u : Upset)
  | getMeasurements (nonce : List Byte)
  | acknowledgement (id : StreamId) (seq : BitVec 32)
  | linkFailure (p q : Node)
  | shadowInstall (n : Node) (die : Nat) (t : RouteTable)
  | bar2Read (off size : Nat)
  | bar2Write (off : Nat) (bytes : List Byte)
  | hostWriteBack (off : Nat) (bytes : List Byte)
  | backInvalidateAnswer (off : Nat)
  | cxlMemRead (off : Nat)
  | hostWindowReadCompletion (c i : Nat) (bytes : List Byte)
  deriving DecidableEq, Repr

end Sys2Proof
end

