-- ==== Sys2Proof/WellFormed.lean ====
section
/-!
DEFINITION. Which terms of Instr are operations of the part: the conditions on types and operands that
03_encoding R63, R65, R69 and the reference entries check at decode, and the ranges of agents (R8, R10, R28).
-/
namespace Sys2Proof

namespace LaneType

/-- An I or N type: codes 0 to 7 of Table 3.9. -/
def isInt : LaneType → Bool
  | .i8 | .i16 | .i32 | .i64 | .n8 | .n16 | .n32 | .n64 => true
  | _ => false

/-- A two's-complement type: codes 0 to 3. -/
def isSigned : LaneType → Bool
  | .i8 | .i16 | .i32 | .i64 => true
  | _ => false

/-- An unsigned type: codes 4 to 7. -/
def isUnsigned (t : LaneType) : Bool := t.isInt && !t.isSigned

/-- FP64, FP32, FP16 and BF16: codes 8 to 11. -/
def isMainFloat : LaneType → Bool
  | .fp64 | .fp32 | .fp16 | .bf16 => true
  | _ => false

/-- Codes 0 to 11, the types of the arithmetic forms (Table 16.10). -/
def isArith (t : LaneType) : Bool := t.isInt || t.isMainFloat

/-- FP32, FP16 and BF16: the types of VDOT (R380) and of FZ (R86). -/
def isFlushed : LaneType → Bool
  | .fp32 | .fp16 | .bf16 => true
  | _ => false

/-- The destination types of stochastic rounding (R88). -/
def isStochastic : LaneType → Bool
  | .fp16 | .bf16 | .e4m3 | .e5m2 | .e2m1 => true
  | _ => false

/-- The types of TRED (16_reference, TRED). -/
def isTred : LaneType → Bool
  | .i32 | .i64 | .n32 | .n64 | .fp64 | .fp32 | .fp16 | .bf16 => true
  | _ => false

end LaneType

/-- Cores of a package (R8). -/
def siteOk (c : Nat) : Bool := c < 16384

/-- Slots of a core (R28). -/
def slotOk (i : Nat) : Bool := i < 4

/-- A term that is an operation of the part. Every form not named has no condition beyond its fields' widths. -/
def Instr.wellFormed : Instr → Bool
  | .vadd sat t _ _ _ _ | .vsub sat t _ _ _ _ => t.isInt || (t.isMainFloat && !sat)
  | .vmul t _ _ _ _ | .vmin t _ _ _ _ | .vmax t _ _ _ _ | .vminn t _ _ _ _ | .vmaxn t _ _ _ _ => t.isArith
  | .vfma _ t _ _ _ _ => t.isMainFloat
  | .vdot t _ _ _ _ => t.isFlushed
  | .vredsum t _ _ | .vredmax t _ _ | .vredmin t _ _ => t.isArith
  | .vrcp t _ _ | .vrsq t _ _ | .vexp2 t _ _ | .vlog2 t _ _ | .vtanh t _ _ => t.isMainFloat
  | .vshlVector t _ _ _ _ | .vshlScalar t _ _ _ => t.isInt
  | .vshrVector t _ _ _ _ | .vshrScalar t _ _ _ => t.isUnsigned
  | .vsraVector t _ _ _ _ | .vsraScalar t _ _ _ => t.isSigned
  | .vcvt dst _ _ sr _ _ => !sr || dst.isStochastic
  | .tred _ _ t _ _ => t.isTred
  | .send _ b count _ => b.toNat + count.toNat ≤ 31
  | .mzero c | .mldw c | .mma c | .mmas c | .mmab c | .madp c | .mdrain c => siteOk c
  | .matrixCommandComplete c | .mswapMarker c | .slotFill c | .loadLevel c | .classTurnEnd c
  | .preemptionRequest c | .preemption c | .imageSaveDone c => siteOk c
  | .takeTrap c i | .watchdogFire c i | .swwaitReturn c i | .waitevReturn c i | .chrdWake c i
  | .stallRelease c i | .commit c i => siteOk c && slotOk i
  | .checkerMismatch c i _ _ => siteOk c && slotOk i
  | .streamPrefetch c i r | .streamWrite c i r => siteOk c && slotOk i && decide (24 ≤ r.toNat)
  | .copyDelivery c _ | .copyComplete c _ | .gatherElementIssue c _ | .writeBufferDrain c _ => siteOk c
  | .batchDeal _ c | .launchStart _ c | .teardown _ c | .newGenerationAck _ c | .restore _ c => siteOk c
  | .liveMigration c d => siteOk c && siteOk d
  | .subDispatch die => decide (die < 8)
  | .qrecWrite q _ _ => decide (q < 16)
  | .registerWrite die _ _ => decide (die < 2)
  | .setcap box | .sensors box | .readlog box | .fwwrite box | .fwactivate box | .savepool box | .cappool box
  | .mailboxUnknownCmd box | .mailboxDone box => decide (box < 2)
  | .sensorSample recs => recs.length == Config.sensorCount
  | .hostWindowReadCompletion c i _ => siteOk c && decide (i < 20)
  | _ => true

end Sys2Proof
end

