-- ==== Sys2Proof/Decode.lean ====
section
/-!
DEFINITION. The decoder and the encoder of instruction words, from 03_encoding Tables 3.1 and 3.6 to 3.10 and the
encoding tables of the reference entries. The decoder is total; it rejects by name. The header (L and STALL) is
read apart from the body: L says how the word joins a bundle, which is the issue's business (R50, R51).
-/
namespace Sys2Proof

/-- Why a word is no instruction (R65). -/
inductive Illegal where
  /-- the opcode is unassigned in its class -/
  | opcode
  /-- a sub-op, function, kind, condition or class value that is not assigned -/
  | selector
  /-- a field that must be zero is not zero, M = 1 or fn[1] = 1 where the form has none -/
  | nonzero
  /-- a lane type, or an operand value, that the instruction does not accept -/
  | operand
  deriving DecidableEq, Repr

/-- A word cut into the fields of format R (R60); the other formats join them again. -/
structure Fields where
  k : Bool
  op : BitVec 6
  a : Reg
  b : Reg
  c : Reg
  fn : BitVec 6
  deriving DecidableEq, Repr

namespace Fields

/-- imm11, off11 and format B2's low half: bits [10:0]. -/
def imm11 (f : Fields) : BitVec 11 := f.c ++ f.fn

/-- imm16: bits [15:0]. -/
def imm16 (f : Fields) : BitVec 16 := f.b ++ f.c ++ f.fn

/-- off21: bits [20:0]. -/
def off21 (f : Fields) : BitVec 21 := f.a ++ f.b ++ f.c ++ f.fn

/-- fn[5:1], the IALU sub-op and VSEL's mask register. -/
def sub (f : Fields) : BitVec 5 := f.fn.extractLsb' 1 5

/-- fn[0], the M bit of the forms that admit it (R66). -/
def m (f : Fields) : Bool := f.fn.getLsbD 0

/-- fn[1]. -/
def q (f : Fields) : Bool := f.fn.getLsbD 1

/-- fn[5:2], the lane type code. -/
def ty (f : Fields) : BitVec 4 := f.fn.extractLsb' 2 4

end Fields

/-- The header of a word: L in bit 31 and STALL in bits [30:28] (R49). -/
def headerOf (w : IWord) : Header := ⟨w.getLsbD 31, w.extractLsb' 28 3⟩

/-- The fields of a word (R60). -/
def fieldsOf (w : IWord) : Fields :=
  ⟨w.getLsbD 27, w.extractLsb' 21 6, w.extractLsb' 16 5, w.extractLsb' 11 5, w.extractLsb' 6 5, w.extractLsb' 0 6⟩

/-- The word of a header and fields. -/
def wordOf (h : Header) (f : Fields) : IWord :=
  BitVec.ofBool h.lone ++ h.stall ++ BitVec.ofBool f.k ++ f.op ++ f.a ++ f.b ++ f.c ++ f.fn

/-- The word whose four bytes these are, the first at the lowest address (R1, R49). -/
def wordOfBytes (b0 b1 b2 b3 : Byte) : IWord := b3 ++ b2 ++ b1 ++ b0

/-- The byte at offset n of a word in memory (R1). -/
def byteOfWord (w : IWord) (n : Nat) : Byte := w.extractLsb' (8 * n) 8

namespace LaneType

/-- The type of a code of Table 3.9; code 15 is none (R63). -/
def ofCode (c : BitVec 4) : Option LaneType :=
  match c.toNat with
  | 0 => some .i8 | 1 => some .i16 | 2 => some .i32 | 3 => some .i64
  | 4 => some .n8 | 5 => some .n16 | 6 => some .n32 | 7 => some .n64
  | 8 => some .fp64 | 9 => some .fp32 | 10 => some .fp16 | 11 => some .bf16
  | 12 => some .e4m3 | 13 => some .e5m2 | 14 => some .e2m1 | _ => none

/-- The code of a type, Table 3.9. -/
def code : LaneType → BitVec 4
  | .i8 => 0 | .i16 => 1 | .i32 => 2 | .i64 => 3 | .n8 => 4 | .n16 => 5 | .n32 => 6 | .n64 => 7
  | .fp64 => 8 | .fp32 => 9 | .fp16 => 10 | .bf16 => 11 | .e4m3 => 12 | .e5m2 => 13 | .e2m1 => 14

end LaneType

/-- The condition of VCMP from {opcode[0], fn[1:0]} (R63). -/
def VCond.ofCode (c : BitVec 3) : VCond :=
  match c.toNat with
  | 0 => .eq | 1 => .ne | 2 => .lt | 3 => .le | 4 => .un | 5 => .ord | 6 => .ltn | _ => .len

def VCond.code : VCond → BitVec 3
  | .eq => 0 | .ne => 1 | .lt => 2 | .le => 3 | .un => 4 | .ord => 5 | .ltn => 6 | .len => 7

/-- Table 0.2. -/
def Scope.ofCode (c : BitVec 3) : Scope :=
  match c.toNat with
  | 0 => .slot | 1 => .core | 2 => .group | 3 => .sector | 4 => .die | 5 => .pkg | 6 => .domain | _ => .sys

def Scope.code : Scope → BitVec 3
  | .slot => 0 | .core => 1 | .group => 2 | .sector => 3 | .die => 4 | .pkg => 5 | .domain => 6 | .sys => 7

/-- Table 7.1; classes 7 to 15 are not assigned (R65). -/
def PathClass.ofCode (c : BitVec 4) : Option PathClass :=
  match c.toNat with
  | 0 => some .lsu | 1 => some .copy | 2 => some .matrix | 3 => some .gather | 4 => some .stream
  | 5 => some .mcast | 6 => some .host | _ => none

def PathClass.code : PathClass → BitVec 4
  | .lsu => 0 | .copy => 1 | .matrix => 2 | .gather => 3 | .stream => 4 | .mcast => 5 | .host => 6

/-- FENCE kinds; kind 3 is not assigned (R65). -/
def FenceKind.ofCode (c : BitVec 2) : Option FenceKind :=
  match c.toNat with
  | 0 => some .full | 1 => some .acq | 2 => some .rel | _ => none

def FenceKind.code : FenceKind → BitVec 2
  | .full => 0 | .acq => 1 | .rel => 2

/-- Table 14.4; operations 12 to 15 are not assigned. -/
def AmoOp.ofCode (c : BitVec 4) : Option AmoOp :=
  match c.toNat with
  | 0 => some .add | 1 => some .and | 2 => some .or | 3 => some .xor | 4 => some .min | 5 => some .max
  | 6 => some .minn | 7 => some .maxn | 8 => some .swp | 9 => some .faddFp32 | 10 => some .faddFp16
  | 11 => some .faddBf16 | _ => none

def AmoOp.code : AmoOp → BitVec 4
  | .add => 0 | .and => 1 | .or => 2 | .xor => 3 | .min => 4 | .max => 5 | .minn => 6 | .maxn => 7 | .swp => 8
  | .faddFp32 => 9 | .faddFp16 => 10 | .faddBf16 => 11

/-- Table 16.9; operation 3 is not assigned. -/
def RedOp.ofCode (c : BitVec 2) : Option RedOp :=
  match c.toNat with
  | 0 => some .add | 1 => some .min | 2 => some .max | _ => none

def RedOp.code : RedOp → BitVec 2
  | .add => 0 | .min => 1 | .max => 2

/-- R297; key types 4 to 7 are not assigned. -/
def KeyType.ofCode (c : BitVec 3) : Option KeyType :=
  match c.toNat with
  | 0 => some .fp32 | 1 => some .fp16 | 2 => some .bf16 | 3 => some .i32 | _ => none

def KeyType.code : KeyType → BitVec 3
  | .fp32 => 0 | .fp16 => 1 | .bf16 => 2 | .i32 => 3

/-- Every field of this form that must be zero is zero, or the word is rejected (R64, R65). -/
def need (zero : Bool) (i : Instr) : Except Illegal Instr := if zero then .ok i else .error .nonzero

/-- A coded field whose value is assigned, or the word is rejected by this name. -/
def field {α : Type} (e : Illegal) : Option α → Except Illegal α
  | some x => .ok x
  | none => .error e

/-- The lane type in fn[5:2], or the word is rejected (R63). -/
def Fields.lane (f : Fields) : Except Illegal LaneType := field .operand (LaneType.ofCode f.ty)

/-- A-class IALU sub-ops, Table 3.8. -/
def decodeIaluA (f : Fields) : Except Illegal Instr :=
  match f.sub.toNat with
  | 0 => .ok (.addA f.a f.b f.c f.m)
  | 1 => .ok (.subA f.a f.b f.c f.m)
  | 2 => .ok (.andA f.a f.b f.c f.m)
  | 3 => .ok (.orA f.a f.b f.c f.m)
  | 4 => .ok (.xorA f.a f.b f.c f.m)
  | 5 => .ok (.shlA f.a f.b f.c f.m)
  | 6 => .ok (.shrA f.a f.b f.c f.m)
  | 7 => .ok (.sraA f.a f.b f.c f.m)
  | 8 => .ok (.sltA f.a f.b f.c f.m)
  | 9 => .ok (.sltnA f.a f.b f.c f.m)
  | 10 => .ok (.minA f.a f.b f.c f.m)
  | 11 => .ok (.maxA f.a f.b f.c f.m)
  | 12 => .ok (.minnA f.a f.b f.c f.m)
  | 13 => .ok (.maxnA f.a f.b f.c f.m)
  | 14 => .ok (.mul f.a f.b f.c f.m)
  | 15 => .ok (.mulh f.a f.b f.c f.m)
  | 16 => .ok (.mulhn f.a f.b f.c f.m)
  | 17 => .ok (.div f.a f.b f.c f.m)
  | 18 => .ok (.divn f.a f.b f.c f.m)
  | 19 => .ok (.rem f.a f.b f.c f.m)
  | 20 => .ok (.remn f.a f.b f.c f.m)
  | 21 => need (f.c == 0 && !f.m) (.popc f.a f.b)
  | 22 => need (f.c == 0 && !f.m) (.clz f.a f.b)
  | 23 => need (f.c == 0 && !f.m) (.ctz f.a f.b)
  | _ => .error .selector

/-- C-class IALU sub-ops 0 to 13, with fn[0] = 0 (R62). -/
def decodeIaluC (f : Fields) : Except Illegal Instr :=
  match f.sub.toNat with
  | 0 => need (!f.m) (.addC f.a f.b f.c)
  | 1 => need (!f.m) (.subC f.a f.b f.c)
  | 2 => need (!f.m) (.andC f.a f.b f.c)
  | 3 => need (!f.m) (.orC f.a f.b f.c)
  | 4 => need (!f.m) (.xorC f.a f.b f.c)
  | 5 => need (!f.m) (.shlC f.a f.b f.c)
  | 6 => need (!f.m) (.shrC f.a f.b f.c)
  | 7 => need (!f.m) (.sraC f.a f.b f.c)
  | 8 => need (!f.m) (.sltC f.a f.b f.c)
  | 9 => need (!f.m) (.sltnC f.a f.b f.c)
  | 10 => need (!f.m) (.minC f.a f.b f.c)
  | 11 => need (!f.m) (.maxC f.a f.b f.c)
  | 12 => need (!f.m) (.minnC f.a f.b f.c)
  | 13 => need (!f.m) (.maxnC f.a f.b f.c)
  | _ => .error .selector

/-- The immediate shifts: kind in imm[7:6], imm[10:8] = 0, amount in imm[5:0] (R355). -/
def decodeShift (f : Fields) (shl shr sra : Reg → Reg → BitVec 6 → Instr) : Except Illegal Instr :=
  match f.c.toNat with
  | 0 => .ok (shl f.a f.b f.fn)
  | 1 => .ok (shr f.a f.b f.fn)
  | 2 => .ok (sra f.a f.b f.fn)
  | 3 => .error .selector
  | _ => .error .nonzero

/-- The special functions: selector in c, fn[1:0] = 0 (Table 3.7). -/
def decodeSpecial (f : Fields) : Except Illegal Instr := do
  let t ← f.lane
  match f.c.toNat with
  | 0 => need (!f.q && !f.m) (.vrcp t f.a f.b)
  | 1 => need (!f.q && !f.m) (.vrsq t f.a f.b)
  | 2 => need (!f.q && !f.m) (.vexp2 t f.a f.b)
  | 3 => need (!f.q && !f.m) (.vlog2 t f.a f.b)
  | 4 => need (!f.q && !f.m) (.vtanh t f.a f.b)
  | _ => .error .selector

/-- VLOGIC: selector in fn[5:2], fn[1] = 0 (R385). -/
def decodeLogic (f : Fields) : Except Illegal Instr :=
  match f.ty.toNat with
  | 0 => need (!f.q) (.vand f.a f.b f.c f.m)
  | 1 => need (!f.q) (.vor f.a f.b f.c f.m)
  | 2 => need (!f.q) (.vxor f.a f.b f.c f.m)
  | 3 => need (!f.q) (.vandn f.a f.b f.c f.m)
  | _ => .error .selector

/-- VSHL: fn[1] chooses a scalar amount, and then M must be 0 (R394). -/
def decodeVshl (f : Fields) : Except Illegal Instr := do
  let t ← f.lane
  if f.q then need (!f.m) (.vshlScalar t f.a f.b f.c) else .ok (.vshlVector t f.a f.b f.c f.m)

/-- VSHR and VSRA: the type's signedness chooses (R394). -/
def decodeVshr (f : Fields) : Except Illegal Instr := do
  let t ← f.lane
  if t.isSigned then
    if f.q then need (!f.m) (.vsraScalar t f.a f.b f.c) else .ok (.vsraVector t f.a f.b f.c f.m)
  else
    if f.q then need (!f.m) (.vshrScalar t f.a f.b f.c) else .ok (.vshrVector t f.a f.b f.c f.m)

/-- The A-class opcode map, Table 3.7. -/
def decodeA (f : Fields) : Except Illegal Instr :=
  match f.op.toNat with
  | 0x00 => need (f.off21 == 0) .nopA
  | 0x01 => decodeIaluA f
  | 0x02 => .ok (.addiA f.a f.b f.imm11)
  | 0x03 => .ok (.andiA f.a f.b f.imm11)
  | 0x04 => .ok (.oriA f.a f.b f.imm11)
  | 0x05 => .ok (.xoriA f.a f.b f.imm11)
  | 0x06 => decodeShift f .shlImmA .shrImmA .sraImmA
  | 0x07 => .ok (.sltiA f.a f.b f.imm11)
  | 0x08 => .ok (.extr f.a f.b f.c f.fn)
  | 0x09 => .ok (.ins f.a f.b f.c f.fn)
  | 0x0A => need (f.b == 0 && f.c == 0 && f.fn.extractLsb' 3 3 == 0) (.widf f.a (f.fn.extractLsb' 0 3))
  | 0x10 => do .ok (.vadd f.q (← f.lane) f.a f.b f.c f.m)
  | 0x11 => do .ok (.vsub f.q (← f.lane) f.a f.b f.c f.m)
  | 0x12 => do need (!f.q) (.vmul (← f.lane) f.a f.b f.c f.m)
  | 0x13 => do .ok (.vfma f.q (← f.lane) f.a f.b f.c f.m)
  | 0x14 => do need (!f.q) (.vmin (← f.lane) f.a f.b f.c f.m)
  | 0x15 => do need (!f.q) (.vmax (← f.lane) f.a f.b f.c f.m)
  | 0x16 => do need (!f.q) (.vminn (← f.lane) f.a f.b f.c f.m)
  | 0x17 => do need (!f.q) (.vmaxn (← f.lane) f.a f.b f.c f.m)
  | 0x18 => do
    let t ← f.lane
    need (f.c == 0 && !f.m) (if f.q then .vneg t f.a f.b else .vabs t f.a f.b)
  | 0x19 => decodeLogic f
  | 0x1A => decodeVshl f
  | 0x1B => decodeVshr f
  | 0x1C => do .ok (.vcmp (.ofCode (0#1 ++ f.fn.extractLsb' 0 2)) (← f.lane) f.a f.b f.c)
  | 0x1D => do .ok (.vcmp (.ofCode (1#1 ++ f.fn.extractLsb' 0 2)) (← f.lane) f.a f.b f.c)
  | 0x1E => do
    let t ← field .operand (LaneType.ofCode (f.c.extractLsb' 0 4))
    need (!f.c.getLsbD 4 && !f.m) (.vsel t f.a f.b f.sub)
  | 0x1F => do
    let src ← field .operand (LaneType.ofCode (f.c.extractLsb' 0 4))
    need (!f.c.getLsbD 4) (.vcvt (← f.lane) src f.q f.m f.a f.b)
  | 0x20 => do need (!f.q) (.vdot (← f.lane) f.a f.b f.c f.m)
  | 0x21 => do need (f.c == 0 && !f.q && !f.m) (.vredsum (← f.lane) f.a f.b)
  | 0x22 => do
    let t ← f.lane
    need (f.c == 0 && !f.m) (if f.q then .vredmin t f.a f.b else .vredmax t f.a f.b)
  | 0x23 => decodeSpecial f
  | 0x24 => do need (f.c == 0 && !f.q && !f.m) (.vsplat (← f.lane) f.a f.b)
  | 0x25 => do need (!f.q && !f.m) (.vext (← f.lane) f.a f.b f.c)
  | 0x26 => do need (!f.q && !f.m) (.vins (← f.lane) f.a f.b f.c)
  | 0x27 => need (f.c == 0 && f.fn == 0) (.vmov f.a f.b)
  | 0x28 => need (f.sub == 0) (.vperm f.a f.b f.c f.m)
  | 0x29 => do need (f.c == 0 && !f.q && !f.m) (.vzmask (← f.lane) f.a f.b)
  | 0x2A => do need (!f.q && !f.m) (.vcmprs (← f.lane) f.a f.b f.c)
  | 0x2B => do need (!f.q && !f.m) (.vexpnd (← f.lane) f.a f.b f.c)
  | _ => .error .opcode

/-- SYS, opcode 0x00: fn selects, and only WAITEV, ASINV and MSWAP use a (Table 3.10). -/
def decodeSys (f : Fields) : Except Illegal Instr :=
  let bc : Bool := f.b == 0 && f.c == 0
  let abc : Bool := f.a == 0 && bc
  match f.fn.toNat with
  | 0 => need abc .nopC
  | 1 => need abc .yield
  | 2 => need abc .endI
  | 3 => need abc .eret
  | 4 => need abc .bkpt
  | 5 => need bc (.waitev f.a)
  | 6 => need abc .l1wb
  | 7 => need abc .l1inv
  | 8 => need bc (.asinv f.a)
  | 9 => if f.a.toNat < 2 then need bc (.mswap (f.a.getLsbD 0)) else .error .selector
  | 10 => need abc .mwait
  | 11 => need abc .release
  | 12 => need abc .tend
  | 13 => need abc .alive
  | _ => .error .selector

/-- ENGINE, opcode 0x3E: fn[5:3] selects (Table 3.10). -/
def decodeEngine (f : Fields) : Except Illegal Instr :=
  let lo := f.fn.extractLsb' 0 3
  match (f.fn.extractLsb' 3 3).toNat with
  | 0 => need (!f.fn.getLsbD 2) (.copy f.q f.m f.a f.b f.c)
  | 1 => need (f.b == 0 && f.c == 0 && lo == 0) (.gather f.a)
  | 2 => need (f.b == 0 && f.c == 0 && lo == 0) (.scatter f.a)
  | 3 => need (lo == 0) (.mcst f.a f.b f.c)
  | 4 => do
    let ty ← field .selector (KeyType.ofCode lo)
    need (f.c == 0) (.bksel ty f.a f.b)
  | 5 => need (lo == 0) (.tksend f.a f.b f.c)
  | 6 => need (f.b == 0 && f.c == 0 && lo == 0) (.dlaunch f.a)
  | _ => .error .selector

/-- ENGINE2, opcode 0x3F (Table 3.10). -/
def decodeEngine2 (f : Fields) : Except Illegal Instr :=
  match f.fn.toNat with
  | 0 => need (f.c == 0) (.sbind f.a f.b)
  | 1 => need (f.c == 0) (.compose f.a f.b)
  | 2 => need (f.b == 0 && f.c == 0) (.tskip f.a)
  | _ => .error .selector

/-- The C-class opcode map, Table 3.10. -/
def decodeC (f : Fields) : Except Illegal Instr :=
  match f.op.toNat with
  | 0x00 => decodeSys f
  | 0x01 => need (f.a == 0 && f.b == 0) (.trap f.imm11)
  | 0x02 => need (f.b == 0) (.crr f.a f.imm11)
  | 0x03 => .ok (.crw f.a f.b f.imm11)
  | 0x04 => .ok (.crs f.a f.b f.imm11)
  | 0x05 => .ok (.crc f.a f.b f.imm11)
  | 0x06 => match f.c.toNat with
    | 0 => need (f.a == 0 && f.b == 0) (.hmask f.fn)
    | 1 => need (f.a == 0 && f.b == 0) (.hunmask f.fn)
    | _ => .error .nonzero
  | 0x08 => decodeIaluC f
  | 0x09 => .ok (.addiC f.a f.b f.imm11)
  | 0x0A => .ok (.andiC f.a f.b f.imm11)
  | 0x0B => .ok (.oriC f.a f.b f.imm11)
  | 0x0C => .ok (.xoriC f.a f.b f.imm11)
  | 0x0D => decodeShift f .shlImmC .shrImmC .sraImmC
  | 0x0E => .ok (.sltiC f.a f.b f.imm11)
  | 0x0F => .ok (.lih f.a f.imm16)
  | 0x10 => .ok (.liq f.a f.imm16)
  | 0x11 => .ok (.liw f.a f.imm16)
  | 0x12 => .ok (.beq f.a f.b f.imm11)
  | 0x13 => .ok (.bne f.a f.b f.imm11)
  | 0x14 => .ok (.blt f.a f.b f.imm11)
  | 0x15 => .ok (.bge f.a f.b f.imm11)
  | 0x16 => .ok (.bltn f.a f.b f.imm11)
  | 0x17 => .ok (.bgen f.a f.b f.imm11)
  | 0x18 => .ok (.bbs f.a (f.c.extractLsb' 4 1 ++ f.b) (f.c.extractLsb' 0 4 ++ f.fn))
  | 0x19 => .ok (.bbc f.a (f.c.extractLsb' 4 1 ++ f.b) (f.c.extractLsb' 0 4 ++ f.fn))
  | 0x1A => .ok (.j f.off21)
  | 0x1B => .ok (.jal f.off21)
  | 0x1C => .ok (.jalr f.a f.b f.imm11)
  | 0x1D => need (f.b == 0 && f.fn.extractLsb' 0 4 == 0)
      (.rpt f.a (f.c.extractLsb' 2 3) (f.c.extractLsb' 0 2 ++ f.fn.extractLsb' 4 2))
  | 0x1E => need (f.b == 0) (.tbegin f.a f.imm11)
  | 0x1F => need (f.a == 0 && f.b == 0 && f.c.extractLsb' 2 3 == 0) (.tabort (f.c.extractLsb' 0 2 ++ f.fn))
  | 0x20 => .ok (.ldB f.a f.b f.imm11)
  | 0x21 => .ok (.ldH f.a f.b f.imm11)
  | 0x22 => .ok (.ldW f.a f.b f.imm11)
  | 0x23 => .ok (.ldD f.a f.b f.imm11)
  | 0x24 => .ok (.ldnB f.a f.b f.imm11)
  | 0x25 => .ok (.ldnH f.a f.b f.imm11)
  | 0x26 => .ok (.ldnW f.a f.b f.imm11)
  | 0x27 => .ok (.vld f.a f.b f.imm11)
  | 0x28 => .ok (.stB f.a f.b f.imm11)
  | 0x29 => .ok (.stH f.a f.b f.imm11)
  | 0x2A => .ok (.stW f.a f.b f.imm11)
  | 0x2B => .ok (.stD f.a f.b f.imm11)
  | 0x2C => .ok (.vst f.a f.b f.imm11)
  | 0x2D => .ok (.st4 f.a f.b (f.c ++ f.fn.extractLsb' 1 5) f.m)
  | 0x2E => need (f.c == 0 && f.fn.extractLsb' 4 2 == 0) (.lda f.m (.ofCode (f.fn.extractLsb' 1 3)) f.a f.b)
  | 0x2F => need (f.c == 0 && f.fn.extractLsb' 4 2 == 0) (.stl f.m (.ofCode (f.fn.extractLsb' 1 3)) f.a f.b)
  | 0x30 => do .ok (.amo (← field .selector (AmoOp.ofCode f.ty)) f.q f.m f.a f.b f.c)
  | 0x31 => need (f.ty == 0) (.cas f.q f.m f.a f.b f.c)
  | 0x32 => do
    let kind ← field .selector (FenceKind.ofCode (f.fn.extractLsb' 3 2))
    need (f.a == 0 && f.b == 0 && f.c == 0 && !f.fn.getLsbD 5) (.fence kind (.ofCode (f.fn.extractLsb' 0 3)))
  | 0x33 => do
    let ca ← field .selector (PathClass.ofCode (f.fn.extractLsb' 0 4))
    let cb ← field .selector (PathClass.ofCode (f.c.extractLsb' 0 2 ++ f.fn.extractLsb' 4 2))
    need (f.a == 0 && f.b == 0) (.fencex ca cb (.ofCode (f.c.extractLsb' 2 3)))
  | 0x34 => need (f.c == 0 && f.fn == 0) (.swset f.a f.b)
  | 0x35 => need (f.c == 0 && f.fn == 0) (.swwait f.a f.b)
  | 0x36 => need (f.c == 0 && f.fn.extractLsb' 3 3 == 0) (.bar (.ofCode (f.fn.extractLsb' 0 3)) f.a f.b)
  | 0x37 => do
    let op ← field .selector (RedOp.ofCode (f.fn.extractLsb' 0 2))
    if f.a.toNat < 2 then .ok (.tred (f.a.getLsbD 0) op (← f.lane) f.b f.c) else .error .selector
  | 0x38 => need (f.c.extractLsb' 0 3 == 0) (.send f.a f.b (f.c.extractLsb' 3 2) f.fn)
  | 0x39 => need (f.c == 0 && f.sub == 0) (if f.m then .spawnq f.a f.b else .spawn f.a f.b)
  | 0x3A => need (f.c == 0 && f.fn == 0) (.migrate f.a f.b)
  | 0x3B => need (f.c == 0) (.callat f.a f.b f.fn)
  | 0x3C => need (f.c == 0 && f.fn == 0) (.reply f.a f.b)
  | 0x3D => need (f.b == 0 && f.c == 0) (.chrd f.a f.fn)
  | 0x3E => decodeEngine f
  | 0x3F => decodeEngine2 f
  | _ => .error .opcode

/-- The instruction of a word's fields, or why there is none (R65). -/
def decodeFields (f : Fields) : Except Illegal Instr := do
  let i ← if f.k then decodeA f else decodeC f
  if i.wellFormed then .ok i else .error .operand

/-- The header and the instruction of a word, or why it is none. -/
def decodeWord (w : IWord) : Except Illegal (Header × Instr) := do
  let i ← decodeFields (fieldsOf w)
  .ok (headerOf w, i)

/-- The instruction that the first four bytes hold, and the bytes that follow it. -/
def decodeBytes : List Byte → Except Illegal (Instr × List Byte)
  | b0 :: b1 :: b2 :: b3 :: rest => do
    let i ← decodeFields (fieldsOf (wordOfBytes b0 b1 b2 b3))
    .ok (i, rest)
  | _ => .error .opcode

/-- The host's question: the instruction read from a word of nbits bits, numbered as the opcode table numbers them,
laid out as memory stores it (R49). -/
def decodeTableWord (nbits w : Nat) : Option Instr :=
  if nbits = 32 then
    let iw : IWord := BitVec.ofNat 32 w
    match decodeBytes ((List.range 4).map (byteOfWord iw)) with
    | .ok (i, _) => some i
    | .error _ => none
  else none

/-! ### The encoder -/

/-- Fields of format R, class A. -/
def fA (op : BitVec 6) (a b c : Reg) (fn : BitVec 6) : Fields := ⟨true, op, a, b, c, fn⟩

/-- Fields of format R, class C. -/
def fC (op : BitVec 6) (a b c : Reg) (fn : BitVec 6) : Fields := ⟨false, op, a, b, c, fn⟩

/-- fn with a lane type in [5:2], fn[1] and M (Table 3.7). -/
def fnT (t : LaneType) (q m : Bool) : BitVec 6 := t.code ++ BitVec.ofBool q ++ BitVec.ofBool m

/-- fn with a sub-op in [5:1] and M (Table 3.8). -/
def fnS (sub : BitVec 5) (m : Bool) : BitVec 6 := sub ++ BitVec.ofBool m

/-- Fields of format I. -/
def fI (k : Bool) (op : BitVec 6) (a b : Reg) (imm : BitVec 11) : Fields :=
  ⟨k, op, a, b, imm.extractLsb' 6 5, imm.extractLsb' 0 6⟩

/-- Fields of format U. -/
def fU (op : BitVec 6) (a : Reg) (imm : BitVec 16) : Fields :=
  ⟨false, op, a, imm.extractLsb' 11 5, imm.extractLsb' 6 5, imm.extractLsb' 0 6⟩

/-- Fields of format J. -/
def fJ (op : BitVec 6) (off : BitVec 21) : Fields :=
  ⟨false, op, off.extractLsb' 16 5, off.extractLsb' 11 5, off.extractLsb' 6 5, off.extractLsb' 0 6⟩

/-- Fields of format B2. -/
def fB2 (op : BitVec 6) (a : Reg) (bit : BitVec 6) (off : BitVec 10) : Fields :=
  ⟨false, op, a, bit.extractLsb' 0 5, bit.extractLsb' 5 1 ++ off.extractLsb' 6 4, off.extractLsb' 0 6⟩

/-- The fields of an instruction word's instruction; none for the operations that have no word. -/
def encodeFields : Instr → Option Fields
  | .addA d a b m => some (fA 0x01 d a b (fnS 0 m))
  | .subA d a b m => some (fA 0x01 d a b (fnS 1 m))
  | .andA d a b m => some (fA 0x01 d a b (fnS 2 m))
  | .orA d a b m => some (fA 0x01 d a b (fnS 3 m))
  | .xorA d a b m => some (fA 0x01 d a b (fnS 4 m))
  | .shlA d a b m => some (fA 0x01 d a b (fnS 5 m))
  | .shrA d a b m => some (fA 0x01 d a b (fnS 6 m))
  | .sraA d a b m => some (fA 0x01 d a b (fnS 7 m))
  | .sltA d a b m => some (fA 0x01 d a b (fnS 8 m))
  | .sltnA d a b m => some (fA 0x01 d a b (fnS 9 m))
  | .minA d a b m => some (fA 0x01 d a b (fnS 10 m))
  | .maxA d a b m => some (fA 0x01 d a b (fnS 11 m))
  | .minnA d a b m => some (fA 0x01 d a b (fnS 12 m))
  | .maxnA d a b m => some (fA 0x01 d a b (fnS 13 m))
  | .mul d a b m => some (fA 0x01 d a b (fnS 14 m))
  | .mulh d a b m => some (fA 0x01 d a b (fnS 15 m))
  | .mulhn d a b m => some (fA 0x01 d a b (fnS 16 m))
  | .div d a b m => some (fA 0x01 d a b (fnS 17 m))
  | .divn d a b m => some (fA 0x01 d a b (fnS 18 m))
  | .rem d a b m => some (fA 0x01 d a b (fnS 19 m))
  | .remn d a b m => some (fA 0x01 d a b (fnS 20 m))
  | .popc d a => some (fA 0x01 d a 0 (fnS 21 false))
  | .clz d a => some (fA 0x01 d a 0 (fnS 22 false))
  | .ctz d a => some (fA 0x01 d a 0 (fnS 23 false))
  | .addC d a b => some (fC 0x08 d a b (fnS 0 false))
  | .subC d a b => some (fC 0x08 d a b (fnS 1 false))
  | .andC d a b => some (fC 0x08 d a b (fnS 2 false))
  | .orC d a b => some (fC 0x08 d a b (fnS 3 false))
  | .xorC d a b => some (fC 0x08 d a b (fnS 4 false))
  | .shlC d a b => some (fC 0x08 d a b (fnS 5 false))
  | .shrC d a b => some (fC 0x08 d a b (fnS 6 false))
  | .sraC d a b => some (fC 0x08 d a b (fnS 7 false))
  | .sltC d a b => some (fC 0x08 d a b (fnS 8 false))
  | .sltnC d a b => some (fC 0x08 d a b (fnS 9 false))
  | .minC d a b => some (fC 0x08 d a b (fnS 10 false))
  | .maxC d a b => some (fC 0x08 d a b (fnS 11 false))
  | .minnC d a b => some (fC 0x08 d a b (fnS 12 false))
  | .maxnC d a b => some (fC 0x08 d a b (fnS 13 false))
  | .addiA d a imm => some (fI true 0x02 d a imm)
  | .addiC d a imm => some (fI false 0x09 d a imm)
  | .andiA d a imm => some (fI true 0x03 d a imm)
  | .andiC d a imm => some (fI false 0x0A d a imm)
  | .oriA d a imm => some (fI true 0x04 d a imm)
  | .oriC d a imm => some (fI false 0x0B d a imm)
  | .xoriA d a imm => some (fI true 0x05 d a imm)
  | .xoriC d a imm => some (fI false 0x0C d a imm)
  | .sltiA d a imm => some (fI true 0x07 d a imm)
  | .sltiC d a imm => some (fI false 0x0E d a imm)
  | .shlImmA d a n => some (fA 0x06 d a 0 n)
  | .shlImmC d a n => some (fC 0x0D d a 0 n)
  | .shrImmA d a n => some (fA 0x06 d a 1 n)
  | .shrImmC d a n => some (fC 0x0D d a 1 n)
  | .sraImmA d a n => some (fA 0x06 d a 2 n)
  | .sraImmC d a n => some (fC 0x0D d a 2 n)
  | .extr d a len pos => some (fA 0x08 d a len pos)
  | .ins d a len pos => some (fA 0x09 d a len pos)
  | .widf d n => some (fA 0x0A d 0 0 (0#3 ++ n))
  | .nopA => some (fA 0x00 0 0 0 0)
  | .nopC => some (fC 0x00 0 0 0 0)
  | .vadd sat t d a b m => some (fA 0x10 d a b (fnT t sat m))
  | .vsub sat t d a b m => some (fA 0x11 d a b (fnT t sat m))
  | .vmul t d a b m => some (fA 0x12 d a b (fnT t false m))
  | .vfma neg t d a b m => some (fA 0x13 d a b (fnT t neg m))
  | .vmin t d a b m => some (fA 0x14 d a b (fnT t false m))
  | .vmax t d a b m => some (fA 0x15 d a b (fnT t false m))
  | .vminn t d a b m => some (fA 0x16 d a b (fnT t false m))
  | .vmaxn t d a b m => some (fA 0x17 d a b (fnT t false m))
  | .vabs t d a => some (fA 0x18 d a 0 (fnT t false false))
  | .vneg t d a => some (fA 0x18 d a 0 (fnT t true false))
  | .vand d a b m => some (fA 0x19 d a b (0#4 ++ 0#1 ++ BitVec.ofBool m))
  | .vor d a b m => some (fA 0x19 d a b (1#4 ++ 0#1 ++ BitVec.ofBool m))
  | .vxor d a b m => some (fA 0x19 d a b (2#4 ++ 0#1 ++ BitVec.ofBool m))
  | .vandn d a b m => some (fA 0x19 d a b (3#4 ++ 0#1 ++ BitVec.ofBool m))
  | .vshlVector t d a b m => some (fA 0x1A d a b (fnT t false m))
  | .vshlScalar t d a b => some (fA 0x1A d a b (fnT t true false))
  | .vshrVector t d a b m => some (fA 0x1B d a b (fnT t false m))
  | .vshrScalar t d a b => some (fA 0x1B d a b (fnT t true false))
  | .vsraVector t d a b m => some (fA 0x1B d a b (fnT t false m))
  | .vsraScalar t d a b => some (fA 0x1B d a b (fnT t true false))
  | .vcmp cond t d a b => some (fA (14#5 ++ cond.code.extractLsb' 2 1) d a b (t.code ++ cond.code.extractLsb' 0 2))
  | .vsel t d a mask => some (fA 0x1E d a (0#1 ++ t.code) (fnS mask false))
  | .vcvt dst src sat sr d a => some (fA 0x1F d a (0#1 ++ src.code) (fnT dst sat sr))
  | .vdot t d a b m => some (fA 0x20 d a b (fnT t false m))
  | .vredsum t d a => some (fA 0x21 d a 0 (fnT t false false))
  | .vredmax t d a => some (fA 0x22 d a 0 (fnT t false false))
  | .vredmin t d a => some (fA 0x22 d a 0 (fnT t true false))
  | .vrcp t d a => some (fA 0x23 d a 0 (fnT t false false))
  | .vrsq t d a => some (fA 0x23 d a 1 (fnT t false false))
  | .vexp2 t d a => some (fA 0x23 d a 2 (fnT t false false))
  | .vlog2 t d a => some (fA 0x23 d a 3 (fnT t false false))
  | .vtanh t d a => some (fA 0x23 d a 4 (fnT t false false))
  | .vsplat t d a => some (fA 0x24 d a 0 (fnT t false false))
  | .vext t d a b => some (fA 0x25 d a b (fnT t false false))
  | .vins t d a b => some (fA 0x26 d a b (fnT t false false))
  | .vmov d a => some (fA 0x27 d a 0 0)
  | .vperm d a b m => some (fA 0x28 d a b (fnS 0 m))
  | .vzmask t d a => some (fA 0x29 d a 0 (fnT t false false))
  | .vcmprs t d a b => some (fA 0x2A d a b (fnT t false false))
  | .vexpnd t d a b => some (fA 0x2B d a b (fnT t false false))
  | .yield => some (fC 0x00 0 0 0 1)
  | .endI => some (fC 0x00 0 0 0 2)
  | .eret => some (fC 0x00 0 0 0 3)
  | .bkpt => some (fC 0x00 0 0 0 4)
  | .l1wb => some (fC 0x00 0 0 0 6)
  | .l1inv => some (fC 0x00 0 0 0 7)
  | .mwait => some (fC 0x00 0 0 0 10)
  | .release => some (fC 0x00 0 0 0 11)
  | .tend => some (fC 0x00 0 0 0 12)
  | .alive => some (fC 0x00 0 0 0 13)
  | .waitev a => some (fC 0x00 a 0 0 5)
  | .asinv a => some (fC 0x00 a 0 0 8)
  | .mswap n => some (fC 0x00 (0#4 ++ BitVec.ofBool n) 0 0 9)
  | .trap code => some (fI false 0x01 0 0 code)
  | .crr d num => some (fI false 0x02 d 0 num)
  | .crw a d num => some (fI false 0x03 a d num)
  | .crs a d num => some (fI false 0x04 a d num)
  | .crc a d num => some (fI false 0x05 a d num)
  | .hmask ch => some (fC 0x06 0 0 0 ch)
  | .hunmask ch => some (fC 0x06 0 0 1 ch)
  | .lih d imm => some (fU 0x0F d imm)
  | .liq d imm => some (fU 0x10 d imm)
  | .liw d imm => some (fU 0x11 d imm)
  | .beq a b off => some (fI false 0x12 a b off)
  | .bne a b off => some (fI false 0x13 a b off)
  | .blt a b off => some (fI false 0x14 a b off)
  | .bge a b off => some (fI false 0x15 a b off)
  | .bltn a b off => some (fI false 0x16 a b off)
  | .bgen a b off => some (fI false 0x17 a b off)
  | .bbs a bit off => some (fB2 0x18 a bit off)
  | .bbc a bit off => some (fB2 0x19 a bit off)
  | .j off => some (fJ 0x1A off)
  | .jal off => some (fJ 0x1B off)
  | .jalr d b imm => some (fI false 0x1C d b imm)
  | .rpt a len stride => some (fC 0x1D a 0 (len ++ stride.extractLsb' 2 2) (stride.extractLsb' 0 2 ++ 0#4))
  | .tbegin a off => some (fI false 0x1E a 0 off)
  | .tabort code => some (fC 0x1F 0 0 (0#3 ++ code.extractLsb' 6 2) (code.extractLsb' 0 6))
  | .ldB a b imm => some (fI false 0x20 a b imm)
  | .ldH a b imm => some (fI false 0x21 a b imm)
  | .ldW a b imm => some (fI false 0x22 a b imm)
  | .ldD a b imm => some (fI false 0x23 a b imm)
  | .ldnB a b imm => some (fI false 0x24 a b imm)
  | .ldnH a b imm => some (fI false 0x25 a b imm)
  | .ldnW a b imm => some (fI false 0x26 a b imm)
  | .vld a b imm => some (fI false 0x27 a b imm)
  | .stB a b imm => some (fI false 0x28 a b imm)
  | .stH a b imm => some (fI false 0x29 a b imm)
  | .stW a b imm => some (fI false 0x2A a b imm)
  | .stD a b imm => some (fI false 0x2B a b imm)
  | .vst a b imm => some (fI false 0x2C a b imm)
  | .st4 a b off hi => some (fC 0x2D a b (off.extractLsb' 5 5) (off.extractLsb' 0 5 ++ BitVec.ofBool hi))
  | .lda dbl scope d b => some (fC 0x2E d b 0 (0#2 ++ scope.code ++ BitVec.ofBool dbl))
  | .stl dbl scope a b => some (fC 0x2F a b 0 (0#2 ++ scope.code ++ BitVec.ofBool dbl))
  | .amo op dbl ar d b c => some (fC 0x30 d b c (op.code ++ BitVec.ofBool dbl ++ BitVec.ofBool ar))
  | .cas dbl ar a b c => some (fC 0x31 a b c (0#4 ++ BitVec.ofBool dbl ++ BitVec.ofBool ar))
  | .fence kind scope => some (fC 0x32 0 0 0 (0#1 ++ kind.code ++ scope.code))
  | .fencex ca cb scope =>
    some (fC 0x33 0 0 (scope.code ++ cb.code.extractLsb' 2 2) (cb.code.extractLsb' 0 2 ++ ca.code))
  | .swset a b => some (fC 0x34 a b 0 0)
  | .swwait a b => some (fC 0x35 a b 0 0)
  | .bar scope a b => some (fC 0x36 a b 0 (0#3 ++ scope.code))
  | .tred vec op t b c => some (fC 0x37 (0#4 ++ BitVec.ofBool vec) b c (t.code ++ op.code))
  | .send a b count ch => some (fC 0x38 a b (count ++ 0#3) ch)
  | .spawn a b => some (fC 0x39 a b 0 0)
  | .spawnq a b => some (fC 0x39 a b 0 1)
  | .migrate a b => some (fC 0x3A a b 0 0)
  | .callat a b ch => some (fC 0x3B a b 0 ch)
  | .reply a b => some (fC 0x3C a b 0 0)
  | .chrd d ch => some (fC 0x3D d 0 0 ch)
  | .copy sat raise a b c => some (fC 0x3E a b c (0#4 ++ BitVec.ofBool sat ++ BitVec.ofBool raise))
  | .gather a => some (fC 0x3E a 0 0 8)
  | .scatter a => some (fC 0x3E a 0 0 16)
  | .mcst a b c => some (fC 0x3E a b c 24)
  | .bksel ty d b => some (fC 0x3E d b 0 (4#3 ++ ty.code))
  | .tksend a b c => some (fC 0x3E a b c 40)
  | .dlaunch a => some (fC 0x3E a 0 0 48)
  | .sbind a b => some (fC 0x3F a b 0 0)
  | .compose a b => some (fC 0x3F a b 0 1)
  | .tskip a => some (fC 0x3F a 0 0 2)
  | .mzero _ | .mldw _ | .mma _ | .mmas _ | .mmab _ | .madp _ | .mdrain _ | .matrixCommandComplete _
  | .mswapMarker _ | .qrecWrite _ _ _ | .launchAccept | .launchReady _ | .waitCounterRead _ | .batchDeal _ _
  | .launchStart _ _ | .slotFill _ | .dataMessage _ | .spawnMessage _ | .migrateMessage _ | .callMessage _
  | .replyMessage _ | .niRetry _ | .spawnAsk _ | .spawnAnswer _ | .childEndReport _ | .loadLevel _
  | .launchComplete _ | .teardown _ _ | .subDispatch _ | .classTurnEnd _ | .preemptionRequest _ | .preemption _
  | .imageSaveDone _ | .restore _ _ | .liveMigration _ _ | .forwarding _ | .newGenerationAck _ _ | .takeTrap _ _
  | .watchdogFire _ _ | .checkerMismatch _ _ _ _ | .uncorrectableError _ | .copyDelivery _ _ | .copyComplete _ _
  | .gatherElementIssue _ _ | .gatherReply _ | .scatterDelivery _ | .remoteAccess _ | .remoteResponse _
  | .wakeAnswer _ | .swwaitReturn _ _ | .waitevReturn _ _ | .chrdWake _ _ | .stallRelease _ _
  | .streamPrefetch _ _ _ | .streamWrite _ _ _ | .writeBufferDrain _ _ | .commit _ _ | .listMerge _
  | .tinvctlRange _ | .tinvctlAll _ | .tinvComplete | .lkillLaunch _ | .lkillAsid _ | .lkillComplete
  | .mcinvGroup _ | .mcinvMap _ | .mcinvComplete | .registerWrite _ _ _ | .setcap _ | .sensors _ | .readlog _
  | .fwwrite _ | .fwactivate _ | .savepool _ | .cappool _ | .mailboxUnknownCmd _ | .mailboxDone _
  | .sensorSample _ | .powerWindow _ | .powerGood _ | .getMeasurements _ | .zynongPacketReceive _
  | .acknowledgement _ _ | .retryTimeout _ | .switchForward _ | .linkFailure _ _ | .spraySetRemove _ _
  | .shadowInstall _ _ _ | .versionActivation _ | .mcstDelivery _ | .answerMerge _ _ _ _ _ _ _
  | .multicastAggregate _ _ _ _ | .escapeChannelMove _ | .bar2Read _ _ | .bar2Write _ _ | .backInvalidateAnswer _
  | .hostWriteBack _ _ | .illegalEncoding _ | .instructionFetchFault | .hostWindowReadCompletion _ _ _
  | .cxlMemRead _ => none

/-- The word of an instruction under a header; none for the operations that have no word. -/
def encode (h : Header) (i : Instr) : Option IWord := (encodeFields i).map (wordOf h)

/-- A-class instructions: the word that may stand second in a pair and never first (R50). -/
def Instr.isA (i : Instr) : Bool :=
  match encodeFields i with
  | some f => f.k
  | none => false

end Sys2Proof
end

