-- ==== Sys2Proof/Machine/Map.lean ====
section
/-!
DEFINITION. The two list-backed stores of the state: tables keyed by a number, and byte memories in one canonical
form (addresses strictly rising, no listed byte equal to what an unlisted address reads as). An address that nothing
has written reads as zero (DESIGN CHOICE, log 2). Values of several bytes are little-endian (R1).
-/
namespace Sys2Proof.Machine

/-- The entry of a key, if the table has one. -/
def find {α : Type} : List (Nat × α) → Nat → Option α
  | [], _ => none
  | (k, v) :: r, n => if k = n then some v else find r n

/-- The table with a key's entry set; keys stand in rising order. -/
def put {α : Type} : List (Nat × α) → Nat → α → List (Nat × α)
  | [], n, x => [(n, x)]
  | (k, v) :: r, n, x =>
    if n < k then (n, x) :: (k, v) :: r else if n = k then (n, x) :: r else (k, v) :: put r n x

/-- The table without a key's entry. -/
def del {α : Type} (t : List (Nat × α)) (n : Nat) : List (Nat × α) := t.filter (fun p => p.1 != n)

/-- A byte memory: the listed bytes; every other byte is zero. -/
abbrev Memory := List Host.Cell

namespace Memory

/-- What an address that is not listed reads as (log 2). -/
def unlisted : Byte := 0

/-- One byte. -/
def read : Memory → Nat → Byte
  | [], _ => unlisted
  | (k, v) :: r, a => if a = k then v else read r a

/-- The memory with nothing listed for an address. -/
def without (m : Memory) (a : Nat) : Memory := m.filter (fun c => c.1 != a)

/-- A memory with a byte listed in front, unless it is what an unlisted address reads as. -/
def listed (a : Nat) (b : Byte) (m : Memory) : Memory := if b = unlisted then m else (a, b) :: m

/-- The memory after one byte is written: in canonical form if it was, and with this byte there and every other byte as
before whatever its form. -/
def write : Memory → Nat → Byte → Memory
  | [], a, b => listed a b []
  | (k, v) :: r, a, b =>
    if a < k then listed a b ((k, v) :: without r a)
    else if a = k then listed a b (without r a)
    else (k, v) :: write r a b

/-- Every listed address lies at or above lo, they rise strictly, and no listed byte is what an unlisted reads. -/
def wfFrom : Nat → Memory → Bool
  | _, [] => true
  | lo, (k, v) :: r => decide (lo ≤ k) && decide (v ≠ unlisted) && wfFrom (k + 1) r

/-- The canonical form. -/
def wf (m : Memory) : Bool := wfFrom 0 m

/-- The n bytes from an address on. -/
def bytes (m : Memory) (a n : Nat) : List Byte := (List.range n).map (fun i => m.read (a + i))

/-- The memory after consecutive bytes are written. -/
def writeBytes : Memory → Nat → List Byte → Memory
  | m, _, [] => m
  | m, a, b :: r => writeBytes (m.write a b) (a + 1) r

end Memory

/-- The number that little-endian bytes make (R1). -/
def natOfBytes : List Byte → Nat
  | [] => 0
  | b :: r => b.toNat + 256 * natOfBytes r

/-- The n low bytes of a number, lowest first (R1). -/
def bytesOfNat : Nat → Nat → List Byte
  | 0, _ => []
  | n + 1, v => BitVec.ofNat 8 v :: bytesOfNat n (v / 256)

/-- Bytes as a doubleword. -/
def wordOf8 (bs : List Byte) : Word := BitVec.ofNat 64 (natOfBytes bs)

/-- Bytes as a vector. -/
def vecOf16 (bs : List Byte) : Vec := BitVec.ofNat 128 (natOfBytes bs)

/-- The number at an address. -/
def Memory.num (m : Memory) (a n : Nat) : Nat := natOfBytes (m.bytes a n)

/-- The doubleword at an address. -/
def Memory.word (m : Memory) (a : Nat) : Word := wordOf8 (m.bytes a 8)

/-- The memory after a number of n bytes is written. -/
def Memory.setNum (m : Memory) (a n v : Nat) : Memory := m.writeBytes a (bytesOfNat n v)

/-- Bits h down to l of a word (R1). -/
def bits (w : Word) (h l : Nat) : Nat := (w.toNat / 2 ^ l) % 2 ^ (h + 1 - l)

/-- One bit of a word. -/
def bitAt (w : Word) (n : Nat) : Bool := w.getLsbD n

/-- A word with bits h down to l replaced by a number. -/
def setBits (w : Word) (h l v : Nat) : Word :=
  BitVec.ofNat 64 (w.toNat - bits w h l * 2 ^ l + (v % 2 ^ (h + 1 - l)) * 2 ^ l)

/-- A value of w bits, sign-extended to 64 (R282). -/
def sext {w : Nat} (v : BitVec w) : Word := v.signExtend 64

/-- A value of w bits, zero-extended to 64 (R282). -/
def zext {w : Nat} (v : BitVec w) : Word := v.setWidth 64

/-- 1 for true. -/
def bit (b : Bool) : Nat := if b then 1 else 0

/-- A list with the element at a place replaced by what a function gives. -/
def modifyNth {α : Type} (l : List α) (n : Nat) (f : α → α) : List α := l.modify n f

end Sys2Proof.Machine
end

