-- ==== Sys2Proof/Machine/Types.lean ====
section
/-!
DEFINITION. The plain data that State is built of, part by part: a slot, its transaction and what it waits for; a
core with its memories, queues and engines; a launch; the dispatcher; the fabric; Telemark. Each field names the rule
that gives it.
-/
namespace Sys2Proof.Machine

/-- Trap causes, 09_traps Table 9.1. -/
inductive Cause where
  | illegal | pair | score | align | access | space | place | wdog | trapi | bkpt | stream | matrix | copyf | chk
  | ecc | caravan | contain
  deriving DecidableEq, Repr

/-- Transaction abort causes, 07_ordering Table 7.7. -/
inductive Abort where
  | conflict | capacity | explicit | preempt | xpkg | illegal | plainhit | nest | ecc
  deriving DecidableEq, Repr

/-- A register a write names. -/
inductive RegName where
  | x (r : Reg)
  | v (r : Reg)
  deriving DecidableEq, Repr

/-- A register write of a bundle: the value (an x value in the low 64 bits) and its latency (R55). -/
structure RegWrite where
  reg : RegName
  val : Vec
  latency : Nat
  deriving DecidableEq, Repr

/-- The bounded queues that bundles of several slots may wait for room in (R40, R135, R150, R177, R187, R229): the outbound
buffer of the NI, the retry buffer of its I/O die, the matrix queue, the copy queue, the NI's places for GATHER and
SCATTER, and the device queue. -/
inductive Queue where
  | ni | retry | matrix | copy | gather | device
  deriving DecidableEq, Repr

/-- A write with a fixed latency that has not landed, and the cycle it lands in (R55, R57). -/
structure Pending where
  reg : RegName
  val : Vec
  due : Nat
  deriving DecidableEq, Repr

/-- The accrued flags of Table 3.14. -/
structure Flags where
  sat : Bool := false
  nx : Bool := false
  uf : Bool := false
  of : Bool := false
  dz : Bool := false
  nv : Bool := false
  deriving DecidableEq, Repr

/-- What an A-word does when its bundle retires: its writes, the flags it raises, the generator state it leaves
(R87), and the address of poisoned data it consumed (R217). -/
structure AEff where
  writes : List RegWrite
  flags : Flags := {}
  gen : Option Word := none
  poison : Option Word := none
  deriving DecidableEq, Repr

/-- How the word being executed stands in its bundle: alone, the second word of a pair (executed first, its effects
kept back), or the first word of a pair (executed with the second word's effects at hand). -/
inductive Mode where
  | lone | second | first
  deriving DecidableEq, Repr

/-- What the operand checks of the A-word of a pair found, to be taken after the C-word's own (R200): a link-port access
inside a transaction (R67, R172), or a trap. -/
inductive Late where
  | linkInTxn
  | trap (c : Cause) (v : Word)
  deriving DecidableEq, Repr

/-- The bundle a slot has issued: address, next bundle's address, its words, STALL, and the operands as read at
issue (R52); the link ports and streams its operand fields pop (R67, R68), LINKMAP at issue, the second word's effects, the code of a
poisoned register that its A-word reads (R217), its place in an RPT body: the renaming offset and whether it is
the last bundle of the body (R69); the link ports it pushes a word onto, forwarded words included (R67), and what the
A-word's operand checks found. -/
structure Bundle where
  here : Word
  next : Word
  word : IWord
  word2 : Option IWord
  stall : Nat
  mode : Mode
  rdX : Vector Word 32
  rdV : Vector Vec 32
  popPorts : List Nat
  popStreams : List Nat
  stash : Option AEff
  bad : Option Word
  links : BitVec 9
  rename : Nat
  inBody : Bool
  bodyLast : Bool
  pushPorts : List Nat
  late : Option Late
  deriving DecidableEq, Repr

/-- How a returned remote access finishes its bundle: nothing to write, an x register with size and extension, a
v register, an instruction word that the slot then issues, a word of a body that an RPT of count 0 skips (R69), a
launch header for the device queue (R308), or a held store of an END or a MIGRATE that goes on (R35). -/
inductive Landing where
  | none
  | leave
  | fetch
  | skip
  | header
  | x (d : Reg) (size : Nat) (signed : Bool)
  | v (d : Reg)
  deriving DecidableEq, Repr

/-- Why a bundle that has issued does not retire yet (R195): the blocking waits, the answers awaited, and the stalls
that end when room appears or a condition holds (re-tried by STALL_RELEASE): `stall` after issue, `full` for room in a
queue, `port` before the operands could be read (R67, R68). COMPOSE waits for its grant, then, with the size and the
cycle it retires in, for that cycle (R249, R250). A bundle that ends its caravan waits (`handBack`) until the members have
handed back; `parted` is the same where no bundle ends the caravan (R259, R260). `leaving` is an END or a MIGRATE whose
held messages leave (R35, R161). An ASINV waits for its drain, then for the accesses that were translated (R127). -/
inductive Wait where
  | none
  | chrd (d : Reg) (ch : Nat)
  | swwait (a : Reg) (off : Nat) (gen : BitVec 32)
  | waitev (off : Nat)
  | barAnswer (scope : Scope) (sw : Word)
  | barrier (scope : Scope)
  | mswap (acc : Bool)
  | mwait (upTo : Nat)
  | answer (land : Landing) (addr : Word) (acq : Option Scope)
  | hostRead (land : Landing) (addr : Word) (acq : Option Scope) (link : Nat)
  | hostFence
  | spawn (pc : Word)
  | tend
  | compose (d : Reg) (mask : Nat) (grant : Option (Nat × Nat))
  | handBack (due : Nat)
  | parted (due : Nat)
  | leaving
  | stall
  | full (q : Queue)
  | port
  | asinv (asid : Nat) (sent : Bool)
  | list (m : Msg)
  deriving DecidableEq, Repr

/-- Live RPT state (R70). -/
structure LoopSt where
  pass : Nat
  count : Nat
  len : Nat
  stride : Nat
  body : Word
  deriving DecidableEq, Repr

/-- A bound stream (R131 to R133): the descriptor's fields, the next element, the read-ahead, the elements a write
stream still has to write, and the descriptor's address. -/
structure StreamSt where
  base : Word
  count0 : Nat
  count1 : Nat
  count2 : Nat
  stride0 : Int
  stride1 : Int
  stride2 : Int
  isWrite : Bool
  next : Nat
  ahead : List Vec
  unwritten : List (Nat × Vec)
  deriving DecidableEq, Repr

/-- A COPY as captured at issue (R148, R305) with its progress (R205): the pushing activation (slot and serial),
addresses, types, length, rounding state, the raise, elements delivered, where the source lies away from the core the
positions asked for and what has come back, the source as it was when the transfer started where source and destination
overlap (R149), the cycle of the last delivery, whether a fault has stopped it, and the positions whose reads of the host
window are out (R244). -/
structure CopyOp where
  serial : Nat
  slot : Nat
  act : Nat
  dst : Word
  src : Word
  srcTy : BitVec 4
  dstTy : BitVec 4
  length : Nat
  sat : Bool
  rm : Nat
  fz : Bool
  sw : Option Nat
  done : Nat
  flags : Flags
  outstanding : Nat := 0
  asked : List Nat := []
  parts : List (Nat × List Byte × Bool) := []
  kept : Option (List (Byte × Bool)) := none
  last : Option Nat := none
  stopped : Bool := false
  window : List Nat := []
  deriving DecidableEq, Repr

/-- A GATHER or SCATTER as captured at issue (R151, R314): Table 6.12's fields, the next position to issue, and the
elements not yet delivered. -/
structure GatherOp where
  serial : Nat
  slot : Nat
  act : Nat
  isScatter : Bool
  desc : Word
  raise : Option Nat
  sizeCode : Nat
  count : Nat
  toA : Bool
  local_ : Nat
  index : Nat
  base : Nat
  block : Nat
  next : Nat
  outstanding : Nat
  deriving DecidableEq, Repr

/-- A multicast that a transaction holds (R177, R331): its source is own LM, or device memory of this package, in pieces of
an offset and a number of bytes. -/
structure McastOp where
  group : Nat
  off : Nat
  length : Nat
  own : Bool
  parts : List (Nat × Nat)
  sw : Nat
  members : Nat
  deriving DecidableEq, Repr

/-- An operation held by a transaction (R177). -/
inductive HeldOp where
  | copy (o : CopyOp)
  | gather (o : GatherOp)
  | mcast (o : McastOp)
  deriving DecidableEq, Repr

/-- A pending reduction of a transaction (R178): physical address, operation, type and the contribution's bytes. -/
structure PendRed where
  pa : Nat
  op : RedOp
  ty : LaneType
  bytes : List Byte
  deriving DecidableEq, Repr

/-- An open transaction (R168 to R180): outermost abort target, depth, timestamp of an ordered one, its age, the shadow, the
tiles read, written and reduced, speculative bytes by physical address, pending reductions, held operations, whether
it is committing, and the shadow's poison marks (R217). -/
structure Txn where
  target : Word
  depth : Nat
  stamp : Option Word
  age : Word
  shadowX : Vector Word 32
  shadowV : Vector Vec 32
  reads : List Nat
  writes : List Nat
  reds : List (Nat × RedOp × LaneType)
  spec : List (Nat × Byte)
  pendRed : List PendRed
  held : List HeldOp
  committing : Bool
  shadowPX : List Reg := []
  shadowPV : List Reg := []
  deriving DecidableEq, Repr

/-- A message in an arrival queue or an oasis, with its redelivery count (R220), its poison mark (R217), and the slot
whose contained activation it has started, while that runs (R219). -/
structure QMsg where
  msg : Msg
  tries : Nat := 0
  bad : Bool := false
  slot : Option Nat := none
  deriving DecidableEq, Repr

/-- A word of a channel's FIFO, with its redelivery count (R220), and the slot whose contained activation has consumed it,
while that runs (R219). -/
structure FifoWord where
  word : PWord
  tries : Nat := 0
  slot : Option Nat := none
  deriving DecidableEq, Repr

/-- A batch in a batch queue (R27): its number; the first of the identifiers that have never started, and how many they
are; the items that a rollback returned, with their redelivery counts, in identifier order (R220); and the items whose
contained activations run (R219). -/
structure Batch where
  num : Nat
  first : Nat
  left : Nat
  back : List (Nat × Nat) := []
  held : List Nat := []
  deriving DecidableEq, Repr

/-- What started an activation (R28, R29): a work item with its redelivery count, an arrival, or a channel's words. -/
inductive Source where
  | item (id : Nat) (tries : Nat)
  | arrival
  | channel (claimed : Nat)
  deriving DecidableEq, Repr

/-- One hardware slot (R28, R29, R66, Tables 3.12 and 9.3). `resetPending` says that the reset of the matrix registers
and FPCTL at activation start still waits (R136); `brought` holds the words of code homed outside the package's cached
memory that the slot's fetches have brought, with whether a word still waits to be issued (R119); `cvIssued` names the
members of its caravan that have issued in the cycle of its last issue (R255); `landed` keeps, in a caravan, the writes
that have landed and may not have crossed to every member yet (R253); `skipAt` is the cycle that a YIELD leaves out
(R401); `portFrom` and `portTo` are the first and the last cycle of the slot's latest use of its core's LM port (R9). -/
structure Slot where
  active : Bool
  act : Nat
  chan : Nat
  source : Source
  parent : Option Place
  inlineDepth : Nat
  claim : Nat
  x : Vector Word 32
  v : Vector Vec 32
  pc : Word
  pend : List Pending
  notBefore : Nat
  lastIssue : Nat
  loop : Option LoopSt
  h : Bool
  heldTraps : List (Cause × Word)
  rm : Nat
  fz : Bool
  fflags : Flags
  srseed : Word
  gen : Word
  lmb : Word
  linkmap : BitVec 9
  wid : Word
  tcause : Word
  tval : Word
  tpc : Word
  tscr : Word
  tcode : BitVec 8
  tabort : BitVec 8
  tage : Option Word
  rptst : Word
  rptpc : Word
  mfmta : BitVec 12
  mfmtb : BitVec 12
  mfmtc : BitVec 4
  mscla : Word
  msclb : Word
  chkmode : Nat
  watch : Nat
  wdogFired : Bool
  retired : Nat
  cvsize : Nat
  cvmask : Word
  barWait : Bool
  barGen : BitVec 32
  barAddr : Word
  barWoken : Option (BitVec 32)
  mswapPending : Bool
  staging : Memory
  streams : List (Nat × StreamSt)
  txn : Option Txn
  heldMsgs : List Msg
  wait : Wait
  bundle : Bundle
  poisonX : List Reg
  poisonV : List Reg
  hostLinks : List Nat
  resetPending : Bool
  brought : List (Word × IWord × Bool)
  cvIssued : List Nat
  landed : List Pending
  skipAt : Option Nat
  portFrom : Nat
  portTo : Nat
  deriving DecidableEq, Repr

/-- A handler-table entry (02_execution Table 2.5). -/
structure Handler where
  valid : Bool
  multi : Bool
  contained : Bool
  persistent : Bool
  mask : Bool
  prio : Nat
  threshold : Nat
  offset : BitVec 32
  deriving DecidableEq, Repr

/-- The kind of an accumulator bank (R142): "any" after MZERO (R144). -/
inductive BankKind where
  | any | fp32 | i32 | fp64
  deriving DecidableEq, Repr

/-- An accumulator bank (R13, R100): 16 KiB of data, kind, sticky status (Table 6.13), and its poisoned granules
(R217). -/
structure Bank where
  data : Memory
  kind : BankKind
  nv : Bool
  of : Bool
  sat : Bool
  empty : Bool
  bad : List Nat := []
  deriving DecidableEq, Repr

/-- The registers a command samples at start (R136). -/
structure MSample where
  rm : Nat
  fz : Bool
  fmtA : BitVec 12
  fmtB : BitVec 12
  fmtC : BitVec 4
  sclA : Word
  sclB : Word
  deriving DecidableEq, Repr

/-- A running matrix command (R202, R205): what it sampled, the k done, the intermediate elements of MADP or the
live rows it found, the events it has to record, the cycle it may complete in, whether its work is done, and the cycles
that all its k take together. -/
structure MRun where
  sample : MSample
  kDone : Nat
  finished : Bool
  due : Nat
  nv : Bool
  of : Bool
  sat : Bool
  empty : Bool
  flags : Flags
  work : Nat := 0
  deriving DecidableEq, Repr

/-- An entry of the matrix queue (R135, R137): a record's eight words or an MSWAP marker, who pushed it (slot and
activation), its serial number, its progress once it runs, and its poison mark (R217). -/
structure MEntry where
  serial : Nat
  slot : Nat
  act : Nat
  marker : Option Bool
  words : List Word
  run : Option MRun
  bad : Bool := false
  deriving DecidableEq, Repr

/-- A line of an L1 data cache (R117): virtual tag with ASID, the physical line, its 64 bytes. -/
structure Line where
  asid : Nat
  va : Nat
  pa : Nat
  data : List Byte
  deriving DecidableEq, Repr

/-- An entry of the write buffer (R117): the line, the bytes stored to it in program order by physical address, and
the slots that stored. -/
structure WbEntry where
  asid : Nat
  va : Nat
  pa : Nat
  stores : List (Nat × Byte)
  slots : List Nat
  deriving DecidableEq, Repr

/-- A header in a device queue (R187): the eight words, the launch that pushed it, and its place in arrival order. -/
structure DevHeader where
  words : List Word
  parent : Nat
  stamp : Nat
  deriving DecidableEq, Repr

/-- A header on its way to the dispatcher's round-robin through a die's sub-dispatcher (R187), with the launching
launch's ASID, class and priority, and its place in arrival order. -/
structure SubHeader where
  words : List Word
  parent : Nat
  asid : Nat
  cls : Nat
  prio : Nat
  stamp : Nat := 0
  deriving DecidableEq, Repr

/-- Where poisoned data without a global address lies in a core (R217, Table 9.5). -/
inductive Poison where
  | lm (granule : Nat)
  | abuf (granule : Nat)
  | wbuf (granule : Nat)
  | cim (tile : Nat)
  deriving DecidableEq, Repr

/-- Membership of a caravan (R249): the anchor core's site and slot. -/
structure Membership where
  anchor : Nat
  slot : Nat
  deriving DecidableEq, Repr

/-- Where a core stands in a pre-emption (R202, R204, R206, R209, R210): issuing; issuing, with a save asked for since a
cycle; stopping its slots, for a save or, with a target, to move there, since a cycle; its image being streamed out; kept for an
image whose restore it has asked for since a cycle; kept for a context that comes from another core; its context being
loaded; the traffic held for its context coming in. -/
inductive Stage where
  | running
  | requested (since : Nat)
  | stopping (dest : Option Nat) (since : Nat)
  | saving (due : Nat)
  | loading (image since : Nat)
  | promised (source : Nat)
  | restoring (due : Nat)
  | applying
  deriving DecidableEq, Repr

/-- One core (R13, R25 to R47, R117, R187, R192, R205). `forwards` holds the forwarding entries of R210 as (launch,
launch-origin core, new site); `barArrivals` the remote BAR arrivals that await a wake answer as (place, slot,
sync-word offset, generation) (R291); `evSeen` the slots in WAITEV whose doubleword a write has left other than 0 (R398). -/
structure CoreSt where
  launch : Option Nat
  origin : Nat
  slots : Vector Slot 4
  lm : Memory
  abuf : Memory
  wbuf : Memory
  acc0w : Bank
  acc0v : Bank
  acc1w : Bank
  acc1v : Bank
  zmap : Memory
  cimExp : List (Nat × Memory)
  cimLoaded : BitVec 16
  fifos : List (Nat × List FifoWord)
  chrdWaiters : List (Nat × Nat)
  table : List Handler
  arrival : List QMsg
  reserved : Nat
  oasis : List QMsg
  batches : List Batch
  children : Nat
  tvec : Word
  splim : Nat
  topk : Nat
  mq : List MEntry
  cq : List CopyOp
  gq : List GatherOp
  devq : List DevHeader
  ports : List (Nat × List Word)
  l1d : List Line
  l1i : List (Nat × Nat × IWord)
  wb : List WbEntry
  rrFill : List (Nat × Nat)
  rrIssue : List (Nat × Nat)
  caravan : Option Membership
  deficits : List (Nat × Int)
  lastClass : Option Nat
  turnLeft : Nat
  turnUsed : Nat
  stage : Stage
  poison : List Poison
  forwards : List (Nat × Nat × Nat)
  barArrivals : List (Place × Nat × Nat × Nat)
  nextOp : Nat
  evSeen : List Nat := []
  deriving DecidableEq, Repr

/-- States of an accepted launch (R184). -/
inductive LState where
  | waiting | ready | running | ended
  deriving DecidableEq, Repr

/-- Completion statuses, 02_execution Table 2.3. -/
inductive Status where
  | done | hung | cancelled | badhdr | fault | killed
  deriving DecidableEq, Repr

/-- Where a launch's context is (R204, R207, R210): on a core, on a core that it is about to leave, in an image, or moving
to a core. -/
inductive Where where
  | site (c : Nat)
  | leaving (c : Nat)
  | image (n : Nat)
  | transit (c : Nat)
  deriving DecidableEq, Repr

/-- The TKSENDs that a core has issued for a tag and a rectangle (R269): the round of the next one, and the rounds of lists
that a rollback discarded, which come first. -/
structure ListCount where
  tag : Nat
  rect : Nat × Nat × Nat × Nat
  core : Nat
  next : Nat
  free : List Nat
  deriving DecidableEq, Repr

/-- An unfinished launch (R19 to R27, R180, R183 to R191, R210). `hdr` is the header, `handlers` the copy of the
handler image, `ranks` the copy of the rank table, `undealt` the first identifier not yet dealt, `round` the core served last, `places` the present place of each launch-origin core, `watching` the
wait counter's line and `cleared` that it has read as zero, and `ahead` the batches dealt to cores whose context is not on a
core (R27). -/
structure Launch where
  hdr : List Word
  state : LState
  handlers : List Handler
  ranks : List Place
  preds : List Nat
  parent : Option Nat
  prio : Nat
  counts : List Nat
  undealt : Nat
  round : List Nat
  places : List (Nat × Where)
  gen : Nat
  acks : List Nat
  front : Word
  skipped : List Word
  watching : Option Nat
  cleared : Bool
  ending : Option (Status × Nat)
  started : Bool
  lists : List ListCount := []
  ahead : List (Nat × List Batch) := []
  deriving DecidableEq, Repr

/-- A host queue (R182, Table 8.2). -/
structure HostQueue where
  en : Bool
  cls : Nat
  asid : Nat
  recs : List (List Word)
  deriving DecidableEq, Repr

/-- The dispatcher (R182 to R194, Table 8.1) and the host's invalidation registers (R128). `firstCores` gives the first
core of each waiting class (R192), and `words` the completion words of rejected headers whose writing waits, as ASID, header,
status and cause (R176, R183, R229, R246). -/
structure Disp where
  queues : List (Nat × HostQueue)
  rr : Option Nat
  subq : List (Nat × List SubHeader)
  clsw : List (Nat × Nat)
  lkill : Word
  lkillBusy : Bool
  tinvva : Word
  tinvctl : Word
  tinvBusy : Bool
  savepool : Option (Nat × Nat)
  cappool : Option (Nat × Nat)
  capUsed : Nat
  firstCores : List (Nat × Nat)
  words : List (Nat × List Word × Status × Nat) := []
  deriving DecidableEq, Repr

/-- A saved context (R204): launch, launch-origin core, the site it left, the core's state, its place in the save pool,
and whether the engine has written it. -/
structure Image where
  launch : Nat
  origin : Nat
  site : Nat
  core : CoreSt
  slot : Nat
  written : Bool
  deriving DecidableEq, Repr

/-- A cached translation leaf (R126): sector, ASID, base and size of the virtual range, physical base, type and
permissions. -/
structure TlbEntry where
  sector : Nat
  asid : Nat
  va : Nat
  size : Nat
  pa : Nat
  uncached : Bool
  r : Bool
  w : Bool
  x : Bool
  deriving DecidableEq, Repr

/-- The state of one L2's copy of a line (R121). -/
inductive DirState where
  | m | o | e | s | i
  deriving DecidableEq, Repr

/-- A home directory entry (R121, R186, R246): the state for each die's L2, the host as sharer, a snoop awaiting the
host's answer, and the watch of a waiting launch. -/
structure DirEntry where
  l2 : List (Nat × DirState)
  hostShares : Bool
  snooping : Bool
  watched : Bool
  deriving DecidableEq, Repr

/-- An open TKSEND round (R266, R269): launch, tag, rectangle, round number, result and sync word at the root, and
the lists that wait at each merge unit as (level, unit, port, list). -/
structure Round where
  launch : Nat
  tag : Nat
  rect : Nat × Nat × Nat × Nat
  num : Nat
  result : Nat
  sw : Nat
  joined : List Nat
  lists : List (Nat × Nat × Nat × MergeList)
  deriving DecidableEq, Repr

/-- An outbound Zynong stream (R228 to R230): next number, unacknowledged packets oldest first, timeouts in a row. -/
structure OutStream where
  next : BitVec 32
  unacked : List Packet
  timeouts : Nat
  deriving DecidableEq, Repr

/-- An inbound stream (R228): the next expected number and the reorder buffer. -/
structure InStream where
  expected : BitVec 32
  held : List Packet
  deriving DecidableEq, Repr

/-- A switch (R232): its current and its shadow table. -/
structure Switch where
  cur : RouteTable
  shadow : Option RouteTable
  deriving DecidableEq, Repr

/-- A multicast this package has sent (R240): stream, sequence number, version of the latest transmission, the
waiting sync word's launch and core, member count. -/
structure McSent where
  group : Nat
  seq : BitVec 32
  version : BitVec 16
  launch : Nat
  origin : Nat
  sw : Nat
  members : Nat
  slot : Nat
  deriving DecidableEq, Repr

/-- A merge of answers at a switch (R240): the children that have answered, with their answers. -/
structure McMerge where
  sw : Nat
  id : StreamId
  seq : BitVec 32
  version : BitVec 16
  got : List (Node × McAnswer)
  deriving DecidableEq, Repr

/-- What the host does to device memory, in the order received (R243, R246). -/
inductive HostReq where
  | read (off size : Nat)
  | line (off : Nat)
  | write (off : Nat) (bytes : List Byte)
  deriving DecidableEq, Repr

/-- A request for the host window as it leaves on a host link (R244, R245, Table 10.11): a PCIe read or posted write of some
bytes, or CXL.cache's non-caching RdCurr, WOWrInv and WOWrInvF. -/
inductive WindowReq where
  | memRead (addr n : Nat)
  | memWrite (addr n : Nat)
  | rdCurr (addr n : Nat)
  | wowrInv (addr n : Nat)
  | wowrInvF (addr n : Nat)
  deriving DecidableEq, Repr

/-- The fabric seen from this package (R224 to R246). `flight` holds packets at a node or on a link, `awaiting` the
requests to other packages that have no response yet, `acked` the acknowledgements sent, `answered` the multicast
answers that left, `pendingAgg` the aggregates accepted for a context that is not on a core, and `inbound` the host's
requests on their way to their homes; `cxl` the host links that have trained as CXL (R245), `removing` the failed links
that are still in spray sets, each with the cycle by which they leave them (R231), and `window` the requests for the host
window that have left, each with its link, in order (R244). -/
structure Fab where
  cur : List (Nat × RouteTable)
  shadow : List (Nat × RouteTable)
  zrto : List (Nat × Nat)
  mctbase : Word
  mcmapbase : Word
  mcinv : Word
  mcinvBusy : Bool
  hwsel : Nat
  outs : List (StreamId × OutStream)
  ins : List (StreamId × InStream)
  groups : List (Nat × Nat × List Nat)
  inmap : List (Nat × Word)
  records : List (StreamId × List (BitVec 32 × McAnswer))
  merges : List McMerge
  sends : List McSent
  switches : List (Nat × Switch)
  failed : List (Node × Node)
  flight : List (Node × Option Node × Packet)
  awaiting : List Msg
  acked : List (StreamId × BitVec 32)
  answered : List (Node × StreamId × BitVec 32 × McAnswer)
  pendingAgg : List (McSent × McAnswer)
  inbound : List HostReq
  cxl : List Nat := []
  removing : List (Node × Node × Nat) := []
  window : List (Nat × WindowReq) := []
  deriving DecidableEq, Repr

/-- Where a sensor stands: on a compute die, an Exboul stack or an I/O die (R274). -/
inductive SensorPlace where
  | die (n : Nat)
  | stack (n : Nat)
  | ioDie (n : Nat)
  deriving DecidableEq, Repr

/-- A sensor of the package: a sensor proper, which measures a temperature, or a rail, with its number there (R274). -/
structure Sensor where
  place : SensorPlace
  rail : Bool
  num : Nat
  deriving DecidableEq, Repr

/-- The sensors of one place: some temperatures and some rails. -/
def sensorsAt (p : SensorPlace) (temps rails : Nat) : List Sensor :=
  (List.range temps).map (Sensor.mk p false) ++ (List.range rails).map (Sensor.mk p true)

/-- The sensors of the package, in the order of their ids (log 43): 4 temperatures and 3 rails on each compute die, 2 and 2 on
each stack and on each I/O die (R274). -/
def sensorTable : List Sensor :=
  (List.range 8).flatMap (fun n => sensorsAt (.die n) 4 3) ++ (List.range 8).flatMap (fun n => sensorsAt (.stack n) 2 2) ++
  (List.range 2).flatMap (fun n => sensorsAt (.ioDie n) 2 2)

/-- A sensor's id names a die temperature, of a compute die or an I/O die (R275, log 43). -/
def isDieTemp (id : Nat) : Bool :=
  match sensorTable[id]? with
  | some ⟨.die _, false, _⟩ | some ⟨.ioDie _, false, _⟩ => true
  | _ => false

/-- A mailbox (R273). -/
structure Mbox where
  cmd : Word
  busy : Bool
  status : Nat
  done : Bool
  data : Memory
  deriving DecidableEq, Repr

/-- An event-log record (R276): CYCLE, event code, physical and logical core, and the event's values. -/
structure LogRec where
  cycle : Nat
  code : Nat
  phys : Nat
  core : Nat
  vals : List Nat
  deriving DecidableEq, Repr

/-- Telemark (R273 to R281). Physical cores are numbered die by die, 2,112 each: `excluded` those that bring-up left
out, `spares` the spare that fills a logical position, `retired` those retired since. `capNext` holds the caps that
SETCAP has accepted, each with the cycle from which it holds once OK has been returned (R275). -/
structure Tele where
  mboxes : List (Nat × Mbox)
  order : List Nat
  cap : Nat
  capNext : List (Nat × Option Nat)
  capEff : Nat
  throttle : Bool
  sensors : List SensorRec
  log : List LogRec
  banks : List (Nat × List Byte)
  activeBank : Nat
  nextBank : Nat
  excluded : List Nat
  spares : List (Nat × Nat)
  retired : List Nat
  bringup : Nat
  failed : Bool
  deriving DecidableEq, Repr

/-- What the part answers to the host (R182, R242, R243, R246, R280). -/
inductive Answer where
  | success
  | retryStatus
  | unsupported
  | data (bytes : List Byte)
  | measurements (bank0 bank1 : BitVec 256) (minimum retired : Nat) (signature : List Byte)
  deriving DecidableEq, Repr

end Sys2Proof.Machine
end

