-- ==== Sys2Proof/Machine/Float.lean ====
section
/-!
DEFINITION. Number formats and arithmetic (04_arithmetic R79 to R92, R103, R104, R390): values are decoded exactly,
computed exactly in integers, and rounded once.
-/
namespace Sys2Proof.Machine

/-! ### Formats -/

/-- The width of a lane in bits, Table 3.9. -/
def laneWidth : LaneType → Nat
  | .i8 | .n8 | .e4m3 | .e5m2 => 8
  | .i16 | .n16 | .fp16 | .bf16 => 16
  | .i32 | .n32 | .fp32 => 32
  | .i64 | .n64 | .fp64 => 64
  | .e2m1 => 4

/-- Lanes of a v register, Table 3.9. -/
def laneCount (t : LaneType) : Nat := 128 / laneWidth t

/-- Exponent bits, fraction bits and bias of Table 4.1 (zeros for integer types). -/
def layout : LaneType → Nat × Nat × Int
  | .fp64 => (11, 52, 1023)
  | .fp32 => (8, 23, 127)
  | .fp16 => (5, 10, 15)
  | .bf16 => (8, 7, 127)
  | .e4m3 => (4, 3, 7)
  | .e5m2 => (5, 2, 15)
  | .e2m1 => (2, 1, 1)
  | _ => (0, 0, 0)

/-- Fraction bits. -/
def fracBits (t : LaneType) : Nat := (layout t).2.1

/-- Exponent of the smallest normal, 1 - bias. -/
def eMin (t : LaneType) : Int := 1 - (layout t).2.2

/-- The canonical NaN of a format, Table 4.5; E2M1 has none and its conversion gives +0 (Table 4.7). -/
def canonNaN : LaneType → Nat
  | .fp64 => 0x7FF8000000000000
  | .fp32 => 0x7FC00000
  | .fp16 => 0x7E00
  | .bf16 => 0x7FC0
  | .e5m2 => 0x7E
  | .e4m3 => 0x7F
  | _ => 0

/-- The bits of the largest finite magnitude, Table 4.1. -/
def maxFinite : LaneType → Nat
  | .fp64 => 0x7FEFFFFFFFFFFFFF
  | .fp32 => 0x7F7FFFFF
  | .fp16 => 0x7BFF
  | .bf16 => 0x7F7F
  | .e5m2 => 0x7B
  | .e4m3 => 0x7E
  | .e2m1 => 7
  | _ => 0

/-- The bits of a sign. -/
def signBits (t : LaneType) (neg : Bool) : Nat := if neg then 2 ^ (laneWidth t - 1) else 0

/-- The bits of an infinity of a format that has one (Table 4.2). -/
def infBits (t : LaneType) (neg : Bool) : Nat :=
  signBits t neg + (2 ^ (layout t).1 - 1) * 2 ^ fracBits t

/-- E4M3 and E2M1 have no infinity (Table 4.2). -/
def hasInf : LaneType → Bool
  | .e4m3 | .e2m1 => false
  | _ => true

/-- A decoded value: a NaN (signalling or the mark of an invalid operation: true), an infinity, or the exact number
(-1)^neg * m * 2^e. -/
inductive FVal where
  | nan (sig : Bool)
  | inf (neg : Bool)
  | num (neg : Bool) (m : Nat) (e : Int)
  deriving DecidableEq, Repr

/-- The value of a lane's bits (R80, Table 4.2, R81). -/
def decodeF (t : LaneType) (b : Nat) : FVal :=
  let (eb, fb, bias) := layout t
  let neg := b / 2 ^ (laneWidth t - 1) % 2 == 1
  let e := b / 2 ^ fb % 2 ^ eb
  let f := b % 2 ^ fb
  if t = .e4m3 ∧ e = 15 ∧ f = 7 then .nan false
  else if hasInf t ∧ e = 2 ^ eb - 1 then
    if f = 0 then .inf neg else .nan (f / 2 ^ (fb - 1) == 0)
  else if e = 0 then .num neg f (1 - bias - fb)
  else .num neg (f + 2 ^ fb) (e - bias - fb)

/-- A subnormal operand of FP32, FP16 or BF16 read as the zero of its sign under FZ (R86). -/
def flushBits (t : LaneType) (fz : Bool) (b : Nat) : Nat :=
  if fz && t.isFlushed && (b / 2 ^ fracBits t % 2 ^ (layout t).1 == 0) then b / 2 ^ (laneWidth t - 1) * 2 ^ (laneWidth t - 1)
  else b

/-- The value of an operand under FZ. -/
def operandF (t : LaneType) (fz : Bool) (b : Nat) : FVal := decodeF t (flushBits t fz b)

def FVal.isNaN : FVal → Bool
  | .nan _ => true
  | _ => false

def FVal.isSig : FVal → Bool
  | .nan s => s
  | _ => false

def FVal.isZero : FVal → Bool
  | .num _ m _ => m == 0
  | _ => false

def FVal.neg : FVal → FVal
  | .nan s => .nan s
  | .inf n => .inf !n
  | .num n m e => .num (!n) m e

/-! ### Rounding -/

/-- How a result is rounded: FPCTL.RM, FZ, saturation (R89), and the draw of a stochastic rounding (R88). -/
structure Rounding where
  rm : Nat
  fz : Bool
  sat : Bool := false
  draw : Option Nat := none

/-- Round to nearest even without flushing: far arithmetic (R103). -/
def farRounding : Rounding := { rm := 0, fz := false }

/-- The magnitude m * 2^e (and a bit more when sticky) as a multiple of 2^l, and whether that is inexact (R85, R88). -/
def roundAt (c : Rounding) (neg : Bool) (m : Nat) (e : Int) (sticky : Bool) (l : Int) : Nat × Bool :=
  if l ≤ e then (m * 2 ^ (e - l).toNat, sticky)
  else
    let sh := (l - e).toNat
    let q := m / 2 ^ sh
    let r := m % 2 ^ sh
    let half := 2 ^ (sh - 1)
    let inexact := r != 0 || sticky
    let above := decide (half < r) || (r == half && sticky)
    let tie := r == half && !sticky
    let up := match c.draw with
      | some d => inexact && decide (2 ^ 32 ≤ r * 2 ^ 32 / 2 ^ sh + d)
      | none => match c.rm with
        | 0 => above || (tie && q % 2 == 1)
        | 1 => false
        | 2 => neg && inexact
        | 3 => !neg && inexact
        | _ => above || tie
    (if up then q + 1 else q, inexact)

/-- Whether q * 2^l exceeds the largest finite value of a format. -/
def exceeds (t : LaneType) (q : Nat) (l : Int) : Bool :=
  match decodeF t (maxFinite t) with
  | .num _ m e => if e ≤ l then decide (m < q * 2 ^ (l - e).toNat) else decide (m * 2 ^ (e - l).toNat < q)
  | _ => false

/-- What overflow delivers (R85, R89): the bits and the flags. -/
def overflowTo (t : LaneType) (c : Rounding) (neg : Bool) : Nat × Flags :=
  if c.sat || t = .e2m1 then (signBits t neg + maxFinite t, { sat := true, nx := true })
  else
    let toInf := if c.draw.isSome then true else
      match c.rm with
      | 1 => false
      | 2 => neg
      | 3 => !neg
      | _ => true
    if toInf then (if hasInf t then infBits t neg else canonNaN t, { of := true, nx := true })
    else (signBits t neg + maxFinite t, { of := true, nx := true })

/-- The result format's bits of an exact magnitude and the flags of Table 4.6 (R84, R85, R86, R88). -/
def roundTo (t : LaneType) (c : Rounding) (neg : Bool) (m : Nat) (e : Int) (sticky : Bool := false) : Nat × Flags :=
  if m = 0 ∧ !sticky then (signBits t neg, {})
  else
    let fb : Int := fracBits t
    let top : Int := (Nat.log2 m : Int) + e
    let lu := top - fb
    let ls := eMin t - fb
    let ld := max lu ls
    let (qu, _) := roundAt c neg m e sticky lu
    let (qd, inexact) := roundAt c neg m e sticky ld
    let tiny := decide (lu < eMin t) && decide (qu < 2 ^ (eMin t - lu).toNat)
    if exceeds t qd ld then overflowTo t c neg
    else if c.fz && t.isFlushed && decide (ld = ls) && decide (qd < 2 ^ fracBits t) then
      (signBits t neg, { uf := true, nx := true })
    else
      (signBits t neg + ((ld - ls).toNat * 2 ^ fracBits t + qd), { nx := inexact, uf := tiny && inexact })

/-- A value as bits of a format: arithmetic results (R82, R83, R85). -/
def roundVal (t : LaneType) (c : Rounding) : FVal → Nat × Flags
  | .nan s => (canonNaN t, { nv := s })
  | .inf n => (infBits t n, {})
  | .num n m e => roundTo t c n m e

def Flags.or (a b : Flags) : Flags :=
  ⟨a.sat || b.sat, a.nx || b.nx, a.uf || b.uf, a.of || b.of, a.dz || b.dz, a.nv || b.nv⟩

/-- Table 3.14 as bits. -/
def Flags.toNat (f : Flags) : Nat :=
  32 * bit f.sat + 16 * bit f.nx + 8 * bit f.uf + 4 * bit f.of + 2 * bit f.dz + bit f.nv

/-- The flags of a register value (Table 3.14); reserved bits are ignored (R71). -/
def Flags.ofWord (w : Word) : Flags :=
  ⟨w.getLsbD 5, w.getLsbD 4, w.getLsbD 3, w.getLsbD 2, w.getLsbD 1, w.getLsbD 0⟩

/-! ### Exact sums and products -/

/-- The product of two values; 0 times infinity is the invalid NaN (R83). -/
def mulF : FVal → FVal → FVal
  | .nan s, y => .nan (s || y.isSig)
  | x, .nan s => .nan (s || x.isSig)
  | .inf a, .inf b => .inf (a != b)
  | .inf a, .num b m _ => if m = 0 then .nan true else .inf (a != b)
  | .num a m _, .inf b => if m = 0 then .nan true else .inf (a != b)
  | .num a m e, .num b n f => .num (a != b) (m * n) (e + f)

/-- The least exponent of the finite terms. -/
def minExp : List FVal → Int
  | [] => 0
  | [.num _ _ e] => e
  | .num _ _ e :: r => min e (minExp r)
  | _ :: r => minExp r

/-- The exact sum of the finite terms, in units of 2^e. -/
def sumAt (e : Int) : List FVal → Int
  | [] => 0
  | .num n m f :: r =>
    let v : Int := (m * 2 ^ (f - e).toNat : Nat)
    (if n then -v else v) + sumAt e r
  | _ :: r => sumAt e r

/-- The sign of an exact zero sum (R83): the common sign of the terms, or else minus under RDN only. -/
def zeroSign (rm : Nat) (ts : List FVal) : Bool :=
  let negs := ts.map (fun t => match t with | .num n _ _ => n | _ => false)
  if negs.all id && !negs.isEmpty then true else if negs.any id then rm == 2 else false

/-- The exact sum of values (R83): an invalid term, a signalling NaN or infinities of both signs give the NaN that
raises NV. -/
def sumF (rm : Nat) (ts : List FVal) : FVal :=
  if ts.any FVal.isSig || (ts.any (· == .inf false) && ts.any (· == .inf true)) then .nan true
  else if ts.any FVal.isNaN then .nan false
  else if ts.any (· == .inf false) then .inf false
  else if ts.any (· == .inf true) then .inf true
  else
    let e := minExp ts
    let v := sumAt e ts
    if v = 0 then .num (zeroSign rm ts) 0 0 else .num (decide (v < 0)) v.natAbs e

/-! ### Lane operations on floating-point types -/

/-- a + b, rounded once (R374). -/
def addLane (t : LaneType) (c : Rounding) (a b : Nat) : Nat × Flags :=
  roundVal t c (sumF c.rm [operandF t c.fz a, operandF t c.fz b])

/-- a - b, rounded once. -/
def subLane (t : LaneType) (c : Rounding) (a b : Nat) : Nat × Flags :=
  roundVal t c (sumF c.rm [operandF t c.fz a, (operandF t c.fz b).neg])

/-- a * b, rounded once. -/
def mulLane (t : LaneType) (c : Rounding) (a b : Nat) : Nat × Flags :=
  roundVal t c (mulF (operandF t c.fz a) (operandF t c.fz b))

/-- ±(a * b) + d, rounded once (R382). -/
def fmaLane (t : LaneType) (c : Rounding) (neg : Bool) (a b d : Nat) : Nat × Flags :=
  let p := mulF (operandF t c.fz a) (operandF t c.fz b)
  roundVal t c (sumF c.rm [if neg then p.neg else p, operandF t c.fz d])

/-- x < y on numbers and infinities, with -0 below +0 when strict (R91). -/
def ltF (zeroOrder : Bool) (x y : FVal) : Bool :=
  match x, y with
  | .nan _, _ | _, .nan _ => false
  | .inf a, .inf b => a && !b
  | .inf a, _ => a
  | _, .inf b => !b
  | .num a m e, .num b n f =>
    let l := min e f
    let u : Int := (m * 2 ^ (e - l).toNat : Nat)
    let v : Int := (n * 2 ^ (f - l).toNat : Nat)
    let u := if a then -u else u
    let v := if b then -v else v
    decide (u < v) || (zeroOrder && m == 0 && n == 0 && a && !b)

/-- x = y on values, with -0 equal to +0 (R92). -/
def eqF (x y : FVal) : Bool := !x.isNaN && !y.isNaN && !ltF false x y && !ltF false y x

/-- VMIN, VMAX, VMINN and VMAXN on a floating-point lane, Table 4.9 (R91). -/
def minmaxLane (t : LaneType) (fz isMax number : Bool) (a b : Nat) : Nat × Flags :=
  let a := flushBits t fz a
  let b := flushBits t fz b
  let x := decodeF t a
  let y := decodeF t b
  let nv := x.isSig || y.isSig
  if x.isNaN || y.isNaN then
    if number && !x.isNaN then (a, { nv })
    else if number && !y.isNaN then (b, { nv })
    else (canonNaN t, { nv })
  else
    let less := ltF true x y
    (if less != isMax then a else b, {})

/-- VCMP on a floating-point lane (R92). -/
def cmpLane (t : LaneType) (fz : Bool) (cond : VCond) (a b : Nat) : Bool × Flags :=
  match cond with
  | .ltn => (decide (a < b), {})
  | .len => (decide (a ≤ b), {})
  | _ =>
    let x := operandF t fz a
    let y := operandF t fz b
    let sig := x.isSig || y.isSig
    let un := x.isNaN || y.isNaN
    match cond with
    | .eq => (eqF x y, { nv := sig })
    | .ne => (!eqF x y, { nv := sig })
    | .lt => (ltF false x y, { nv := un })
    | .le => (!un && !ltF false y x, { nv := un })
    | .un => (un, { nv := sig })
    | _ => (!un, { nv := sig })

/-! ### Integer lanes -/

/-- The value of an integer lane (R79). -/
def intOf (t : LaneType) (b : Nat) : Int :=
  let w := laneWidth t
  let v := b % 2 ^ w
  if t.isSigned && decide (2 ^ (w - 1) ≤ v) then (v : Int) - 2 ^ w else v

/-- The low w bits of an integer. -/
def bitsOfInt (w : Nat) (v : Int) : Nat := (v % (2 ^ w : Nat)).toNat

/-- The least and greatest value of an integer type. -/
def intRange (t : LaneType) : Int × Int :=
  let w := laneWidth t
  if t.isSigned then (-(2 ^ (w - 1) : Nat), (2 ^ (w - 1) : Nat) - 1) else (0, (2 ^ w : Nat) - 1)

/-- An exact integer result kept in w bits, or clamped with SAT (R79, R374). -/
def packInt (t : LaneType) (sat : Bool) (v : Int) : Nat × Flags :=
  let (lo, hi) := intRange t
  if sat && decide (v < lo) then (bitsOfInt (laneWidth t) lo, { sat := true })
  else if sat && decide (hi < v) then (bitsOfInt (laneWidth t) hi, { sat := true })
  else (bitsOfInt (laneWidth t) v, {})

/-! ### Conversions -/

/-- A floating-point value to an integer type (Table 4.7): rounded under RM; NaN gives 0, and a value out of range
the nearest bound, with NV. -/
def floatToInt (t : LaneType) (c : Rounding) : FVal → Nat × Flags
  | .nan _ => (0, { nv := true })
  | .inf n => (bitsOfInt (laneWidth t) (if n then (intRange t).1 else (intRange t).2), { nv := true })
  | .num n m e =>
    let (q, inexact) := roundAt c n m e false 0
    let v : Int := if n then -(q : Int) else q
    let (lo, hi) := intRange t
    if v < lo then (bitsOfInt (laneWidth t) lo, { nv := true })
    else if hi < v then (bitsOfInt (laneWidth t) hi, { nv := true })
    else (bitsOfInt (laneWidth t) v, { nx := inexact })

/-- A value to a floating-point type (Table 4.7). -/
def floatTo (t : LaneType) (c : Rounding) : FVal → Nat × Flags
  | .nan s => if t = .e2m1 then (0, { nv := true }) else (canonNaN t, { nv := s })
  | .inf n =>
    if c.sat || t = .e2m1 then (signBits t n + maxFinite t, { sat := true })
    else if hasInf t then (infBits t n, {})
    else (canonNaN t, { nv := true })
  | .num n m e => roundTo t c n m e

/-- One lane converted from type s to type t (R89). A stochastic conversion rounds an integer source with the lane's draw
too, as R88 has it, where Table 4.7 says RM (DEDUCED, log 68). -/
def convertLane (s t : LaneType) (c : Rounding) (b : Nat) : Nat × Flags :=
  if s.isInt then
    let v := intOf s b
    if t.isInt then packInt t c.sat v
    else roundTo t c (decide (v < 0)) v.natAbs 0
  else
    let x := operandF s c.fz b
    if t.isInt then floatToInt t c x else floatTo t c x

/-! ### The special functions (R390) -/

/-- Working precision of the enclosures, in bits. -/
def prec : Nat := 512

/-- The floor of a square root, by bits from i down. -/
def isqrtFrom (n : Nat) : Nat → Nat → Nat
  | 0, r => r
  | i + 1, r => isqrtFrom n i (if (r + 2 ^ i) * (r + 2 ^ i) ≤ n then r + 2 ^ i else r)

/-- The floor of the square root of n. -/
def isqrt (n : Nat) : Nat := isqrtFrom n (Nat.log2 n / 2 + 1) 0

/-- The sum of z^(2k+1) / (2k+1) over k below the fuel, in units of 2^-prec; p is the present power of z. -/
def atanhSum (z2 : Nat) : Nat → Nat → Nat → Nat
  | 0, _, _ => 0
  | fuel + 1, k, p => p / (2 * k + 1) + atanhSum z2 fuel (k + 1) (p * z2 / 2 ^ prec)

/-- 2 * atanh(z), with z in units of 2^-prec and at most 1/3. -/
def twoAtanh (z : Nat) : Nat := 2 * atanhSum (z * z / 2 ^ prec) 180 0 z

/-- ln 2 in units of 2^-prec. -/
def ln2 : Nat := twoAtanh (2 ^ prec / 3)

/-- The sum of y^k / k! over the fuel, in units of 2^-prec; p is the present term. -/
def expSum (y : Nat) : Nat → Nat → Nat → Nat
  | 0, _, _ => 0
  | fuel + 1, k, p => p + expSum y fuel (k + 1) (p * y / 2 ^ prec / (k + 1))

/-- exp of y, with y in units of 2^-prec and below 1. -/
def expFix (y : Nat) : Nat := expSum y 130 0 (2 ^ prec)

/-- An enclosure of a magnitude: between (lo and hi) * 2^e, neither end included. -/
structure Enclosure where
  lo : Nat
  hi : Nat
  e : Int

/-- A result known by an enclosure, rounded once; where the two ends round apart, a free value decides (log 10). -/
def roundEnclosed (t : LaneType) (c : Rounding) (seed : Nat) (neg : Bool) (x : Enclosure) : Nat × Flags :=
  let a := roundTo t c neg x.lo x.e true
  let b := roundTo t c neg x.hi x.e true
  if a = b then a else if Config.aboveBoundary seed then b else a

/-- The error allowed for in the enclosures, in units of 2^-prec. -/
def slack : Nat := 2 ^ 64

/-- 1/x (R390). -/
def rcpLane (t : LaneType) (c : Rounding) (b : Nat) : Nat × Flags :=
  match operandF t c.fz b with
  | .nan s => (canonNaN t, { nv := s })
  | .inf n => (signBits t n, {})
  | .num n m e =>
    if m = 0 then (infBits t n, { dz := true })
    else
      let k := Nat.log2 m + 200
      roundTo t c n (2 ^ k / m) (-e - k) (2 ^ k % m != 0)

/-- 1/sqrt x (R390). -/
def rsqLane (t : LaneType) (c : Rounding) (b : Nat) : Nat × Flags :=
  match operandF t c.fz b with
  | .nan s => (canonNaN t, { nv := s })
  | .inf n => if n then (canonNaN t, { nv := true }) else (0, {})
  | .num n m e =>
    if m = 0 then (infBits t n, {})
    else if n then (canonNaN t, { nv := true })
    else
      let (m, e) := if e % 2 = 0 then (m, e) else (2 * m, e - 1)
      let k := Nat.log2 m / 2 + 200
      let r := isqrt (2 ^ (2 * k) / m)
      roundTo t c false r (-(e / 2) - k) (r * r * m != 2 ^ (2 * k))

/-- The sign of an integer value and its magnitude, in units of 2^-prec, plus the slack on both sides. -/
def encloseInt (v : Int) : Bool × Enclosure :=
  (decide (v < 0), { lo := v.natAbs - slack, hi := v.natAbs + slack, e := -(prec : Int) })

/-- 2^x (R390): the exact power for an integer, 1 plus or minus the least for a tiny x, else an enclosure. -/
def exp2Lane (t : LaneType) (c : Rounding) (seed b : Nat) : Nat × Flags :=
  match operandF t c.fz b with
  | .nan s => (canonNaN t, { nv := s })
  | .inf n => if n then (0, {}) else (infBits t false, {})
  | .num n m e =>
    if m = 0 then roundTo t c false 1 0
    else
      let top : Int := (Nat.log2 m : Int) + e
      if 16 ≤ top then roundTo t c false (2 ^ 300) (if n then -(2 ^ 16) - 300 else 2 ^ 16 - 300) true
      else if top < -100 then
        roundTo t c false (if n then 2 ^ 300 - 1 else 2 ^ 300) (-300) true
      else
        let fx : Nat := if 0 ≤ e + (prec : Int) then m * 2 ^ (e + (prec : Int)).toNat else m / 2 ^ (-(e + (prec : Int))).toNat
        let v : Int := if n then -(fx : Int) else fx
        let whole := v / (2 ^ prec : Nat)
        let frac := (v % (2 ^ prec : Nat)).toNat
        if frac = 0 then roundTo t c false 1 whole
        else
          let y := expFix (frac * ln2 / 2 ^ prec)
          roundEnclosed t c seed false { lo := y - slack, hi := y + slack, e := whole - prec }

/-- log2 x (R390): the exact exponent for a power of two, else an enclosure. -/
def log2Lane (t : LaneType) (c : Rounding) (seed b : Nat) : Nat × Flags :=
  match operandF t c.fz b with
  | .nan s => (canonNaN t, { nv := s })
  | .inf n => if n then (canonNaN t, { nv := true }) else (infBits t false, {})
  | .num n m e =>
    if m = 0 then (infBits t true, { dz := true })
    else if n then (canonNaN t, { nv := true })
    else
      let k := Nat.log2 m
      let top : Int := (k : Int) + e
      if m = 2 ^ k then roundTo t c (decide (top < 0)) top.natAbs 0
      else
        let l := twoAtanh ((m - 2 ^ k) * 2 ^ prec / (m + 2 ^ k))
        let (neg, x) := encloseInt (top * (2 ^ prec : Nat) + (l * 2 ^ prec / ln2 : Nat))
        roundEnclosed t c seed neg x

/-- tanh x (R390): x less the least for a tiny x, 1 less the least for a large one, else an enclosure. -/
def tanhLane (t : LaneType) (c : Rounding) (seed b : Nat) : Nat × Flags :=
  match operandF t c.fz b with
  | .nan s => (canonNaN t, { nv := s })
  | .inf n => roundTo t c n 1 0
  | .num n m e =>
    if m = 0 then (signBits t n, {})
    else
      let top : Int := (Nat.log2 m : Int) + e
      if top < -100 then roundTo t c n (m * 2 ^ 300 - 1) (e - 300) true
      else if 7 ≤ top then roundTo t c n (2 ^ 300 - 1) (-300) true
      else
        let u : Nat := if 0 ≤ e + 1 + (prec : Int) then m * 2 ^ (e + 1 + (prec : Int)).toNat
          else m / 2 ^ (-(e + 1 + (prec : Int))).toNat
        let k := u / ln2
        let y := expFix (u - k * ln2) * 2 ^ k
        let r := (y - 2 ^ prec) * 2 ^ prec / (y + 2 ^ prec)
        roundEnclosed t c seed n { lo := r - slack, hi := r + slack, e := -(prec : Int) }

end Sys2Proof.Machine
end

