-- ==== Sys2Proof/Machine/State.lean ====
section
/-!
DEFINITION. The state of the package and of what stands around it, as plain data; the state after reset; and the two
ways a step can end without a next state.
-/
namespace Sys2Proof.Machine

/-- Reasons a step stops. -/
inductive Fault where
  /-- Raised by step when a die temperature above 115 degrees has stopped the part (R275), every launch has ended, and no
  power-good is to come (R277). Safe: the spec gives the stopped part no other step. -/
  | partStopped
  deriving DecidableEq, Repr

/-- Reasons a step has no meaning. -/
inductive Refusal where
  /-- Raised by exec's arms for an operation that has no meaning yet, by its mnemonic. Safe. -/
  | notModelled (mnemonic : String)
  deriving DecidableEq, Repr

/-- The machine. After the fields of the spec stand five fields of the model's own (logs 1, 8): `agenda`, the
operations that happen next; `turn`, the place in the cycle's order of cores; `cur`, the core and slot an instruction
acts for; `fresh`, the counter free values are drawn at; `serial`, the next number of a launch or an activation. -/
structure State where
  cycle : Nat
  cores : List (Nat × CoreSt)
  launches : List (Nat × Launch)
  disp : Disp
  mem : Memory
  hostMem : Memory
  memPoison : List Nat
  dir : List (Nat × DirEntry)
  asidBase : Word
  tlb : List TlbEntry
  pkg : Nat
  net : List Msg
  rounds : List Round
  fab : Fab
  tele : Tele
  images : List (Nat × Image)
  answers : List Answer
  stopped : Bool
  agenda : List Instr
  turn : Nat
  cur : Nat × Nat
  fresh : Nat
  serial : Nat
  deriving DecidableEq, Repr

/-- A bundle register that nothing has issued into (log 3). -/
def emptyBundle : Bundle :=
  { here := 0, next := 0, word := 0, word2 := none, stall := 0, mode := .lone
    rdX := Vector.replicate 32 0, rdV := Vector.replicate 32 0, popPorts := [], popStreams := []
    stash := none, bad := none, links := 0, rename := 0, inBody := false, bodyLast := false, pushPorts := []
    late := none }

/-- A slot before its first activation: the start values of Table 3.12, and zero where the spec gives none
(log 3). -/
def idleSlot : Slot :=
  { active := false, act := 0, chan := 0, source := .channel 0, parent := none, inlineDepth := 0, claim := 0
    x := Vector.replicate 32 0, v := Vector.replicate 32 0, pc := 0, pend := [], notBefore := 0
    lastIssue := 0, loop := none, h := false, heldTraps := [], rm := 0, fz := false, fflags := {}, srseed := 0
    gen := 0x9E3779B97F4A7C15, lmb := 0, linkmap := 0, wid := 0, tcause := 0, tval := 0, tpc := 0, tscr := 0
    tcode := 0, tabort := 0, tage := none, rptst := 0, rptpc := 0, mfmta := 0, mfmtb := 0, mfmtc := 0, mscla := 0
    msclb := 0, chkmode := 2, watch := 0, wdogFired := false, retired := 0, cvsize := 1, cvmask := 0
    barWait := false, barGen := 0, barAddr := 0, barWoken := none, mswapPending := false
    staging := [], streams := [], txn := none, heldMsgs := [], wait := .none, bundle := emptyBundle
    poisonX := [], poisonV := [], hostLinks := [], resetPending := false, brought := [], cvIssued := []
    landed := [], skipAt := none, portFrom := 1, portTo := 0 }

/-- A bank that nothing has written (R144: usable by any kind). -/
def emptyBank : Bank := { data := [], kind := .any, nv := false, of := false, sat := false, empty := false }

/-- A core before any launch: queues empty, TVEC 0, SPLIM 64, TOPK 1 (Table 3.12), its own coordinates. -/
def idleCore (c : Nat) : CoreSt :=
  { launch := none, origin := c, slots := Vector.replicate 4 idleSlot, lm := [], abuf := [], wbuf := []
    acc0w := emptyBank, acc0v := emptyBank, acc1w := emptyBank, acc1v := emptyBank, zmap := [], cimExp := []
    cimLoaded := 0, fifos := [], chrdWaiters := [], table := [], arrival := [], reserved := 0
    oasis := [], batches := [], children := 0, tvec := 0, splim := 64, topk := 1, mq := [], cq := [], gq := []
    devq := [], ports := [], l1d := [], l1i := [], wb := [], rrFill := [], rrIssue := [], caravan := none
    deficits := [], lastClass := none, turnLeft := 0, turnUsed := 0, stage := .running, poison := []
    forwards := [], barArrivals := [], nextOp := 0 }

/-- A routing table that names the own package alone (log 12). -/
def emptyTable (pkg : Nat) : RouteTable := { version := 0, members := [pkg], routes := [], trees := [] }

/-- The sensor records before the first sample (log 43). -/
def blankSensors : List SensorRec :=
  (List.range sensorTable.length).map (fun n => { id := BitVec.ofNat 32 n, status := 0, value := 0 })

/-- The state after reset: before bring-up step 1 (R277), every register at the value its table gives. -/
def State.reset : State :=
  { cycle := 0, cores := [], launches := []
    disp := { queues := [], rr := none, subq := [], clsw := [], lkill := 0, lkillBusy := false, tinvva := 0
              tinvctl := 0, tinvBusy := false, savepool := none, cappool := none, capUsed := 0, firstCores := [] }
    mem := [], hostMem := [], memPoison := [], dir := [], asidBase := 0, tlb := [], pkg := 0, net := []
    rounds := []
    fab := { cur := [(0, emptyTable 0), (1, emptyTable 0)], shadow := [], zrto := [(0, 200), (1, 200)]
             mctbase := 0, mcmapbase := 0, mcinv := 0, mcinvBusy := false, hwsel := 0, outs := [], ins := []
             groups := [], inmap := [], records := [], merges := [], sends := [], switches := [], failed := []
             flight := [], awaiting := [], acked := [], answered := [], pendingAgg := [], inbound := [] }
    tele := { mboxes := [], order := [], cap := 2800, capNext := [], capEff := 2800, throttle := false
              sensors := blankSensors, log := [], banks := [], activeBank := 0, nextBank := 0, excluded := [], spares := [], retired := []
              bringup := 0, failed := false }
    images := [], answers := [], stopped := false, agenda := [], turn := 0, cur := (0, 0), fresh := 0
    serial := 0 }

end Sys2Proof.Machine
end

