-- ==== Sys2Proof/Machine/Ops.lean ====
section
/-!
DEFINITION. The named operations that the meanings share: the grid, the parts of the state, launch headers, register
reads and writes, taking a trap (R197) and returning from one (R201), aborting a transaction (R169), ending a launch,
and retiring a bundle.
-/
namespace Sys2Proof.Machine

/-! ### The grid (R10) -/

/-- The x coordinate of a logical core number. -/
def xOf (c : Nat) : Nat := c % 128

/-- The y coordinate. -/
def yOf (c : Nat) : Nat := c / 128 % 128

/-- The core at a coordinate. -/
def coreAt (x y : Nat) : Nat := y * 128 + x

/-- The die that holds a core (R10). -/
def dieOf (c : Nat) : Nat := if xOf c < 64 then yOf c / 32 else 7 - yOf c / 32

/-- The sector of a core: its 8 by 8 block of the grid. -/
def sectorOf (c : Nat) : Nat := (yOf c / 8) * 16 + xOf c / 8

/-- The group of a core: its 4 by 4 block. -/
def groupOf (c : Nat) : Nat := (yOf c / 4) * 32 + xOf c / 4

/-- The quad of a core: its 2 by 2 block. -/
def quadOf (c : Nat) : Nat := (yOf c / 2) * 64 + xOf c / 2

/-- A core's position in its group (R248). -/
def groupPos (c : Nat) : Nat := xOf c % 4 + 4 * (yOf c % 4)

/-- The core at a position of the group of c. -/
def groupCore (c p : Nat) : Nat := coreAt (xOf c / 4 * 4 + p % 4) (yOf c / 4 * 4 + p / 4)

/-- The logical neighbour of a core: 0 west, 1 east, 2 north, 3 south (R10, R67). -/
def neighbour (c p : Nat) : Option Nat :=
  match p with
  | 0 => if xOf c = 0 then none else some (c - 1)
  | 1 => if xOf c = 127 then none else some (c + 1)
  | 2 => if yOf c = 127 then none else some (c + 128)
  | _ => if yOf c = 0 then none else some (c - 128)

/-- The port opposite to a port: west and east, north and south. -/
def opposite (p : Nat) : Nat := if p % 2 = 0 then p + 1 else p - 1

/-! ### Codes -/

/-- Table 9.1. -/
def Cause.code : Cause → Nat
  | .illegal => 1 | .pair => 2 | .score => 3 | .align => 4 | .access => 5 | .space => 6 | .place => 7 | .wdog => 8
  | .trapi => 9 | .bkpt => 10 | .stream => 11 | .matrix => 12 | .copyf => 13 | .chk => 14 | .ecc => 15
  | .caravan => 16 | .contain => 17

/-- Table 7.7. -/
def Abort.code : Abort → Nat
  | .conflict => 1 | .capacity => 2 | .explicit => 3 | .preempt => 4 | .xpkg => 5 | .illegal => 6 | .plainhit => 7
  | .nest => 8 | .ecc => 9

/-- Table 2.3. -/
def Status.code : Status → Nat
  | .done => 1 | .hung => 2 | .cancelled => 3 | .badhdr => 4 | .fault => 5 | .killed => 6

/-! ### The parts of the state -/

/-- The core at a site; a core that nothing has touched is idle. -/
def State.core (s : State) (c : Nat) : CoreSt := (find s.cores c).getD (idleCore c)

/-- The state with a core replaced. -/
def State.setCore (s : State) (c : Nat) (x : CoreSt) : State := { s with cores := put s.cores c x }

/-- The state with a core changed. -/
def State.modCore (s : State) (c : Nat) (f : CoreSt → CoreSt) : State := s.setCore c (f (s.core c))

/-- A slot of a core. -/
def CoreSt.slot (k : CoreSt) (i : Nat) : Slot := k.slots.get (Fin.ofNat 4 i)

/-- The core with a slot replaced. -/
def CoreSt.setSlot (k : CoreSt) (i : Nat) (x : Slot) : CoreSt :=
  { k with slots := k.slots.set (Fin.ofNat 4 i).val x (Fin.ofNat 4 i).isLt }

/-- A slot of the part. -/
def State.slot (s : State) (c i : Nat) : Slot := (s.core c).slot i

/-- The state with a slot replaced. -/
def State.setSlot (s : State) (c i : Nat) (x : Slot) : State := s.setCore c ((s.core c).setSlot i x)

/-- The state with a slot changed. -/
def State.modSlot (s : State) (c i : Nat) (f : Slot → Slot) : State := s.setSlot c i (f (s.slot c i))

/-- The slot that the running instruction acts for. -/
def State.me (s : State) : Slot := s.slot s.cur.1 s.cur.2

/-- The core that the running instruction acts for. -/
def State.here (s : State) : CoreSt := s.core s.cur.1

/-- The state with the running instruction's slot changed. -/
def State.modMe (s : State) (f : Slot → Slot) : State := s.modSlot s.cur.1 s.cur.2 f

/-- The state with the running instruction's core changed. -/
def State.modHere (s : State) (f : CoreSt → CoreSt) : State := s.modCore s.cur.1 f

/-- The state with a launch changed, if it is unfinished. -/
def State.modLaunch (s : State) (l : Nat) (f : Launch → Launch) : State :=
  match find s.launches l with
  | some x => { s with launches := put s.launches l (f x) }
  | none => s

/-- A FIFO, a port, or another list kept under a key. -/
def listOf {α : Type} (t : List (Nat × List α)) (k : Nat) : List α := (find t k).getD []

/-- Physical cores of a die: 2,048 and 64 spares (R7, R8). -/
def diePhysical : Nat := 2112

/-- A core's position in its die, row by row (R278). -/
def diePlace (c : Nat) : Nat := yOf c % 32 * 64 + xOf c % 64

/-- The physical cores of a die that bring-up kept, in order (R277). -/
def Tele.good (t : Tele) (die : Nat) : List Nat :=
  ((List.range diePhysical).map (fun n => die * diePhysical + n)).filter (fun n => !t.excluded.contains n)

/-- The physical core in a logical position: a spare that replaced it, or the one bring-up put there (R216, R277). -/
def Tele.physical (t : Tele) (c : Nat) : Nat :=
  match find t.spares c with
  | some p => p
  | none => (t.good (dieOf c)).getD (diePlace c) 0

/-- The event log with a record more (R276): the ring holds 16,384, and the oldest goes first. -/
def Tele.record (t : Tele) (r : LogRec) : Tele :=
  { t with log := (if t.log.length < 16384 then t.log else t.log.tail) ++ [r] }

/-- A record of the event log (R276). -/
def State.log (s : State) (code core : Nat) (vals : List Nat) : State :=
  { s with tele := s.tele.record { cycle := s.cycle, code, phys := s.tele.physical core, core, vals } }

/-- The host links have trained: bring-up has come to step 5, and BAR0 and BAR2 answer (R277). -/
def State.linksUp (s : State) : Bool := decide (5 ≤ s.tele.bringup)

/-- What the host asks over its links; without links nothing arrives. -/
def State.overLinks (s : State) (f : State → State) : State := if s.linksUp then f s else s

/-- What the host asks over links that have trained as CXL (R245). -/
def State.overCxl (s : State) (f : State → State) : State := if s.linksUp && s.fab.cxl != [] then f s else s

/-- The link that carries a host-window access under HWSEL (R241, R244). -/
def State.hostLink (s : State) (addr : Nat) : Nat :=
  match s.fab.hwsel with
  | 1 => 1
  | 2 => addr / 4096 % 2
  | _ => 0

/-- What a host-window access is on a link: on one that has trained as CXL, RdCurr for a read, and WOWrInv for a write, or
WOWrInvF where it covers whole 64-byte lines (R244, R245; PRESUMED, log 63). -/
def windowReq (cxl write : Bool) (addr n : Nat) : WindowReq :=
  match cxl, write with
  | false, false => .memRead addr n
  | false, true => .memWrite addr n
  | true, false => .rdCurr addr n
  | true, true => if addr % 64 = 0 ∧ n % 64 = 0 then .wowrInvF addr n else .wowrInv addr n

/-- A request for the host window leaves on a link (R244). -/
def State.onLink (s : State) (link : Nat) (write : Bool) (addr n : Nat) : State :=
  { s with fab := { s.fab with
      window := s.fab.window ++ [(link, windowReq (s.fab.cxl.contains link) write addr n)] } }

/-- A request for the host window leaves on the link that carries it (R244). -/
def State.askHost (s : State) (write : Bool) (addr n : Nat) : State := s.onLink (s.hostLink addr) write addr n

/-- Event codes of the log (log 17: the spec names the events, not their codes). -/
def evCorrected := 1
def evRetired := 2
def evPoison := 3
def evRedeliver := 4
def evHung := 5
def evFabric := 6
def evCap := 7
def evCapture := 8
def evBringup := 9
def evFirmware := 10
def evMoved := 11

/-- Poisoned data that a core's engine moves without using it is logged (R217, R276): the granules. -/
def State.logMoved (s : State) (c : Nat) (bad : List Nat) : State := if bad = [] then s else s.log evMoved c bad

/-! ### Launch headers (R19, Table 2.1) -/

/-- Word n of the header. -/
def Launch.word (l : Launch) (n : Nat) : Word := l.hdr.getD n 0

def Launch.asid (l : Launch) : Nat := bits (l.word 0) 47 32
def Launch.cls (l : Launch) : Nat := bits (l.word 0) 15 12
def Launch.hdrPrio (l : Launch) : Nat := bits (l.word 0) 10 8
def Launch.relative (l : Launch) : Bool := bitAt (l.word 0) 16
def Launch.persistent (l : Launch) : Bool := bitAt (l.word 0) 17
def Launch.captured (l : Launch) : Bool := bitAt (l.word 0) 18
def Launch.waits (l : Launch) : Bool := bitAt (l.word 0) 11
def Launch.wdogClass (l : Launch) : Nat := bits (l.word 0) 55 48
def Launch.entry (l : Launch) : Word := l.word 1
def Launch.id (l : Launch) : Nat := bits (l.word 2) 63 48
def Launch.count (l : Launch) : Nat := bits (l.word 2) 47 0
def Launch.countList (l : Launch) : Bool := bitAt (l.word 3) 42
def Launch.deal (l : Launch) : Nat := bits (l.word 3) 41 39
def Launch.fields (l : Launch) : Nat := bits (l.word 3) 38 36
def Launch.args (l : Launch) : Word := l.word 7

/-- Stack bytes of a slot (R30): 0 means 4 KiB. -/
def Launch.stack (l : Launch) : Nat :=
  let k := bits (l.word 0) 63 56
  (if k = 0 then 4 else k) * 1024

/-- The width of field n of the work identifier (R19). -/
def widthOf (w3 : Word) (n : Nat) : Nat := bits w3 (6 * n + 5) (6 * n)

/-- The lowest bit of field n (R20). -/
def fieldAt (w3 : Word) (n : Nat) : Nat := ((List.range n).map (widthOf w3)).sum

/-- The region of a header word 4: x0, y0, width, height (R24). -/
def regionOf (w : Word) : Nat × Nat × Nat × Nat := (bits w 15 0, bits w 31 16, bits w 47 32, bits w 63 48)

/-- The cores of a region in row-major order. -/
def regionCores (r : Nat × Nat × Nat × Nat) : List Nat :=
  (List.range (r.2.2.1 * r.2.2.2)).map (fun n => coreAt (r.1 + n % r.2.2.1) (r.2.1 + n / r.2.2.1))

/-- The launch places its ranks by a region: RELATIVE mode, and RANK mode in count-list form (R24). -/
def Launch.byRegion (l : Launch) : Bool := l.relative || l.countList

/-- The ranks of a launch: the region in row-major order, or the copied rank table (R24, R151). -/
def Launch.rankList (l : Launch) (pkg : Nat) : List Place :=
  if l.byRegion then (regionCores (regionOf (l.word 4))).map (fun c => ⟨pkg, c⟩) else l.ranks

/-- The launch-origin cores of the launch in this package. -/
def Launch.cores (l : Launch) (pkg : Nat) : List Nat :=
  ((l.rankList pkg).filter (fun p => p.pkg == pkg)).map Place.lcn

/-- The rank of a launch-origin core: RANK mode's rank, RELATIVE mode's row-major index (Table 3.12). -/
def Launch.rankOf (l : Launch) (pkg c : Nat) : Nat := (l.rankList pkg).findIdx (· == ⟨pkg, c⟩)

/-- The launch that a core holds. -/
def State.launchOf (s : State) (c : Nat) : Option Launch := (s.core c).launch.bind (find s.launches)

/-- The ASID of a core's accesses. -/
def State.asidOf (s : State) (c : Nat) : Nat := ((s.launchOf c).map Launch.asid).getD 0

/-- The site of a launch-origin core's context, when it is on a core (R110). -/
def State.siteOf (s : State) (l c : Nat) : Option Nat :=
  match (find s.launches l).bind (fun x => find x.places c) with
  | some (.site n) => some n
  | _ => none

/-- Packages of the domain: those that the current tables of either I/O die hold a route to (R109). -/
def State.inDomain (s : State) (p : Nat) : Bool :=
  p == s.pkg || s.fab.cur.any (fun t => t.2.members.contains p)

/-- The handler of a channel on a core. -/
def CoreSt.handler (k : CoreSt) (ch : Nat) : Option Handler := k.table[ch]?

/-- The running activation is contained (R218). -/
def State.contained (s : State) (c i : Nat) : Bool :=
  (((s.core c).handler (s.slot c i).chan).map Handler.contained).getD false

/-! ### Registers (R55, R57, R66 to R69) -/

/-- The register holds a value of its own: x0 does not (R66). -/
def isX0 : RegName → Bool
  | .x r => r == 0
  | .v _ => false

/-- The slot with a register's value set. -/
def Slot.setReg (t : Slot) : RegName → Vec → Slot
  | .x r, v => if r = 0 then t else
      { t with x := t.x.set r.toFin.val (v.setWidth 64) r.toFin.isLt, poisonX := t.poisonX.filter (· != r) }
  | .v r, v => { t with v := t.v.set r.toFin.val v r.toFin.isLt, poisonV := t.poisonV.filter (· != r) }

/-- The value of a register, x values in the low 64 bits. -/
def Slot.reg (t : Slot) : RegName → Vec
  | .x r => if r = 0 then 0 else (t.x.get r.toFin).setWidth 128
  | .v r => t.v.get r.toFin

/-- Pending writes whose cycle has come land in program order; an older one that lands after a younger write to the
same register is discarded (R57). -/
def landFrom (now : Nat) : Slot → List Pending → Slot × List Pending
  | t, [] => (t, [])
  | t, p :: r =>
    if p.due ≤ now then landFrom now (t.setReg p.reg p.val) r
    else
      let (t, rest) := landFrom now t r
      (t, if r.any (fun q => q.reg == p.reg && decide (q.due ≤ now)) then rest else p :: rest)

/-- Every pending write due by a cycle lands. -/
def Slot.land (t : Slot) (now : Nat) : Slot :=
  let (u, rest) := landFrom now t t.pend
  { u with pend := rest }

/-- Every pending write lands, in program order (R59). -/
def Slot.landAll (t : Slot) : Slot :=
  { t.pend.foldl (fun u p => u.setReg p.reg p.val) t with pend := [], landed := [] }

/-- A write of a bundle issued at a cycle: latency 1 takes effect for the next bundle; a longer one is pending until
it lands (R55). An immediate write makes older pending writes to the register void (R57). DEDUCED, log 49. -/
def Slot.writeReg (t : Slot) (now : Nat) (w : RegWrite) : Slot :=
  if isX0 w.reg then t
  else if w.latency ≤ 1 then { t.setReg w.reg w.val with pend := t.pend.filter (fun p => p.reg != w.reg) }
  else { t with pend := t.pend ++ [{ reg := w.reg, val := w.val, due := now + w.latency }] }

/-- The link port that an x register names under a LINKMAP value: 0 west, 1 east, 2 north, 3 south (R67). -/
def portOf (links : BitVec 9) (r : Reg) : Option Nat :=
  if 28 ≤ r.toNat && links.getLsbD (r.toNat - 28) then some (r.toNat - 28) else none

/-- The link port that an x register names under the slot's LINKMAP. -/
def Slot.port (t : Slot) (r : Reg) : Option Nat := portOf t.linkmap r

/-- The stream a v register is bound to (R68). -/
def Slot.stream (t : Slot) (r : Reg) : Option StreamSt := find t.streams r.toNat

/-- Words a port direction holds (R67). -/
def portWords : Nat := 4

/-- A core's launch-origin neighbour on a port, and the site that its context stands on now; none while it is saved
or in transit (R110, R208). -/
def State.portSite (s : State) (c p : Nat) : Option Nat :=
  let k := s.core c
  match k.launch, neighbour k.origin p with
  | some l, some n => s.siteOf l n
  | _, _ => none

/-- A word enters a core's inbound FIFO of a port. -/
def CoreSt.portIn (k : CoreSt) (p : Nat) (w : Word) : CoreSt := { k with ports := put k.ports p (listOf k.ports p ++ [w]) }

/-- A push onto a port of a core: the word enters the neighbour's inbound FIFO of the opposite direction (R205), in its
image when the neighbour has been saved since the bundle that pushes found room. -/
def State.pushPort (s : State) (c p : Nat) (w : Word) : State :=
  let k := s.core c
  match k.launch, neighbour k.origin p with
  | some l, some n => match (find s.launches l).bind (fun x => find x.places n) with
    | some (.site m) | some (.leaving m) | some (.transit m) => s.modCore m (fun x => x.portIn (opposite p) w)
    | some (.image g) => match find s.images g with
      | some x => { s with images := put s.images g { x with core := x.core.portIn (opposite p) w } }
      | none => s
    | none => s
  | _, _ => s

/-- The slot's bundle has issued and neither retired nor been abandoned; one that waits for a port has read nothing. -/
def Slot.inFlight (t : Slot) : Bool :=
  t.active && match t.wait with
  | .none | .port => false
  | _ => true

/-- The other slots of a core whose bundles are in flight. -/
def CoreSt.flying (k : CoreSt) (i : Nat) : List Slot :=
  ((List.range 4).filter (fun j => j != i && (k.slot j).inFlight)).map k.slot

/-- The pushes that a bundle of a slot makes onto a port, n of them, find room beside those that other bundles of the core
in flight have still to make (R67). -/
def State.portRoom (s : State) (c i p n : Nat) : Bool :=
  match s.portSite c p with
  | some m => decide ((listOf (s.core m).ports (opposite p)).length +
      (((s.core c).flying i).map (fun t => t.bundle.pushPorts.count p)).sum + n ≤ portWords)
  | none => false

/-- A pop of a port: the oldest word leaves, and with the forward bit it is pushed onto the opposite port (R67). -/
def State.popPort (s : State) (c i p : Nat) : State :=
  let k := s.core c
  let t := k.slot i
  match listOf k.ports p with
  | [] => s
  | w :: r =>
    let s := s.setCore c { k with ports := put k.ports p r }
    if t.bundle.links.getLsbD (4 + p) then s.pushPort c (opposite p) w else s

/-- Elements of a stream in all (R131); a count of 0 means 1 for the two outer ones. -/
def StreamSt.total (x : StreamSt) : Nat := x.count0 * x.count1 * x.count2

/-- The address of element n: i0 fastest, then i1, then i2 (R131). -/
def StreamSt.addr (x : StreamSt) (n : Nat) : Int :=
  let i0 := n % x.count0
  let i1 := n / x.count0 % x.count1
  let i2 := n / x.count0 / x.count1
  (x.base.toNat : Int) + i0 * x.stride0 + i1 * x.stride1 + i2 * x.stride2

/-- The 16 bytes of a core's LM or A buffer that a stream address names. -/
def CoreSt.streamRead (k : CoreSt) (a : Int) : Vec :=
  let n := a.toNat
  if n / 2 ^ 56 = 0xF0 then vecOf16 (k.lm.bytes (n % 2 ^ 56) 16) else vecOf16 (k.abuf.bytes (n % 2 ^ 56) 16)

/-- The element a read stream pops next: from the read-ahead, else from memory. -/
def CoreSt.streamHead (k : CoreSt) (x : StreamSt) : Vec := x.ahead.headD (k.streamRead (x.addr x.next))

/-- A pop of a read stream (R68). -/
def State.popStream (s : State) (c i r : Nat) : State :=
  s.modSlot c i (fun t => match find t.streams r with
    | some x => { t with streams := put t.streams r { x with next := x.next + 1, ahead := x.ahead.drop 1 } }
    | none => t)

/-! ### Caravans (R250 to R254) -/

/-- The member cores of the caravan of a slot on a core, by member number: the anchor core, then the others in
increasing group position (R249, Table 11.2). -/
def Slot.members (t : Slot) (c : Nat) : List Nat :=
  c :: ((List.range 16).filter (fun p => bitAt t.cvmask p && p != groupPos c)).map (groupCore c)

/-- The member that owns the instruction block of a PC in a caravan of 2^j cores (R252). -/
def blockOwner (j : Nat) (pc : Word) : Nat :=
  (List.range 7).foldl (fun h n => h ^^^ (bit (bitAt pc (n + 6)) * 2 ^ (n % j))) 0

/-- The core that fetches and issues the bundle at a PC for a slot of a core: the block's owner in a caravan (R252), else
the core itself. -/
def Slot.issuer (t : Slot) (c : Nat) (pc : Word) : Nat :=
  if t.cvsize ≤ 1 then c else (t.members c).getD (blockOwner (Nat.log2 t.cvsize) pc) c

/-- The core that holds a register in a caravan: member i mod s for xi and vi (R250). -/
def Slot.holder (t : Slot) (c : Nat) : RegName → Nat
  | .x r | .v r => if t.cvsize ≤ 1 then c else (t.members c).getD (r.toNat % t.cvsize) c

/-- The cycles that an operand takes from one member to another (R253). -/
def crossing (a b : Nat) : Nat := if a = b then 0 else if quadOf a = quadOf b then 1 else 3

/-- A C-word that the member which issues it executes; every other one is performed at the anchor core (R254). -/
def byMember : Instr → Bool
  | .addC .. | .subC .. | .andC .. | .orC .. | .xorC .. | .shlC .. | .shrC .. | .sraC .. | .sltC .. | .sltnC ..
  | .minC .. | .maxC .. | .minnC .. | .maxnC .. | .addiC .. | .andiC .. | .oriC .. | .xoriC .. | .shlImmC ..
  | .shrImmC .. | .sraImmC .. | .sltiC .. | .lih .. | .liq .. | .liw .. | .jal .. | .jalr .. => true
  | _ => false

/-- An A-word takes its last operand from LM (R66). -/
def takesEntry : Instr → Bool
  | .addA _ _ _ m | .subA _ _ _ m | .andA _ _ _ m | .orA _ _ _ m | .xorA _ _ _ m | .shlA _ _ _ m | .shrA _ _ _ m
  | .sraA _ _ _ m | .sltA _ _ _ m | .sltnA _ _ _ m | .minA _ _ _ m | .maxA _ _ _ m | .minnA _ _ _ m
  | .maxnA _ _ _ m | .mul _ _ _ m | .mulh _ _ _ m | .mulhn _ _ _ m | .div _ _ _ m | .divn _ _ _ m
  | .rem _ _ _ m | .remn _ _ _ m | .vadd _ _ _ _ _ m | .vsub _ _ _ _ _ m | .vmul _ _ _ _ m | .vmin _ _ _ _ m
  | .vmax _ _ _ _ m | .vminn _ _ _ _ m | .vmaxn _ _ _ _ m | .vshlVector _ _ _ _ m | .vshrVector _ _ _ _ m
  | .vsraVector _ _ _ _ m | .vand _ _ _ m | .vor _ _ _ m | .vxor _ _ _ m | .vandn _ _ _ m | .vperm _ _ _ m
  | .vfma _ _ _ _ _ m | .vdot _ _ _ _ m => m
  | _ => false

/-- The word of a bundle that is an A-word, or stands in an A-word's place. -/
def Bundle.lastWord (b : Bundle) : Option Instr :=
  match decodeWord (b.word2.getD b.word) with
  | .ok (_, i) => some i
  | .error _ => none

/-- The bundle's A-word is performed at the anchor core: it has an M operand, or reads a stream (R254). -/
def Bundle.anchorA (b : Bundle) : Bool := (b.lastWord.map takesEntry).getD false || !b.popStreams.isEmpty

/-- The core of a caravan that produces a result of the slot's bundle: the issuing member for the words it executes
itself, else the anchor (R254). DEDUCED, log 57. -/
def Slot.producer (t : Slot) (c : Nat) (w : RegWrite) : Nat :=
  let own := match decodeWord t.bundle.word with
    | .ok (_, i) => byMember i
    | .error _ => false
  let ofA := ((t.bundle.stash.map AEff.writes).getD []).contains w
  if own || (ofA && !t.bundle.anchorA) then t.issuer c t.bundle.here else c

/-- A register write of a bundle in a caravan lands where its register is held: after its latency, or after its
retirement in cycle `now` where it had to wait for it, and the crossing from the core that produces it (R253, R254).
DEDUCED, log 57. -/
def Slot.writeMember (t : Slot) (c now : Nat) (w : RegWrite) : Slot :=
  let ready := if w.latency ≤ 1 ∧ t.lastIssue < now then now + 1 else t.lastIssue + w.latency
  let by_ := t.producer c w
  if isX0 w.reg then t
  else { t with pend := t.pend ++ [{ reg := w.reg, val := w.val, due := ready + crossing by_ (t.holder c w.reg) }] }

/-- A register write of a bundle issued by a slot of core c, which is the anchor of a caravan or runs alone. -/
def Slot.place (t : Slot) (c now : Nat) (w : RegWrite) : Slot :=
  if t.cvsize ≤ 1 then t.writeReg t.lastIssue w else t.writeMember c now w

/-- A register write of a bundle: into a link port when the register is mapped, into a stream when it is bound for
writing, else into the register (R67, R68), of the anchor slot or of a caravan (R253). -/
def State.writeReg (s : State) (c i : Nat) (w : RegWrite) : State :=
  let t := s.slot c i
  match w.reg with
  | .x r => match portOf t.bundle.links r with
    | some p => s.pushPort c p (w.val.setWidth 64)
    | none => s.setSlot c i (t.place c s.cycle w)
  | .v r => match t.stream r with
    | some x =>
      let x := { x with unwritten := x.unwritten ++ [(x.next, w.val)], next := x.next + 1 }
      s.setSlot c i { t with streams := put t.streams r.toNat x }
    | none => s.setSlot c i (t.place c s.cycle w)

/-- An x write that the running instruction makes at its retirement (SetX of R282). -/
def State.setX (s : State) (d : Reg) (v : Word) : State :=
  s.writeReg s.cur.1 s.cur.2 { reg := .x d, val := v.setWidth 128, latency := 1 }

/-- A v write that the running instruction makes at its retirement. -/
def State.setV (s : State) (d : Reg) (v : Vec) : State :=
  s.writeReg s.cur.1 s.cur.2 { reg := .v d, val := v, latency := 1 }

/-! ### RPT state (R70, Table 3.16) -/

/-- A live loop in RPTST's layout. -/
def rptstOf : Option LoopSt → Word
  | some l => BitVec.ofNat 64
      (2 ^ 63 + (l.len - 1) * 2 ^ 52 + l.stride * 2 ^ 48 + l.count * 2 ^ 16 + l.pass)
  | none => 0

/-- The loop that RPTST and RPTPC describe. -/
def loopOf (st pc : Word) : Option LoopSt :=
  if bitAt st 63 then
    some { pass := bits st 15 0, count := bits st 31 16, len := bits st 54 52 + 1, stride := bits st 51 48, body := pc }
  else none

/-! ### Ending a launch -/

/-- EndLaunch(s, c) of R197: the launch is marked to be torn down on every core it holds (TEARDOWN), with this
status and cause; a launch that is already ending keeps its first status. -/
def State.endLaunch (s : State) (l : Nat) (st : Status) (cause : Nat) : State :=
  s.modLaunch l (fun x => if x.ending.isSome then x else { x with ending := some (st, cause) })

/-- EndLaunch for the launch that a core holds. -/
def State.endLaunchOf (s : State) (c : Nat) (st : Status) (cause : Nat) : State :=
  match (s.core c).launch with
  | some l => s.endLaunch l st cause
  | none => s

/-! ### Traps (R196 to R201) -/

/-- TakeTrap(cause, value, tpc) of R197. -/
def State.takeTrap (s : State) (c i : Nat) (cause : Cause) (value tpc : Word) : State :=
  let s := s.modSlot c i (fun t => { t.landAll with wait := .none })
  if (s.core c).tvec = 0 then
    match cause with
    | .chk => s
    | .wdog => (s.log evHung c [i]).endLaunchOf c .hung Cause.wdog.code
    | _ => s.endLaunchOf c .fault cause.code
  else
    s.modSlot c i (fun t => { t with
      tcause := BitVec.ofNat 64 cause.code, tval := value, tpc := tpc
      rptst := rptstOf t.loop, rptpc := (t.loop.map LoopSt.body).getD 0, loop := none
      h := true, pc := (s.core c).tvec, notBefore := max t.notBefore (s.cycle + 1) })

/-- The effect of ERET with an aligned TPC (R201). -/
def State.trapReturn (s : State) (c i : Nat) : State :=
  s.modSlot c i (fun t => { t with
    loop := if bitAt t.rptst 63 then loopOf t.rptst t.rptpc else none
    h := false, pc := t.tpc })

/-- An asynchronous trap that an engine or a monitor raises: held until TAKE_TRAP finds a bundle boundary with
H = 0 (R199). -/
def State.raiseAsync (s : State) (c i : Nat) (cause : Cause) (value : Word) : State :=
  s.modSlot c i (fun t => { t with heldTraps := t.heldTraps ++ [(cause, value)] })

/-! ### Transactions (R169) -/

/-- An abort: the registers return to the shadow, everything speculative and held is dropped, TSTAT takes cause and
code, and the slot resumes at the abort target. -/
def State.abortTxn (s : State) (c i : Nat) (why : Abort) (code : Nat) : State :=
  s.modSlot c i (fun t => match t.txn with
    | some x => { t with
        x := x.shadowX, v := x.shadowV, poisonX := x.shadowPX, poisonV := x.shadowPV, pend := [], txn := none
        pc := x.target, loop := none, wait := .none
        tabort := BitVec.ofNat 8 why.code, tcode := BitVec.ofNat 8 code
        notBefore := max t.notBefore (s.cycle + 1) }
    | none => t)

/-- The slot has an open transaction that may still abort: it is not committing (R179). -/
def Slot.aborts (t : Slot) : Bool := match t.txn with
  | some x => !x.committing
  | none => false

/-- What the A-word of a bundle did besides its register writes stays, although its registers are undone: the flags that it
raised, and the state of the generator that its draws left (R87, R169, R366). -/
def State.keepFlags (s : State) (c i : Nat) : State :=
  s.modSlot c i (fun t => { t with
    fflags := t.fflags.or ((t.bundle.stash.map AEff.flags).getD {}), gen := (t.bundle.stash.bind AEff.gen).getD t.gen })

/-- The smallest scope that holds both cores (R161). -/
def scopeOf (a b : Nat) : Scope :=
  if a = b then .core
  else if groupOf a = groupOf b then .group
  else if sectorOf a = sectorOf b then .sector
  else if dieOf a = dieOf b then .die
  else .pkg

/-- Scopes of GROUP or wider invalidate L1 lines (R156). -/
def Scope.drops : Scope → Bool
  | .slot | .core => false
  | _ => true

/-! ### Retiring a bundle (R52, R54, R69) -/

/-- The base register and the displacement of a C-word's access through the LSU (R9). -/
def lsuOperand : Instr → Option (Reg × Word)
  | .ldB _ b imm | .ldH _ b imm | .ldW _ b imm | .ldD _ b imm | .ldnB _ b imm | .ldnH _ b imm | .ldnW _ b imm
  | .vld _ b imm | .stB _ b imm | .stH _ b imm | .stW _ b imm | .stD _ b imm | .vst _ b imm => some (b, sext imm)
  | .st4 _ b off _ => some (b, sext off)
  | .lda _ _ _ b | .stl _ _ _ b | .amo _ _ _ _ b _ | .cas _ _ _ b _ | .tred _ _ _ b _ | .swset _ b | .swwait _ b
  | .bar _ _ b | .waitev b => some (b, 0)
  | _ => none

/-- The address lies in own LM (R107). -/
def inOwnLm (a : Word) : Bool := decide (0xF000000000000000 ≤ a.toNat) && decide (a.toNat < 0xF000000000020000)

/-- A bundle's C-word takes an access to own LM through the LSU. -/
def Bundle.usesLm (b : Bundle) : Bool :=
  match decodeWord b.word with
  | .ok (_, i) => (match lsuOperand i with
    | some (r, d) => inOwnLm ((if r = 0 then 0 else b.rdX.get r.toFin) + d)
    | none => false)
  | .error _ => false

/-- The slot's LSU uses its core's LM port for some cycles (R9). -/
def Slot.takePort (t : Slot) (from_ n : Nat) : Slot :=
  { t with
    portFrom := if from_ ≤ t.portTo + 1 ∧ t.portFrom ≤ t.portTo then t.portFrom else from_
    portTo := max t.portTo (from_ + n - 1) }

/-- The A-word's effects when the bundle retires. -/
def State.applyA (s : State) (c i : Nat) (e : AEff) : State :=
  let s := e.writes.foldl (fun s w => s.writeReg c i w) s
  s.modSlot c i (fun t => { t with fflags := t.fflags.or e.flags, gen := e.gen.getD t.gen })

/-- The pops of link ports and read streams that the bundle's operand fields made. A forwarded word is pushed here
(log 40). -/
def State.applyPops (s : State) (c i : Nat) : State :=
  let b := (s.slot c i).bundle
  let s := b.popPorts.foldl (fun s p => s.popPort c i p) s
  b.popStreams.foldl (fun s r => s.popStream c i r) s

/-- The loop state and the PC after the bundle retires without a jump (R69). -/
def Slot.advance (t : Slot) : Slot :=
  match t.loop with
  | some l =>
    if t.bundle.bodyLast then
      if l.pass + 1 < l.count then { t with loop := some { l with pass := l.pass + 1 }, pc := l.body }
      else { t with loop := none, pc := t.bundle.next }
    else { t with pc := t.bundle.next }
  | none => { t with pc := t.bundle.next }

/-- Counters of a retirement: RETIRED, the earliest next issue (R54), and no wait. In a caravan STALL is ignored, and
another member may issue in the cycle in which the bundle has issued (R255). An access to own LM takes its port (R9). -/
def Slot.retireCount (t : Slot) (now : Nat) : Slot :=
  let free := if t.cvsize ≤ 1 then max (now + 1) (t.lastIssue + t.bundle.stall + 1)
    else if t.lastIssue = now then now else now + 1
  let t := if t.bundle.usesLm then t.takePort now 1 else t
  { t with retired := t.retired + 1, wait := .none, notBefore := max t.notBefore free }

/-- The bundle retires: pops, the second word's effects, counters and PC; a jump overrides the PC and leaves no loop
state behind it untouched. Words pushed onto one port direction go in the order of DESIGN CHOICE, log 40. -/
def State.retire (s : State) (c i : Nat) (jump : Option Word) : State :=
  let s := s.applyPops c i
  let s := match (s.slot c i).bundle.stash with
    | some e => s.applyA c i e
    | none => s
  s.modSlot c i (fun t =>
    let t := t.retireCount s.cycle
    match jump with
    | some pc => { t with pc }
    | none => t.advance)

end Sys2Proof.Machine
end

