-- ==== Sys2Proof/Machine/Translate.lean ====
section
/-!
DEFINITION. Address spaces (05_memory R105 to R111), translation (R123 to R126), and CheckMem (14_reference
Table 14.1).
-/
namespace Sys2Proof.Machine

/-- Why a bundle's operation ends before its later statements take effect: a trap (R4), an abort of the open
transaction (R172, R173), the consumption of poison (R217), or a wait that it begins in a state (R195). -/
inductive Stop where
  | trap (c : Cause) (v : Word)
  | abort (w : Abort) (code : Nat)
  | poison (v : Word)
  | wait (s : State) (w : Wait)
  deriving DecidableEq, Repr

/-- A remote LM address, Table 5.3. -/
structure RemoteAddr where
  place : Place
  raise : Bool
  sw : Nat
  off : Nat
  deriving DecidableEq, Repr

/-- The space an address lies in, Table 5.1, with the offset in its window. -/
inductive Space where
  | global
  | lm (off : Nat)
  | abuf (off : Nat)
  | wbuf (off : Nat)
  | cbuf (off : Nat)
  | queue (slot off : Nat)
  | remote (r : RemoteAddr)
  | outside
  deriving DecidableEq, Repr

/-- The package that a remote address's package field names; 0x1FFF is the issuing core's own (R109). -/
def remotePkg (own : Nat) (a : Word) : Nat := if bits a 58 46 = 0x1FFF then own else bits a 58 46

/-- Table 5.1. -/
def spaceOf (own : Nat) (a : Word) : Space :=
  let n := a.toNat
  let off := bits a 55 0
  if n < 2 ^ 57 then .global
  else if bits a 63 59 = 31 then
    .remote { place := ⟨remotePkg own a, bits a 45 32⟩, raise := bitAt a 31, sw := bits a 29 17, off := bits a 16 0 }
  else match bits a 63 56 with
    | 0xF0 => if off < 0x20000 then .lm off else .outside
    | 0xF1 => if off < 0x10000 then .abuf off else .outside
    | 0xF2 => if off < 0x10000 then .wbuf off else .outside
    | 0xF3 => if off < 0x8000 then .cbuf off else .outside
    | 0xF4 => if off < 0x100 then .queue (off / 64) (off % 64) else .outside
    | _ => .outside

/-- The target belongs to what a launch may reach (R111): a core of the launch in this package, or a core that its
rank table or its region names in another package. -/
def State.reachable (s : State) (l : Launch) (p : Place) : Bool :=
  if l.relative then (regionCores (regionOf (l.word 4))).contains p.lcn && s.inDomain p.pkg
  else (l.rankList s.pkg).contains p

/-- The conditions of R109 and R111 on a remote address; raiseOk says whether the use may carry a raise. -/
def State.remoteOk (s : State) (c : Nat) (a : Word) (r : RemoteAddr) (raiseOk : Bool) : Bool :=
  !bitAt a 30 && (r.raise || r.sw == 0) && (!r.raise || raiseOk) &&
  (bits a 58 46 == 0x1FFF || decide (bits a 58 46 < Config.packages)) && s.inDomain r.place.pkg &&
  match s.launchOf c with
  | some l => s.reachable l r.place
  | none => false

/-! ### Translation -/

/-- Eight bytes of device memory homed in another package: free values (log 42). -/
def awayWord (pkg off cycle : Nat) : Word :=
  BitVec.ofNat 64 (natOfBytes ((List.range 8).map (fun k => Config.awayByte pkg (off + k) cycle)))

/-- Device memory at a physical address, read as the walker reads it (R126): of this package, or of another one of the
domain (log 42). -/
def State.tableWord (s : State) (pa : Nat) : Word :=
  let pkg := pa / 2 ^ 42 % 2 ^ 13
  if pa / 2 ^ 55 % 2 = 1 then 0
  else if pkg = s.pkg then s.mem.word (pa % 2 ^ 42)
  else if s.inDomain pkg then awayWord pkg (pa % 2 ^ 42) s.cycle
  else 0

/-- The lowest VA bit that a level indexes with, and the index's width (Table 5.9). -/
def levelBits : Nat → Nat × Nat
  | 4 => (48, 9)
  | 3 => (39, 9)
  | 2 => (30, 9)
  | 1 => (21, 9)
  | _ => (16, 5)

/-- The size of the table at a level (Table 5.9). -/
def tableSize : Nat → Nat
  | 0 => 256
  | _ => 4096

/-- A leaf's physical page is backed and in the domain (R125). -/
def State.pageOk (s : State) (pa size : Nat) : Bool :=
  pa / 2 ^ 55 % 2 == 1 || (decide (pa % 2 ^ 42 + size ≤ Config.deviceBytes) && s.inDomain (pa / 2 ^ 42 % 2 ^ 13))

/-- The walk from a level's table down (R124, R125); none is a fault. -/
def State.walkFrom (s : State) (sector asid va : Nat) : Nat → Nat → Option TlbEntry
  | level, table =>
    let (lo, width) := levelBits level
    let e := s.tableWord (table + 8 * (va / 2 ^ lo % 2 ^ width))
    let pa := bits e 55 8 * 256
    let leaf := bitAt e 1 || bitAt e 2 || bitAt e 3
    if !bitAt e 0 || bits e 63 56 != 0 || bits e 7 6 != 0 || decide (2 ≤ bits e 5 4) then none
    else if leaf then
      if 3 ≤ level ∨ pa % 2 ^ lo ≠ 0 ∨ !s.pageOk pa (2 ^ lo) then none
      else some { sector, asid, va := va / 2 ^ lo * 2 ^ lo, size := 2 ^ lo, pa
                  uncached := bits e 5 4 == 1 || pa / 2 ^ 55 % 2 == 1, r := bitAt e 1, w := bitAt e 2, x := bitAt e 3 }
    else match level with
      | 0 => none
      | n + 1 => if pa % tableSize n ≠ 0 ∨ pa / 2 ^ 55 % 2 = 1 then none else s.walkFrom sector asid va n pa

/-- A walk under an ASID (R123). -/
def State.walk (s : State) (sector asid va : Nat) : Option TlbEntry :=
  let e := s.tableWord (s.asidBase.toNat + 8 * asid)
  if !bitAt e 0 || bits e 63 56 != 0 || bits e 11 1 != 0 then none
  else s.walkFrom sector asid va 4 (bits e 55 12 * 4096)

/-- A cached leaf covers a VA of an ASID. -/
def TlbEntry.covers (t : TlbEntry) (asid va : Nat) : Bool :=
  t.asid == asid && decide (t.va ≤ va) && decide (va < t.va + t.size)

/-- The translation of a VA for a core and an access that needs something of the leaf: its sector's cache, else a walk;
a cached leaf that would refuse the access is walked for anew, because faults are never cached (R126, R129). -/
def State.translateFor (s : State) (c : Nat) (asid : Nat) (va : Nat) (ok : TlbEntry → Bool) : Option TlbEntry :=
  match s.tlb.find? (fun t => t.sector == sectorOf c && t.covers asid va && ok t) with
  | some t => some t
  | none => s.walk (sectorOf c) asid va

/-- The translation of a VA for a core, whatever the access. -/
def State.translate (s : State) (c : Nat) (asid : Nat) (va : Nat) : Option TlbEntry :=
  s.translateFor c asid va (fun _ => true)

/-- A translation that a walk found is cached, at most 4,096 in a sector (R126). -/
def State.cacheLeaf (s : State) (t : TlbEntry) : State :=
  if s.tlb.contains t || t.size == 64 then s
  else
    let mine := s.tlb.filter (fun u => u.sector == t.sector)
    let rest := s.tlb.filter (fun u => u.sector != t.sector)
    { s with tlb := rest ++ (mine.drop (mine.length + 1 - 4096)) ++ [t] }

/-- The physical address of a VA under a leaf. -/
def TlbEntry.phys (t : TlbEntry) (va : Nat) : Nat := t.pa + (va - t.va)

/-- Where global memory has its home (R119, R120, Table 5.7): own device memory, another package's, or the host
window. -/
inductive Home where
  | own (off : Nat) (uncached : Bool)
  | other (pkg off : Nat)
  | host (addr : Nat)
  deriving DecidableEq, Repr

/-- The home of a physical address. -/
def State.homeOf (s : State) (pa : Nat) (uncached : Bool) : Home :=
  if pa / 2 ^ 55 % 2 = 1 then .host (pa % 2 ^ 55)
  else if pa / 2 ^ 42 % 2 ^ 13 = s.pkg then .own (pa % 2 ^ 42) uncached
  else .other (pa / 2 ^ 42 % 2 ^ 13) (pa % 2 ^ 42)

/-! ### CheckMem -/

/-- The uses of Table 14.1. -/
inductive Use where
  | load
  | store
  | queueStore
  | atomic
  | nibble
  | barrier
  | syncword
  | syncwait
  | waitev
  | header
  | mcast
  deriving DecidableEq, Repr

/-- The use may carry a raise in a remote address (R109): the plain stores. -/
def Use.mayRaise : Use → Bool
  | .store | .queueStore | .nibble => true
  | _ => false

/-- Table 5.2 and the entries' own words: the space admits the use; slot is the issuing slot (R108). -/
def Use.admits (u : Use) (slot : Nat) : Space → Bool
  | .global => match u with
    | .load | .store | .queueStore | .atomic | .nibble | .header | .mcast => true
    | _ => false
  | .lm _ => true
  | .abuf _ | .cbuf _ => match u with
    | .load | .store | .queueStore | .nibble => true
    | _ => false
  | .queue t _ => u == .queueStore && t == slot
  | .remote _ => match u with
    | .load | .store | .queueStore | .atomic | .nibble | .barrier | .syncword => true
    | _ => false
  | .wbuf _ | .outside => false

/-- The permission a use needs of a leaf (R125). -/
def Use.allowed (u : Use) (t : TlbEntry) : Bool :=
  match u with
  | .store | .queueStore | .nibble => t.w
  | .atomic => t.r && t.w
  | _ => t.r

/-- Table 9.7 traps the use in the space when the activation is contained; stores to remote LM are held instead. -/
def Use.contains (u : Use) : Space → Bool
  | .global => match u with
    | .store | .queueStore | .atomic | .nibble => true
    | _ => false
  | .remote _ => match u with
    | .atomic | .barrier => true
    | _ => false
  | _ => false

/-- An access that passed CheckMem: its space and, for global memory, the leaf. -/
structure Checked where
  space : Space
  leaf : Option TlbEntry
  deriving DecidableEq, Repr

/-- Inside a transaction, the accesses of R172 that abort it before step 1: remote LM, a store to a queue window, the host
window and memory of type 1. -/
def forbiddenInTxn (sp : Space) (leaf : Option TlbEntry) (u : Use) : Bool :=
  match sp with
  | .remote _ => true
  | .queue _ _ => u == .store || u == .queueStore || u == .nibble
  | .global => match leaf with
    | some t => t.uncached
    | none => false
  | _ => false

/-- A trap raised by an operand check; inside a transaction it aborts instead (R173). -/
def State.stopWith (s : State) (cause : Cause) (v : Word) : Stop :=
  if s.me.txn.isSome then .abort .illegal cause.code else .trap cause v

/-- The leaf that serves a global address: an L1 line for a plain load that hits (it is not checked again, R126), else
the translation. -/
def State.leafFor (s : State) (u : Use) (a : Word) : Option TlbEntry :=
  let c := s.cur.1
  let asid := s.asidOf c
  match s.here.l1d.find? (fun l => u == .load && s.me.txn.isNone && l.asid == asid && l.va == a.toNat / 64 * 64) with
  | some l => some { sector := sectorOf c, asid, va := l.va, size := 64, pa := l.pa, uncached := false, r := true
                     w := false, x := false }
  | none => s.translateFor c asid a.toNat u.allowed

/-- CheckMem(a, size, use) for the running instruction, in the order of Table 14.1. -/
def State.checkMem (s : State) (a : Word) (size : Nat) (u : Use) : Except Stop Checked :=
  let (c, i) := s.cur
  let sp := spaceOf s.pkg a
  let leaf := if sp = .global then s.leafFor u a else none
  if s.me.txn.isSome && forbiddenInTxn sp leaf u then .error (.abort .illegal 0)
  else if sp = .outside then .error (s.stopWith .access a)
  else if (match sp with | .remote r => !s.remoteOk c a r u.mayRaise | _ => false) then .error (s.stopWith .access a)
  else if a.toNat % size ≠ 0 then .error (s.stopWith .align a)
  else if !u.admits i sp then .error (s.stopWith .space a)
  else match sp, leaf with
    | .global, none => .error (s.stopWith .access a)
    | .global, some t =>
      if !u.allowed t || ((u == .atomic || u == .nibble) && t.pa / 2 ^ 55 % 2 == 1) then .error (s.stopWith .access a)
      else if s.contained c i && u.contains sp then .error (s.stopWith .contain a)
      else .ok ⟨sp, leaf⟩
    | _, _ =>
      if s.contained c i && u.contains sp then .error (s.stopWith .contain a) else .ok ⟨sp, none⟩

end Sys2Proof.Machine
end

