-- ==== Sys2Proof/Machine/Operands.lean ====
section
/-!
DEFINITION. Every operand form of the instructions (14_reference R282, 03_encoding R66 to R69): registers as read at
issue, LM entries named by M, immediates, lanes and masks.
-/
namespace Sys2Proof.Machine

/-- X(n): register xn as read at issue (R282); x0 reads zero. -/
def State.X (s : State) (n : Reg) : Word := if n = 0 then 0 else s.me.bundle.rdX.get n.toFin

/-- The register number a vector field of an A-word names in pass p of an RPT body (R69). -/
def rename (r : Reg) (offset : Nat) : Reg :=
  if 16 ≤ r.toNat then BitVec.ofNat 5 (16 + (r.toNat - 16 + offset) % 16) else r

/-- The v register that a field of the running A-word names (R69). -/
def State.vName (s : State) (n : Reg) : Reg := rename n s.me.bundle.rename

/-- V(n) of an A-word: register vn as read at issue, renamed in an RPT body (R69, R373). -/
def State.V (s : State) (n : Reg) : Vec := s.me.bundle.rdV.get (s.vName n).toFin

/-- V(n) of a C-word: loads and stores are not renamed (R69). -/
def State.Vc (s : State) (n : Reg) : Vec := s.me.bundle.rdV.get n.toFin

/-- The LM offset of the entry that operand c names with M = 1, for entries of a size (R66). -/
def State.lmEntry (s : State) (c : Reg) (size : Nat) : Nat := (s.me.lmb.toNat + size * c.toNat) % 0x20000

/-- The own-LM address of an LM offset. -/
def lmAddr (off : Nat) : Word := BitVec.ofNat 64 (0xF000000000000000 + off)

/-- The granules of 8 bytes that a range touches (R217). -/
def granules (a n : Nat) : List Nat := (List.range ((a + n + 7) / 8 - a / 8)).map (fun k => a / 8 + k)

/-- Some granule of an LM range is poisoned. -/
def CoreSt.lmBad (k : CoreSt) (off n : Nat) : Bool := (granules off n).any (fun g => k.poison.contains (.lm g))

/-- OperandC of a scalar form: X(c), or LM64(LMB + 8·c) (R66, R282). -/
def State.operandC (s : State) (m : Bool) (c : Reg) : Word :=
  if m then s.here.lm.word (s.lmEntry c 8) else s.X c

/-- OperandC of a vector form: V(c), or the entry at LMB + 16·c (R66, R373). -/
def State.operandV (s : State) (m : Bool) (c : Reg) : Vec :=
  if m then vecOf16 (s.here.lm.bytes (s.lmEntry c 16) 16) else s.V c

/-- The address of a poisoned M operand (R284), if it is poisoned. -/
def State.poisonC (s : State) (m : Bool) (c : Reg) (size : Nat) : Option Word :=
  if m && s.here.lmBad (s.lmEntry c size) size then some (lmAddr (s.lmEntry c size)) else none

/-- Lane i of a vector of a type (R63, R79, R80). -/
def lane (t : LaneType) (v : Vec) (i : Nat) : Nat := v.toNat / 2 ^ (laneWidth t * i) % 2 ^ laneWidth t

/-- The lanes of a vector, lane 0 first. -/
def lanes (t : LaneType) (v : Vec) : List Nat := (List.range (laneCount t)).map (lane t v)

/-- Lanes of a width packed from bit 0 upward; lanes that are not listed are zero. -/
def packLanes (w : Nat) : List Nat → Nat
  | [] => 0
  | x :: r => x % 2 ^ w + 2 ^ w * packLanes w r

/-- A vector of the given lanes. -/
def ofLanes (t : LaneType) (ls : List Nat) : Vec := BitVec.ofNat 128 (packLanes (laneWidth t) ls)

/-- A lane mask from its bits, bit 0 first (R63). -/
def maskOf (bs : List Bool) : Word := BitVec.ofNat 64 (packLanes 1 (bs.map bit))

/-- A lane widened to an x register: sign-extended for I types, else zero-extended (R381, R391). -/
def widen (t : LaneType) (b : Nat) : Word :=
  if t.isSigned then BitVec.ofInt 64 (intOf t b) else BitVec.ofNat 64 b

/-- The target of a branch or jump: Here plus four times the signed offset (R60). -/
def State.target {w : Nat} (s : State) (off : BitVec w) : Word := s.me.bundle.here + 4 * sext off

/-- The effective address of a load or store (R321, R359). -/
def State.effAddr {w : Nat} (s : State) (b : Reg) (imm : BitVec w) : Word := s.X b + sext imm

/-- The rounding state that FPCTL gives a vector form at issue (R130). -/
def State.rounding (s : State) (sat : Bool := false) : Rounding :=
  { rm := s.me.rm, fz := s.me.fz, sat := sat, draw := none }

end Sys2Proof.Machine
end

