-- ==== Sys2Proof/Machine/Flags.lean ====
section
/-!
DEFINITION. The flags of Table 3.14 as the vector forms raise them (04_arithmetic R84, 16_reference R373): each lane
gives a value and its flags, and the flags of all lanes are ORed. The effects of the A-class words on registers.
-/
namespace Sys2Proof.Machine

/-- The OR of the flags of all lanes (R84). -/
def flagsOf : List (Nat × Flags) → Flags
  | [] => {}
  | x :: r => x.2.or (flagsOf r)

/-- The values of all lanes. -/
def valuesOf (xs : List (Nat × Flags)) : List Nat := xs.map Prod.fst

/-- SAT alone. -/
def satFlag (b : Bool) : Flags := { sat := b }

/-- An A-word's effect: one x register written with a latency (R55). -/
def effX (d : Reg) (v : Word) (latency : Nat) : AEff :=
  { writes := [{ reg := .x d, val := v.setWidth 128, latency }] }

/-- An A-word's effect: one v register written with a latency. -/
def effV (d : Reg) (v : Vec) (latency : Nat) (f : Flags := {}) : AEff :=
  { writes := [{ reg := .v d, val := v, latency }], flags := f }

/-- An A-word's effect that consumes poison in an M operand (R217). -/
def AEff.withPoison (e : AEff) (p : Option Word) : AEff := { e with poison := p }

/-- A vector of lanes with flags, written to a v register. -/
def effLanes (t : LaneType) (d : Reg) (xs : List (Nat × Flags)) (latency : Nat) : AEff :=
  effV d (ofLanes t (valuesOf xs)) latency (flagsOf xs)

/-- The status of a bank in the layout of Table 6.13 (R409). -/
def Bank.status (b : Bank) : Nat := 64 * bit b.empty + 32 * bit b.sat + 4 * bit b.of + bit b.nv

/-- A bank with the status that a value in Table 6.13's layout gives (R409). -/
def Bank.withStatus (b : Bank) (w : Word) : Bank :=
  { b with empty := bitAt w 6, sat := bitAt w 5, of := bitAt w 2, nv := bitAt w 0 }

/-- What MDRAIN ORs from a bank's status into FFLAGS (R332, R409). -/
def Bank.drainFlags (b : Bank) : Flags := { sat := b.sat, of := b.of, nv := b.nv }

end Sys2Proof.Machine
end

