-- ==== Sys2Proof/Machine/Message.lean ====
section
/-!
DEFINITION. The network as the cores see it: place words (01_device R11, R12), messages on their way (02_execution
R36 to R40), packets handed to the Zynong fabric (10_fabric R225 to R229), and sync words (05_memory R113, R114).
-/
namespace Sys2Proof.Machine

/-! ### Places -/

/-- The launch-origin place of a site (R110). -/
def State.placeOf (s : State) (c : Nat) : Place := ⟨s.pkg, (s.core c).origin⟩

/-- The core at signed offsets from a core, inside the grid (R11). -/
def offsetCore (c : Nat) (dx dy : BitVec 16) : Option Nat :=
  let x : Int := xOf c + dx.toInt
  let y : Int := yOf c + dy.toInt
  if 0 ≤ x ∧ x < 128 ∧ 0 ≤ y ∧ y < 128 then some (coreAt x.toNat y.toNat) else none

/-- The target that a place word of mode 0 or 1 names, if R12 accepts it. -/
def State.placeTarget (s : State) (c : Nat) (p : Word) : Option Place :=
  match s.launchOf c, bits p 63 62 with
  | some l, 0 =>
    if l.relative || bits p 61 32 != 0 then none else (l.rankList s.pkg)[bits p 31 0]?
  | some l, 1 =>
    let pkg := if bits p 47 32 = 0xFFFF then s.pkg else bits p 47 32
    if !l.relative || bits p 61 48 != 0 || !s.inDomain pkg then none
    else match offsetCore (s.core c).origin (p.extractLsb' 0 16) (p.extractLsb' 16 16) with
      | some n => if (regionCores (regionOf (l.word 4))).contains n then some ⟨pkg, n⟩ else none
      | none => none
  | _, _ => none

/-- CheckPlace of the reference entries (R12) for the running instruction. -/
def State.checkPlace (s : State) (p : Word) : Except Stop Place :=
  match s.placeTarget s.cur.1 p with
  | some t => .ok t
  | none => .error (s.stopWith .place p)

/-! ### Traffic -/

/-- The five message kinds of Table 2.7, which hold a place of the outbound buffer (R40), a multicast
(R330), and a TKSEND list (R264). -/
def isMessage : MsgBody → Bool
  | .data .. | .spawn .. | .migrate .. | .call .. | .reply .. | .mcast .. | .list .. => true
  | _ => false

/-- A posted or answered access whose performing a release waits for (R157). -/
def isAccess : MsgBody → Bool
  | .access _ _ .none | .globalAccess _ _ .none | .access _ _ (.slot _) | .globalAccess _ _ (.slot _) => true
  | _ => false

/-- A response or an answer: the traffic of the response network (R222). -/
def isResponse : MsgBody → Bool
  | .response .. | .answer .. | .wake .. => true
  | _ => false

/-- A message from a slot of a site, under its launch (R36), with the placement generation that its NI knows (R210). -/
def State.msgFrom (s : State) (c i : Nat) (dst : Place) (body : MsgBody) : Msg :=
  { key := (s.core c).launch.getD 0, src := s.placeOf c, slot := i, dst, body, site := c
    gen := ((s.launchOf c).map Launch.gen).getD 0 }

/-- The I/O die that a compute die's outbound Zynong traffic leaves through (R225). -/
def ioDie (d : Nat) : Nat := if d = 0 ∨ d = 1 ∨ d = 6 ∨ d = 7 then 0 else 1

/-- The stream of a message to another package: requests are class 0, responses class 1 (R227, R228). -/
def State.streamOf (s : State) (c : Nat) (m : Msg) : StreamId :=
  { cls := if isResponse m.body then 1 else 0, src := s.pkg, die := ioDie (dieOf c), dst := m.dst.pkg }

/-- The current routing table of an I/O die. -/
def Fab.table (f : Fab) (die : Nat) : RouteTable := (find f.cur die).getD (emptyTable 0)

/-- An association list kept by any key. -/
def assoc {α β : Type} [DecidableEq α] : List (α × β) → α → Option β
  | [], _ => none
  | (k, v) :: r, a => if k = a then some v else assoc r a

/-- An association list with a key's entry set. -/
def assocPut {α β : Type} [DecidableEq α] : List (α × β) → α → β → List (α × β)
  | [], a, x => [(a, x)]
  | (k, v) :: r, a, x => if k = a then (k, x) :: r else (k, v) :: assocPut r a x

/-- A stream that has sent nothing. -/
def newOut : OutStream := { next := 0, unacked := [], timeouts := 0 }

/-- The message asks for a response from its destination (R111). -/
def asksResponse : MsgBody → Bool
  | .access _ _ w => w != .none
  | .globalAccess _ _ w => w != .none
  | _ => false

/-- A message that nobody answers: posted traffic (R236). -/
def isPosted (b : MsgBody) : Bool := !asksResponse b && !isResponse b

/-- Who waits for the response to a request. -/
def waiterOf : MsgBody → Waiter
  | .access _ _ w | .globalAccess _ _ w | .response w .. => w
  | _ => .none

/-- The answer that an access gets whose target cannot be reached: its slot or engine takes it as a NACK (R111, R236). -/
def nackOf (m : Msg) : Msg :=
  { key := m.key, src := m.dst, slot := m.slot, dst := m.src, body := .response (waiterOf m.body) [] true false, ring := m.ring }

/-! ### Packet headers (R227) -/

/-- What a packet is, by its header's kind field. -/
inductive PacketKind where
  | data | spawn | migrate | call | reply | ask | decision | report | access | answer | wake | multicast | control
  | acknowledgement
  deriving DecidableEq, Repr

/-- The place of a kind in that list. -/
def PacketKind.index : PacketKind → Nat
  | .data => 0
  | .spawn => 1
  | .migrate => 2
  | .call => 3
  | .reply => 4
  | .ask => 5
  | .decision => 6
  | .report => 7
  | .access => 8
  | .answer => 9
  | .wake => 10
  | .multicast => 11
  | .control => 12
  | .acknowledgement => 13

/-- The kind of a body (Table 10.3; log 12). -/
def kindOfBody : MsgBody → PacketKind
  | .data .. => .data
  | .spawn .. => .spawn
  | .migrate .. => .migrate
  | .call .. => .call
  | .reply .. => .reply
  | .ask _ => .ask
  | .answer .. => .decision
  | .endReport => .report
  | .access .. | .globalAccess .. => .access
  | .response .. => .answer
  | .wake .. => .wake
  | .mcast .. | .list .. => .multicast
  | .activate _ => .control

/-- Payload bytes of a remote access: the data that the operation carries. -/
def opPayload : RemoteOp → Nat
  | .load _ => 0
  | .store bs _ _ | .tred _ _ bs => bs.length
  | .nibble .. => 1
  | .amo _ dbl _ => if dbl then 8 else 4
  | .cas dbl _ _ => if dbl then 16 else 8
  | .swset _ | .barArrive _ | .raise _ => 4

/-- Payload bytes of a packet (Table 10.3), at most 256 (log 12). -/
def payloadOf : MsgBody → Nat
  | .data _ ws => 8 * ws.length
  | .spawn _ xs _ _ | .migrate _ xs _ => 8 * (xs.length + 2)
  | .call _ xs _ _ => 8 * (xs.length + 3)
  | .reply .. => 8
  | .access op _ _ | .globalAccess op _ _ => min 256 (opPayload op)
  | .response _ bs _ _ => min 256 bs.length
  | .wake .. => 4
  | .mcast _ _ bs _ _ => min 256 bs.length
  | .list _ _ _ _ l _ => min 256 (8 * l.entries.length)
  | .ask _ | .answer .. | .endReport => 0
  | .activate _ => 2

/-- The route tag: a multicast's group and tree, or the destination's LCN and an offset. -/
inductive RouteTag where
  | group (g tree : Nat)
  | place (lcn off : Nat)
  deriving DecidableEq, Repr

/-- A packet's header, field by field (Table 10.3). -/
structure PacketHeader where
  version : BitVec 16
  destination : BitVec 13
  source : BitVec 13
  sourceDie : BitVec 1
  cls : BitVec 2
  kind : PacketKind
  length : BitVec 9
  sequence : BitVec 32
  tag : RouteTag
  deriving DecidableEq, Repr

/-- The bits of a route tag. -/
def RouteTag.bits : RouteTag → BitVec 32
  | .group g tree => Config.groupTag g tree
  | .place lcn off => Config.placeTag lcn off

/-- The 128 bits of a header: version [127:112], destination [111:99], source [98:86], source die [85], class [84:83], kind
[82:77], length [76:68], reserved [67:64] zero, sequence [63:32], route tag [31:0] (Table 10.3). -/
def PacketHeader.bits (h : PacketHeader) : BitVec 128 :=
  h.version ++ h.destination ++ h.source ++ h.sourceDie ++ h.cls ++ Config.kindCode h.kind.index ++ h.length ++ (0 : BitVec 4) ++
    h.sequence ++ h.tag.bits

/-- The offset that an access names at its destination. -/
def offsetOf : MsgBody → Nat
  | .access _ off _ | .globalAccess _ off _ => off
  | _ => 0

/-- The header of a packet (R227). -/
def packetHeader (p : Packet) : PacketHeader :=
  let mc := decide (p.stream.cls = 2)
  { version := p.version
    destination := if mc then Config.mcastDestination p.stream.dst else BitVec.ofNat 13 p.stream.dst
    source := BitVec.ofNat 13 p.stream.src, sourceDie := BitVec.ofNat 1 p.die, cls := BitVec.ofNat 2 p.stream.cls
    kind := kindOfBody p.body.body, length := BitVec.ofNat 9 (payloadOf p.body.body), sequence := p.seq
    tag := if mc then .group p.stream.dst (Config.treeOf p.stream.dst p.version)
      else .place p.body.dst.lcn (offsetOf p.body.body) }

/-- The header of the acknowledgement of a stream up to a sequence number, which goes back to the stream's source through an
I/O die of this package (R227, R229). DEDUCED, log 12: its class is the control class, and it carries no payload. -/
def State.ackHeader (s : State) (id : StreamId) (seq : BitVec 32) : PacketHeader :=
  { version := (s.fab.table id.die).version, destination := BitVec.ofNat 13 id.src, source := BitVec.ofNat 13 s.pkg
    sourceDie := BitVec.ofNat 1 id.die, cls := 3, kind := .acknowledgement, length := 0, sequence := seq, tag := .place 0 0 }

/-- The bytes of a packet: the header flit, and its payload in flits of 64 bytes (R227). DEDUCED, log 50. -/
def packetSize (p : Packet) : Nat := 64 * (1 + (payloadOf p.body.body + 63) / 64)

/-- The bytes of the largest packet. -/
def packetMost : Nat := 320

/-! ### Sending -/

/-- A packet enters its stream: numbered, stamped with the current version of the I/O die that it leaves through, kept until
acknowledged, and on its way (R225, R228, R229, R232). -/
def State.sendPacket (s : State) (id : StreamId) (die : Nat) (m : Msg) : State :=
  let o := (assoc s.fab.outs id).getD newOut
  let p : Packet :=
    { version := (s.fab.table die).version, stream := id, seq := o.next, body := m, die, sent := s.cycle }
  { s with fab := { s.fab with
      outs := assocPut s.fab.outs id { o with next := o.next + 1, unacked := o.unacked ++ [p] }
      flight := s.fab.flight ++ [(.package s.pkg, none, p)]
      awaiting := if asksResponse m.body then s.fab.awaiting ++ [m] else s.fab.awaiting } }

/-- The extra latency of an access to another core's LM (R9); beyond a sector it is variable (log 7). -/
def hopCycles (a b : Nat) : Nat :=
  if a = b then 0 else if quadOf a = quadOf b then 1 else if groupOf a = groupOf b then 3
  else if sectorOf a = sectorOf b then 5 else 6

/-- A slot used its core's LM port in a cycle. -/
def Slot.usesPort (t : Slot) (now : Nat) : Bool := decide (t.portFrom ≤ now) && decide (now ≤ t.portTo)

/-- A copy whose destination or source is own LM delivered in a cycle. -/
def CopyOp.usesPort (o : CopyOp) (own now : Nat) : Bool :=
  let inLm := fun (a : Word) => match spaceOf own a with
    | .lm _ => true
    | _ => false
  o.last == some now && (inLm o.src || inLm o.dst)

/-- A core's LM port was busy with its own LSU or copy traffic in the cycle before (R9). The rest of the way's time is
log 7. -/
def State.portBusy (s : State) (c : Nat) : Bool :=
  decide (0 < s.cycle) && ((s.core c).slots.toList.any (fun t => t.usesPort (s.cycle - 1)) ||
    (s.core c).cq.any (fun o => o.usesPort s.pkg (s.cycle - 1)))

/-- A remote access leaves for the context it names: it reaches the target's port after the latency of R9, in this cycle
when that is the own core's. -/
def State.postAccess (s : State) (c : Nat) (m : Msg) : State :=
  match s.siteOf m.key m.dst.lcn with
  | none => { s with net := s.net ++ [m] }
  | some n =>
    let t := { s with net := s.net ++ [{ m with due := s.cycle + hopCycles c n }] }
    if n = c then { t with agenda := .remoteAccess s.net.length :: t.agenda } else t

/-- The compute die at which an I/O die attaches for the traffic of a die (R223, R225). -/
def attachOf (d : Nat) : Nat := if d ≤ 1 then 0 else if d ≤ 3 then 3 else if d ≤ 5 then 4 else 7

/-- The body is a multicast's. -/
def isMcast : MsgBody → Bool
  | .mcast .. => true
  | _ => false

/-- Traffic of this package that leaves it: for another package, or a multicast, which its group names (R225, R238). -/
def State.outgoing (s : State) (m : Msg) : Bool :=
  m.delivery.isNone && (m.dst.pkg != s.pkg || (m.src.pkg == s.pkg && isMcast m.body))

/-- A message that stays in the package and was sent under a launch. -/
def State.ownMsg (s : State) (l : Nat) (m : Msg) : Bool := m.src.pkg == s.pkg && m.key == l && !isMcast m.body && !s.outgoing m

/-- A message leaves a site into the package's network; one for another package names its launch by the ASID (R40, R111),
and goes by the die ring to the die at which its I/O die attaches (R223, R225). -/
def State.post (s : State) (c : Nat) (m : Msg) : State :=
  let m := { m with site := c, ring := dieOf c }
  if m.dst.pkg = s.pkg then
    match m.body with
    | .access .. => s.postAccess c m
    | _ => { s with net := s.net ++ [m] }
  else { s with net := s.net ++ [{ m with key := s.asidOf c, owner := (s.core c).launch }] }

/-! ### Multicast groups (R237) -/

/-- A list of numbers without a repeat. -/
def distinct : List Nat → Bool
  | [] => true
  | n :: r => !r.contains n && distinct r

/-- The members that a group's table entry lists, if the entry is valid (R237, Table 10.7). -/
def State.groupEntry (s : State) (g : Nat) : Option (List Nat) :=
  let at_ := s.fab.mctbase.toNat + 2048 * g
  let head := s.tableWord at_
  let n := bits head 41 32 + 1
  let half := fun k => bits (s.tableWord (at_ + 8 + 2 * k / 8 * 8)) (16 * (k % 4) + 15) (16 * (k % 4))
  let members := (List.range n).map half
  if bitAt head 63 && bits head 62 42 == 0 && bits head 31 0 == 0 && decide (n ≤ 512) &&
      members.all (fun m => decide (m < 2 ^ 13)) && (List.range 1020).all (fun k => decide (k < n) || half k == 0) &&
      distinct members then some members else none

/-- A group's members as an I/O die's NI has them: cached, at most 64 entries, else loaded (R237); all of them in the
domain. -/
def State.groupOf (s : State) (die g : Nat) : Option (State × List Nat) :=
  let inside := fun (ms : List Nat) => ms.all s.inDomain
  match s.fab.groups.find? (fun e => e.1 == die && e.2.1 == g) with
  | some e => if inside e.2.2 then some (s, e.2.2) else none
  | none => match s.groupEntry g with
    | some ms =>
      if inside ms then
        let mine := s.fab.groups.filter (fun e => e.1 == die)
        let rest := s.fab.groups.filter (fun e => e.1 != die)
        some ({ s with fab := { s.fab with groups := rest ++ mine.drop (mine.length + 1 - 64) ++ [(die, g, ms)] } }, ms)
      else none
    | none => none

/-- The inbound map entry of a group as the NI has it (R238). -/
def State.mapEntry (s : State) (g : Nat) : Word :=
  (find s.fab.inmap g).getD (s.tableWord (s.fab.mcmapbase.toNat + 8 * g))

/-- The device-memory offset that a delivery of a group writes (R238). -/
def State.windowAt (s : State) (g off : Nat) : Nat := bits (s.mapEntry g) 55 8 * 256 % 2 ^ 42 + off

/-- The stream of a group's multicasts, which source package and group name (R228), whichever I/O die they leave
through. -/
def State.mcStream (s : State) (g : Nat) : StreamId := { cls := 2, src := s.pkg, die := 0, dst := g }

/-- A multicast leaves a site for its group (R239, R330). -/
def State.postMcast (s : State) (c i : Nat) (g off : Nat) (bytes : List Byte) (bad : List Nat) (sw members : Nat) : State :=
  let m := s.msgFrom c i (s.placeOf c) (.mcast g off bytes sw bad)
  { s with net := s.net ++ [{ m with key := s.asidOf c, owner := (s.core c).launch, ring := dieOf c, members }] }

/-- A multicast enters its group's stream, and its aggregate is awaited (R239, R240). -/
def State.sendMcast (s : State) (m : Msg) (g sw : Nat) : State :=
  let id := s.mcStream g
  let die := ioDie (dieOf m.site)
  let sent : McSent :=
    { group := g, seq := ((assoc s.fab.outs id).getD newOut).next, version := (s.fab.table die).version
      launch := m.owner.getD 0, origin := m.src.lcn, sw, members := m.members, slot := m.slot }
  let s := s.sendPacket id die m
  { s with fab := { s.fab with sends := s.fab.sends ++ [sent] } }

/-- The unfinished launch that sent a message to another package. -/
def State.senderOf (s : State) (m : Msg) : Option Nat := m.owner.filter (fun l => (find s.launches l).isSome)

/-- Traffic to a package that is not in the domain is discarded (R236): an access is answered so that it traps, and a
launch whose posted traffic is discarded ends FAULT. RANK-mode messages are DEDUCED, log 58. -/
def State.discardMsg (s : State) (m : Msg) : State :=
  if asksResponse m.body then { s with net := s.net ++ [nackOf m] }
  else if isPosted m.body then match s.senderOf m with
    | some l => s.endLaunch l .fault Cause.access.code
    | none => s
  else s

/-- A message that has come to its I/O die enters the Zynong fabric (R225, R239). -/
def State.leave (s : State) (m : Msg) : State :=
  match m.body with
  | .mcast g _ _ sw _ => s.sendMcast m g sw
  | _ =>
    if s.inDomain m.dst.pkg then s.sendPacket (s.streamOf m.site m) (ioDie (dieOf m.site)) m else s.discardMsg m

/-- Bytes of packets that the retry buffer of an I/O die holds (R227, R229). -/
def Fab.retryBytes (f : Fab) (die : Nat) : Nat :=
  (f.outs.map (fun o => ((o.2.unacked.filter (fun p => p.die == die)).map packetSize).sum)).sum

/-- The retry buffer of an I/O die, of 4 MiB, still takes the largest packet (R229). -/
def Fab.retryRoom (f : Fab) (die : Nat) : Bool := decide (f.retryBytes die + packetMost ≤ 4 * 2 ^ 20)

/-- Traffic from a site to a package is accepted: within the package always, else while the retry buffer of the I/O die
that it leaves through has room (R229). -/
def State.zyRoom (s : State) (c pkg : Nat) : Bool := pkg == s.pkg || s.fab.retryRoom (ioDie (dieOf c))

/-- The queue that a slot's bundle waits for room in, an END or a MIGRATE that leaves and a commit that releases its held
operations among them (R177, R195). -/
def Slot.wants (t : Slot) : Option Queue :=
  match t.wait with
  | .full q => some q
  | .list _ | .leaving => some .ni
  | .tend => t.txn.bind (fun x => if x.committing then x.held.head?.map (fun o => match o with
      | .copy _ => .copy
      | .gather _ => .gather
      | .mcast _ => .ni) else none)
  | _ => none

/-- Of the slots of a core that wait for room in a queue, none issued its bundle before a slot: they get room in the order in
which they began to wait, so that none waits for ever (R48). -/
def CoreSt.firstFor (k : CoreSt) (i : Nat) (q : Queue) : Bool :=
  (List.range 4).all (fun j =>
    let t := k.slot j
    j == i || !t.active || t.wants != some q || decide ((k.slot i).lastIssue < t.lastIssue) ||
      ((k.slot i).lastIssue == t.lastIssue && decide (i < j)))

/-- It is a slot's turn, and there is room, for traffic to a package (R48, R229). -/
def State.zyTurn (s : State) (c i pkg : Nat) : Bool :=
  pkg == s.pkg || (s.zyRoom c pkg && (s.core c).firstFor i .retry)

/-- Places of the outbound buffer that the messages which left a site's NI hold, whichever context sent them (R40). -/
def State.outbound (s : State) (c : Nat) : Nat :=
  let mine := fun (m : Msg) => isMessage m.body && m.src.pkg == s.pkg && m.site == c && m.delivery.isNone
  (s.net.filter mine).length +
  ((s.fab.outs.map (fun o => (o.2.unacked.filter (fun p => mine p.body)).length)).sum)

/-- The NI of a site accepts another message for a package now (R40, R229). -/
def State.niRoom (s : State) (c : Nat) (dst : Place) : Bool :=
  decide (s.outbound c < Config.outbound) && s.zyRoom c dst.pkg

/-- The NI of a site accepts a message of a slot now: there is room, and it is the slot's turn (R40, R48, R229). -/
def State.niTurn (s : State) (c i : Nat) (dst : Place) : Bool :=
  decide (s.outbound c < Config.outbound) && (s.core c).firstFor i .ni && s.zyTurn c i dst.pkg

/-- The wait of a message's bundle for the NI. -/
def State.niWait (s : State) (c i : Nat) (dst : Place) : Wait := if s.zyTurn c i dst.pkg then .full .ni else .full .retry

/-- The NI of a core accepts a multicast of a slot now: a place of the outbound buffer, and room in the retry buffer of the
I/O die that it leaves through (R40, R48, R229, R330). -/
def State.mcTurn (s : State) (c i : Nat) : Bool :=
  decide (s.outbound c < Config.outbound) && (s.core c).firstFor i .ni && s.fab.retryRoom (ioDie (dieOf c)) &&
    (s.core c).firstFor i .retry

/-- A progress event of a slot (R213). -/
def Slot.progress (t : Slot) : Slot := { t with watch := 0, wdogFired := false }

/-- The site of a message's destination context now: by launch and launch-origin core; a message from another
package names its launch by the ASID (R24, R110, R111). Traffic for a context that is about to move is held from the new
placement generation on; what was sent before, and answers, still reach the core that it leaves (R203, R210). -/
def State.destSite (s : State) (m : Msg) : Option Nat :=
  let site := fun (x : Launch) => match find x.places m.dst.lcn with
    | some (.site n) => some n
    | some (.leaving n) => if isResponse m.body || (m.src.pkg == s.pkg && decide (m.gen < x.gen)) then some n else none
    | _ => none
  if m.src.pkg = s.pkg then (find s.launches m.key).bind site
  else s.launches.findSome? (fun (l : Nat × Launch) => if l.2.asid = m.key then site l.2 else none)

/-! ### Sync words -/

/-- Raise(sw, n) of R114 on an LM. -/
def raiseLm (lm : Memory) (o n : Nat) : Memory :=
  let target := lm.num o 4
  let count := (lm.num (o + 4) 4 + n) % 2 ^ 32
  if target ≠ 0 ∧ target ≤ count then
    let lm := if target < count then lm.write (o + 15) (lm.read (o + 15) ||| 0x80) else lm
    (lm.setNum (o + 4) 4 (count - target)).setNum (o + 8) 4 (lm.num (o + 8) 4 + 1)
  else lm.setNum (o + 4) 4 count

/-- SWSET of R114 and R364 on an LM: target, count 0, and the status at its reset value 0x1FF in [124:116]. -/
def swsetLm (lm : Memory) (o : Nat) (target : Nat) : Memory :=
  ((lm.setNum o 4 target).setNum (o + 4) 4 0).setNum (o + 12) 4 (0x1FF * 2 ^ 20)

/-- The slots in WAITEV whose doubleword a write has just left other than 0 will wake (R398). -/
def CoreSt.seeEvents (k : CoreSt) : CoreSt :=
  { k with evSeen := k.evSeen ++ (List.range 4).filter (fun i => !k.evSeen.contains i && match (k.slot i).wait with
      | .waitev off => k.lm.word off != 0
      | _ => false) }

/-- The generation of a sync word. -/
def generationLm (lm : Memory) (o : Nat) : BitVec 32 := BitVec.ofNat 32 (lm.num (o + 8) 4)

/-- A raise at a site's LM port; when the generation advances, its NI sends a wake answer to every remote BAR
arrival of the old generation (R114, R291). -/
def State.raise (s : State) (c o n : Nat) : State :=
  let k := s.core c
  let g := (generationLm k.lm o).toNat
  let lm := raiseLm k.lm o n
  let woken := if generationLm lm o = generationLm k.lm o then []
    else k.barArrivals.filter (fun a => a.2.2.1 == o && a.2.2.2 == g)
  let s := s.setCore c { k with lm, barArrivals := k.barArrivals.filter (fun a => !woken.contains a) }.seeEvents
  woken.foldl (fun s a => s.post c
    { s.msgFrom c 0 a.1 (.wake a.2.1 o (BitVec.ofNat 32 a.2.2.2)) with slot := a.2.1 }) s

/-- RaiseMulticast of R240 at a site's LM port. -/
def State.raiseMulticast (s : State) (c o : Nat) (a : McAnswer) : State :=
  let lm := (s.core c).lm
  let st := lm.num (o + 12) 4
  let neg := st % 2 ^ 10
  let pos := st / 2 ^ 10 % 2 ^ 10
  let low := st / 2 ^ 20 % 2 ^ 9
  let ovr := st / 2 ^ 31
  let cause := st / 2 ^ 29 % 4
  let newer := decide (0 < a.neg) && (neg == 0 || decide (a.low < low))
  let st := ovr * 2 ^ 31 + (if newer then a.cause % 4 else cause) * 2 ^ 29 +
    (if newer then a.low % 512 else low) * 2 ^ 20 + (pos + a.pos) % 2 ^ 10 * 2 ^ 10 + (neg + a.neg) % 2 ^ 10
  let s := s.modCore c (fun k => { k with lm := k.lm.setNum (o + 12) 4 st }.seeEvents)
  s.raise c o (a.pos + a.neg)

/-! ### The queues of a core (R31, R39 to R41) -/

/-- The destination of a message: a channel's FIFO, or the arrival queue (Table 2.7). -/
def fifoOf : MsgBody → Option Nat
  | .data ch _ => some ch
  | .reply ch _ => some ch
  | _ => none

/-- The words that a message puts into a FIFO. -/
def wordsOf : MsgBody → List PWord
  | .data _ ws => ws
  | .reply _ w => [w]
  | _ => []

/-- A message that the last 64 oasis entries take (R40). -/
def takesReserve : MsgBody → Bool
  | .migrate .. | .call .. | .reply .. => true
  | _ => false

/-- A SPAWN child, which comes into the arrival-queue entry that its target reserved (R42). -/
def isReserved : MsgBody → Bool
  | .spawn _ _ _ queued => !queued
  | _ => false

/-- A core's handler of a channel runs contained activations (R218). -/
def CoreSt.containedAt (k : CoreSt) (ch : Nat) : Bool := ((k.handler ch).map Handler.contained).getD false

/-- The words of a channel that no contained activation has consumed, oldest first (R31, R219). -/
def CoreSt.words (k : CoreSt) (ch : Nat) : List FifoWord := (listOf k.fifos ch).filter (fun w => w.slot.isNone)

/-- Free words of a channel's FIFO: consumed words keep their room (R219). -/
def CoreSt.fifoRoom (k : CoreSt) (ch : Nat) : Nat := Config.fifoWords - (listOf k.fifos ch).length

/-- Arrival-queue entries in use: entries, those of contained activations that run among them, and reserved ones (R42,
R219). -/
def CoreSt.arrivalUsed (k : CoreSt) : Nat := k.arrival.length + k.reserved

/-- A batch stays in its queue: an item has not started, or runs contained (R27, R219). -/
def Batch.stands (b : Batch) : Bool := decide (0 < b.left) || !b.back.isEmpty || !b.held.isEmpty

/-- A batch has an item that can start. -/
def Batch.offers (b : Batch) : Bool := decide (0 < b.left) || !b.back.isEmpty

/-- The destination of a message has room (R39). -/
def CoreSt.hasRoom (k : CoreSt) (b : MsgBody) : Bool :=
  match fifoOf b with
  | some ch => decide ((wordsOf b).length ≤ k.fifoRoom ch)
  | none => decide (k.arrivalUsed < 16)

/-- A message enters its destination, its words together (R36). -/
def CoreSt.enter (k : CoreSt) (q : QMsg) : CoreSt :=
  match fifoOf q.msg.body with
  | some ch => { k with fifos := put k.fifos ch (listOf k.fifos ch ++ (wordsOf q.msg.body).map (fun w => { word := w })) }
  | none => { k with arrival := k.arrival ++ [q] }

/-- An older message of the same sender to the same destination. -/
def sameWay (a b : QMsg) : Bool := a.msg.src == b.msg.src && fifoOf a.msg.body == fifoOf b.msg.body

/-- The place in the oasis of the entry that moves next (R41): older holds the entries already passed. -/
def oasisNext (k : CoreSt) : List QMsg → List QMsg → Option (QMsg × List QMsg)
  | _, [] => none
  | older, q :: r =>
    if k.hasRoom q.msg.body && !older.any (sameWay q) then some (q, older ++ r) else oasisNext k (older ++ [q]) r

/-- Oasis entries move out until none can (R41). -/
def CoreSt.oasisMoves (k : CoreSt) : Nat → CoreSt
  | 0 => k
  | n + 1 => match oasisNext k [] k.oasis with
    | some (q, rest) => ({ k with oasis := rest }.enter q).oasisMoves n
    | none => k

/-- Oasis entries move out as room has appeared. -/
def CoreSt.settle (k : CoreSt) : CoreSt := k.oasisMoves k.oasis.length

/-- The oasis takes a message (R40). -/
def CoreSt.oasisTakes (k : CoreSt) (b : MsgBody) : Bool :=
  decide (k.oasis.length < Config.oasisCommon) || (takesReserve b && decide (k.oasis.length < Config.oasisAll))

/-- An arriving message is taken by the core, or by none of its queues and stays in the sending NI (R39, R40). A SPAWN
child takes its reserved entry; behind an older message of its sender that waits in the oasis it goes there too (R38). An
entry of the oasis whose destination has room moves out of it (R41, R48). -/
def CoreSt.receive (k : CoreSt) (m : Msg) : Option CoreSt :=
  let q : QMsg := { msg := m }
  let free := { k with reserved := if isReserved m.body then k.reserved - 1 else k.reserved }
  if isReserved m.body && !k.oasis.any (sameWay q) then some (free.enter q)
  else if !isReserved m.body && k.oasis.isEmpty && k.hasRoom m.body then some (k.enter q)
  else if k.oasisTakes m.body then some { free with oasis := k.oasis ++ [q] }.settle
  else none

end Sys2Proof.Machine
end

