-- ==== Sys2Proof/Machine/Coherence.lean ====
section
/-!
DEFINITION. Global memory as the agents reach it: the home and its directory (05_memory R121), the L1 data cache and
the write buffer (R117), transactions (07_ordering R168 to R176), and releases and acquires (R156, R157). Loads, stores
and atomics of the LSU on every space.
-/
namespace Sys2Proof.Machine

/-! ### The private memories -/

/-- The granules of 8 bytes that a write covers whole (R217). -/
def covered (a n : Nat) : List Nat := (List.range ((a + n) / 8 - (a + 7) / 8)).map (fun k => (a + 7) / 8 + k)

/-- A write to LM; granules it covers whole lose their poison (R217), and the slots in WAITEV see it (R398). -/
def CoreSt.lmWrite (k : CoreSt) (off : Nat) (bs : List Byte) : CoreSt :=
  CoreSt.seeEvents { k with
    lm := k.lm.writeBytes off bs
    poison := k.poison.filter (fun p => !(covered off bs.length).any (fun g => p == .lm g)) }

/-- A write to the A buffer. -/
def CoreSt.abufWrite (k : CoreSt) (off : Nat) (bs : List Byte) : CoreSt :=
  { k with abuf := k.abuf.writeBytes off bs
           poison := k.poison.filter (fun p => !(covered off bs.length).any (fun g => p == .abuf g)) }

/-- A write to the W buffer by COPY or MLDW: every macro touched becomes unloaded (R144). -/
def CoreSt.wbufWrite (k : CoreSt) (off : Nat) (bs : List Byte) : CoreSt :=
  let touched := (List.range 16).filter (fun t =>
    decide (0 < bs.length) && decide (off < 4096 * (t + 1)) && decide (4096 * t < off + bs.length))
  { k with wbuf := k.wbuf.writeBytes off bs
           cimLoaded := touched.foldl (fun (l : BitVec 16) t => l &&& ~~~(BitVec.ofNat 16 (2 ^ t))) k.cimLoaded
           poison := k.poison.filter (fun p => !(covered off bs.length).any (fun g => p == .wbuf g)) }

/-- Some granule of an A buffer range is poisoned. -/
def CoreSt.abufBad (k : CoreSt) (off n : Nat) : Bool := (granules off n).any (fun g => k.poison.contains (.abuf g))

/-- Some granule of a W buffer range is poisoned. -/
def CoreSt.wbufBad (k : CoreSt) (off n : Nat) : Bool := (granules off n).any (fun g => k.poison.contains (.wbuf g))

/-- The visible bank and the offset in it that a C window offset names (R107). -/
def CoreSt.cRead (k : CoreSt) (off n : Nat) : List Byte :=
  if off < 0x4000 then k.acc0v.data.bytes off n else k.acc1v.data.bytes (off - 0x4000) n

/-- Some granule of a C window range is poisoned. -/
def CoreSt.cBad (k : CoreSt) (off n : Nat) : Bool :=
  if off < 0x4000 then (granules off n).any k.acc0v.bad.contains else (granules (off - 0x4000) n).any k.acc1v.bad.contains

/-- Bytes stored in a bank; granules they cover whole lose their poison (R217). -/
def Bank.store (b : Bank) (off : Nat) (bs : List Byte) : Bank :=
  { b with data := b.data.writeBytes off bs, bad := b.bad.filter (fun g => !(covered off bs.length).contains g) }

/-- A store to the C window writes the visible bank (R359). -/
def CoreSt.cWrite (k : CoreSt) (off : Nat) (bs : List Byte) : CoreSt :=
  if off < 0x4000 then { k with acc0v := k.acc0v.store off bs }
  else { k with acc1v := k.acc1v.store (off - 0x4000) bs }

/-! ### The home -/

/-- Some granule of a device-memory range is poisoned. -/
def State.memBad (s : State) (off n : Nat) : Bool := (granules off n).any s.memPoison.contains

/-- The bytes of a memory range with their poison marks. -/
def marked (m : Memory) (bad : Nat → Bool) (off n : Nat) : List (Byte × Bool) :=
  (List.range n).map (fun k => (m.read (off + k), bad ((off + k) / 8)))

/-- A directory entry for a line that no L2 and no host holds. -/
def emptyDir : DirEntry := { l2 := [], hostShares := false, snooping := false, watched := false }

/-- The directory entry of the 256-byte line of an offset (R121). -/
def State.dirOf (s : State) (off : Nat) : DirEntry := (find s.dir (off / 256)).getD emptyDir

/-- The state with a line's directory entry changed. -/
def State.modDir (s : State) (off : Nat) (f : DirEntry → DirEntry) : State :=
  { s with dir := put s.dir (off / 256) (f (s.dirOf off)) }

/-- A read by a die: its L2 takes the line in E when alone, else in S, and an owner keeps it in O; a watched line is
served at its home (R121). -/
def DirEntry.grantRead (e : DirEntry) (die : Nat) : DirEntry :=
  if e.watched then e
  else match find e.l2 die with
    | some _ => e
    | none =>
      if e.l2 = [] then { e with l2 := [(die, .e)] }
      else { e with l2 := put (e.l2.map (fun p => (p.1, match p.2 with | .m => .o | .e => .s | x => x))) die .s }

/-- A write by a die: the other copies are invalidated, and the die holds the line in M; a watched line is held by no
L2 in M or E (R121). -/
def DirEntry.grantWrite (e : DirEntry) (die : Option Nat) : DirEntry :=
  match die with
  | some d => if e.watched then { e with l2 := [] } else { e with l2 := [(d, .m)] }
  | none => { e with l2 := [] }

/-- Who performs a write at a home: a die's L2, the home itself for a far operation, or an agent outside the package
(R121, R122, R166). -/
inductive Writer where
  | die (d : Nat)
  | far
  | outside
  deriving DecidableEq, Repr

/-- An L1 of a core keeps its copy when another agent writes the line (R121, R166). -/
def Writer.keeps : Writer → Nat → Bool
  | .die d, c => dieOf c == d
  | .far, _ => false
  | .outside, _ => true

/-- The slice of a die's L2, of 64 slices of 1,024 sets of 12 ways, that a line of a physical address lies in (R119). -/
def l2Slice (pa : Nat) : Nat :=
  ((pa / 2 ^ 8 % 64 ^^^ pa / 2 ^ 14 % 64) ^^^ pa / 2 ^ 20 % 64) ^^^ pa / 2 ^ 26 % 64

/-- The 256-byte lines that a range touches (R119, R121). -/
def linesOf (off n : Nat) : List Nat := (List.range ((off + n + 255) / 256 - off / 256)).map (fun k => 256 * (off / 256 + k))

/-- The L1 lines inside some 256-byte lines are dropped where the writer's die does not keep them: its L2's copy of the
whole line is invalidated (R121). -/
def State.dropLines (s : State) (w : Writer) (lines : List Nat) : State :=
  { s with cores := s.cores.map (fun p =>
      if w.keeps p.1 then p
      else (p.1, { p.2 with l1d := p.2.l1d.filter (fun l => !lines.contains (l.pa % 2 ^ 42 / 256 * 256)) })) }

/-- A write to a watched line is performed at its home, whoever writes it (R121, R186). -/
def State.writerOf (s : State) (w : Writer) (lines : List Nat) : Writer :=
  match w with
  | .die _ => if lines.any (fun l => (s.dirOf l).watched) then .far else w
  | _ => w

/-- The agent that performs an atomic or a reduction on device memory: the L2 slice of the home die where some L2 holds the
line, else the logic die, which allocates none (R122, Table 5.8). -/
def State.atomicWriter (s : State) (off : Nat) : Writer :=
  if (s.dirOf off).l2 = [] then .far else .die (off / 4096 % 8)

/-- The directory step of a write to some lines (R121). A far write finds copies only where there is an entry. -/
def State.grantLines (s : State) (w : Writer) (lines : List Nat) : State :=
  match w with
  | .die d => lines.foldl (fun (s : State) l => s.modDir l (fun e => e.grantWrite (some d))) s
  | .far => { s with dir := s.dir.map (fun e =>
      if lines.contains (256 * e.1) then (e.1, e.2.grantWrite none) else e) }
  | .outside => s

/-- The directory grants an agent the lines of a range: the copies that it does not keep are recalled (R121, R122). -/
def State.claimLines (s : State) (w : Writer) (off n : Nat) : State :=
  let lines := linesOf off n
  let w := s.writerOf w lines
  (s.grantLines w lines).dropLines w lines

/-- A write performed at its home in this package. -/
def State.homeWrite (s : State) (w : Writer) (off : Nat) (bs : List Byte) : State :=
  { s with mem := s.mem.writeBytes off bs
           memPoison := s.memPoison.filter (fun g => !(covered off bs.length).contains g) }.claimLines w off bs.length

/-- Device memory of this package as R122's indivisible operations write it. -/
def State.atomicWrite (s : State) (off : Nat) (bs : List Byte) : State := s.homeWrite (s.atomicWriter off) off bs

/-- What an indivisible operation leaves of n bytes: one that writes nothing, a CAS that fails, is performed in the home die's
L2 all the same, after the other dies' copies are recalled (Table 5.8). -/
def State.atomicDone (s : State) (off n : Nat) : Option (List Byte) → State
  | some new => s.atomicWrite off new
  | none => s.claimLines (s.atomicWriter off) off n

/-- A device agent may write the line: no host copy stands in the way (R246). -/
def State.hostClear (s : State) (off : Nat) : Bool := !(s.dirOf off).hostShares

/-- The back-invalidate snoop of R246 is sent. -/
def State.snoop (s : State) (off : Nat) : State := s.modDir off (fun e => { e with snooping := true })

/-- The host holds no line of a range. -/
def State.rangeClear (s : State) (off n : Nat) : Bool := (linesOf off n).all s.hostClear

/-- The snoops for the lines of a range that the host holds. -/
def State.snoopRange (s : State) (off n : Nat) : State :=
  (linesOf off n).foldl (fun (s : State) l => if s.hostClear l then s else s.snoop l) s

/-! ### Conflicts between transactions and other accesses (R174 to R176) -/

/-- A request for a tile, the columns of Table 7.8. -/
inductive Request where
  | read
  | write
  | red (op : RedOp) (ty : LaneType)
  | plainRead
  | plainWrite
  deriving DecidableEq, Repr

/-- Table 7.8 for one transaction that may hold the tile. -/
def Txn.conflicts (x : Txn) (tile : Nat) (q : Request) : Bool :=
  let reader := x.reads.contains tile
  let writer := x.writes.contains tile
  let mine := x.reds.filter (fun r => r.1 == tile)
  match q with
  | .read => writer || !mine.isEmpty
  | .write => reader || writer || !mine.isEmpty
  | .red op ty => reader || writer || mine.any (fun r => r.2 != (op, ty))
  | .plainRead => writer || !mine.isEmpty
  | .plainWrite => reader || writer || !mine.isEmpty

/-- Every slot with an open transaction. -/
def State.txns (s : State) : List (Nat × Nat × Txn) :=
  s.cores.flatMap (fun p => (List.range 4).filterMap (fun i => (p.2.slot i).txn.map (fun x => (p.1, i, x))))

/-- The transactions that a request for a tile meets, other than the requesting slot's own. -/
def State.hits (s : State) (tile : Nat) (q : Request) (self : Option (Nat × Nat)) : List (Nat × Nat × Txn) :=
  s.txns.filter (fun t => t.2.2.conflicts tile q && some (t.1, t.2.1) != self)

/-- TFRONT of the launch that a core holds. -/
def State.frontOf (s : State) (c : Nat) : Word := ((s.launchOf c).map Launch.front).getD 1

/-- The first of two ages is older: by CYCLE modulo 2^48, then by SLOT (R175). -/
def olderByAge (a b : Word) : Bool :=
  let d := (bits b 63 16 + 2 ^ 48 - bits a 63 16) % 2 ^ 48
  if d = 0 then decide (bits a 15 0 < bits b 15 0) else decide (d < 2 ^ 47)

/-- The first of two transactions is older (R175). -/
def State.older (s : State) (a b : Nat × Nat × Txn) : Bool :=
  let lead := fun (t : Nat × Nat × Txn) => t.2.2.stamp == some (s.frontOf t.1)
  if lead a && !lead b then true
  else if lead b && !lead a then false
  else match a.2.2.stamp, b.2.2.stamp with
    | some ta, some tb =>
      if (s.core a.1).launch == (s.core b.1).launch then decide (ta.toNat < tb.toNat)
      else olderByAge a.2.2.age b.2.2.age
    | _, _ => olderByAge a.2.2.age b.2.2.age

/-- A non-transactional access to a tile: the transactions it hits abort with PLAINHIT; none while one of them is
committing, and the access waits (R176). An operation that a commit releases does not meet its own transaction. Reads of
engines and of the host count as plain reads (DEDUCED, log 62). -/
def State.plainAccess (s : State) (tile : Nat) (isWrite : Bool) (self : Option (Nat × Nat) := none) : Option State :=
  let hs := s.hits tile (if isWrite then .plainWrite else .plainRead) self
  if hs.any (fun t => t.2.2.committing) then none
  else some (hs.foldl (fun s t => s.abortTxn t.1 t.2.1 .plainhit 0) s)

/-- The tiles that a range of device memory touches. -/
def tilesOf (off n : Nat) : List Nat := (List.range ((off + n + 511) / 512 - off / 512)).map (fun k => off / 512 + k)

/-- An access of an engine or of another agent to every tile of a range (R176); none while it must wait. -/
def State.touchTiles (s : State) (isWrite : Bool) (tiles : List Nat) (self : Option (Nat × Nat) := none) : Option State :=
  match tiles with
  | [] => some s
  | t :: r => (s.plainAccess t isWrite self).bind (fun s => s.touchTiles isWrite r self)

/-- The dispatcher or a save engine writes device memory at its home; else the state in which the write waits for the
host's answer (R246) or for a commit (R176). -/
def State.agentWrite (s : State) (off : Nat) (bs : List Byte) : Except State State :=
  if !s.rangeClear off bs.length then .error (s.snoopRange off bs.length)
  else match s.touchTiles true (tilesOf off bs.length) with
    | some t => .ok (t.homeWrite .far off bs)
    | none => .error s

/-- The running slot's transaction, with the slot. -/
def State.myTxn (s : State) : Option (Nat × Nat × Txn) := s.me.txn.map (fun x => (s.cur.1, s.cur.2, x))

/-- A transactional request meets the other transactions (R175): an older one wins and the requester aborts; a
committing one is waited for; younger ones abort. -/
def State.contend (s : State) (tile : Nat) (q : Request) : Except Stop State :=
  match s.myTxn with
  | none => .ok s
  | some me =>
    let hs := s.hits tile q (some s.cur)
    if hs.any (fun t => s.older t me) then .error (.abort .conflict 0)
    else if hs.any (fun t => t.2.2.committing) then .error (.wait s .stall)
    else .ok (hs.foldl (fun s t => s.abortTxn t.1 t.2.1 .conflict 0) s)

/-- The tiles a transaction has written or reduced. -/
def Txn.dirty (x : Txn) : List Nat := (x.writes ++ x.reds.map (fun r => r.1)).eraseDups

/-- The die whose versioned store holds a tile (R120, R171). -/
def tileDie (tile : Nat) : Nat := tile / 8 % 8

/-- The youngest of some transactions. -/
def State.youngest (s : State) : List (Nat × Nat × Txn) → Option (Nat × Nat × Txn)
  | [] => none
  | t :: r => match s.youngest r with
    | some u => if s.older t u then some u else some t
    | none => some t

/-- A place in the versioned store of a tile's home die (R171). -/
def State.versionPlace (s : State) (tile : Nat) : Except Stop State :=
  let held := fun (t : Nat × Nat × Txn) => (t.2.2.dirty.filter (fun u => tileDie u == tileDie tile)).length
  if ((s.txns.map held).sum) < Config.versionedTiles then .ok s
  else match s.youngest (s.txns.filter (fun t =>
      !t.2.2.committing && (decide (0 < held t) || (t.1, t.2.1) == s.cur))) with
    | some t => if (t.1, t.2.1) = s.cur then .error (.abort .conflict 1) else .ok (s.abortTxn t.1 t.2.1 .conflict 1)
    | none => .error (.wait s .stall)

/-! ### A transaction's own accesses (R170, R174) -/

/-- Reduce(op, type) on one element (R104, R371). -/
def reduceElem (op : RedOp) (t : LaneType) (old v : Nat) : Nat :=
  if t.isInt then
    match op with
    | .add => (old + v) % 2 ^ laneWidth t
    | .min => if intOf t v < intOf t old then v else old
    | .max => if intOf t old < intOf t v then v else old
  else
    match op with
    | .add => (addLane t farRounding old v).1
    | .min => (minmaxLane t false false false old v).1
    | .max => (minmaxLane t false true false old v).1

/-- Reduce on the elements of a range of bytes. -/
def reduceBytes (op : RedOp) (t : LaneType) (old v : List Byte) : List Byte :=
  let w := laneWidth t / 8
  (List.range (v.length / w)).flatMap (fun e =>
    bytesOfNat w (reduceElem op t (natOfBytes ((old.drop (e * w)).take w)) (natOfBytes ((v.drop (e * w)).take w))))

/-- The byte of device memory as a transaction sees it. -/
def State.txnByte (s : State) (x : Txn) (off : Nat) : Byte := (find x.spec off).getD (s.mem.read off)

/-- The bytes of device memory as a transaction sees them. -/
def State.txnBytes (s : State) (x : Txn) (off n : Nat) : List Byte := (List.range n).map (fun k => s.txnByte x (off + k))

/-- Speculative bytes set from an offset on. -/
def specPut (spec : List (Nat × Byte)) : Nat → List Byte → List (Nat × Byte)
  | _, [] => spec
  | off, b :: r => specPut (put spec off b) (off + 1) r

/-- A reducer of a tile becomes its writer: its pending contributions are applied in program order (R174). -/
def State.promote (s : State) (x : Txn) (tile : Nat) : Txn :=
  if x.reds.any (fun r => r.1 == tile) then
    let inTile := fun (p : PendRed) => p.pa / 512 == tile
    let y := (x.pendRed.filter inTile).foldl (fun (y : Txn) p =>
      { y with spec := specPut y.spec p.pa (reduceBytes p.op p.ty (s.txnBytes y p.pa p.bytes.length) p.bytes) }) x
    { y with reds := x.reds.filter (fun r => r.1 != tile), pendRed := x.pendRed.filter (fun p => !inTile p)
             writes := if x.writes.contains tile then x.writes else x.writes ++ [tile] }
  else x

/-- The running core's L1 lines of a tile leave: what a transaction reads at the home is never followed by an older value
(R154). -/
def State.forgetTile (s : State) (tile : Nat) : State :=
  s.modHere (fun k => { k with l1d := k.l1d.filter (fun l => l.pa % 2 ^ 42 / 512 != tile) })

/-- The running slot's transaction registers a request at the directory (R170, R171, R174). -/
def State.txnTouch (s : State) (tile : Nat) (q : Request) : Except Stop State :=
  match s.me.txn with
  | none => .ok s
  | some x =>
    let reducer := x.reds.any (fun r => r.1 == tile)
    let known := match q with
      | .read => !reducer && x.reads.contains tile
      | .write => x.writes.contains tile
      | .red op ty => x.writes.contains tile || x.reds.contains (tile, op, ty)
      | _ => true
    if known then .ok s
    else do
      let s ← s.contend tile q
      match q with
      | .read =>
        if x.reads.contains tile then pure (s.modMe (fun t => { t with txn := some (s.promote x tile) }))
        else if 1024 ≤ x.reads.length then .error (.abort .capacity 0)
        else pure ((s.modMe (fun t => { t with
          txn := some { s.promote x tile with reads := x.reads ++ [tile] } })).forgetTile tile)
      | _ =>
        if !x.dirty.contains tile && decide (256 ≤ x.dirty.length) then .error (.abort .capacity 0)
        else
          let s ← if x.dirty.contains tile then pure s else s.versionPlace tile
          match q with
          | .red op ty => pure (s.modMe (fun t => { t with txn := some { x with reds := x.reds ++ [(tile, op, ty)] } }))
          | _ =>
            let x := s.promote x tile
            let x := if x.writes.contains tile then x else { x with writes := x.writes ++ [tile] }
            pure (s.modMe (fun t => { t with txn := some x }))

/-- A transactional read. -/
def State.txnLoad (s : State) (off n : Nat) : Except Stop (State × List Byte) := do
  let s ← s.txnTouch (off / 512) .read
  match s.me.txn with
  | some x => pure (s, s.txnBytes x off n)
  | none => pure (s, s.mem.bytes off n)

/-- A transactional write. -/
def State.txnStore (s : State) (off : Nat) (bs : List Byte) : Except Stop State := do
  let s ← s.txnTouch (off / 512) .write
  pure (s.modMe (fun t => { t with txn := t.txn.map (fun x => { x with spec := specPut x.spec off bs }) }))

/-! ### The L1 data cache and the write buffer (R117) -/

/-- An L1 line covers a virtual address of an ASID. -/
def Line.covers (l : Line) (asid va : Nat) : Bool := l.asid == asid && l.va == va / 64 * 64

/-- Stores overlaid on the 64 bytes of a line. -/
def overlay (base : Nat) (data : List Byte) (stores : List (Nat × Byte)) : List Byte :=
  stores.foldl (fun d p => if base ≤ p.1 ∧ p.1 < base + 64 then d.set (p.1 - base) p.2 else d) data

/-- A line as the core's own stores leave it: memory at home with the write buffer's bytes over it. -/
def State.lineData (s : State) (c : Nat) (pa : Nat) : List Byte :=
  ((s.core c).wb.filter (fun e => e.pa == pa)).foldl (fun d e => overlay pa d e.stores)
    (s.mem.bytes (pa % 2 ^ 42) 64)

/-- A line enters its set of eight ways; the oldest of a full set leaves (log 6). -/
def CoreSt.fillL1 (k : CoreSt) (l : Line) : CoreSt :=
  let inSet := fun (m : Line) => m.va / 64 % 64 == l.va / 64 % 64
  let kept := if (k.l1d.filter inSet).length < 8 then k.l1d
    else match k.l1d.find? inSet with
      | some old => k.l1d.erase old
      | none => k.l1d
  { k with l1d := kept ++ [l] }

/-- A read through the L1 of a core (R117, R118). -/
def State.cachedRead (s : State) (c va pa n : Nat) : State × List Byte :=
  let asid := s.asidOf c
  match (s.core c).l1d.find? (fun l => l.covers asid va) with
  | some l => (s, (l.data.drop (va % 64)).take n)
  | none =>
    let base := pa / 64 * 64
    let data := s.lineData c base
    let s := s.modDir (base % 2 ^ 42) (fun e => e.grantRead (dieOf c))
    let s := s.modCore c (fun k => k.fillL1 { asid, va := va / 64 * 64, pa := base, data })
    (s, (data.drop (va % 64)).take n)

/-- The bytes from an address on, paired with their addresses. -/
def placed : Nat → List Byte → List (Nat × Byte)
  | _, [] => []
  | a, b :: r => (a, b) :: placed (a + 1) r

/-- A store updates the L1 line if it is present (R117, R118). -/
def CoreSt.storeL1 (k : CoreSt) (asid va pa : Nat) (bs : List Byte) : CoreSt :=
  { k with l1d := k.l1d.map (fun l =>
      if l.covers asid va then { l with data := overlay l.pa l.data (placed pa bs) } else l) }

/-- An entry of the write buffer is performed at its home; none while a committing transaction or the host's copy
stands in the way (R176, R246). The slots that stored make a progress event (R213). -/
def State.drainEntry (s : State) (c : Nat) (e : WbEntry) : Option State :=
  let off := e.pa % 2 ^ 42
  if !s.hostClear off then none
  else (s.plainAccess (off / 512) true).map (fun s =>
    let s := e.stores.foldl (fun s p => s.homeWrite (.die (dieOf c)) (p.1 % 2 ^ 42) [p.2]) s
    e.slots.foldl (fun s i => s.modSlot c i Slot.progress) s)

/-- Granules that the stores of an entry cover whole lose their poison (R217). -/
def State.drainPoison (s : State) (e : WbEntry) : State :=
  { s with memPoison := s.memPoison.filter (fun g =>
      !(List.range 8).all (fun k => e.stores.any (fun p => p.1 % 2 ^ 42 == 8 * g + k))) }

/-- WRITE_BUFFER_DRAIN of entry n of a core; an entry that must wait for the host's answer sends its snoop. -/
def State.drainNth (s : State) (c n : Nat) : Option State :=
  match (s.core c).wb[n]? with
  | none => none
  | some e => (s.drainEntry c e).map (fun t =>
      (t.drainPoison e).modCore c (fun k => { k with wb := k.wb.eraseIdx n }))

/-- The snoops that a core's write buffer needs. -/
def State.snoopWb (s : State) (c : Nat) : State :=
  (s.core c).wb.foldl (fun s e => if s.hostClear (e.pa % 2 ^ 42) then s else s.snoop (e.pa % 2 ^ 42)) s

/-- The write buffer drains, oldest entry first, as far as it can. -/
def State.drainSteps (s : State) (c : Nat) : Nat → State
  | 0 => s
  | n + 1 => match s.drainNth c 0 with
    | some t => t.drainSteps c n
    | none => s.snoopWb c

/-- The whole write buffer of a core drains as far as it can. -/
def State.drainAll (s : State) (c : Nat) : State := s.drainSteps c (s.core c).wb.length

/-- The running core's write buffer is empty, or the bundle stalls until it is. A drain may abort the slot's own transaction
(R176): its bundle is over then. -/
def State.drained (s : State) (w : Wait := .stall) : Except Stop State :=
  let t := s.drainAll s.cur.1
  if s.me.txn.isSome ∧ t.me.txn.isNone then .error (.wait (t.keepFlags s.cur.1 s.cur.2) .none)
  else if (t.core s.cur.1).wb = [] then .ok t
  else .error (.wait t w)

/-- Stores of a slot merged into their line's entry, or a new entry for the line (R117). -/
def CoreSt.mergeWb (k : CoreSt) (asid va base i : Nat) (stores : List (Nat × Byte)) : CoreSt :=
  let has := k.wb.any (fun e => e.pa == base)
  let merged := k.wb.map (fun e => if e.pa == base then
    { e with stores := e.stores ++ stores, slots := (if e.slots.contains i then e.slots else e.slots ++ [i]) } else e)
  let entry : WbEntry := { asid, va := va / 64 * 64, pa := base, stores, slots := [i] }
  { k with wb := if has then merged else k.wb ++ [entry] }

/-- A store enters the write buffer: merged into its line's entry, or a new entry; a full buffer first drains its
oldest entry (R117). -/
def State.enterWb (s : State) (va pa : Nat) (bs : List Byte) : Except Stop State :=
  let (c, i) := s.cur
  let asid := s.asidOf c
  let base := pa / 64 * 64
  let add := fun (s : State) => s.modCore c (fun k => (k.storeL1 asid va pa bs).mergeWb asid va base i (placed pa bs))
  let wb := (s.core c).wb
  if wb.any (fun e => e.pa == base) || decide (wb.length < 16) then .ok (add s)
  else match s.drainNth c 0 with
    | some t => .ok (add t)
    | none => .error (.wait (s.snoopWb c) .stall)

/-! ### Releases and acquires (R156, R157) -/

/-- A posted access of a slot has not been performed yet. -/
def State.postedBy (s : State) (c i : Nat) : Bool :=
  s.net.any (fun m => isAccess m.body && m.src == s.placeOf c && m.slot == i && s.ownMsg ((s.core c).launch.getD 0) m)

/-- A posted access of the running slot has not been performed yet. -/
def State.posted (s : State) : Bool := s.postedBy s.cur.1 s.cur.2

/-- The running slot's posted accesses and, at scope SYSTEM, its writes to the host window have been performed: a zero-length
read on each link that carried them has completed (R157, R244). -/
def State.performed (s : State) (sc : Scope) : Except Stop State :=
  if sc ≠ .slot ∧ sc ≠ .core ∧ s.posted = true then .error (.wait s .stall)
  else if sc = .sys ∧ s.me.hostLinks ≠ [] then
    .error (.wait (s.me.hostLinks.foldl (fun (s : State) l => s.onLink l false 0 0) s) .hostFence)
  else .ok s

/-- Release(scope) of the running slot: the write buffer drains, and the slot's accesses have been performed (R157). The stores
of an open transaction are no stores of the write buffer. -/
def State.releaseAll (s : State) (sc : Scope) : Except Stop State := do (← s.drained).performed sc

/-- Release(scope) of the running slot, where a transaction adds nothing (R159, R288, R362). -/
def State.release (s : State) (sc : Scope) : Except Stop State :=
  if s.me.txn.isSome then .ok s else s.releaseAll sc

/-- A core drops its L1 lines at GROUP and wider scopes (R156); speculative bytes are no line of it. -/
def State.dropL1 (s : State) (c : Nat) (sc : Scope) : State :=
  if Scope.drops sc then s.modCore c (fun k => { k with l1d := [] }) else s

/-- Acquire(scope) at a core, where a transaction adds nothing (R156, R159, R288, R323). -/
def State.acquireAt (s : State) (c i : Nat) (sc : Scope) : State :=
  if (s.slot c i).txn.isSome then s else s.dropL1 c sc

/-- Acquire(scope) of the running slot. -/
def State.acquire (s : State) (sc : Scope) : State := s.acquireAt s.cur.1 s.cur.2 sc

/-! ### LSU accesses (R321, R359, R286) -/

/-- A remote access leaves, and the bundle waits for its answer (R111, R112); it stalls while the NI accepts nothing for
another package (R229). -/
def State.askRemote (s : State) (p : Place) (op : RemoteOp) (off : Nat) (a : Word) (land : Landing)
    (acq : Option Scope) : Except Stop (State × List Byte) :=
  if !s.zyTurn s.cur.1 s.cur.2 p.pkg then .error (.wait s (.full .retry))
  else .error (.wait (s.post s.cur.1 (s.msgFrom s.cur.1 s.cur.2 p (.access op off (.slot s.cur.2)))) (.answer land a acq))

/-- An access to global memory homed in another package leaves, and the bundle waits for its answer (R119, R111). -/
def State.askHome (s : State) (pkg : Nat) (op : RemoteOp) (off : Nat) (a : Word) (land : Landing)
    (acq : Option Scope) : Except Stop (State × List Byte) :=
  if !s.zyTurn s.cur.1 s.cur.2 pkg then .error (.wait s (.full .retry))
  else .error (.wait (s.post s.cur.1 (s.msgFrom s.cur.1 s.cur.2 ⟨pkg, 0⟩ (.globalAccess op off (.slot s.cur.2))))
    (.answer land a acq))

/-- A poisoned granule of a device-memory range that the reader has not written whole itself (R217). -/
def State.badBut (s : State) (off n : Nat) (own : Nat → Bool) : Bool :=
  (granules off n).any (fun g => s.memPoison.contains g && !(List.range 8).all (fun k => own (8 * g + k)))

/-- A write buffer holds a store to a byte of device memory. -/
def CoreSt.buffers (k : CoreSt) (off : Nat) : Bool := k.wb.any (fun e => e.stores.any (fun p => p.1 % 2 ^ 42 == off))

/-- What a load of device memory of this package reads is poisoned: what the slot's transaction or, for a cached access, the
core's write buffer holds over it is not (R217). -/
def State.loadBad (s : State) (off n : Nat) (uncached : Bool) : Bool :=
  match s.me.txn with
  | some x => s.badBut off n (fun o => (find x.spec o).isSome)
  | none => s.badBut off n (fun o => !uncached && s.here.buffers o)

/-- A load of n bytes that passed CheckMem (R321); it waits where the data is elsewhere. -/
def State.load (s : State) (a : Word) (n : Nat) (k : Checked) (land : Landing) (acq : Option Scope := none) :
    Except Stop (State × List Byte) :=
  match k.space, k.leaf with
  | .lm off, _ => if s.here.lmBad off n then .error (.poison a) else .ok (s, s.here.lm.bytes off n)
  | .abuf off, _ => if s.here.abufBad off n then .error (.poison a) else .ok (s, s.here.abuf.bytes off n)
  | .cbuf off, _ => if s.here.cBad off n then .error (.poison a) else .ok (s, s.here.cRead off n)
  | .remote r, _ => s.askRemote r.place (.load n) r.off a land acq
  | .global, some t =>
    let s := s.cacheLeaf t
    match s.homeOf (t.phys a.toNat) t.uncached with
    | .host addr => .error (.wait (s.askHost false addr n) (.hostRead land a acq (s.hostLink addr)))
    | .other pkg off =>
      if s.me.txn.isSome then .error (.abort .xpkg 0) else s.askHome pkg (.load n) off a land acq
    | .own off uncached =>
      if s.loadBad off n uncached then .error (.poison a)
      else if s.me.txn.isSome then s.txnLoad off n
      else match s.plainAccess (off / 512) false with
        | none => .error (.wait s .stall)
        | some s => if uncached then .ok (s, s.mem.bytes off n)
          else .ok (s.cachedRead s.cur.1 a.toNat (t.phys a.toNat) n)
  | _, _ => .error (s.stopWith .access a)

/-- The matrix queue of a core is full (R135). -/
def CoreSt.mqFull (k : CoreSt) : Bool := decide (16 ≤ k.mq.length)

/-- A store into the own queue window; the one that writes byte 63 pushes the staging record (R134, R135). -/
def State.storeQueue (s : State) (off : Nat) (bs : List Byte) : Except Stop State :=
  let (c, i) := s.cur
  let t := s.me
  let staging := t.staging.writeBytes off bs
  if off + bs.length < 64 then .ok (s.modMe (fun t => { t with staging }))
  else if s.here.mqFull || !s.here.firstFor i .matrix then .error (.wait s (.full .matrix))
  else
    let k := s.here
    let e : MEntry := { serial := k.nextOp, slot := i, act := t.act, marker := none
                        words := (List.range 8).map (fun n => staging.word (8 * n)), run := none }
    let s := s.modMe (fun t => { t with staging })
    .ok (s.modCore c (fun k => { k with mq := k.mq ++ [e], nextOp := k.nextOp + 1 }))

/-- The A zero map's byte for a stored vector: bit i for a halfword i that is neither 0x0000 nor 0x8000 (R146). -/
def zeroMapByte (bs : List Byte) : Byte :=
  BitVec.ofNat 8 (packLanes 1 ((List.range 8).map (fun i =>
    bit (natOfBytes ((bs.drop (2 * i)).take 2) % 0x8000 ≠ 0))))

/-- A contained activation's message or remote store is held in the NI, at most 32 (R35, R218). -/
def State.hold (s : State) (v : Word) (m : Msg) : Except Stop State :=
  if 32 ≤ s.me.heldMsgs.length then .error (s.stopWith .contain v)
  else .ok (s.modMe (fun t => { t with heldMsgs := t.heldMsgs ++ [m] }))

/-- A store to a core's LM through the network: posted within the package, answered from another (R111, R359); held
when the activation is contained. -/
def State.storeRemote (s : State) (a : Word) (r : RemoteAddr) (op : RemoteOp) : Except Stop State :=
  let m := fun w => { s.msgFrom s.cur.1 s.cur.2 r.place (.access op r.off w) with va := a }
  if s.contained s.cur.1 s.cur.2 then s.hold a (m .none)
  else if r.place.pkg = s.pkg then .ok (s.post s.cur.1 (m .none))
  else if !s.zyTurn s.cur.1 s.cur.2 r.place.pkg then .error (.wait s (.full .retry))
  else .error (.wait (s.post s.cur.1 (m (.slot s.cur.2))) (.answer .none a none))

/-- A store to global memory homed here (R117, R121, R246): uncached ones go to the home. -/
def State.storeHome (s : State) (va : Nat) (pa off : Nat) (uncached : Bool) (bs : List Byte) : Except Stop State :=
  if s.me.txn.isSome then s.txnStore off bs
  else if !uncached then s.enterWb va pa bs
  else if !s.hostClear off then .error (.wait (s.snoop off) .stall)
  else match s.plainAccess (off / 512) true with
    | none => .error (.wait s .stall)
    | some s => .ok ((s.homeWrite .far off bs).modMe Slot.progress)

/-- A store that passed CheckMem (R359, R396); zdet says that a VST to the A buffer writes the zero map (R146). -/
def State.store (s : State) (a : Word) (bs : List Byte) (k : Checked) (isVst : Bool := false) : Except Stop State :=
  match k.space, k.leaf with
  | .lm off, _ => .ok (s.modHere (fun k => k.lmWrite off bs))
  | .abuf off, _ =>
    let zdet := isVst && s.me.linkmap.getLsbD 8
    .ok (s.modHere (fun k =>
      let k := k.abufWrite off bs
      if zdet then { k with zmap := k.zmap.write (off / 16) (zeroMapByte bs) } else k))
  | .cbuf off, _ => .ok (s.modHere (fun k => k.cWrite off bs))
  | .queue _ off, _ => s.storeQueue off bs
  | .remote r, _ => s.storeRemote a r (.store bs (if r.raise then some r.sw else none) [])
  | .global, some t =>
    let s := s.cacheLeaf t
    match s.homeOf (t.phys a.toNat) t.uncached with
    | .host addr =>
      let l := s.hostLink addr
      .ok ({ s.askHost true addr bs.length with hostMem := s.hostMem.writeBytes addr bs }.modMe (fun t =>
        { t.progress with hostLinks := if t.hostLinks.contains l then t.hostLinks else t.hostLinks ++ [l] }))
    | .other pkg off =>
      if s.me.txn.isSome then .error (.abort .xpkg 0)
      else (s.askHome pkg (.store bs none []) off a .none none).map Prod.fst
    | .own off uncached => s.storeHome a.toNat (t.phys a.toNat) off uncached bs
  | _, _ => .error (s.stopWith .access a)

/-- The core drops its own L1 copy of a line before a global atomic (R122), after its stores to it have drained. -/
def State.beforeAtomic (s : State) (a : Word) : Except Stop State := do
  let s ← s.drained
  pure (s.modHere (fun k => { k with l1d := k.l1d.filter (fun l => !l.covers (s.asidOf s.cur.1) a.toNat) }))

/-- An indivisible read-modify-write that passed CheckMem (R122, R286, R300, R361, R371): f gives the new bytes, or
none when nothing is written; op is the request where another agent performs it. One that returns nothing is a global
store of R213 (DEDUCED, log 60). -/
def State.atomic (s : State) (a : Word) (n : Nat) (k : Checked) (f : List Byte → Option (List Byte)) (op : RemoteOp)
    (land : Landing) (acq : Option Scope) : Except Stop (State × List Byte) :=
  match k.space, k.leaf with
  | .lm off, _ =>
    if land ≠ .none ∧ s.here.lmBad off n = true then .error (.poison a)
    else
      let old := s.here.lm.bytes off n
      match f old with
      | some new => .ok (s.modHere (fun k => k.lmWrite off new), old)
      | none => .ok (s, old)
  | .abuf off, _ =>
    let old := s.here.abuf.bytes off n
    .ok (s.modHere (fun k => k.abufWrite off ((f old).getD old)), old)
  | .cbuf off, _ =>
    let old := s.here.cRead off n
    .ok (s.modHere (fun k => k.cWrite off ((f old).getD old)), old)
  | .remote r, _ => s.askRemote r.place op r.off a land acq
  | .global, some t =>
    let s := s.cacheLeaf t
    match s.homeOf (t.phys a.toNat) t.uncached with
    | .host _ => .error (s.stopWith .access a)
    | .other pkg off =>
      if s.me.txn.isSome then .error (.abort .xpkg 0) else s.askHome pkg op off a land acq
    | .own off _ =>
      if s.me.txn.isSome then
        if land ≠ .none ∧ s.loadBad off n false = true then .error (.poison a)
        else do
          let (s, old) ← s.txnLoad off n
          match f old with
          | some new => pure (← s.txnStore off new, old)
          | none => pure (s, old)
      else do
        let s ← s.beforeAtomic a
        let old := s.mem.bytes off n
        if land ≠ .none ∧ s.memBad off n = true then .error (.poison a)
        else if !s.hostClear off then .error (.wait (s.snoop off) .stall)
        else match s.plainAccess (off / 512) (f old).isSome with
          | none => .error (.wait s .stall)
          | some s =>
            let s := s.atomicDone off n (f old)
            pure (if land = .none then s.modMe Slot.progress else s, old)
  | _, _ => .error (s.stopWith .access a)

end Sys2Proof.Machine
end

