-- ==== Sys2Proof/Machine/Retire.lean ====
section
/-!
DEFINITION. How a bundle ends: retirement of lone words and pairs (03_encoding R52), traps and aborts (09_traps R196,
R200, 07_ordering R173), the consumption of poison (R217) with containment's rollback (R220), and the end of an
activation (14_reference R309).
-/
namespace Sys2Proof.Machine

/-- What a C-word that raised nothing leaves: retired with the next bundle, retired with a jump, the activation's end,
or a trap or an abort after the bundle's A-word has completed (R52, R366). -/
inductive Done where
  | go (s : State)
  | jump (s : State) (pc : Word)
  | ended (s : State)
  | trapAfter (s : State) (c : Cause) (v : Word)
  | abortAfter (s : State) (w : Abort) (code : Nat)
  deriving DecidableEq, Repr

/-- The outcome of a C-word's operation. -/
abbrev Res := Except Stop Done

/-- The members of a slot's caravan become free (R259 step 3). -/
def State.freeCaravan (s : State) (c i : Nat) : State :=
  let s := { s with cores := s.cores.map (fun (p : Nat × CoreSt) =>
    if p.2.caravan = some (Membership.mk c i) then (p.1, { p.2 with caravan := none }) else p) }
  s.modSlot c i (fun t => { t with cvsize := 1, cvmask := 0 })

/-- The cycle in which the last pending write of a slot lands: step 1 of a hand-back completes (R259). -/
def Slot.landedBy (t : Slot) (now : Nat) : Nat := (t.pend.map Pending.due).foldl max now

/-- The cycle in which a hand-back that begins now is over: 40 cycles after the last pending write has landed (R259). -/
def Slot.handsBackBy (t : Slot) (now : Nat) : Nat := t.landedBy now + 40

/-- A bundle of a caravan's slot that ends the caravan begins the hand-back (R259). -/
def State.handBackFirst {α : Type} (s : State) : Except Stop α := .error (.wait s (.handBack (s.me.handsBackBy s.cycle)))

/-- A hand-back begins without a bundle that waits for it (R259, R260). -/
def State.part (s : State) (c i : Nat) : State :=
  s.modSlot c i (fun t => { t with wait := .parted (t.handsBackBy s.cycle) })

/-- A hand-back is over: every pending write has landed, and the members are free (R259, Table 18.11). -/
def State.handedBack (s : State) (c i : Nat) : State :=
  (s.freeCaravan c i).modSlot c i (fun t => { t.landAll with wait := .none })

/-- The contained activation of a slot lets go of what it consumed: its words, its arrival, and its work item leave their
queues, and oasis entries move into the room (R41, R219). -/
def CoreSt.letGo (k : CoreSt) (i : Nat) : CoreSt :=
  let k := { k with
    fifos := k.fifos.map (fun (p : Nat × List FifoWord) => (p.1, p.2.filter (fun w => w.slot != some i)))
    arrival := k.arrival.filter (fun q => q.slot != some i) }
  (match (k.slot i).source with
    | .item id _ => { k with batches := (k.batches.map (fun (b : Batch) => { b with held := b.held.erase id })).filter Batch.stands }
    | _ => k).settle

/-- A slot is freed (R28): its claim is released, it waits for nothing, and a trap still held is gone (DEDUCED, log 61). -/
def State.freeSlot (s : State) (c i : Nat) : State :=
  let s := s.modCore c (fun k => { k with chrdWaiters := k.chrdWaiters.filter (fun w => w.1 != i) })
  let s := if s.contained c i then s.modCore c (fun k => k.letGo i) else s
  s.modSlot c i (fun t => { t.landAll with
    active := false, claim := 0, wait := .none, txn := none, loop := none, h := false, heldTraps := []
    heldMsgs := [], inlineDepth := 0 })

/-- A held child that leaves counts as outstanding (R44, R46). -/
def State.bearHeld (s : State) (c : Nat) : MsgBody → State
  | .spawn .. => s.modCore c (fun k => { k with children := k.children + 1 })
  | _ => s

/-- A held message may leave now: the NI takes it, and the release that its send made holds, so that the stores held before it
have been performed (R35, R40, R161, R229). DEDUCED, log 26. -/
def State.mayDepart (s : State) (c i : Nat) (m : Msg) : Bool :=
  if isMessage m.body then s.niTurn c i m.dst && (m.dst == s.placeOf c || !s.postedBy c i) else s.zyTurn c i m.dst.pkg

/-- A held store as it leaves for another package: its target answers (R111). -/
def answeredTo (m : Msg) (i : Nat) : Msg :=
  match m.body with
  | .access op off _ => { m with body := .access op off (.slot i) }
  | _ => m

/-- The messages that a contained activation has held leave in program order, at most n of them, and what it then waits for: the
NI, an earlier store, or the answer to a store to another package (R35, R111, R161). -/
def State.departHeld (s : State) (c i : Nat) : Nat → State × Wait
  | 0 => (s, .none)
  | n + 1 => match (s.slot c i).heldMsgs with
    | [] => (s, .none)
    | m :: r =>
      if !s.mayDepart c i m then (s, .leaving)
      else
        let m := { m with gen := ((s.launchOf c).map Launch.gen).getD 0 }
        let s := s.modSlot c i (fun t => { t with heldMsgs := r })
        if isMessage m.body || m.dst.pkg == s.pkg then ((s.post c m).bearHeld c m.body).departHeld c i n
        else (s.post c (answeredTo m i), .answer .leave m.va none)

/-- What leaves before the end of an activation: its held messages, and room for the report of a child's end (R40, R46,
R229). -/
def State.depart (s : State) (c i : Nat) : State × Wait :=
  match s.departHeld c i (s.slot c i).heldMsgs.length with
  | (t, .none) => match (t.slot c i).parent with
    | some p => if t.zyTurn c i p.pkg then (t, .none) else (t, .full .retry)
    | none => (t, .none)
  | r => r

/-- The end of an activation at inline depth 0, after what it held has left (R309): the caravan is released, the parent core
is told of a child's end (R46), and the slot is freed. -/
def State.endActivation (s : State) (c i : Nat) : State :=
  let s := if (s.slot c i).cvsize > 1 then s.freeCaravan c i else s
  let s := match (s.slot c i).parent with
    | some p => s.post c (s.msgFrom c i p .endReport)
    | none => s
  (s.modSlot c i Slot.progress).freeSlot c i

/-- The redelivery count reached 3: the launch ends with FAULT and cause 15; else only the log tells (R220). -/
def State.redeliver (s : State) (c tries : Nat) : State :=
  let s := s.log evRedeliver c [tries]
  if 3 ≤ tries then s.endLaunchOf c .fault Cause.ecc.code else s

/-- An item returns to the head of its batch, behind returned items that come before it (R219, R220). -/
def insertItem (p : Nat × Nat) : List (Nat × Nat) → List (Nat × Nat)
  | [] => [p]
  | q :: r => if q.1 < p.1 then q :: insertItem p r else p :: q :: r

/-- The words that started a channel's activation, which count one redelivery more: those it consumed, and those that its
claim still holds, the oldest (R31, R220). They are in their places again. -/
def returnWords (i : Nat) : Nat → List FifoWord → List FifoWord
  | _, [] => []
  | claim, w :: r =>
    if w.slot = some i then { w with slot := none, tries := w.tries + 1 } :: returnWords i claim r
    else if w.slot.isNone ∧ 0 < claim then { w with tries := w.tries + 1 } :: returnWords i (claim - 1) r
    else w :: returnWords i claim r

/-- What started a rolled-back activation returns, in its original order, to its queue, and the redelivery count that it
then has (R219, R220). Words that it consumed from other channels come back as they were. -/
def CoreSt.giveBack (k : CoreSt) (i : Nat) : CoreSt × Nat :=
  let t := k.slot i
  let other := fun (p : Nat × List FifoWord) =>
    (p.1, p.2.map (fun (w : FifoWord) => if w.slot = some i then { w with slot := none } else w))
  match t.source with
  | .item id tries =>
    ({ k with
        fifos := k.fifos.map other
        batches := k.batches.map (fun (b : Batch) => if b.held.contains id then
          { b with held := b.held.erase id, back := insertItem (id, tries + 1) b.back } else b) }, tries + 1)
  | .arrival =>
    let tries := ((k.arrival.find? (fun q => q.slot == some i)).map QMsg.tries).getD 0 + 1
    ({ k with
        fifos := k.fifos.map other
        arrival := k.arrival.map (fun (q : QMsg) => if q.slot = some i then { q with slot := none, tries } else q) }, tries)
  | .channel _ =>
    let started := (listOf k.fifos t.chan).filter (fun w => w.slot == some i) ++ (k.words t.chan).take t.claim
    ({ k with fifos := k.fifos.map (fun (p : Nat × List FifoWord) => if p.1 = t.chan then (p.1, returnWords i t.claim p.2) else other p) },
      (started.map FifoWord.tries).foldl max 0 + 1)

/-- A count is that of a core for a tag and a rectangle. -/
def ListCount.names (e : ListCount) (tag : Nat) (r : Nat × Nat × Nat × Nat) (c : Nat) : Bool :=
  e.tag == tag && e.rect == r && e.core == c

/-- A list that was held and is discarded was not sent: the number of its round is the next that its core's TKSENDs take
(R220, R269). -/
def Launch.unissue (l : Launch) (m : Msg) : Launch :=
  match m.body with
  | .list tag r _ _ _ num =>
    { l with lists := l.lists.map (fun e => if e.names tag r m.src.lcn then { e with free := num :: e.free } else e) }
  | _ => l

/-- What an activation held in the NI is discarded (R220). -/
def State.discardHeld (s : State) (c i : Nat) : State :=
  match (s.core c).launch with
  | some l => (s.slot c i).heldMsgs.reverse.foldl (fun s m => s.modLaunch l (fun x => x.unissue m)) s
  | none => s

/-- The rollback of a contained activation that consumed poison (R220). -/
def State.rollback (s : State) (c i : Nat) : State :=
  let t := s.slot c i
  let s := if t.cvsize > 1 then s.freeCaravan c i else s
  let s := s.discardHeld c i
  let s := s.modCore c (fun k => { k with
    cq := k.cq.filter (fun o => !(o.slot == i && o.act == t.act && o.done == 0 && o.outstanding == 0))
    mq := k.mq.filter (fun e => !(e.slot == i && e.act == t.act && e.run.isNone)) })
  let (k, n) := (s.core c).giveBack i
  ((s.setCore c k).redeliver c n).freeSlot c i

/-- A slot consumes poison (R217): a transaction aborts with ECC, a contained activation rolls back, any other slot
traps ECC at its bundle. The event log tells (R276). -/
def State.consumePoison (s : State) (c i : Nat) (v : Word) : State :=
  let s := s.log evPoison c [v.toNat]
  if (s.slot c i).txn.isSome then s.abortTxn c i .ecc 0
  else if s.contained c i then s.rollback c i
  else s.takeTrap c i .ecc v (s.slot c i).bundle.here

/-- A synchronous trap at a bundle: taken, or the abort of the open transaction (R173, R197). -/
def State.trapNow (s : State) (c i : Nat) (cause : Cause) (v tpc : Word) : State :=
  if (s.slot c i).txn.isSome then s.abortTxn c i .illegal cause.code else s.takeTrap c i cause v tpc

/-- What the A-word of a pair met: what its operand checks found comes before the poison it would consume (R200, R217). -/
def State.aStops (s : State) (c i : Nat) : Option State :=
  (s.slot c i).bundle.stash.bind (fun e => match (s.slot c i).bundle.late with
    | some .linkInTxn => some (s.abortTxn c i .illegal 0)
    | some (.trap cause v) => some (s.trapNow c i cause v (s.slot c i).bundle.here)
    | none => e.poison.map (s.consumePoison c i))

/-- The slot's running A-word ends (R52, R55), its destination renamed in an RPT body (R69):
kept back when it is the second word of a pair; else its bundle retires, or consumes the poison it met. -/
def State.finishA (s : State) (e : AEff) : State :=
  let (c, i) := s.cur
  let b := s.me.bundle
  let e := { e with
    poison := match b.bad with | some v => some v | none => e.poison
    writes := e.writes.map (fun w => match w.reg with
      | .v r => { w with reg := .v (rename r b.rename) }
      | .x _ => w) }
  let s1 := s.modMe (fun t => { t with bundle := { t.bundle with stash := some e } })
  if b.mode = .second then s1
  else match e.poison with
    | some v => s.consumePoison c i v
    | none => s1.retire c i none

/-- The slot's running C-word ends: its own faults come first, then what its pair's A-word met, then what it
did (R52, R200). A RELEASE that has aborted a transaction hands back after that (R259). -/
def State.finishC (s : State) (r : Res) : State :=
  let (c, i) := s.cur
  match r with
  | .error (.trap cause v) => s.trapNow c i cause v s.me.bundle.here
  | .error (.abort w code) => (if w = .illegal ∧ code ≠ 0 then s else s.keepFlags c i).abortTxn c i w code
  | .error (.poison v) => s.consumePoison c i v
  | .error (.wait t w) =>
    match s.aStops c i with
    | some u => u
    | none => t.modSlot c i (fun u => { u with wait := w })
  | .ok d =>
    match s.aStops c i with
    | some u => u
    | none => match d with
      | .go t => t.retire c i none
      | .jump t pc => t.retire c i (some pc)
      | .ended t => (t.retire c i none).endActivation c i
      | .trapAfter t cause v =>
        if t.me.txn.isSome then (t.keepFlags c i).abortTxn c i .illegal cause.code
        else (t.retire c i none).takeTrap c i cause v s.me.bundle.next
      | .abortAfter t w code =>
        let t := (t.keepFlags c i).abortTxn c i w code
        if w = .preempt then t.part c i else t

/-- A bundle whose wait has ended retires: the state after its awaited effect (R195). -/
def State.completeWait (s : State) (c i : Nat) : State := s.retire c i none

/-- A meaning's step for an A-word. -/
def runA (s : State) (e : AEff) : Host.Outcome State Fault Refusal := .next (s.finishA e)

/-- A meaning's step for a C-word. -/
def runC (s : State) (r : Res) : Host.Outcome State Fault Refusal := .next (s.finishC r)

/-- A C-word that only changes the state and goes on. -/
def go (s : State) : Res := .ok (.go s)

end Sys2Proof.Machine
end

