-- ==== Sys2Proof/Machine/Regs.lean ====
section
/-!
DEFINITION. Which registers the operand fields of a word read and write (03_encoding Tables 3.7 and 3.10), as the checks
of a bundle need them: the same register written twice (R51), link ports and streams (R67, R68), early reads (R58).
-/
namespace Sys2Proof.Machine

/-- Operand c of an A-class form that admits M: a register when M = 0. -/
def srcX (m : Bool) (c : Reg) : List RegName := if m then [] else [.x c]

/-- The vector form of it. -/
def srcV (m : Bool) (c : Reg) : List RegName := if m then [] else [.v c]

/-- The registers that the operand fields of a word read, one entry a field. -/
def readsOf : Instr → List RegName
  | .addA _ a b m | .subA _ a b m | .andA _ a b m | .orA _ a b m | .xorA _ a b m | .shlA _ a b m | .shrA _ a b m
  | .sraA _ a b m | .sltA _ a b m | .sltnA _ a b m | .minA _ a b m | .maxA _ a b m | .minnA _ a b m
  | .maxnA _ a b m | .mul _ a b m | .mulh _ a b m | .mulhn _ a b m | .div _ a b m | .divn _ a b m
  | .rem _ a b m | .remn _ a b m => .x a :: srcX m b
  | .popc _ a | .clz _ a | .ctz _ a => [.x a]
  | .addC _ a b | .subC _ a b | .andC _ a b | .orC _ a b | .xorC _ a b | .shlC _ a b | .shrC _ a b
  | .sraC _ a b | .sltC _ a b | .sltnC _ a b | .minC _ a b | .maxC _ a b | .minnC _ a b | .maxnC _ a b => [.x a, .x b]
  | .addiA _ a _ | .addiC _ a _ | .andiA _ a _ | .andiC _ a _ | .oriA _ a _ | .oriC _ a _ | .xoriA _ a _
  | .xoriC _ a _ | .sltiA _ a _ | .sltiC _ a _ | .shlImmA _ a _ | .shlImmC _ a _ | .shrImmA _ a _
  | .shrImmC _ a _ | .sraImmA _ a _ | .sraImmC _ a _ => [.x a]
  | .extr _ a _ _ => [.x a]
  | .ins d a _ _ => [.x a, .x d]
  | .vadd _ _ _ a b m | .vsub _ _ _ a b m | .vmul _ _ a b m | .vmin _ _ a b m | .vmax _ _ a b m
  | .vminn _ _ a b m | .vmaxn _ _ a b m | .vshlVector _ _ a b m | .vshrVector _ _ a b m
  | .vsraVector _ _ a b m | .vand _ a b m | .vor _ a b m | .vxor _ a b m | .vandn _ a b m
  | .vperm _ a b m => .v a :: srcV m b
  | .vfma _ _ d a b m | .vdot _ d a b m => .v a :: .v d :: srcV m b
  | .vabs _ _ a | .vneg _ _ a | .vredsum _ _ a | .vredmax _ _ a | .vredmin _ _ a | .vrcp _ _ a | .vrsq _ _ a
  | .vexp2 _ _ a | .vlog2 _ _ a | .vtanh _ _ a | .vzmask _ _ a | .vcvt _ _ _ _ _ a | .vmov _ a => [.v a]
  | .vsplat _ _ a => [.x a]
  | .vshlScalar _ _ a b | .vshrScalar _ _ a b | .vsraScalar _ _ a b | .vext _ _ a b | .vcmprs _ _ a b
  | .vexpnd _ _ a b => [.v a, .x b]
  | .vins _ d a b => [.x a, .x b, .v d]
  | .vcmp _ _ _ a b => [.v a, .v b]
  | .vsel _ d a mask => [.v a, .x mask, .v d]
  | .waitev a | .asinv a | .crw a _ _ | .crs a _ _ | .crc a _ _ => [.x a]
  | .liq d _ | .liw d _ => [.x d]
  | .beq a b _ | .bne a b _ | .blt a b _ | .bge a b _ | .bltn a b _ | .bgen a b _ => [.x a, .x b]
  | .bbs a _ _ | .bbc a _ _ | .rpt a _ _ | .tbegin a _ => [.x a]
  | .jalr _ b _ | .ldB _ b _ | .ldH _ b _ | .ldW _ b _ | .ldD _ b _ | .ldnB _ b _ | .ldnH _ b _ | .ldnW _ b _
  | .vld _ b _ | .lda _ _ _ b | .bksel _ _ b | .compose _ b | .sbind _ b => [.x b]
  | .stB a b _ | .stH a b _ | .stW a b _ | .stD a b _ | .st4 a b _ _ | .stl _ _ a b | .swset a b | .swwait a b
  | .bar _ a b | .spawn a b | .spawnq a b | .migrate a b | .callat a b _ | .reply a b => [.x a, .x b]
  | .vst a b _ => [.v a, .x b]
  | .amo _ _ _ _ b c => [.x b, .x c]
  | .cas _ _ a b c => [.x a, .x b, .x c]
  | .tred vec _ _ b c => [.x b, if vec then .v c else .x c]
  | .send a b count _ => .x a :: (List.range (count.toNat + 1)).map (fun n => .x (b + BitVec.ofNat 5 n))
  | .copy _ _ a b c | .mcst a b c | .tksend a b c => [.x a, .x b, .x c]
  | .gather a | .scatter a | .dlaunch a | .tskip a => [.x a]
  | _ => []

/-- The registers that the fields of a word write; SPAWN counts as writing x1 (R51). -/
def writesOf : Instr → List RegName
  | .addA d _ _ _ | .subA d _ _ _ | .andA d _ _ _ | .orA d _ _ _ | .xorA d _ _ _ | .shlA d _ _ _ | .shrA d _ _ _
  | .sraA d _ _ _ | .sltA d _ _ _ | .sltnA d _ _ _ | .minA d _ _ _ | .maxA d _ _ _ | .minnA d _ _ _
  | .maxnA d _ _ _ | .mul d _ _ _ | .mulh d _ _ _ | .mulhn d _ _ _ | .div d _ _ _ | .divn d _ _ _
  | .rem d _ _ _ | .remn d _ _ _ => [.x d]
  | .popc d _ | .clz d _ | .ctz d _ => [.x d]
  | .addC d _ _ | .subC d _ _ | .andC d _ _ | .orC d _ _ | .xorC d _ _ | .shlC d _ _ | .shrC d _ _
  | .sraC d _ _ | .sltC d _ _ | .sltnC d _ _ | .minC d _ _ | .maxC d _ _ | .minnC d _ _ | .maxnC d _ _ => [.x d]
  | .addiA d _ _ | .addiC d _ _ | .andiA d _ _ | .andiC d _ _ | .oriA d _ _ | .oriC d _ _ | .xoriA d _ _
  | .xoriC d _ _ | .sltiA d _ _ | .sltiC d _ _ | .shlImmA d _ _ | .shlImmC d _ _ | .shrImmA d _ _
  | .shrImmC d _ _ | .sraImmA d _ _ | .sraImmC d _ _ => [.x d]
  | .extr d _ _ _ | .ins d _ _ _ | .widf d _ => [.x d]
  | .vadd _ _ d _ _ _ | .vsub _ _ d _ _ _ | .vmul _ d _ _ _ | .vmin _ d _ _ _ | .vmax _ d _ _ _
  | .vminn _ d _ _ _ | .vmaxn _ d _ _ _ | .vshlVector _ d _ _ _ | .vshrVector _ d _ _ _
  | .vsraVector _ d _ _ _ | .vand d _ _ _ | .vor d _ _ _ | .vxor d _ _ _ | .vandn d _ _ _ | .vperm d _ _ _
  | .vfma _ _ d _ _ _ | .vdot _ d _ _ _ => [.v d]
  | .vabs _ d _ | .vneg _ d _ | .vrcp _ d _ | .vrsq _ d _ | .vexp2 _ d _ | .vlog2 _ d _ | .vtanh _ d _
  | .vcvt _ _ _ _ d _ | .vmov d _ | .vsplat _ d _ => [.v d]
  | .vredsum t d _ | .vredmax t d _ | .vredmin t d _ => [if t.isInt then .x d else .v d]
  | .vshlScalar _ d _ _ | .vshrScalar _ d _ _ | .vsraScalar _ d _ _ | .vcmprs _ d _ _ | .vexpnd _ d _ _
  | .vins _ d _ _ | .vsel _ d _ _ => [.v d]
  | .vext _ d _ _ | .vcmp _ _ d _ _ | .vzmask _ d _ => [.x d]
  | .crr d _ | .crw _ d _ | .crs _ d _ | .crc _ d _ | .lih d _ | .liq d _ | .liw d _ | .jalr d _ _ => [.x d]
  | .jal _ | .spawn _ _ => [.x 1]
  | .ldB d _ _ | .ldH d _ _ | .ldW d _ _ | .ldD d _ _ | .ldnB d _ _ | .ldnH d _ _ | .ldnW d _ _
  | .lda _ _ d _ | .amo _ _ _ d _ _ | .chrd d _ | .bksel _ d _ | .compose d _ => [.x d]
  | .vld d _ _ => [.v d]
  | .cas _ _ a _ _ | .swwait a _ => [.x a]
  | _ => []

/-- The registers that a word reads without naming them in a field: inside a caravan they interlock too (R255). An END or
a MIGRATE of an inline child goes on at x1 (R309, R334). -/
def impliedReads (inl : Bool) : Instr → List RegName
  | .spawn .. | .spawnq .. | .callat .. => [.x 10, .x 11, .x 12, .x 13]
  | .migrate .. => [.x 10, .x 11, .x 12, .x 13, .x 14, .x 15, .x 16, .x 17] ++ (if inl then [.x 1] else [])
  | .endI => if inl then [.x 1] else []
  | _ => []

/-- A C-word that may stand in an RPT body: a plain load or store (R69). -/
def plainMemory : Instr → Bool
  | .ldB .. | .ldH .. | .ldW .. | .ldD .. | .ldnB .. | .ldnH .. | .ldnW .. | .vld .. | .stB .. | .stH .. | .stW ..
  | .stD .. | .vst .. | .st4 .. => true
  | _ => false

/-- RPT, which must be a lone word outside every body (R69). -/
def isRpt : Instr → Bool
  | .rpt .. => true
  | _ => false

/-- A field of an A-word names its v register after renaming (R69). -/
def renamed (offset : Nat) : RegName → RegName
  | .v r => .v (rename r offset)
  | .x r => .x r

end Sys2Proof.Machine
end

