-- ==== Sys2Proof/Machine/Issue.lean ====
section
/-!
DEFINITION. Issue: which slot of a core issues (08_scheduling R195), the fetch of its bundle (05_memory R106, R125,
03_encoding R53), the bundle checks in the order of R200 (R51, R58, R65, R67, R68), and the operands as read at issue.
-/
namespace Sys2Proof.Machine

/-! ### Fetch -/

/-- What stands at an instruction address behind the L1 instruction cache: nothing that may be fetched (R106, R125), a
word of device memory homed here, with whether it is poisoned and whether the L1 may keep it, or code whose home another
package or the host is (R119). -/
inductive Code where
  | fault
  | here (w : IWord) (bad cached : Bool)
  | away (h : Home)
  deriving DecidableEq, Repr

/-- The code at an instruction address, translated now (R124, R126). -/
def State.codeAt (s : State) (c : Nat) (va : Word) : Code :=
  if spaceOf s.pkg va ≠ .global then .fault
  else match s.translateFor c (s.asidOf c) va.toNat TlbEntry.x with
    | none => .fault
    | some t =>
      if !t.x then .fault
      else match s.homeOf (t.phys va.toNat) t.uncached with
        | .own off unc => .here (BitVec.ofNat 32 (s.mem.num off 4)) (s.memBad off 4) (!unc)
        | h => .away h

/-- The word that an L1 instruction cache holds for an address of an ASID (R118). -/
def CoreSt.cachedI (k : CoreSt) (asid va : Nat) : Option IWord :=
  (k.l1i.find? (fun e => e.1 == asid && e.2.1 == va)).map (fun e => e.2.2)

/-- A fetched word enters the L1 instruction cache: 16 KiB, the oldest word leaves first (log 6). -/
def CoreSt.keepI (k : CoreSt) (asid va : Nat) (w : IWord) : CoreSt :=
  let l := k.l1i.filter (fun e => !(e.1 == asid && e.2.1 == va))
  { k with l1i := (l ++ [(asid, va, w)]).drop (l.length + 1 - 4096) }

/-- A word from away that a slot has brought; `fresh` asks for one that no bundle has used yet. -/
def Slot.broughtWord (t : Slot) (va : Word) (fresh : Bool) : Option IWord :=
  (t.brought.find? (fun e => e.1 == va && (e.2.2 || !fresh))).map (fun e => e.2.1)

/-- A word from away comes: for the bundle that waits for it, or for a walk over a body. -/
def Slot.bring (t : Slot) (va : Word) (w : IWord) (fresh : Bool) : Slot :=
  { t with brought := t.brought.filter (fun e => e.1 != va) ++ [(va, w, fresh)] }

/-- A bundle issues, and uses the words that it brought: every access to such code goes to its home (R119). Inside a
loop they stay as places of the body only. -/
def Slot.useBrought (t : Slot) (pc : Word) : Slot :=
  match t.loop with
  | some _ => { t with brought := t.brought.map (fun e => if e.1 = pc ∨ e.1 = pc + 4 then (e.1, e.2.1, false) else e) }
  | none => { t with brought := [] }

/-- What the fetch of one word gives: a fault, a home elsewhere to ask, or the word with its poison. -/
inductive Got where
  | fault
  | ask (h : Home)
  | word (s : State) (w : IWord) (bad : Bool)

/-- The fetch of one word through the L1 instruction cache of the member that owns its block (R252). A hit is neither
translated nor checked (R126); where memory holds another word by now, the fetch returns the old or the new one (R53,
log 8). Code that no cache may hold is read at its home (R119). -/
def State.fetch (s : State) (c i : Nat) (va : Word) : Got :=
  let t := s.slot c i
  let m := t.issuer c va
  let asid := s.asidOf c
  let keep := fun (s : State) w => s.modCore m (fun k => k.keepI asid va.toNat w)
  match (s.core m).cachedI asid va.toNat, s.codeAt c va with
  | some old, .here w bad cached =>
    if old = w ∧ bad = false then .word s old false
    else
      let u := { s with fresh := s.fresh + 1 }
      if Config.fetchIsNew s.fresh then .word (if bad || !cached then u else keep u w) w bad else .word u old false
  | some old, _ => .word s old false
  | none, .fault => .fault
  | none, .here w bad cached => .word (if cached && !bad then keep s w else s) w bad
  | none, .away h => match t.broughtWord va true with
    | some w => .word s w false
    | none => .ask h

/-- Bytes of the bundle that a first word opens. -/
def bundleSize (w : IWord) : Nat := if w.getLsbD 31 then 4 else 8

/-- The word at an address as a walk over a loop's body sees it: what the issuing core's cache holds, else memory, else
what the slot has brought; or the home to ask. -/
def State.walkWord (s : State) (c i : Nat) (va : Word) : Except (Option Home) IWord :=
  let t := s.slot c i
  match (s.core (t.issuer c va)).cachedI (s.asidOf c) va.toNat, s.codeAt c va with
  | some w, _ => .ok w
  | none, .here w _ _ => .ok w
  | none, .fault => .error none
  | none, .away h => match t.broughtWord va false with
    | some w => .ok w
    | none => .error (some h)

/-- Where a walk over bundles ends: at an address, or at a word whose home has to be asked first. -/
inductive Walk (α : Type) where
  | found (x : α)
  | ask (va : Word) (h : Home)
  deriving DecidableEq, Repr

/-- The place of an address in the body of a live loop: its index, found by walking the bundles from the body's
start (R69). -/
def State.bodyIndex (s : State) (c i : Nat) (pc : Word) : Nat → Nat → Word → Walk (Option Nat)
  | 0, _, _ => .found none
  | n + 1, k, at_ =>
    if at_ = pc then .found (some k)
    else match s.walkWord c i at_ with
      | .ok w => s.bodyIndex c i pc n (k + 1) (at_ + BitVec.ofNat 64 (bundleSize w))
      | .error (some h) => .ask at_ h
      | .error none => .found none

/-- The address after n bundles (R69); a bundle that cannot be fetched ends the walk. -/
def State.skipBundles (s : State) (c i : Nat) : Nat → Word → Walk Word
  | 0, pc => .found pc
  | n + 1, pc => match s.walkWord c i pc with
    | .ok w => s.skipBundles c i n (pc + BitVec.ofNat 64 (bundleSize w))
    | .error (some h) => .ask pc h
    | .error none => .found pc

/-- The index of a slot's PC in the body of its live loop. -/
def State.loopIndex (s : State) (c i : Nat) : Walk (Option Nat) :=
  let t := s.slot c i
  match t.loop with
  | some l => s.bodyIndex c i t.pc l.len 0 l.body
  | none => .found none

/-- A word is asked of its home: of another package with a request (R111), of the host with a read of its window (R244).
The slot waits for it; while the NI takes no request, it comes back to it (R229). -/
def State.askCode (s : State) (c i : Nat) (va : Word) (h : Home) (land : Landing) : State :=
  match h with
  | .other pkg off => if !s.zyRoom c pkg then s else
    (s.post c (s.msgFrom c i ⟨pkg, 0⟩ (.globalAccess (.load 4) off (.slot i)))).modSlot c i
      (fun t => { t with wait := .answer land va none })
  | .host addr => (s.askHost false addr 4).modSlot c i (fun t => { t with wait := .hostRead land va none (s.hostLink addr) })
  | .own .. => s

/-! ### The bundle at an address -/

/-- What stands at an address: a fetch fault, a poisoned word (R217), code still away, a bundle fault of Table 3.2, a lone
word, or a pair. -/
inductive Fetched where
  | fault
  | poisoned
  | away (va : Word) (h : Home)
  | misplaced
  | illegal (w : IWord)
  | lone (w : IWord) (i : Instr)
  | pair (w w2 : IWord) (c a : Instr)
  deriving DecidableEq, Repr

/-- A decoded word, or ILLEGAL on it. -/
def decodeOr (w : IWord) (f : Instr → Fetched) : Fetched :=
  match decodeWord w with
  | .ok (_, i) => f i
  | .error _ => .illegal w

/-- The bundle that a first word opens, given the second word if there is one to read (R50, R51). -/
def classify (pc : Word) (w : IWord) (w2 : Option IWord) : Fetched :=
  if w.getLsbD 31 then decodeOr w (fun i => .lone w i)
  else if pc.toNat % 8 ≠ 0 then .misplaced
  else if w.getLsbD 27 then .illegal w
  else decodeOr w (fun c =>
    if isRpt c then .illegal w
    else match w2 with
      | none => .fault
      | some v => if v.extractLsb' 27 5 ≠ 1 then .illegal v else decodeOr v (fun a => .pair w v c a))

/-- The second word is fetched when the first opens a pair at an 8-aligned address. -/
def opensPair (pc : Word) (w : IWord) : Bool := !w.getLsbD 31 && !w.getLsbD 27 && pc.toNat % 8 == 0

/-- The bundle at a slot's PC, fetched (R200 steps 1 to 3). -/
def State.fetchBundle (s : State) (c i : Nat) (pc : Word) : State × Fetched :=
  match s.fetch c i pc with
  | .fault => (s, .fault)
  | .ask h => (s, .away pc h)
  | .word s _ true => (s, .poisoned)
  | .word s w false =>
    if opensPair pc w then
      match s.fetch c i (pc + 4) with
      | .fault => (s, .fault)
      | .ask h => (s, .away (pc + 4) h)
      | .word s _ true => (s, .poisoned)
      | .word s v false => (s, classify pc w (some v))
    else (s, classify pc w none)

/-- The word of device memory at an address, if it may be fetched, and whether it is poisoned. -/
def State.memWord (s : State) (c : Nat) (va : Word) : Option (IWord × Bool) :=
  match s.codeAt c va with
  | .here w bad _ => some (w, bad)
  | _ => none

/-- Some word of the bundle at a PC is poisoned (R217). -/
def State.fetchBad (s : State) (c : Nat) (pc : Word) : Bool :=
  match s.memWord c pc with
  | some (w, bad) => bad || (opensPair pc w && ((s.memWord c (pc + 4)).map Prod.snd).getD false)
  | none => false

/-- The bundle that the slot's fetch will give, for the scoreboard: the fetch draws the same free values when the slot
issues in this step. -/
def State.peek (s : State) (c i : Nat) : Fetched := (s.fetchBundle c i (s.slot c i).pc).2

/-! ### Operand fields -/

/-- The C-word's and the A-word's fields, the A-word's renamed. -/
structure Fields2 where
  readC : List RegName
  readA : List RegName
  writeC : List RegName
  writeA : List RegName
  deriving DecidableEq, Repr

/-- The operand fields of a bundle (R51, R69). -/
def fieldsAt (offset : Nat) : Fetched → Fields2
  | .lone _ i =>
    if i.isA then ⟨[], (readsOf i).map (renamed offset), [], (writesOf i).map (renamed offset)⟩
    else ⟨readsOf i, [], writesOf i, []⟩
  | .pair _ _ c a =>
    ⟨readsOf c, (readsOf a).map (renamed offset), writesOf c, (writesOf a).map (renamed offset)⟩
  | _ => ⟨[], [], [], []⟩

/-- The link ports that fields name (R67). -/
def Slot.portsIn (t : Slot) (fs : List RegName) : List Nat :=
  fs.filterMap (fun f => match f with | .x r => t.port r | .v _ => none)

/-- The stream-bound registers that fields name (R68). -/
def Slot.streamsIn (t : Slot) (fs : List RegName) : List Nat :=
  fs.filterMap (fun f => match f with
    | .v r => if (t.stream r).isSome then some r.toNat else none
    | .x _ => none)

/-- A number stands twice in a list. -/
def twice : List Nat → Bool
  | [] => false
  | n :: r => r.contains n || twice r

/-- The offset that renaming adds in the present pass, when the PC lies in the live loop's body (R69). -/
def Slot.renameOffset (t : Slot) (index : Option Nat) : Nat :=
  match t.loop, index with
  | some l, some _ => l.pass * l.stride
  | _, _ => 0

/-- Some field reads a register whose fixed-latency write has not landed (R58). -/
def Slot.early (t : Slot) (now : Nat) (fs : List RegName) : Bool :=
  fs.any (fun f =>
    (match f with | .x r => (t.port r).isNone | .v r => (t.stream r).isNone) &&
    t.pend.any (fun p => p.reg == f && decide (now < p.due)))

/-- Some field reads a register whose pending write has not arrived at the member that issues the bundle at the PC: it
lands where the register is held, and crosses from there (R253, R255). -/
def Slot.earlyMember (t : Slot) (c now : Nat) (fs : List RegName) : Bool :=
  fs.any (fun f =>
    (match f with | .x r => (t.port r).isNone | .v r => (t.stream r).isNone) &&
    (t.pend ++ t.landed).any (fun p => p.reg == f && decide (now < p.due + crossing (t.holder c f) (t.issuer c t.pc))))

/-- The poisoned register of some fields, as the code of Table 9.5. -/
def Slot.badField (t : Slot) : List RegName → Option Word
  | [] => none
  | .x r :: fs => if (t.port r).isNone && r != 0 && t.poisonX.contains r
      then some (BitVec.ofNat 64 (0xE000000100000000 + r.toNat)) else t.badField fs
  | .v r :: fs => if (t.stream r).isNone && t.poisonV.contains r
      then some (BitVec.ofNat 64 (0xE000000200000000 + r.toNat)) else t.badField fs

/-- A stream element in own LM or the own A buffer is poisoned (R217). -/
def CoreSt.badElement (k : CoreSt) (a : Nat) : Bool :=
  if a / 2 ^ 56 = 0xF0 then k.lmBad (a % 2 ^ 56) 16 else k.abufBad (a % 2 ^ 56) 16

/-- The poisoned element that a read stream of some fields would pop: it has not been read ahead (R217). -/
def CoreSt.badStream (k : CoreSt) (t : Slot) : List Nat → Option Word
  | [] => none
  | r :: rs => match find t.streams r with
    | some x =>
      let a := (x.addr x.next).toNat
      if x.ahead = [] && k.badElement a then some (BitVec.ofNat 64 a) else k.badStream t rs
    | none => k.badStream t rs

/-- The first stream-bound register of some fields that R68 forbids to be used so. -/
def Slot.streamMisuse (t : Slot) (reads writes : List Nat) : Option Nat :=
  (reads.find? (fun r => match find t.streams r with
    | some x => x.isWrite || decide (x.total ≤ x.next)
    | none => false)).orElse
  (fun _ => writes.find? (fun r => match find t.streams r with
    | some x => !x.isWrite || decide (x.total ≤ x.next)
    | none => false))

/-- A pop of the port can take place: the facing context stands on a core (R208), a word is there, and no other bundle
of the core that is in flight has read the port and has still to pop its word (R67). That a second reader stalls meanwhile
is the model's choice (DESIGN CHOICE, log 40). -/
def State.canPop (s : State) (c i p : Nat) : Bool :=
  (s.portSite c p).isSome && !(listOf (s.core c).ports p).isEmpty &&
  ((s.core c).flying i).all (fun t => !t.bundle.popPorts.contains p)

/-- The ports that a bundle pushes a word onto: those its fields write, and the opposite one for each port it pops with
the forward bit (R67). -/
def Slot.pushesOf (t : Slot) (pops writes : List Nat) : List Nat :=
  writes ++ (pops.filter (fun p => t.linkmap.getLsbD (4 + p))).map opposite

/-- Every push finds room, two onto one port counted both. -/
def State.allRoom (s : State) (c i : Nat) (pushes : List Nat) : Bool :=
  pushes.all (fun p => s.portRoom c i p (pushes.count p))

/-! ### Issue -/

/-- What an issue leaves: nothing to execute (a trap was taken, or the bundle waits for a port), one word, or a
pair. -/
inductive Issued where
  | done (s : State)
  | one (s : State) (i : Instr)
  | two (s : State) (c a : Instr)

/-- The words of a fetched bundle. -/
def Fetched.word : Fetched → IWord
  | .lone w _ | .pair w _ _ _ | .illegal w => w
  | _ => 0

/-- The second word of a fetched bundle. -/
def Fetched.word2 : Fetched → Option IWord
  | .pair _ v _ _ => some v
  | _ => none

/-- The later word of a bundle in which a field of the A-word, or only fields of the C-word, stand twice. -/
def Fetched.laterWord (f : Fetched) (inC : Bool) : IWord := if inC then f.word else f.word2.getD f.word

/-- The position rules of an RPT body (R65, R69): the word that breaks them. -/
def Fetched.badInBody : Fetched → Option IWord
  | .lone w i => if i.isA || plainMemory i then none else some w
  | .pair w _ c _ => if plainMemory c then none else some w
  | _ => none

/-- The ILLEGAL cases of R51 and R69 that concern the bundle's fields: the word TVAL takes. Their order, where several
hold in one bundle, is DESIGN CHOICE, log 48. -/
def bundleIllegal (t : Slot) (inBody : Bool) (f : Fetched) (fs : Fields2) : Option IWord :=
  let dup := fun (name : List RegName → List Nat) (c a : List RegName) =>
    if twice (name c) then some (f.laterWord true)
    else if twice (name c ++ name a) then some (f.laterWord false) else none
  if inBody && f.badInBody.isSome then f.badInBody
  else if fs.writeC.any (fun r => !isX0 r && fs.writeA.contains r) then some (f.laterWord false)
  else (dup t.portsIn fs.readC fs.readA).orElse (fun _ => (dup t.portsIn fs.writeC fs.writeA).orElse (fun _ =>
    (dup t.streamsIn fs.readC fs.readA).orElse (fun _ => dup t.streamsIn fs.writeC fs.writeA)))

/-- The registers as read at issue: a mapped x register reads its port's oldest word, a read-bound v register its
stream's next element (R52, R67, R68). -/
def State.snapshot (s : State) (c i : Nat) (ports streams : List Nat) : Vector Word 32 × Vector Vec 32 :=
  let k := s.core c
  let t := k.slot i
  (ports.foldl (fun v p => v.set ((28 + p) % 32) ((listOf k.ports p).headD 0) (Nat.mod_lt _ (by decide))) t.x,
   streams.foldl (fun v r => match find t.streams r with
     | some x => v.set (r % 32) (k.streamHead x) (Nat.mod_lt _ (by decide))
     | none => v) t.v)

/-- What one word's operand checks find before its operands are read: a link-port access inside a transaction or a
caravan, or a stream that R68 forbids to be used so. -/
def Slot.wordFault (t : Slot) (w : IWord) (reads writes : List RegName) : Option Late :=
  let linked := !(t.portsIn reads).isEmpty || !(t.portsIn writes).isEmpty
  if linked && t.txn.isSome then some .linkInTxn
  else if linked && decide (1 < t.cvsize) then some (.trap .caravan (w.setWidth 64))
  else (t.streamMisuse (t.streamsIn reads) (t.streamsIn writes)).map (fun r => .trap .stream (BitVec.ofNat 64 r))

/-- An operand check's finding is taken at the slot's bundle. -/
def State.takeLate (s : State) (c i : Nat) : Late → State
  | .linkInTxn => s.abortTxn c i .illegal 0
  | .trap cause v => s.trapNow c i cause v (s.slot c i).bundle.here

/-- The bundle's A-word takes its last operand from LM, through the LSU at issue (R66, R9). -/
def State.entryPort (s : State) (c i : Nat) (f : Fetched) : State :=
  let entry := match f with
    | .lone _ a | .pair _ _ _ a => takesEntry a
    | _ => false
  if entry then s.modSlot c i (fun t => t.takePort s.cycle 1) else s

/-- A bundle whose words were fetched and decoded issues: the remaining checks of R200, the operands read, and the
words to execute. What the A-word's operand checks find in a pair is kept until the C-word's have passed. -/
def State.issueWords (s : State) (c i : Nat) (f : Fetched) (index : Option Nat) : Issued :=
  let t := s.slot c i
  let pc := t.pc
  let offset := t.renameOffset index
  let fs := fieldsAt offset f
  let illegal := bundleIllegal t index.isSome f fs
  let ports := t.portsIn (fs.readC ++ fs.readA)
  let writes := t.portsIn (fs.writeC ++ fs.writeA)
  let streams := t.streamsIn (fs.readC ++ fs.readA)
  let snap := s.snapshot c i ports streams
  let bad := fun fields => (t.badField fields).orElse (fun _ => (s.core c).badStream t (t.streamsIn fields))
  let late := t.wordFault (f.word2.getD f.word) fs.readA fs.writeA
  let b : Bundle :=
    { here := pc, next := pc + BitVec.ofNat 64 (bundleSize f.word), word := f.word, word2 := f.word2
      stall := (headerOf f.word).stall.toNat, mode := .lone, rdX := snap.1, rdV := snap.2, popPorts := ports
      popStreams := streams, stash := none, bad := bad fs.readA, links := t.linkmap, rename := offset, inBody := index.isSome
      bodyLast := match t.loop, index with | some l, some k => k + 1 == l.len | _, _ => false
      pushPorts := t.pushesOf ports writes, late }
  let s := s.modSlot c i (fun t => { t with bundle := b })
  match illegal with
  | some w => .one s (.illegalEncoding w)
  | none =>
    if t.chkmode = 1 ∧ t.cvsize ≤ 1 ∧ t.early s.cycle (fs.readC ++ fs.readA) = true then
      .done (s.trapNow c i .score pc pc)
    else match t.wordFault f.word fs.readC fs.writeC with
    | some x => .done (s.takeLate c i x)
    | none => match bad fs.readC with
    | some v => .done (s.consumePoison c i v)
    | none =>
      let mine := if late.isSome then t.portsIn fs.readC else ports
      let puts := if late.isSome then t.pushesOf mine (t.portsIn fs.writeC) else b.pushPorts
      match f, late with
      | .lone _ _, some x => .done (s.takeLate c i x)
      | _, _ =>
        if !(mine.all (s.canPop c i)) || !s.allRoom c i puts then
          .done (s.modSlot c i (fun t => { t with wait := .port }))
        else
          let s := s.entryPort c i f
          match f with
          | .lone _ i => .one s i
          | .pair _ _ cw aw =>
            .two (s.modSlot c i (fun t => { t with bundle := { t.bundle with mode := .second } })) cw aw
          | _ => .done s

/-- The matrix registers and FPCTL that waited for older commands take their start values (R136). -/
def Slot.resetMatrix (t : Slot) : Slot :=
  { t with rm := 0, fz := false, mfmta := 0, mfmtb := 0, mfmtc := 0, mscla := 0, msclb := 0, resetPending := false }

/-- Pending writes whose cycle has come land. A caravan remembers those that have landed for the cycles of the longest
crossing, because a member that does not hold the register reads them later (R253). -/
def Slot.landFor (t : Slot) (now : Nat) : Slot :=
  let u := t.land now
  if t.cvsize ≤ 1 then u
  else { u with landed := (t.landed ++ t.pend.filter (fun p => decide (p.due ≤ now))).filter (fun p => decide (now < p.due + 3)) }

/-- What a slot's issue begins with: the running slot, its issue cycle, the round-robin mark, the member that issues (R255),
and the results that have landed (R55, R195). -/
def State.startIssue (s : State) (c i : Nat) : State :=
  let prio := (((s.core c).handler (s.slot c i).chan).map Handler.prio).getD 0
  let s := s.modCore c (fun k => { k with rrIssue := put k.rrIssue prio i })
  let s := s.modSlot c i (fun t =>
    let by_ := t.issuer c t.pc
    let issued := if t.lastIssue = s.cycle then t.cvIssued ++ [by_] else [by_]
    let t := t.landFor s.cycle
    let t := if t.resetPending then t.resetMatrix else t
    { t with lastIssue := s.cycle, cvIssued := if t.cvsize ≤ 1 then [] else issued })
  { s with cur := (c, i) }

/-- A slot issues the bundle at its PC; one whose words, or the words before it in a loop's body, have still to come from
their home asks for them first. -/
def State.issue (s : State) (c i : Nat) : Issued :=
  let pc := (s.slot c i).pc
  let asks := fun (va : Word) (h : Home) =>
    Issued.done ((({ s with cur := (c, i) } : State).modSlot c i
      (fun t => { t with bundle := { emptyBundle with here := pc } })).askCode c i va h .fetch)
  match s.loopIndex c i with
  | .ask va h => asks va h
  | .found index =>
    match (s.startIssue c i).fetchBundle c i pc with
    | (_, .away va h) => asks va h
    | (s, f) =>
      let s := s.modSlot c i (fun t => { t.useBrought pc with bundle := { emptyBundle with here := pc } })
      match f with
      | .fault | .poisoned => .one s .instructionFetchFault
      | .misplaced => .done (s.trapNow c i .pair pc pc)
      | .illegal w => .one s (.illegalEncoding w)
      | f => s.issueWords c i f index

/-! ### Which slot issues (R195) -/

/-- The core's slots and engines go on: it neither stops for a pre-emption nor waits for its image (R192, R202). -/
def CoreSt.works (k : CoreSt) : Bool :=
  match k.stage with
  | .running | .requested _ => true
  | _ => false

/-- The core issues: it holds a running launch, and is neither stopping nor part of an ending launch. -/
def State.coreRuns (s : State) (c : Nat) : Bool :=
  (s.core c).works &&
  match s.launchOf c with
  | some l => l.ending.isNone && l.state == .running
  | none => false

/-- The launch that a core holds is ending (R188). -/
def State.ends (s : State) (c : Nat) : Bool := ((s.launchOf c).bind Launch.ending).isSome

/-- The registers that a fetched bundle reads without naming them (R255). -/
def Fetched.implied (inl : Bool) : Fetched → List RegName
  | .lone _ i => impliedReads inl i
  | .pair _ _ c _ => impliedReads inl c
  | _ => []

/-- The scoreboard holds the slot: mode 2 waits for every register that the fields of the bundle read (R58); a caravan
waits for every register that the bundle reads, at the member that issues it (R255). -/
def State.held (s : State) (c i : Nat) : Bool :=
  let t := s.slot c i
  if t.pend ++ t.landed = [] ∨ (t.chkmode ≠ 2 ∧ t.cvsize ≤ 1) then false
  else match s.loopIndex c i with
    | .ask .. => false
    | .found index =>
      let f := s.peek c i
      let fs := fieldsAt (t.renameOffset index) f
      if t.cvsize ≤ 1 then t.early s.cycle (fs.readC ++ fs.readA)
      else t.earlyMember c s.cycle (fs.readC ++ fs.readA ++ f.implied (decide (0 < t.inlineDepth)))

/-- The member that owns the slot's next block has issued in this cycle already: each issues one bundle (R255). -/
def Slot.memberUsed (t : Slot) (c now : Nat) : Bool :=
  decide (1 < t.cvsize) && t.lastIssue == now && t.cvIssued.contains (t.issuer c t.pc)

/-- A command pushed by the slot has not started (R136). -/
def CoreSt.unstarted (k : CoreSt) (i : Nat) : Bool :=
  k.mq.any (fun e => e.slot == i && e.marker.isNone && e.run.isNone)

/-- Some member core of a slot's caravan stops for a pre-emption: no more bundles issue (R202, R260). -/
def State.parting (s : State) (c i : Nat) : Bool :=
  decide (1 < (s.slot c i).cvsize) && ((s.slot c i).members c).any (fun n => match (s.core n).stage with
    | .stopping .. => true
    | _ => false)

/-- The slot is eligible in this cycle. -/
def State.eligible (s : State) (c i : Nat) : Bool :=
  let t := s.slot c i
  s.coreRuns c && t.active && decide (t.notBefore ≤ s.cycle) && t.skipAt != some s.cycle && t.wait == .none && !s.parting c i &&
  (t.h || t.heldTraps.isEmpty) && !(t.resetPending && (s.core c).unstarted i) && !t.memberUsed c s.cycle &&
  !s.held c i

/-- The priority of a slot: that of the channel whose activation it holds. -/
def State.slotPrio (s : State) (c i : Nat) : Nat := (((s.core c).handler (s.slot c i).chan).map Handler.prio).getD 0

/-- The slot that the core issues from in this cycle, if any is eligible. -/
def State.pick (s : State) (c : Nat) : Option Nat :=
  let els := (List.range 4).filter (s.eligible c)
  match els.find? (fun i => decide ((s.slot c i).lastIssue + Config.starveLimit ≤ s.cycle)) with
  | some i => some i
  | none =>
    let best := (els.map (s.slotPrio c)).foldl max 0
    let top := els.filter (fun i => s.slotPrio c i == best)
    let last := (find (s.core c).rrIssue best).getD 3
    ((List.range 4).map (fun n => (last + 1 + n) % 4)).find? top.contains

end Sys2Proof.Machine
end

