-- ==== Sys2Proof/Machine/Cycle.lean ====
section
/-!
DEFINITION. The cycle (00_scope R3): the order in which cores issue in it, and the watch counters (09_traps R212).
-/
namespace Sys2Proof.Machine

/-- The slot is idle for the watchdog (R212). -/
def Slot.idle (t : Slot) : Bool :=
  match t.wait with
  | .chrd .. | .waitev _ | .swwait .. | .barrier _ => true
  | _ => false

/-- WATCH counts a cycle (R212). -/
def Slot.tick (t : Slot) : Slot := if t.active && !t.idle then { t with watch := t.watch + 1 } else t

/-- The next core in the cycle's order that issues, with its slot (log 1). -/
def State.nextCore (s : State) : Option (Nat × Nat) :=
  s.cores.findSome? (fun p => if p.1 < s.turn then none else (s.pick p.1).map (fun i => (p.1, i)))

end Sys2Proof.Machine
end

