-- ==== Sys2Proof/Machine/Scalar.lean ====
section
/-!
DEFINITION. The scalar instructions of both classes (03_encoding R62; the entries of 14_reference, 15_reference and
16_reference named at each meaning).
-/
namespace Sys2Proof.Machine

/-! ### What the operations compute (Table 3.8) -/

/-- 1 for true, as a register value. -/
def flagWord (b : Bool) : Word := BitVec.ofNat 64 (bit b)

/-- SHL: the amount is taken mod 64 (R355). -/
def shlWord (a b : Word) : Word := a <<< (b.toNat % 64)

/-- SHR. -/
def shrWord (a b : Word) : Word := a >>> (b.toNat % 64)

/-- SRA. -/
def sraWord (a b : Word) : Word := a.sshiftRight (b.toNat % 64)

/-- SLT. -/
def sltWord (a b : Word) : Word := flagWord (a.slt b)

/-- SLTN. -/
def sltnWord (a b : Word) : Word := flagWord (a.ult b)

/-- MIN, signed. -/
def minWord (a b : Word) : Word := if b.slt a then b else a

/-- MAX, signed. -/
def maxWord (a b : Word) : Word := if a.slt b then b else a

/-- MINN, unsigned. -/
def minnWord (a b : Word) : Word := if b.ult a then b else a

/-- MAXN, unsigned. -/
def maxnWord (a b : Word) : Word := if a.ult b then b else a

/-- MULH: bits [127:64] of the signed product (R341). -/
def mulhWord (a b : Word) : Word := BitVec.ofInt 64 (a.toInt * b.toInt / 2 ^ 64)

/-- MULHN: bits [127:64] of the unsigned product. -/
def mulhnWord (a b : Word) : Word := BitVec.ofNat 64 (a.toNat * b.toNat / 2 ^ 64)

/-- DIV: toward zero; by zero all ones; the most negative value by -1 is itself (R307). -/
def divWord (a b : Word) : Word := if b = 0 then BitVec.allOnes 64 else BitVec.ofInt 64 (a.toInt.tdiv b.toInt)

/-- DIVN. -/
def divnWord (a b : Word) : Word := if b = 0 then BitVec.allOnes 64 else BitVec.ofNat 64 (a.toNat / b.toNat)

/-- REM: sign of the dividend; by zero the dividend (R348). -/
def remWord (a b : Word) : Word := if b = 0 then a else BitVec.ofInt 64 (a.toInt.tmod b.toInt)

/-- REMN. -/
def remnWord (a b : Word) : Word := if b = 0 then a else BitVec.ofNat 64 (a.toNat % b.toNat)

/-- POPC (R346). -/
def popcWord (a : Word) : Word := BitVec.ofNat 64 ((List.range 64).filter (fun i => bitAt a i)).length

/-- CLZ: the zeros above the highest one bit, 64 for 0 (R303). -/
def clzWord (a : Word) : Word := BitVec.ofNat 64 ((List.range 64).takeWhile (fun i => !bitAt a (63 - i))).length

/-- CTZ: the zeros below the lowest one bit, 64 for 0 (R303). -/
def ctzWord (a : Word) : Word := BitVec.ofNat 64 ((List.range 64).takeWhile (fun i => !bitAt a i)).length

/-- EXTR: len + 1 bits from a position on, zero-extended; bits above bit 63 read zero (R311). -/
def extrWord (a : Word) (len pos : Nat) : Word := BitVec.ofNat 64 (a.toNat / 2 ^ pos % 2 ^ (len + 1))

/-- INS: the low len + 1 bits of a register into a field of another (R317). -/
def insWord (d a : Word) (len pos : Nat) : Word :=
  let m : Word := BitVec.ofNat 64 ((2 ^ (len + 1) - 1) * 2 ^ pos)
  (d &&& ~~~m) ||| BitVec.ofNat 64 (a.toNat % 2 ^ (len + 1) * 2 ^ pos)

/-- WIDF: field n of the work identifier, 0 when the header has no such field (R20, R399). -/
def widField (wid w3 : Word) (n : Nat) : Word :=
  if bits w3 38 36 ≤ n then 0
  else BitVec.ofNat 64 (wid.toNat / 2 ^ fieldAt w3 n % 2 ^ widthOf w3 n)

/-- WIDW of the launch that a core holds: header word 3 with bits [63:43] zero (R20). -/
def State.widw (s : State) (c : Nat) : Word :=
  ((s.launchOf c).map (fun l => BitVec.ofNat 64 (bits (l.word 3) 42 0))).getD 0

/-! ### The shapes -/

/-- An A-class form of two sources, the second perhaps an LM entry (R62, R66). -/
def State.scalarEff (s : State) (f : Word → Word → Word) (d a b : Reg) (m : Bool) (latency : Nat) : AEff :=
  (effX d (f (s.X a) (s.operandC m b)) latency).withPoison (s.poisonC m b 8)

/-- A C-class form of two sources. -/
def State.scalarRes (s : State) (f : Word → Word → Word) (d a b : Reg) : Res := go (s.setX d (f (s.X a) (s.X b)))

/-- An A-class immediate form. -/
def State.immEff (s : State) (f : Word → Word → Word) (d a : Reg) (imm : Word) : AEff := effX d (f (s.X a) imm) 1

/-- A C-class immediate form. -/
def State.immRes (s : State) (f : Word → Word → Word) (d a : Reg) (imm : Word) : Res := go (s.setX d (f (s.X a) imm))

/-! ### The meanings -/

/-- ADD, A-class: latency 1 (R284). -/
def execAddA (d a b : Reg) (m : Bool) (s : State) : Host.Outcome State Fault Refusal :=
  runA s (s.scalarEff (· + ·) d a b m 1)

/-- SUB, A-class: latency 1 (R363). -/
def execSubA (d a b : Reg) (m : Bool) (s : State) : Host.Outcome State Fault Refusal :=
  runA s (s.scalarEff (· - ·) d a b m 1)

/-- AND, A-class: latency 1 (R289). -/
def execAndA (d a b : Reg) (m : Bool) (s : State) : Host.Outcome State Fault Refusal :=
  runA s (s.scalarEff (· &&& ·) d a b m 1)

/-- OR, A-class: latency 1 (R345). -/
def execOrA (d a b : Reg) (m : Bool) (s : State) : Host.Outcome State Fault Refusal :=
  runA s (s.scalarEff (· ||| ·) d a b m 1)

/-- XOR, A-class: latency 1 (R400). -/
def execXorA (d a b : Reg) (m : Bool) (s : State) : Host.Outcome State Fault Refusal :=
  runA s (s.scalarEff (· ^^^ ·) d a b m 1)

/-- SHL, A-class: latency 1 (R355). -/
def execShlA (d a b : Reg) (m : Bool) (s : State) : Host.Outcome State Fault Refusal :=
  runA s (s.scalarEff shlWord d a b m 1)

/-- SHR, A-class: latency 1 (R355). -/
def execShrA (d a b : Reg) (m : Bool) (s : State) : Host.Outcome State Fault Refusal :=
  runA s (s.scalarEff shrWord d a b m 1)

/-- SRA, A-class: latency 1 (R355). -/
def execSraA (d a b : Reg) (m : Bool) (s : State) : Host.Outcome State Fault Refusal :=
  runA s (s.scalarEff sraWord d a b m 1)

/-- SLT, A-class: latency 1 (R356). -/
def execSltA (d a b : Reg) (m : Bool) (s : State) : Host.Outcome State Fault Refusal :=
  runA s (s.scalarEff sltWord d a b m 1)

/-- SLTN, A-class: latency 1 (R356). -/
def execSltnA (d a b : Reg) (m : Bool) (s : State) : Host.Outcome State Fault Refusal :=
  runA s (s.scalarEff sltnWord d a b m 1)

/-- MIN, A-class: latency 1 (R328). -/
def execMinA (d a b : Reg) (m : Bool) (s : State) : Host.Outcome State Fault Refusal :=
  runA s (s.scalarEff minWord d a b m 1)

/-- MAX, A-class: latency 1 (R328). -/
def execMaxA (d a b : Reg) (m : Bool) (s : State) : Host.Outcome State Fault Refusal :=
  runA s (s.scalarEff maxWord d a b m 1)

/-- MINN, A-class: latency 1 (R328). -/
def execMinnA (d a b : Reg) (m : Bool) (s : State) : Host.Outcome State Fault Refusal :=
  runA s (s.scalarEff minnWord d a b m 1)

/-- MAXN, A-class: latency 1 (R328). -/
def execMaxnA (d a b : Reg) (m : Bool) (s : State) : Host.Outcome State Fault Refusal :=
  runA s (s.scalarEff maxnWord d a b m 1)

/-- MUL: latency 3 (R341). -/
def execMul (d a b : Reg) (m : Bool) (s : State) : Host.Outcome State Fault Refusal :=
  runA s (s.scalarEff (· * ·) d a b m 3)

/-- MULH: latency 3 (R341). -/
def execMulh (d a b : Reg) (m : Bool) (s : State) : Host.Outcome State Fault Refusal :=
  runA s (s.scalarEff mulhWord d a b m 3)

/-- MULHN: latency 3 (R341). -/
def execMulhn (d a b : Reg) (m : Bool) (s : State) : Host.Outcome State Fault Refusal :=
  runA s (s.scalarEff mulhnWord d a b m 3)

/-- DIV: interlocked (R307). -/
def execDiv (d a b : Reg) (m : Bool) (s : State) : Host.Outcome State Fault Refusal :=
  runA s (s.scalarEff divWord d a b m 1)

/-- DIVN: interlocked (R307). -/
def execDivn (d a b : Reg) (m : Bool) (s : State) : Host.Outcome State Fault Refusal :=
  runA s (s.scalarEff divnWord d a b m 1)

/-- REM: interlocked (R348). -/
def execRem (d a b : Reg) (m : Bool) (s : State) : Host.Outcome State Fault Refusal :=
  runA s (s.scalarEff remWord d a b m 1)

/-- REMN: interlocked (R348). -/
def execRemn (d a b : Reg) (m : Bool) (s : State) : Host.Outcome State Fault Refusal :=
  runA s (s.scalarEff remnWord d a b m 1)

/-- POPC (R346). -/
def execPopc (d a : Reg) (s : State) : Host.Outcome State Fault Refusal :=
  runA s (effX d (popcWord (s.X a)) 1)

/-- CLZ (R303). -/
def execClz (d a : Reg) (s : State) : Host.Outcome State Fault Refusal :=
  runA s (effX d (clzWord (s.X a)) 1)

/-- CTZ (R303). -/
def execCtz (d a : Reg) (s : State) : Host.Outcome State Fault Refusal :=
  runA s (effX d (ctzWord (s.X a)) 1)

/-- ADD, C-class (R284). -/
def execAddC (d a b : Reg) (s : State) : Host.Outcome State Fault Refusal :=
  runC s (s.scalarRes (· + ·) d a b)

/-- SUB, C-class (R363). -/
def execSubC (d a b : Reg) (s : State) : Host.Outcome State Fault Refusal :=
  runC s (s.scalarRes (· - ·) d a b)

/-- AND, C-class (R289). -/
def execAndC (d a b : Reg) (s : State) : Host.Outcome State Fault Refusal :=
  runC s (s.scalarRes (· &&& ·) d a b)

/-- OR, C-class (R345). -/
def execOrC (d a b : Reg) (s : State) : Host.Outcome State Fault Refusal :=
  runC s (s.scalarRes (· ||| ·) d a b)

/-- XOR, C-class (R400). -/
def execXorC (d a b : Reg) (s : State) : Host.Outcome State Fault Refusal :=
  runC s (s.scalarRes (· ^^^ ·) d a b)

/-- SHL, C-class (R355). -/
def execShlC (d a b : Reg) (s : State) : Host.Outcome State Fault Refusal :=
  runC s (s.scalarRes shlWord d a b)

/-- SHR, C-class (R355). -/
def execShrC (d a b : Reg) (s : State) : Host.Outcome State Fault Refusal :=
  runC s (s.scalarRes shrWord d a b)

/-- SRA, C-class (R355). -/
def execSraC (d a b : Reg) (s : State) : Host.Outcome State Fault Refusal :=
  runC s (s.scalarRes sraWord d a b)

/-- SLT, C-class (R356). -/
def execSltC (d a b : Reg) (s : State) : Host.Outcome State Fault Refusal :=
  runC s (s.scalarRes sltWord d a b)

/-- SLTN, C-class (R356). -/
def execSltnC (d a b : Reg) (s : State) : Host.Outcome State Fault Refusal :=
  runC s (s.scalarRes sltnWord d a b)

/-- MIN, C-class (R328). -/
def execMinC (d a b : Reg) (s : State) : Host.Outcome State Fault Refusal :=
  runC s (s.scalarRes minWord d a b)

/-- MAX, C-class (R328). -/
def execMaxC (d a b : Reg) (s : State) : Host.Outcome State Fault Refusal :=
  runC s (s.scalarRes maxWord d a b)

/-- MINN, C-class (R328). -/
def execMinnC (d a b : Reg) (s : State) : Host.Outcome State Fault Refusal :=
  runC s (s.scalarRes minnWord d a b)

/-- MAXN, C-class (R328). -/
def execMaxnC (d a b : Reg) (s : State) : Host.Outcome State Fault Refusal :=
  runC s (s.scalarRes maxnWord d a b)

/-- ADDI, A-class (R284). -/
def execAddiA (d a : Reg) (imm : BitVec 11) (s : State) : Host.Outcome State Fault Refusal :=
  runA s (s.immEff (· + ·) d a (sext imm))

/-- ADDI, C-class (R284). -/
def execAddiC (d a : Reg) (imm : BitVec 11) (s : State) : Host.Outcome State Fault Refusal :=
  runC s (s.immRes (· + ·) d a (sext imm))

/-- ANDI, A-class (R289). -/
def execAndiA (d a : Reg) (imm : BitVec 11) (s : State) : Host.Outcome State Fault Refusal :=
  runA s (s.immEff (· &&& ·) d a (sext imm))

/-- ANDI, C-class (R289). -/
def execAndiC (d a : Reg) (imm : BitVec 11) (s : State) : Host.Outcome State Fault Refusal :=
  runC s (s.immRes (· &&& ·) d a (sext imm))

/-- ORI, A-class (R345). -/
def execOriA (d a : Reg) (imm : BitVec 11) (s : State) : Host.Outcome State Fault Refusal :=
  runA s (s.immEff (· ||| ·) d a (zext imm))

/-- ORI, C-class (R345). -/
def execOriC (d a : Reg) (imm : BitVec 11) (s : State) : Host.Outcome State Fault Refusal :=
  runC s (s.immRes (· ||| ·) d a (zext imm))

/-- XORI, A-class (R400). -/
def execXoriA (d a : Reg) (imm : BitVec 11) (s : State) : Host.Outcome State Fault Refusal :=
  runA s (s.immEff (· ^^^ ·) d a (zext imm))

/-- XORI, C-class (R400). -/
def execXoriC (d a : Reg) (imm : BitVec 11) (s : State) : Host.Outcome State Fault Refusal :=
  runC s (s.immRes (· ^^^ ·) d a (zext imm))

/-- SLTI, A-class (R356). -/
def execSltiA (d a : Reg) (imm : BitVec 11) (s : State) : Host.Outcome State Fault Refusal :=
  runA s (s.immEff sltWord d a (sext imm))

/-- SLTI, C-class (R356). -/
def execSltiC (d a : Reg) (imm : BitVec 11) (s : State) : Host.Outcome State Fault Refusal :=
  runC s (s.immRes sltWord d a (sext imm))

/-- SHL by an immediate, A-class (R355). -/
def execShlImmA (d a : Reg) (amount : BitVec 6) (s : State) : Host.Outcome State Fault Refusal :=
  runA s (s.immEff shlWord d a (zext amount))

/-- SHL by an immediate, C-class (R355). -/
def execShlImmC (d a : Reg) (amount : BitVec 6) (s : State) : Host.Outcome State Fault Refusal :=
  runC s (s.immRes shlWord d a (zext amount))

/-- SHR by an immediate, A-class (R355). -/
def execShrImmA (d a : Reg) (amount : BitVec 6) (s : State) : Host.Outcome State Fault Refusal :=
  runA s (s.immEff shrWord d a (zext amount))

/-- SHR by an immediate, C-class (R355). -/
def execShrImmC (d a : Reg) (amount : BitVec 6) (s : State) : Host.Outcome State Fault Refusal :=
  runC s (s.immRes shrWord d a (zext amount))

/-- SRA by an immediate, A-class (R355). -/
def execSraImmA (d a : Reg) (amount : BitVec 6) (s : State) : Host.Outcome State Fault Refusal :=
  runA s (s.immEff sraWord d a (zext amount))

/-- SRA by an immediate, C-class (R355). -/
def execSraImmC (d a : Reg) (amount : BitVec 6) (s : State) : Host.Outcome State Fault Refusal :=
  runC s (s.immRes sraWord d a (zext amount))

/-- EXTR (R311). -/
def execExtr (d a : Reg) (len : BitVec 5) (pos : BitVec 6) (s : State) : Host.Outcome State Fault Refusal :=
  runA s (effX d (extrWord (s.X a) len.toNat pos.toNat) 1)

/-- INS: xd is read as a source (R317). -/
def execIns (d a : Reg) (len : BitVec 5) (pos : BitVec 6) (s : State) : Host.Outcome State Fault Refusal :=
  runA s (effX d (insWord (s.X d) (s.X a) len.toNat pos.toNat) 1)

/-- WIDF (R399). -/
def execWidf (d : Reg) (n : BitVec 3) (s : State) : Host.Outcome State Fault Refusal :=
  runA s (effX d (widField s.me.wid (s.widw s.cur.1) n.toNat) 1)

/-- NOP, A-class (R344). -/
def execNopA  (s : State) : Host.Outcome State Fault Refusal :=
  runA s { writes := [] }

/-- NOP, C-class (R344). -/
def execNopC  (s : State) : Host.Outcome State Fault Refusal :=
  runC s (go s)

/-- LIH: sign-extend(imm16 << 16) (R324). -/
def execLih (d : Reg) (imm : BitVec 16) (s : State) : Host.Outcome State Fault Refusal :=
  runC s (go (s.setX d (sext (imm ++ (0 : BitVec 16)))))

/-- LIQ: bits [47:32] replaced (R324). -/
def execLiq (d : Reg) (imm : BitVec 16) (s : State) : Host.Outcome State Fault Refusal :=
  runC s (go (s.setX d (setBits (s.X d) 47 32 imm.toNat)))

/-- LIW: bits [63:48] replaced (R324). -/
def execLiw (d : Reg) (imm : BitVec 16) (s : State) : Host.Outcome State Fault Refusal :=
  runC s (go (s.setX d (setBits (s.X d) 63 48 imm.toNat)))

end Sys2Proof.Machine
end

