-- ==== Sys2Proof/Machine/Control.lean ====
section
/-!
DEFINITION. Branches, jumps, loops, traps and the small system instructions: the entries BBC to BKPT, END to ERET,
HMASK, J to JALR, RPT, TRAP, YIELD, ALIVE, RELEASE, FENCE and FENCEX of 14_reference to 16_reference; and the two bundle
events (R65, R125).
-/
namespace Sys2Proof.Machine

/-- A branch: taken, it is followed after the bundle's A-word has completed (R52, R294, R295). -/
def branch (s : State) (taken : Bool) (pc : Word) : Res := if taken then .ok (.jump s pc) else go s

/-- The TVAL of a trap that names its word (R65, R71). -/
def State.wordVal (s : State) : Word := s.me.bundle.word.setWidth 64

/-- An operation of R172: inside a transaction it aborts with cause ILLEGAL and CODE 0 before any effect. -/
def State.noTxn (s : State) : Except Stop Unit :=
  if s.me.txn.isSome then .error (.abort .illegal 0) else .ok ()

/-- RPT (R69, R350). -/
def State.rptRes (s : State) (a : Reg) (len : BitVec 3) (stride : BitVec 4) : Res :=
  let count := (s.X a).toNat
  let body := s.me.bundle.next
  let n := len.toNat + 1
  if 65535 < count then .error (s.stopWith .illegal (s.X a))
  else if count = 0 then match s.skipBundles s.cur.1 s.cur.2 n body with
    | .found pc => .ok (.jump s pc)
    | .ask va h =>
      let t := s.askCode s.cur.1 s.cur.2 va h .skip
      .error (.wait t t.me.wait)
  else go (s.modMe (fun t => { t with loop := some { pass := 0, count, len := n, stride := stride.toNat, body } }))

/-- JALR (R319). -/
def State.jalrRes (s : State) (d b : Reg) (imm : BitVec 11) : Res :=
  let t := s.X b + sext imm
  if t.toNat % 4 ≠ 0 then .error (s.stopWith .align t) else .ok (.jump (s.setX d s.me.bundle.next) t)

/-- TRAP and BKPT: the A-word of the pair completes first (R52, R173, R296, R370). -/
def State.trapRes (s : State) (c : Cause) (v : Word) : Res := .ok (.trapAfter s c v)

/-- ERET (R201, R310). -/
def State.eretRes (s : State) : Res := do
  s.noTxn
  if s.me.tpc.toNat % 4 ≠ 0 then .error (s.stopWith .align s.me.tpc)
  else .ok (.jump (s.trapReturn s.cur.1 s.cur.2) s.me.tpc)

/-- END: an inline child returns to x1; else the activation ends (R43, R309). -/
def State.endRes (s : State) : Res := do
  s.noTxn
  if 0 < s.me.inlineDepth then
    if (s.X 1).toNat % 4 ≠ 0 then .error (s.stopWith .align (s.X 1))
    else .ok (.jump (s.modMe (fun t => { t with inlineDepth := t.inlineDepth - 1 })) (s.X 1))
  else if 1 < s.me.cvsize then s.handBackFirst
  else match s.depart s.cur.1 s.cur.2 with
    | (t, .none) => .ok (.ended t)
    | (t, w) => .error (.wait t w)

/-- The mask bit of a channel in the issuing core's table (R316). -/
def State.maskRes (s : State) (ch : BitVec 6) (m : Bool) : Res :=
  go (s.modHere (fun k => { k with table := modifyNth k.table ch.toNat (fun h => { h with mask := m }) }))

/-- YIELD: not eligible in the cycle after its issue (R195, R401). -/
def State.yieldRes (s : State) : Res := go (s.modMe (fun t => { t with skipAt := some (t.lastIssue + 1) }))

/-- RELEASE: outside a caravan nothing; inside a transaction an abort with PREEMPT first; the hand-back comes before it
retires (R259, R347). -/
def State.releaseRes (s : State) : Res :=
  if s.me.cvsize ≤ 1 then go s
  else
    if s.me.txn.isSome then .ok (.abortAfter s .preempt 0) else s.handBackFirst

/-- FENCE: inside a transaction it adds nothing (R159, R312). -/
def State.fenceRes (s : State) (kind : FenceKind) (sc : Scope) : Res := do
  if s.me.txn.isSome then go s
  else match kind with
    | .full => let s ← s.release sc; go (s.acquire sc)
    | .rel => let s ← s.release sc; go s
    | .acq => go (s.acquire sc)

/-- Step 1 of FENCEX for a class other than LSU: every operation of the class that the slot issued has completed
(R160). -/
def State.classDone (s : State) (ca : PathClass) : Bool :=
  let (c, i) := s.cur
  let k := s.core c
  match ca with
  | .lsu | .host => true
  | .copy => !k.cq.any (fun o => o.slot == i)
  | .matrix => !k.mq.any (fun e => e.slot == i && e.marker.isNone)
  | .gather => !k.gq.any (fun o => o.slot == i)
  | .stream => (k.slot i).streams.all (fun r => r.2.unwritten.isEmpty)
  | .mcast => !s.fab.sends.any (fun m => some m.launch == k.launch && m.origin == k.origin && m.slot == i) &&
      !s.net.any (fun m => isMcast m.body && m.owner == k.launch && m.src == s.placeOf c && m.slot == i)

/-- Step 2 of FENCEX: what path b holds from earlier reads is discarded (R160). -/
def State.discard (s : State) (cb : PathClass) (sc : Scope) : State :=
  match cb with
  | .lsu => s.dropL1 s.cur.1 sc
  | .stream => s.modMe (fun t => { t with streams := t.streams.map (fun r => (r.1, { r.2 with ahead := [] })) })
  | _ => s

/-- FENCEX (R160, R313). With cb = host the accesses of class a are performed for the host and other packages, whatever the
scope. -/
def State.fencexRes (s : State) (ca cb : PathClass) (sc : Scope) : Res := do
  let s ← if ca = .lsu then s.releaseAll (if cb = .host then .sys else sc) else pure s
  if s.classDone ca then go (s.discard cb sc) else .error (.wait s .stall)

/-! ### The meanings -/

/-- BEQ (R295). -/
def execBeq (a b : Reg) (off : BitVec 11) (s : State) : Host.Outcome State Fault Refusal :=
  runC s (branch s (s.X a == s.X b) (s.target off))

/-- BNE (R295). -/
def execBne (a b : Reg) (off : BitVec 11) (s : State) : Host.Outcome State Fault Refusal :=
  runC s (branch s (s.X a != s.X b) (s.target off))

/-- BLT (R295). -/
def execBlt (a b : Reg) (off : BitVec 11) (s : State) : Host.Outcome State Fault Refusal :=
  runC s (branch s ((s.X a).slt (s.X b)) (s.target off))

/-- BGE (R295). -/
def execBge (a b : Reg) (off : BitVec 11) (s : State) : Host.Outcome State Fault Refusal :=
  runC s (branch s (!(s.X a).slt (s.X b)) (s.target off))

/-- BLTN (R295). -/
def execBltn (a b : Reg) (off : BitVec 11) (s : State) : Host.Outcome State Fault Refusal :=
  runC s (branch s ((s.X a).ult (s.X b)) (s.target off))

/-- BGEN (R295). -/
def execBgen (a b : Reg) (off : BitVec 11) (s : State) : Host.Outcome State Fault Refusal :=
  runC s (branch s (!(s.X a).ult (s.X b)) (s.target off))

/-- BBS (R294). -/
def execBbs (a : Reg) (bit : BitVec 6) (off : BitVec 10) (s : State) : Host.Outcome State Fault Refusal :=
  runC s (branch s (bitAt (s.X a) bit.toNat) (s.target off))

/-- BBC (R294). -/
def execBbc (a : Reg) (bit : BitVec 6) (off : BitVec 10) (s : State) : Host.Outcome State Fault Refusal :=
  runC s (branch s (!bitAt (s.X a) bit.toNat) (s.target off))

/-- J (R318). -/
def execJ (off : BitVec 21) (s : State) : Host.Outcome State Fault Refusal :=
  runC s (branch s true (s.target off))

/-- JAL: the return address is the next bundle's (R52, R318). -/
def execJal (off : BitVec 21) (s : State) : Host.Outcome State Fault Refusal :=
  runC s (.ok (.jump (s.setX 1 s.me.bundle.next) (s.target off)))

/-- JALR (R319). -/
def execJalr (d b : Reg) (imm : BitVec 11) (s : State) : Host.Outcome State Fault Refusal :=
  runC s (s.jalrRes d b imm)

/-- RPT (R350). -/
def execRpt (a : Reg) (len : BitVec 3) (stride : BitVec 4) (s : State) : Host.Outcome State Fault Refusal :=
  runC s (s.rptRes a len stride)

/-- TRAP (R370). -/
def execTrap (code : BitVec 11) (s : State) : Host.Outcome State Fault Refusal :=
  runC s (s.trapRes .trapi (zext code))

/-- BKPT (R296). -/
def execBkpt (s : State) : Host.Outcome State Fault Refusal :=
  runC s (s.trapRes .bkpt s.me.bundle.here)

/-- ERET (R310). -/
def execEret (s : State) : Host.Outcome State Fault Refusal :=
  runC s s.eretRes

/-- END (R309). -/
def execEnd (s : State) : Host.Outcome State Fault Refusal :=
  runC s s.endRes

/-- HMASK (R316). -/
def execHmask (ch : BitVec 6) (s : State) : Host.Outcome State Fault Refusal :=
  runC s (s.maskRes ch true)

/-- HUNMASK (R316). -/
def execHunmask (ch : BitVec 6) (s : State) : Host.Outcome State Fault Refusal :=
  runC s (s.maskRes ch false)

/-- YIELD (R401). -/
def execYield (s : State) : Host.Outcome State Fault Refusal :=
  runC s s.yieldRes

/-- ALIVE: WATCH and the fired flag are cleared (R285). -/
def execAlive (s : State) : Host.Outcome State Fault Refusal :=
  runC s (go (s.modMe Slot.progress))

/-- RELEASE (R347). -/
def execRelease (s : State) : Host.Outcome State Fault Refusal :=
  runC s s.releaseRes

/-- FENCE (R312). -/
def execFence (kind : FenceKind) (scope : Scope) (s : State) : Host.Outcome State Fault Refusal :=
  runC s (s.fenceRes kind scope)

/-- FENCEX (R313). -/
def execFencex (ca cb : PathClass) (scope : Scope) (s : State) : Host.Outcome State Fault Refusal :=
  runC s (s.fencexRes ca cb scope)

/-- ILLEGAL_ENCODING: the word traps ILLEGAL, zero-extended, at its bundle (R65, R200). -/
def execIllegalEncoding (w : IWord) (s : State) : Host.Outcome State Fault Refusal :=
  .next (s.trapNow s.cur.1 s.cur.2 .illegal (w.setWidth 64) s.me.bundle.here)

/-- INSTRUCTION_FETCH_FAULT: the fetch at a PC consumes poison, or traps ACCESS with TVAL = the PC (R106, R125, R200). -/
def execInstructionFetchFault (s : State) : Host.Outcome State Fault Refusal :=
  let pc := s.me.bundle.here
  .next (if s.fetchBad s.cur.1 pc then s.consumePoison s.cur.1 s.cur.2 pc
    else s.trapNow s.cur.1 s.cur.2 .access pc pc)

end Sys2Proof.Machine
end

