-- ==== Sys2Proof/Machine/Registers.lean ====
section
/-!
DEFINITION. The control registers (03_encoding Tables 3.12 to 3.16, 07_ordering Tables 7.6 and 7.9, 06_engines Tables
6.6 to 6.8 and 6.13, 11_caravans Table 11.2) and CRR, CRW, CRS and CRC (14_reference R306).
-/
namespace Sys2Proof.Machine

/-- Access of a control register, Table 3.12. -/
inductive Access where
  | rw | r | rc
  deriving DecidableEq, Repr

/-- The access of a register number; none for a number that Table 3.12 does not give. -/
def cregAccess (n : Nat) : Option Access :=
  if n ∈ [0x000, 0x001, 0x002, 0x010, 0x011, 0x030, 0x031, 0x032, 0x033, 0x034, 0x035, 0x038, 0x039, 0x040, 0x041,
      0x042, 0x043, 0x044, 0x045, 0x046, 0x047, 0x050, 0x051] then some .rw
  else if n ∈ [0x020, 0x021, 0x022, 0x023, 0x024, 0x025, 0x037, 0x052, 0x060, 0x061, 0x070, 0x071] then some .r
  else if n = 0x036 then some .rc
  else none

/-- TSTAT (Table 7.6). -/
def Slot.tstat (t : Slot) : Word :=
  BitVec.ofNat 64 ((match t.txn with
    | some x => 2 ^ 63 + x.depth * 2 ^ 60 + bit x.stamp.isSome * 2 ^ 59
    | none => 0) + bit t.tage.isSome * 2 ^ 58 + t.tcode.toNat * 256 + t.tabort.toNat)

/-- A register value with the number on its bits; numbers above 64 bits do not arise. -/
def wordN (n : Nat) : Word := BitVec.ofNat 64 n

/-- The value of a control register that Table 3.12 gives. -/
def State.creg (s : State) (c i n : Nat) : Word :=
  let k := s.core c
  let t := k.slot i
  let l := s.launchOf c
  match n with
  | 0x000 => wordN (8 * bit t.fz + t.rm)
  | 0x001 => wordN t.fflags.toNat
  | 0x002 => t.srseed
  | 0x010 => t.lmb
  | 0x011 => t.linkmap.setWidth 64
  | 0x020 => t.wid
  | 0x021 => s.widw c
  | 0x022 => wordN i
  | 0x023 => wordN k.origin
  | 0x024 => wordN s.pkg
  | 0x025 => wordN ((l.map (fun l => l.rankOf s.pkg k.origin)).getD 0)
  | 0x030 => k.tvec
  | 0x031 => t.tcause
  | 0x032 => t.tval
  | 0x033 => t.tpc
  | 0x034 => t.tscr
  | 0x035 => t.tstat
  | 0x036 => t.tage.getD 0
  | 0x037 => s.frontOf c
  | 0x038 => t.rptst
  | 0x039 => t.rptpc
  | 0x040 => t.mfmta.setWidth 64
  | 0x041 => t.mfmtb.setWidth 64
  | 0x042 => t.mfmtc.setWidth 64
  | 0x043 => t.mscla
  | 0x044 => t.msclb
  | 0x045 => wordN k.acc0v.status
  | 0x046 => wordN k.acc1v.status
  | 0x047 => wordN k.topk
  | 0x050 => wordN t.chkmode
  | 0x051 => wordN k.splim
  | 0x052 => wordN t.watch
  | 0x060 => wordN s.cycle
  | 0x061 => wordN t.retired
  | 0x070 => wordN t.cvsize
  | 0x071 => t.cvmask
  | _ => 0

/-- A value is inside the range that Table 14.21 states for a register. -/
def cregAccepts (n : Nat) (v : Word) : Bool :=
  match n with
  | 0x000 => decide (bits v 2 0 ≤ 4)
  | 0x030 => bits v 1 0 == 0
  | 0x047 => decide (1 ≤ v.toNat) && decide (v.toNat ≤ 16)
  | 0x050 => decide (v.toNat ≤ 2)
  | 0x051 => decide (v.toNat ≤ 1024)
  | _ => true

/-- The generator after a write of the seed (R87). -/
def seedGen (v : Word) : Word := if v = 0 then 0x9E3779B97F4A7C15 else v

/-- The writable bits of RPTST, Table 3.16. -/
def rptstMask : Word := 0x807F0000FFFFFFFF

/-- The writable bits of MSCLA and MSCLB, Table 6.8. -/
def msclMask : Word := 0x0000FFFF0003FFFF

/-- A control register written on its writable bits (Tables 3.12 to 3.16, 14.21). A seed written is the generator's state for
the next bundle, whatever the A-word of the pair has drawn from the old one (R71, R87). -/
def State.setCreg (s : State) (c i n : Nat) (v : Word) : State :=
  let slot := fun f => s.modSlot c i f
  let core := fun f => s.modCore c f
  match n with
  | 0x000 => slot (fun t => { t with rm := bits v 2 0, fz := bitAt v 3 })
  | 0x001 => slot (fun t => { t with fflags := Flags.ofWord v })
  | 0x002 => slot (fun t => { t with
      srseed := v, gen := seedGen v
      bundle := { t.bundle with stash := t.bundle.stash.map (fun e => { e with gen := none }) } })
  | 0x010 => slot (fun t => { t with lmb := wordN (bits v 16 4 * 16) })
  | 0x011 => slot (fun t => { t with linkmap := v.setWidth 9 })
  | 0x030 => core (fun k => { k with tvec := v })
  | 0x031 => slot (fun t => { t with tcause := v })
  | 0x032 => slot (fun t => { t with tval := v })
  | 0x033 => slot (fun t => { t with tpc := v })
  | 0x034 => slot (fun t => { t with tscr := v })
  | 0x035 => slot (fun t => { t with tcode := v.extractLsb' 8 8, tabort := v.extractLsb' 0 8 })
  | 0x038 => slot (fun t => { t with rptst := v &&& rptstMask })
  | 0x039 => slot (fun t => { t with rptpc := v })
  | 0x040 => slot (fun t => { t with mfmta := v.setWidth 12 })
  | 0x041 => slot (fun t => { t with mfmtb := v.setWidth 12 })
  | 0x042 => slot (fun t => { t with mfmtc := v.setWidth 4 })
  | 0x043 => slot (fun t => { t with mscla := v &&& msclMask })
  | 0x044 => slot (fun t => { t with msclb := v &&& msclMask })
  | 0x045 => core (fun k => { k with acc0v := k.acc0v.withStatus v })
  | 0x046 => core (fun k => { k with acc1v := k.acc1v.withStatus v })
  | 0x047 => core (fun k => { k with topk := v.toNat })
  | 0x050 => slot (fun t => { t with chkmode := v.toNat })
  | 0x051 => core (fun k => { k with splim := v.toNat })
  | _ => s

/-- The six registers whose writes wait for the slot's unstarted commands (R136). -/
def waitsMatrix (n : Nat) : Bool := n ∈ [0x000, 0x040, 0x041, 0x042, 0x043, 0x044]

/-- An entry of the matrix queue targets an accumulator (R102). -/
def MEntry.targets (e : MEntry) (acc : Bool) : Bool :=
  match e.marker with
  | some m => m == acc
  | none => bits (e.words.getD 0 0) 7 0 != 2 && bitAt (e.words.getD 0 0) 8 == acc

/-- The waits of Table 14.21: a write to a matrix register, and any access to ACCSTn (R102, R136). -/
def State.cregWaits (s : State) (n : Nat) (write : Bool) : Bool :=
  (write && waitsMatrix n && s.here.unstarted s.cur.2) ||
  (n == 0x045 && s.here.mq.any (fun e => e.targets false)) ||
  (n == 0x046 && s.here.mq.any (fun e => e.targets true))

/-- A LINKMAP value maps a port whose neighbour is not a core of the launch (R67). -/
def State.badLinkmap (s : State) (v : Word) : Bool :=
  (List.range 4).any (fun p => bitAt v p &&
    match s.launchOf s.cur.1, neighbour s.here.origin p with
    | some l, some n => !(l.cores s.pkg).contains n
    | _, _ => true)

/-- CRR (R306). -/
def State.crrRes (s : State) (d : Reg) (num : BitVec 11) : Res :=
  let n := num.toNat
  if s.cregWaits n false then .error (.wait s .stall)
  else if (cregAccess n).isNone then .error (s.stopWith .illegal s.wordVal)
  else go (s.setX d (s.creg s.cur.1 s.cur.2 n))

/-- The three ways of writing a control register. -/
inductive CrWrite where
  | write | set | clear
  deriving DecidableEq, Repr

/-- The new value of a control register (R306). -/
def CrWrite.apply : CrWrite → Word → Word → Word
  | .write, _, v => v
  | .set, old, v => old ||| v
  | .clear, old, v => old &&& ~~~v

/-- CRW, CRS and CRC (R306). -/
def State.crwRes (s : State) (how : CrWrite) (a d : Reg) (num : BitVec 11) : Res :=
  let n := num.toNat
  let (c, i) := s.cur
  let old := s.creg c i n
  let new := how.apply old (s.X a)
  let allowed := match cregAccess n with
    | some .rw => true
    | some .rc => how == .clear
    | _ => false
  if s.cregWaits n true then .error (.wait s .stall)
  else if !allowed || !cregAccepts n new then .error (s.stopWith .illegal s.wordVal)
  else if n = 0x011 ∧ s.badLinkmap new = true then .error (s.stopWith .place new)
  else if n = 0x036 then
    go ((if s.X a = 0 then s else s.modMe (fun t => { t with tage := none })).setX d old)
  else go ((s.setX d old).setCreg c i n new)

/-- CRR (R306). -/
def execCrr (d : Reg) (num : BitVec 11) (s : State) : Host.Outcome State Fault Refusal := runC s (s.crrRes d num)

/-- CRW (R306). -/
def execCrw (a d : Reg) (num : BitVec 11) (s : State) : Host.Outcome State Fault Refusal :=
  runC s (s.crwRes .write a d num)

/-- CRS (R306). -/
def execCrs (a d : Reg) (num : BitVec 11) (s : State) : Host.Outcome State Fault Refusal :=
  runC s (s.crwRes .set a d num)

/-- CRC (R306). -/
def execCrc (a d : Reg) (num : BitVec 11) (s : State) : Host.Outcome State Fault Refusal :=
  runC s (s.crwRes .clear a d num)

end Sys2Proof.Machine
end

