-- ==== Sys2Proof/Machine/Transaction.lean ====
section
/-!
DEFINITION. Transactions (07_ordering R168 to R180): TBEGIN, TEND, TABORT and TSKIP (16_reference R366 to R368, R372),
the commit, and the release of held operations.
-/
namespace Sys2Proof.Machine

/-- The slot as its bundle leaves it: every pending write landed and the A-word's results written; the shadow of
TBEGIN (R168, R367). -/
def Slot.shadow (t : Slot) : Slot :=
  let u := t.landAll
  match t.bundle.stash with
  | none => u
  | some e => e.writes.foldl (fun u w =>
      match w.reg with
      | .x r => if (portOf t.bundle.links r).isSome then u else u.setReg w.reg w.val
      | .v r => if (t.stream r).isSome then u else u.setReg w.reg w.val) u

/-- A new age (Table 7.9): CYCLE[47:0] and the package-wide slot id. DEDUCED, log 51: the LCN is the launch-origin
core's. -/
def State.newAge (s : State) (c i : Nat) : Word :=
  BitVec.ofNat 64 (s.cycle % 2 ^ 48 * 2 ^ 16 + ((s.core c).origin * 4 + i) % 2 ^ 16)

/-- TBEGIN (R168, R175, R367). -/
def State.tbeginRes (s : State) (a : Reg) (off : BitVec 11) : Res :=
  match s.me.txn with
  | none =>
    if a ≠ 0 ∧ s.X a = 0 then .error (.trap .illegal 0)
    else do
      let s ← s.drained
      let (c, i) := s.cur
      let s := s.acquire .pkg
      let u := s.me.shadow
      let x : Txn :=
        { target := s.target off, depth := 1, stamp := if a = 0 then none else some (s.X a)
          age := s.me.tage.getD (s.newAge c i), shadowX := u.x, shadowV := u.v, shadowPX := u.poisonX, shadowPV := u.poisonV
          reads := [], writes := [], reds := [], spec := [], pendRed := [], held := [], committing := false }
      go (s.modMe (fun t => { t with
        txn := some x, tcode := 0, tabort := 0, tage := some x.age }))
  | some x =>
    if x.depth < 7 then go (s.modMe (fun t => { t with txn := some { x with depth := x.depth + 1 } }))
    else .error (.abort .nest 0)

/-- TABORT (R366). -/
def State.tabortRes (s : State) (code : BitVec 8) : Res :=
  if s.me.txn.isSome then .ok (.abortAfter s .explicit code.toNat) else go s

/-! ### The frontier (R180) -/

/-- The lowest timestamp from t on that has not been skipped. -/
def nextFront (skipped : List Word) : Nat → Word → Word
  | 0, t => t
  | n + 1, t => if skipped.contains t then nextFront skipped n (t + 1) else t

/-- The frontier passes its timestamp. -/
def Launch.advance (l : Launch) : Launch :=
  let f := nextFront l.skipped (l.skipped.length + 1) (l.front + 1)
  { l with front := f, skipped := l.skipped.filter (fun t => decide (f.toNat < t.toNat)) }

/-- The state with the frontier of a core's launch advanced. -/
def State.advanceFront (s : State) (c : Nat) : State :=
  match (s.core c).launch with
  | some l => s.modLaunch l Launch.advance
  | none => s

/-- TSKIP (R372). -/
def State.tskipRes (s : State) (a : Reg) : Res :=
  let t := s.X a
  let f := s.frontOf s.cur.1
  if t.toNat < f.toNat then go s
  else if f.toNat + 1024 < t.toNat then .error (.wait s .stall)
  else if t = f then go (s.advanceFront s.cur.1)
  else match s.here.launch with
    | some l => go (s.modLaunch l (fun x =>
        { x with skipped := if x.skipped.contains t then x.skipped else x.skipped ++ [t] }))
    | none => go s

/-! ### The commit (R179) -/

/-- A committing transaction's line that the host holds: the snoops of R246. -/
def State.snoopTxn (s : State) (x : Txn) : State :=
  let offs := x.spec.map Prod.fst ++ x.pendRed.map PendRed.pa
  offs.foldl (fun s o => if s.hostClear o then s else s.snoop o) s

/-- No line that the commit writes is held by the host. -/
def State.txnClear (s : State) (x : Txn) : Bool :=
  (x.spec.map Prod.fst ++ x.pendRed.map PendRed.pa).all s.hostClear

/-- Step 3: the speculative bytes are written, then the pending reductions are applied in program order (R178, R179);
granules written whole lose their poison (R217). -/
def State.commitWrites (s : State) (x : Txn) : State :=
  let s := x.spec.foldl (fun s p => s.homeWrite .far p.1 [p.2]) s
  let s := { s with memPoison := s.memPoison.filter (fun g =>
    !(List.range 8).all (fun k => (find x.spec (8 * g + k)).isSome)) }
  x.pendRed.foldl (fun s p =>
    s.homeWrite .far p.pa (reduceBytes p.op p.ty (s.mem.bytes p.pa p.bytes.length) p.bytes)) s

/-- The NI has a place for another GATHER or SCATTER (R177, log 41). -/
def CoreSt.gatherRoom (k : CoreSt) : Bool := decide (k.gq.length < Config.outbound)

/-- The bytes that MCST captures from own LM or from device memory of this package, with the places of the poisoned ones
(R217, R330); none while a commit stands in the way (R176). -/
def State.captureLine (s : State) (c : Nat) (own : Bool) (parts : List (Nat × Nat)) (self : Option (Nat × Nat) := none) :
    Option (State × List Byte × List Nat) :=
  let tiles := if own then [] else parts.flatMap (fun p => tilesOf p.1 p.2)
  (s.touchTiles false tiles self).map (fun s =>
    let bs := parts.flatMap (fun p =>
      if own then marked (s.core c).lm (fun g => (s.core c).poison.contains (.lm g)) p.1 p.2
      else marked s.mem s.memPoison.contains p.1 p.2)
    (s, bs.map Prod.fst, (List.range bs.length).filter (fun j => (bs.getD j (0, false)).2)))

/-- A held operation enters its queue; none while there is no room (R177). -/
def State.releaseHeld (s : State) (c i : Nat) : HeldOp → Option State
  | .copy o =>
    if 16 ≤ (s.core c).cq.length || !(s.core c).firstFor i .copy then none
    else some (s.modCore c (fun k => { k with cq := k.cq ++ [{ o with serial := k.nextOp }], nextOp := k.nextOp + 1 }))
  | .gather o =>
    if !(s.core c).gatherRoom || !(s.core c).firstFor i .gather then none
    else some (s.modCore c (fun k => { k with gq := k.gq ++ [{ o with serial := k.nextOp }], nextOp := k.nextOp + 1 }))
  | .mcast o =>
    if !s.mcTurn c i then none
    else (s.captureLine c o.own o.parts (some (c, i))).map (fun r =>
      (r.1.logMoved c r.2.2).postMcast c i o.group o.off r.2.1 r.2.2 o.sw o.members)

/-- Step 4: held operations enter their queues in program order as far as there is room. -/
def State.releaseOps (s : State) (c i : Nat) : List HeldOp → State × List HeldOp
  | [] => (s, [])
  | o :: r => match s.releaseHeld c i o with
    | some t => t.releaseOps c i r
    | none => (s, o :: r)

/-- Step 5: the transaction is over; a progress event (R213). -/
def State.endTxn (s : State) (c i : Nat) (x : Txn) : State :=
  let s := s.modSlot c i (fun t => { t.progress with txn := none, tabort := 0, tage := none })
  if x.stamp.isSome then s.advanceFront c else s

/-- Steps 4 and 5, for a transaction whose writes are visible: done, or still waiting for queue room. -/
def State.commitOps (s : State) (c i : Nat) (x : Txn) : Except Stop State :=
  let (s, rest) := s.releaseOps c i x.held
  if rest = [] then .ok (s.endTxn c i x)
  else .error (.wait (s.modSlot c i (fun t => { t with
    txn := some { x with committing := true, held := rest, spec := [], pendRed := [] } })) .tend)

/-- Steps 2 to 5 for a slot whose transaction may commit now: done, or still waiting for the core's write buffer and its earlier
posted accesses (R157), for the host's copies or for queue room. The stores that drain may abort it (R176). -/
def State.commitNow (s : State) (c i : Nat) (x : Txn) : Except Stop State :=
  if x.committing then s.commitOps c i x
  else
    let s := s.drainAll c
    if (s.slot c i).txn.isNone then .error (.wait (s.keepFlags c i) .none)
    else if (s.core c).wb ≠ [] ∨ s.postedBy c i = true then .error (.wait s .tend)
    else if !s.txnClear x then .error (.wait (s.snoopTxn x) .tend)
    else (s.commitWrites x).commitOps c i x

/-- A commit at depth 1: an ordered one waits for the frontier, and aborts once the frontier has passed it (R179,
R368). -/
def State.commit (s : State) (c i : Nat) (x : Txn) : Except Stop State :=
  match x.stamp with
  | some t =>
    if x.committing || t == s.frontOf c then s.commitNow c i x
    else if (s.frontOf c).toNat < t.toNat then .error (.wait s .tend)
    else .error (.abort .illegal 0)
  | none => s.commitNow c i x

/-- TEND (R368). -/
def State.tendRes (s : State) : Res :=
  match s.me.txn with
  | none => .error (.trap .illegal s.wordVal)
  | some x =>
    if 1 < x.depth then go (s.modMe (fun t => { t with txn := some { x with depth := x.depth - 1 } }))
    else do go (← s.commit s.cur.1 s.cur.2 x)

/-- TBEGIN (R367). -/
def execTbegin (a : Reg) (off : BitVec 11) (s : State) : Host.Outcome State Fault Refusal :=
  runC s (s.tbeginRes a off)

/-- TEND (R368). -/
def execTend (s : State) : Host.Outcome State Fault Refusal := runC s s.tendRes

/-- TABORT (R366). -/
def execTabort (code : BitVec 8) (s : State) : Host.Outcome State Fault Refusal := runC s (s.tabortRes code)

/-- TSKIP (R372). -/
def execTskip (a : Reg) (s : State) : Host.Outcome State Fault Refusal := runC s (s.tskipRes a)

/-- COMMIT: a slot that waits in TEND tries its commit again (R179). -/
def execCommit (c i : Nat) (s : State) : Host.Outcome State Fault Refusal :=
  match (s.slot c i).wait, (s.slot c i).txn with
  | .tend, some x => match s.commit c i x with
    | .ok t => .next (t.completeWait c i)
    | .error (.wait t w) => .next (t.modSlot c i (fun u => { u with wait := w }))
    | .error (.abort w code) => .next ((s.keepFlags c i).abortTxn c i w code)
    | .error _ => .next s
  | _, _ => .next s

end Sys2Proof.Machine
end

