-- ==== Sys2Proof/Machine/Access.lean ====
section
/-!
DEFINITION. Loads, stores, atomics and sync words: LD, LDN, VLD, LDA, ST, VST, ST4, STL, AMO, CAS, TRED, SWSET, SWWAIT,
BAR, WAITEV, L1WB, L1INV and ASINV (14_reference R286 to R293, R300, R320 to R323, 16_reference R359 to R365, R371,
R384, R396, R398, 05_memory R127).
-/
namespace Sys2Proof.Machine

/-! ### Loads -/

/-- Loaded bytes as a register value (R321): sign-extended or zero-extended from their size. -/
def extendLoad (size : Nat) (signed : Bool) (bs : List Byte) : Word :=
  let v := natOfBytes bs
  if signed && decide (2 ^ (8 * size - 1) ≤ v) then BitVec.ofInt 64 ((v : Int) - 2 ^ (8 * size)) else BitVec.ofNat 64 v

/-- What a load leaves when its bytes are there (R321, R323, R384): the acquire, then the register. -/
def State.landed (s : State) (land : Landing) (acq : Option Scope) (bs : List Byte) : State :=
  let s := match acq with
    | some sc => s.acquire sc
    | none => s
  match land with
  | .x d size signed => s.setX d (extendLoad size signed bs)
  | .v d => s.setV d (vecOf16 bs)
  | _ => s

/-- A load of size bytes from an address (R321, R323, R384). -/
def State.loadRes (s : State) (a : Word) (size : Nat) (land : Landing) (acq : Option Scope) : Res := do
  let k ← s.checkMem a size .load
  let (s, bs) ← s.load a size k land acq
  go (s.landed land acq bs)

/-- An LD or LDN form. -/
def State.ldRes (s : State) (d b : Reg) (imm : BitVec 11) (size : Nat) (signed : Bool) : Res :=
  s.loadRes (s.effAddr b imm) size (.x d size signed) none

/-! ### Stores -/

/-- A store of bytes to an address (R359, R396). -/
def State.storeRes (s : State) (a : Word) (bs : List Byte) (u : Use) (isVst : Bool) : Res := do
  let k ← s.checkMem a bs.length u
  go (← s.store a bs k isVst)

/-- An ST form of fewer than 8 bytes: a queue window refuses it (R108). -/
def State.stRes (s : State) (a b : Reg) (imm : BitVec 11) (size : Nat) (u : Use) : Res :=
  s.storeRes (s.effAddr b imm) (bytesOfNat size (s.X a).toNat) u false

/-- STL (R362). -/
def State.stlRes (s : State) (dbl : Bool) (sc : Scope) (a b : Reg) : Res := do
  let size := if dbl then 8 else 4
  let addr := s.X b
  let k ← s.checkMem addr size .store
  let bs := bytesOfNat size (s.X a).toNat
  let s ← s.release sc
  go (← s.store addr bs k)

/-- A byte with a nibble replaced (R361). -/
def putNibble (hi : Bool) (v : BitVec 4) (old : Byte) : Byte :=
  if hi then BitVec.ofNat 8 (v.toNat * 16 + old.toNat % 16) else BitVec.ofNat 8 (old.toNat / 16 * 16 + v.toNat)

/-- A byte list of one byte with a nibble replaced. -/
def nibbleBytes (hi : Bool) (v : BitVec 4) (bs : List Byte) : List Byte := bs.map (putNibble hi v)

/-- ST4 (R361): where Table 16.3 places it. -/
def State.st4Res (s : State) (a b : Reg) (off : BitVec 10) (hi : Bool) : Res := do
  let addr := s.effAddr b off
  let v := (s.X a).setWidth 4
  let k ← s.checkMem addr 1 .nibble
  match k.space with
  | .remote r => go (← s.storeRemote addr r (.nibble hi v (if r.raise then some r.sw else none)))
  | _ =>
    let (s, _) ← s.atomic addr 1 k (fun bs => some (nibbleBytes hi v bs)) (.nibble hi v none) .none none
    go s

/-! ### Atomics -/

/-- Combine of Table 14.4 on a value of n bytes. -/
def combine (op : AmoOp) (n old v : Nat) : Nat :=
  let m := 2 ^ (8 * n)
  let signed := fun (x : Nat) => if m / 2 ≤ x then (x : Int) - m else (x : Int)
  let lanewise := fun (t : LaneType) => natOfBytes (reduceBytes .add t (bytesOfNat n old) (bytesOfNat n v))
  match op with
  | .add => (old + v) % m
  | .and => old &&& v
  | .or => old ||| v
  | .xor => old ^^^ v
  | .min => if signed v < signed old then v else old
  | .max => if signed old < signed v then v else old
  | .minn => if v < old then v else old
  | .maxn => if old < v then v else old
  | .swp => v
  | .faddFp32 => lanewise .fp32
  | .faddFp16 => lanewise .fp16
  | .faddBf16 => lanewise .bf16

/-- The old value is sign-extended into xd (Table 14.4). -/
def AmoOp.extends : AmoOp → Bool
  | .minn | .maxn | .faddFp32 | .faddFp16 | .faddBf16 => false
  | _ => true

/-- The new bytes that an atomic leaves; none where it writes nothing (R286, R300, R361, R371). -/
def newBytes : RemoteOp → List Byte → Option (List Byte)
  | .amo op _ v, old => some (bytesOfNat old.length (combine op old.length (natOfBytes old) (v.toNat % 2 ^ (8 * old.length))))
  | .cas _ expected new, old =>
    if natOfBytes old = expected.toNat % 2 ^ (8 * old.length) then some (bytesOfNat old.length new.toNat) else none
  | .nibble hi v _, old => some (nibbleBytes hi v old)
  | .tred op ty v, old => some (reduceBytes op ty old v)
  | .store bs _ _, _ => some bs
  | _, _ => none

/-- The scope of an AMO or CAS with fn[0] = 1 (R167). -/
def State.atomicScope (s : State) (k : Checked) (a : Word) : Scope :=
  match k.space, k.leaf with
  | .lm _, _ => .pkg
  | .remote r, _ => if r.place.pkg = s.pkg then .pkg else .domain
  | .global, some t => match s.homeOf (t.phys a.toNat) t.uncached with
    | .own _ _ => .pkg
    | _ => .domain
  | _, _ => .domain

/-- AMO and CAS (R286, R300). On own LM they are plain inside a transaction too, release and acquire with them (R170,
R288). -/
def State.amoRes (s : State) (a : Word) (dbl ar : Bool) (op : RemoteOp) (d : Reg) (signed : Bool) : Res := do
  let n := if dbl then 8 else 4
  let k ← s.checkMem a n .atomic
  let sc := s.atomicScope k a
  let plain := match k.space with | .lm _ => true | _ => false
  let s ← if !ar then pure s else if plain then s.releaseAll sc else s.release sc
  let land := Landing.x d n signed
  let acq := if ar then some sc else none
  let (s, old) ← s.atomic a n k (newBytes op) op land acq
  let s := if ar && plain then s.dropL1 s.cur.1 sc else s
  go (s.landed land acq old)

/-- A TRED in a transaction to memory of type 0 homed here (R174, R178, R371). -/
def State.tredTxn (s : State) (off : Nat) (op : RedOp) (ty : LaneType) (v : List Byte) : Except Stop State := do
  let tile := off / 512
  let s ← s.txnTouch tile (.red op ty)
  pure (s.modMe (fun t => { t with txn := t.txn.map (fun x =>
    if x.writes.contains tile then { x with spec := specPut x.spec off (reduceBytes op ty (s.txnBytes x off v.length) v) }
    else { x with pendRed := x.pendRed ++ [{ pa := off, op, ty, bytes := v }] }) }))

/-- TRED (R371). -/
def State.tredRes (s : State) (vec : Bool) (op : RedOp) (ty : LaneType) (b c : Reg) : Res := do
  let a := s.X b
  let n := if vec then 16 else laneWidth ty / 8
  let v := bytesOfNat n (if vec then (s.Vc c).toNat else (s.X c).toNat)
  let k ← s.checkMem a n .atomic
  let home := k.leaf.map (fun t => s.homeOf (t.phys a.toNat) t.uncached)
  match home, s.me.txn with
  | some (.own off _), some _ =>
    let s := (k.leaf.map s.cacheLeaf).getD s
    go (← s.tredTxn off op ty v)
  | _, _ =>
    let (s, _) ← s.atomic a n k (newBytes (.tred op ty v)) (.tred op ty v) .none none
    go s

/-! ### Sync words -/

/-- SWSET's step at a core's LM port (R114, R364); the granule that target and count fill loses its poison. -/
def CoreSt.swset (k : CoreSt) (o target : Nat) : CoreSt :=
  CoreSt.seeEvents { k.lmWrite o (bytesOfNat 8 target) with lm := swsetLm k.lm o target, evSeen := k.evSeen }

/-- SWSET (R364, R402). -/
def State.swsetRes (s : State) (a b : Reg) : Res := do
  let w := s.X b
  let target : BitVec 32 := (s.X a).setWidth 32
  let k ← s.checkMem w 16 .syncword
  match k.space with
  | .lm off => go (s.modHere (fun k => k.swset off target.toNat))
  | .remote r => go (← s.storeRemote w r (.swset target))
  | _ => .error (s.stopWith .space w)

/-- SWWAIT (R116, R365). -/
def State.swwaitRes (s : State) (a b : Reg) : Res := do
  s.noTxn
  let w := s.X b
  let k ← s.checkMem w 16 .syncwait
  match k.space with
  | .lm off =>
    let g := generationLm s.here.lm off
    if s.here.lmBad (off + 8) 4 then .error (.poison w)
    else if g = (s.X a).setWidth 32 then .error (.wait (s.modMe (fun t => t.takePort s.cycle 1)) (.swwait a off g))
    else go ((s.acquire .domain).setX a (zext g))
  | _ => .error (s.stopWith .space w)

/-- A BAR whose generation has advanced: the wait ends, then the acquire (R291). -/
def State.barDone (s : State) (sc : Scope) : State :=
  (s.modMe (fun t => { t with barWait := false, barWoken := none })).acquire sc

/-- The wait of BAR after its arrival, on an own or a remote sync word (R291). -/
def State.barAwait (s : State) (sc : Scope) (sp : Space) : Res :=
  let past := match sp with
    | .lm off => generationLm s.here.lm off != s.me.barGen
    | _ => s.me.barWoken == some s.me.barGen
  if past then go (s.barDone sc) else .error (.wait s (.barrier sc))

/-- An arrival at an LM port (R291): the generation before the raise. -/
def State.arrive (s : State) (c o n : Nat) : State × BitVec 32 :=
  let g := generationLm (s.core c).lm o
  ((s.modCore c (fun k => CoreSt.seeEvents { k with lm := k.lm.setNum o 4 n })).raise c o 1, g)

/-- BAR (R291, R292). -/
def State.barRes (s : State) (sc : Scope) (a b : Reg) : Res := do
  s.noTxn
  let n : BitVec 32 := (s.X a).setWidth 32
  let sw := s.X b
  if n = 0 then .error (s.stopWith .illegal 0)
  else
    let k ← s.checkMem sw 16 .barrier
    if s.me.barWait = true ∧ s.me.barAddr = sw then s.barAwait sc k.space
    else
      let s := s.modMe (fun t => { t with barWait := false, barWoken := none })
      let s ← s.release sc
      match k.space with
      | .lm off =>
        let (s, g) := s.arrive s.cur.1 off n.toNat
        let s := s.modMe (fun t => t.takePort s.cycle 1)
        (s.modMe (fun t => { t with barWait := true, barGen := g, barAddr := sw })).barAwait sc k.space
      | .remote r =>
        let s := s.modMe (fun t => { t with barAddr := sw })
        if !s.zyTurn s.cur.1 s.cur.2 r.place.pkg then .error (.wait s (.full .retry))
        else .error (.wait (s.post s.cur.1 (s.msgFrom s.cur.1 s.cur.2 r.place (.access (.barArrive n) r.off (.slot s.cur.2))))
          (.barAnswer sc sw))
      | _ => .error (s.stopWith .space sw)

/-- WAITEV (R398). -/
def State.waitevRes (s : State) (a : Reg) : Res := do
  s.noTxn
  let w := s.X a
  let k ← s.checkMem w 8 .waitev
  match k.space with
  | .lm off =>
    if s.here.lm.word off = 0 then
      let s := s.modHere (fun k => { k with evSeen := k.evSeen.filter (· != s.cur.2) })
      .error (.wait (s.modMe (fun t => t.takePort s.cycle 1)) (.waitev off))
    else go s
  | _ => .error (s.stopWith .space w)

/-! ### Caches -/

/-- L1WB's wait (R320): no write-buffer entry holds a store of the slot. In a transaction there is none. -/
def State.writtenBack (s : State) : Except Stop State :=
  if s.me.txn.isSome then .ok s
  else
    let t := s.drainAll s.cur.1
    if (t.core s.cur.1).wb.any (fun e => e.slots.contains s.cur.2) then .error (.wait t .stall) else .ok t

/-- L1WB (R320). -/
def State.l1wbRes (s : State) : Res := do go (← s.writtenBack)

/-- L1INV (R320). -/
def State.l1invRes (s : State) : Res := do
  let s ← s.writtenBack
  go (s.modHere (fun k => { k with l1d := [] }))

/-- The write buffers of every core drain as far as they can of entries of an ASID. -/
def State.drainAsid (s : State) (asid : Nat) : State :=
  s.cores.foldl (fun (s : State) (p : Nat × CoreSt) =>
    if p.2.wb.any (fun e => e.asid == asid) then s.drainAll p.1 else s) s

/-- A slot's or an engine's access that was translated under an ASID has not completed at its home (R127). -/
def State.translatedOpen (s : State) (asid : Nat) : Bool :=
  s.cores.any (fun (p : Nat × CoreSt) =>
    p.2.wb.any (fun e => e.asid == asid) ||
    (s.asidOf p.1 == asid &&
      (p.2.cq.any (fun o => decide (0 < o.outstanding)) ||
       p.2.slots.toList.any (fun t => match t.wait with
        | .answer _ addr _ => spaceOf s.pkg addr == .global
        | .hostRead .. => true
        | _ => false))))

/-- Transactions that are open on a core abort with CONFLICT (R127, R128); one that is committing ends first (R179). -/
def State.abortCore (s : State) (c : Nat) : State :=
  (List.range 4).foldl (fun s i => if (s.slot c i).aborts then s.abortTxn c i .conflict 0 else s) s

/-- ASINV (R127, R290). -/
def State.asinvRes (s : State) (a : Reg) : Res := do
  s.noTxn
  let asid := bits (s.X a) 15 0
  let s ← s.drained (.asinv asid false)
  let c := s.cur.1
  let s := s.modCore c (fun k => { k with
    l1d := k.l1d.filter (fun l => l.asid != asid), l1i := k.l1i.filter (fun e => e.1 != asid) })
  let s := { s with tlb := s.tlb.filter (fun t => t.asid != asid) }
  let s := if s.asidOf c = asid then s.abortCore c else s
  let s := s.drainAsid asid
  if s.translatedOpen asid then .error (.wait s (.asinv asid true)) else go s

/-! ### The meanings -/

/-- LD.B (R321). -/
def execLdB (d b : Reg) (imm : BitVec 11) (s : State) : Host.Outcome State Fault Refusal :=
  runC s (s.ldRes d b imm 1 true)

/-- LD.H (R321). -/
def execLdH (d b : Reg) (imm : BitVec 11) (s : State) : Host.Outcome State Fault Refusal :=
  runC s (s.ldRes d b imm 2 true)

/-- LD.W (R321). -/
def execLdW (d b : Reg) (imm : BitVec 11) (s : State) : Host.Outcome State Fault Refusal :=
  runC s (s.ldRes d b imm 4 true)

/-- LD.D (R321). -/
def execLdD (d b : Reg) (imm : BitVec 11) (s : State) : Host.Outcome State Fault Refusal :=
  runC s (s.ldRes d b imm 8 false)

/-- LDN.B (R321). -/
def execLdnB (d b : Reg) (imm : BitVec 11) (s : State) : Host.Outcome State Fault Refusal :=
  runC s (s.ldRes d b imm 1 false)

/-- LDN.H (R321). -/
def execLdnH (d b : Reg) (imm : BitVec 11) (s : State) : Host.Outcome State Fault Refusal :=
  runC s (s.ldRes d b imm 2 false)

/-- LDN.W (R321). -/
def execLdnW (d b : Reg) (imm : BitVec 11) (s : State) : Host.Outcome State Fault Refusal :=
  runC s (s.ldRes d b imm 4 false)

/-- VLD (R384). -/
def execVld (d b : Reg) (imm : BitVec 11) (s : State) : Host.Outcome State Fault Refusal :=
  runC s (s.loadRes (s.effAddr b imm) 16 (.v d) none)

/-- ST.B (R359). -/
def execStB (a b : Reg) (imm : BitVec 11) (s : State) : Host.Outcome State Fault Refusal :=
  runC s (s.stRes a b imm 1 .store)

/-- ST.H (R359). -/
def execStH (a b : Reg) (imm : BitVec 11) (s : State) : Host.Outcome State Fault Refusal :=
  runC s (s.stRes a b imm 2 .store)

/-- ST.W (R359). -/
def execStW (a b : Reg) (imm : BitVec 11) (s : State) : Host.Outcome State Fault Refusal :=
  runC s (s.stRes a b imm 4 .store)

/-- ST.D: the one ST that a queue window takes (R108, R359). -/
def execStD (a b : Reg) (imm : BitVec 11) (s : State) : Host.Outcome State Fault Refusal :=
  runC s (s.stRes a b imm 8 .queueStore)

/-- VST (R396). -/
def execVst (a b : Reg) (imm : BitVec 11) (s : State) : Host.Outcome State Fault Refusal :=
  runC s (s.storeRes (s.effAddr b imm) (bytesOfNat 16 (s.Vc a).toNat) .queueStore true)

/-- ST4 (R361). -/
def execSt4 (a b : Reg) (off : BitVec 10) (hi : Bool) (s : State) : Host.Outcome State Fault Refusal :=
  runC s (s.st4Res a b off hi)

/-- LDA (R323). -/
def execLda (dbl : Bool) (scope : Scope) (d b : Reg) (s : State) : Host.Outcome State Fault Refusal :=
  runC s (s.loadRes (s.X b) (if dbl then 8 else 4) (.x d (if dbl then 8 else 4) true) (some scope))

/-- STL (R362). -/
def execStl (dbl : Bool) (scope : Scope) (a b : Reg) (s : State) : Host.Outcome State Fault Refusal :=
  runC s (s.stlRes dbl scope a b)

/-- AMO (R286). -/
def execAmo (op : AmoOp) (dbl ar : Bool) (d b c : Reg) (s : State) : Host.Outcome State Fault Refusal :=
  runC s (s.amoRes (s.X b) dbl ar (.amo op dbl (s.X c)) d (AmoOp.extends op))

/-- CAS (R300). -/
def execCas (dbl ar : Bool) (a b c : Reg) (s : State) : Host.Outcome State Fault Refusal :=
  runC s (s.amoRes (s.X b) dbl ar (.cas dbl (s.X a) (s.X c)) a true)

/-- TRED (R371). -/
def execTred (vec : Bool) (op : RedOp) (t : LaneType) (b c : Reg) (s : State) : Host.Outcome State Fault Refusal :=
  runC s (s.tredRes vec op t b c)

/-- SWSET (R364). -/
def execSwset (a b : Reg) (s : State) : Host.Outcome State Fault Refusal :=
  runC s (s.swsetRes a b)

/-- SWWAIT (R365). -/
def execSwwait (a b : Reg) (s : State) : Host.Outcome State Fault Refusal :=
  runC s (s.swwaitRes a b)

/-- BAR (R291). -/
def execBar (scope : Scope) (a b : Reg) (s : State) : Host.Outcome State Fault Refusal :=
  runC s (s.barRes scope a b)

/-- WAITEV (R398). -/
def execWaitev (a : Reg) (s : State) : Host.Outcome State Fault Refusal :=
  runC s (s.waitevRes a)

/-- L1WB (R320). -/
def execL1wb (s : State) : Host.Outcome State Fault Refusal :=
  runC s s.l1wbRes

/-- L1INV (R320). -/
def execL1inv (s : State) : Host.Outcome State Fault Refusal :=
  runC s s.l1invRes

/-- ASINV (R127, R290). -/
def execAsinv (a : Reg) (s : State) : Host.Outcome State Fault Refusal :=
  runC s (s.asinvRes a)

end Sys2Proof.Machine
end

