-- ==== Sys2Proof/Machine/Delivery.lean ====
section
/-!
DEFINITION. Messages (02_execution R31 to R46): the FIFOs, the arrival queue and the oasis of a core; SEND, SPAWN,
SPAWNQ, MIGRATE, CALLAT, REPLY and CHRD (14_reference R298 to R302, 15_reference R334, R335, R349, R353, R354, R357,
R358).
-/
namespace Sys2Proof.Machine

/-! ### CHRD (R33, R301, R302) -/

/-- Claims that other activations hold on a channel (R31). -/
def CoreSt.otherClaims (k : CoreSt) (i ch : Nat) : Nat :=
  ((List.range 4).map (fun j =>
    let t := k.slot j
    if j ≠ i ∧ t.active = true ∧ t.chan = ch then t.claim else 0)).sum

/-- The activation in a slot has a claim on a channel. -/
def CoreSt.claims (k : CoreSt) (i ch : Nat) : Bool := (k.slot i).chan == ch && decide (0 < (k.slot i).claim)

/-- CHRD of a slot can pop a word: its own claim's, or one beyond the claims of the others. -/
def CoreSt.canPop (k : CoreSt) (i ch : Nat) : Bool :=
  let n := (k.words ch).length
  decide (0 < n) && (k.claims i ch || decide (k.otherClaims i ch < n))

/-- The TVAL of a poisoned word of a FIFO (Table 9.5). -/
def fifoCode (ch w : Nat) : Word := BitVec.ofNat 64 (0xE000000400000000 + 64 * ch + w)

/-- CHRD's pop by a slot: the oldest word leaves the FIFO, or stays as consumed by a contained activation; a claim is used
up, and oasis entries move into the room (R31, R41, R219). -/
def CoreSt.pop (k : CoreSt) (i ch : Nat) : CoreSt × Option FifoWord :=
  let ws := listOf k.fifos ch
  match ws.findIdx? (fun w => w.slot.isNone) with
  | none => (k, none)
  | some n =>
    let t := k.slot i
    let t := if k.claims i ch then { t with claim := t.claim - 1 } else t
    let rest := if k.containedAt t.chan then modifyNth ws n (fun w => { w with slot := some i }) else ws.eraseIdx n
    ((({ k with fifos := put k.fifos ch rest }).setSlot i t.progress).settle, ws[n]?)

/-- A CHRD that can pop: the word, or the poison it holds, which the TVAL names by the word's place in the FIFO. A contained
activation keeps a poisoned word as consumed and is rolled back (R302). -/
def State.popRes (s : State) (d : Reg) (ch : Nat) : Res :=
  let (c, i) := s.cur
  match (s.core c).pop i ch with
  | (k, some w) =>
    if w.word.poison then
      let code := fifoCode ch ((listOf (s.core c).fifos ch).findIdx (fun w => w.slot.isNone))
      if s.contained c i then .error (.wait ((s.setCore c k).consumePoison c i code) .none) else .error (.poison code)
    else go ((s.setCore c k).setX d w.word.val)
  | (_, none) => go s

/-- CHRD (R301). A slot that finds no word for it blocks behind the slots that blocked before it (R33). -/
def State.chrdRes (s : State) (d : Reg) (ch : BitVec 6) : Res := do
  s.noTxn
  let (c, i) := s.cur
  let n := ch.toNat
  let k := s.core c
  let behind := k.chrdWaiters.any (fun w => w.2 == n) && !k.claims i n
  if k.canPop i n && !behind then s.popRes d n
  else .error (.wait (s.modCore c (fun k => { k with chrdWaiters := k.chrdWaiters ++ [(i, n)] })) (.chrd d n))

/-! ### Sends -/

/-- The scope of a send's release: the smallest that holds sender and target (R161). -/
def State.sendScope (s : State) (t : Place) : Scope :=
  if t.pkg = s.pkg then scopeOf s.here.origin t.lcn else .domain

/-- A message leaves the running slot after its release: held when its activation is contained, else accepted by the NI and
sent; a progress event (R35, R40, R161, R213). v is the place word. -/
def State.sendMsg (s : State) (v : Word) (t : Place) (body : MsgBody) : Except Stop State :=
  let (c, i) := s.cur
  if s.contained c i then do
    let _ ← s.hold v (s.msgFrom c i t body)
    (← s.release (s.sendScope t)).hold v (s.msgFrom c i t body)
  else do
    let s ← s.release (s.sendScope t)
    if s.niTurn c i t then pure ((s.post c (s.msgFrom c i t body)).modMe Slot.progress) else .error (.wait s (s.niWait c i t))

/-- The registers from one on. -/
def State.regs (s : State) (first : Reg) (n : Nat) : List Word :=
  (List.range n).map (fun k => s.X (first + BitVec.ofNat 5 k))

/-- A word without poison. -/
def clean (w : Word) : PWord := { val := w, poison := false }

/-- SEND (R353). -/
def State.sendRes (s : State) (a b : Reg) (count : BitVec 2) (ch : BitVec 6) : Res := do
  s.noTxn
  let t ← s.checkPlace (s.X a)
  go (← s.sendMsg (s.X a) t (.data ch.toNat ((s.regs b (count.toNat + 1)).map clean)))

/-- The PC of a child or a migrating thread is aligned. -/
def State.checkPc (s : State) (pc : Word) : Except Stop Unit :=
  if pc.toNat % 4 ≠ 0 then .error (s.stopWith .align pc) else .ok ()

/-- One more outstanding child (R46). -/
def State.bear (s : State) : State := s.modHere (fun k => { k with children := k.children + 1 })

/-- A child sent as SPAWNQ does: held, or queued; a held one counts once it leaves (R44, R46). -/
def State.spawnQueued (s : State) (p : Word) (t : Place) (pc : Word) : Res := do
  let held := s.contained s.cur.1 s.cur.2
  let s ← s.sendMsg p t (.spawn pc (s.regs 10 4) s.me.wid true)
  go (if held then s else s.bear)

/-- A declined SPAWN runs its child inline (R43). -/
def State.inlineChild (s : State) (pc : Word) : Done :=
  .jump ((s.setX 1 s.me.bundle.next).modMe (fun t => { t with inlineDepth := t.inlineDepth + 1 })) pc

/-- SPAWN and SPAWNQ (R357). -/
def State.spawnRes (s : State) (a b : Reg) (queued : Bool) : Res := do
  s.noTxn
  let t ← s.checkPlace (s.X a)
  let pc := s.X b
  s.checkPc pc
  let (c, i) := s.cur
  if queued || s.contained c i then s.spawnQueued (s.X a) t pc
  else do
    let s ← s.release (s.sendScope t)
    if s.me.inlineDepth = 15 then s.spawnQueued (s.X a) t pc
    else if s.here.splim ≤ s.here.children then .ok (s.inlineChild pc)
    else if s.niTurn c i t then .error (.wait (s.post c (s.msgFrom c i t (.ask i))) (.spawn pc))
    else .error (.wait s (s.niWait c i t))

/-- A message leaves once its release is performed and the NI takes it (R40, R161). -/
def State.sendAfter (s : State) (m : Msg) : Except Stop State := do
  let (c, i) := s.cur
  let s ← s.release (s.sendScope m.dst)
  if s.niTurn c i m.dst then pure (s.post c m) else .error (.wait s (s.niWait c i m.dst))

/-- MIGRATE (R334, R335): the message leaves after what a contained activation held. -/
def State.migrateRes (s : State) (a b : Reg) : Res := do
  s.noTxn
  let t ← s.checkPlace (s.X a)
  let pc := s.X b
  s.checkPc pc
  let (c, i) := s.cur
  if 1 < s.me.cvsize then s.handBackFirst
  let m := s.msgFrom c i t (.migrate pc (s.regs 10 8) s.me.wid)
  if 0 < s.me.inlineDepth then do
    s.checkPc (s.X 1)
    let s ← s.sendAfter m
    .ok (.jump (s.modMe (fun t => { t.progress with inlineDepth := t.inlineDepth - 1 })) (s.X 1))
  else match s.depart c i with
    | (s, .none) => do .ok (.ended (← s.sendAfter m))
    | (s, w) => .error (.wait s w)

/-- The reply token of R37. -/
def replyToken (p : Place) (ch : Nat) : Word := BitVec.ofNat 64 (p.pkg % 2 ^ 13 * 2 ^ 20 + p.lcn % 2 ^ 14 * 2 ^ 6 + ch)

/-- CALLAT (R298, R299). -/
def State.callatRes (s : State) (a b : Reg) (ch : BitVec 6) : Res := do
  s.noTxn
  let t ← s.checkPlace (s.X a)
  let pc := s.X b
  s.checkPc pc
  go (← s.sendMsg (s.X a) t (.call pc (s.regs 10 4) s.me.wid (replyToken (s.placeOf s.cur.1) ch.toNat)))

/-- The core that a reply token names, if it is one of the launch's (R37, R349). -/
def State.tokenTarget (s : State) (t : Word) : Option Place :=
  let p : Place := ⟨bits t 32 20, bits t 19 6⟩
  match s.launchOf s.cur.1 with
  | some l => if bits t 63 33 = 0 ∧ s.reachable l p = true then some p else none
  | none => none

/-- REPLY (R349). TVAL of the CONTAIN trap is the reply token (DESIGN CHOICE, log 46). -/
def State.replyRes (s : State) (a b : Reg) : Res := do
  s.noTxn
  let t := s.X a
  match s.tokenTarget t with
  | none => .error (s.stopWith .place t)
  | some p => go (← s.sendMsg t p (.reply (bits t 5 0) (clean (s.X b))))

/-! ### The meanings -/

/-- SEND (R353). -/
def execSend (a b : Reg) (count : BitVec 2) (ch : BitVec 6) (s : State) : Host.Outcome State Fault Refusal :=
  runC s (s.sendRes a b count ch)

/-- SPAWN (R357). -/
def execSpawn (a b : Reg) (s : State) : Host.Outcome State Fault Refusal := runC s (s.spawnRes a b false)

/-- SPAWNQ (R357). -/
def execSpawnq (a b : Reg) (s : State) : Host.Outcome State Fault Refusal := runC s (s.spawnRes a b true)

/-- MIGRATE (R334). -/
def execMigrate (a b : Reg) (s : State) : Host.Outcome State Fault Refusal := runC s (s.migrateRes a b)

/-- CALLAT (R298). -/
def execCallat (a b : Reg) (ch : BitVec 6) (s : State) : Host.Outcome State Fault Refusal := runC s (s.callatRes a b ch)

/-- REPLY (R349). -/
def execReply (a b : Reg) (s : State) : Host.Outcome State Fault Refusal := runC s (s.replyRes a b)

/-- CHRD (R301). -/
def execChrd (d : Reg) (ch : BitVec 6) (s : State) : Host.Outcome State Fault Refusal := runC s (s.chrdRes d ch)

end Sys2Proof.Machine
end

