-- ==== Sys2Proof/Machine/Copy.lean ====
section
/-!
DEFINITION. The copy engine (06_engines R148 to R150, 14_reference R305) and GATHER and SCATTER (06_engines R151, R152,
15_reference R314, R315, R352): the checks at issue, deliveries, and how an engine's fault reaches its slot.
-/
namespace Sys2Proof.Machine

/-! ### Where an engine's address lies -/

/-- A byte's place as an engine reaches it. -/
inductive Loc where
  | lm (off : Nat)
  | abuf (off : Nat)
  | wbuf (off : Nat)
  | mem (off : Nat)
  | host (addr : Nat)
  | away (pkg off : Nat)
  | remote (p : Place) (off : Nat)
  | fault
  deriving DecidableEq, Repr

/-- The place of an address for an engine of a core; a translation that fails is a fault. -/
def State.locate (s : State) (c : Nat) (a : Word) (write : Bool) : Loc :=
  match spaceOf s.pkg a with
  | .lm off => .lm off
  | .abuf off => .abuf off
  | .wbuf off => .wbuf off
  | .remote r => .remote r.place r.off
  | .global => match s.translateFor c (s.asidOf c) a.toNat (fun t => if write then t.w else t.r) with
    | none => .fault
    | some t =>
      if (write && !t.w) || (!write && !t.r) then .fault
      else match s.homeOf (t.phys a.toNat) t.uncached with
        | .own off _ => .mem off
        | .other pkg off => .away pkg off
        | .host addr => .host addr
  | _ => .fault

/-- The bytes from an address to the end of its window. -/
def windowRoom (a : Word) : Space → Nat
  | .global => 2 ^ 57 - a.toNat
  | .lm off => 0x20000 - off
  | .abuf off | .wbuf off => 0x10000 - off
  | .cbuf off => 0x8000 - off
  | .queue _ off => 64 - off
  | .remote r => 0x20000 - r.off
  | .outside => 0

/-- An engine's fault: a trap at the pushing slot's next bundle boundary, or the end of the launch when its activation
has ended (R143, R149, R152). -/
def State.engineFault (s : State) (c slot act : Nat) (cause : Cause) (v : Word) : State :=
  let t := s.slot c slot
  if t.active ∧ t.act = act then s.raiseAsync c slot cause v else s.endLaunchOf c .fault cause.code

/-- Flags of an engine's work for the slot that pushed it, discarded when its activation has ended. -/
def State.engineFlags (s : State) (c slot act : Nat) (f : Flags) : State :=
  if (s.slot c slot).active ∧ (s.slot c slot).act = act
    then s.modSlot c slot (fun t => { t with fflags := t.fflags.or f }) else s

/-! ### COPY at issue (R148, R149) -/

/-- The element widths of a copy in bits: bytes when the types are equal. -/
def CopyOp.widths (o : CopyOp) : Nat × Nat :=
  match LaneType.ofCode o.srcTy, LaneType.ofCode o.dstTy with
  | some s, some t => if s = t then (8, 8) else (laneWidth s, laneWidth t)
  | _, _ => (8, 8)

/-- The elements of a copy. -/
def CopyOp.total (o : CopyOp) : Nat := 8 * o.length / o.widths.1

/-- An address of COPY lies outside Table 5.1, or is a remote one that R109 or R111 forbids. -/
def State.copyBad (s : State) (a : Word) : Bool :=
  match spaceOf s.pkg a with
  | .outside => true
  | .remote r => !s.remoteOk s.cur.1 a r false
  | _ => false

/-- The spaces that COPY reads and writes (Table 5.2). -/
def copyReads : Space → Bool
  | .global | .lm _ | .abuf _ | .remote _ => true
  | _ => false

def copyWrites : Space → Bool
  | .wbuf _ => true
  | sp => copyReads sp

/-- The first element of a list that fails, destination before source, as a COPYF value. -/
def firstBad (checks : List (Bool × Word)) : Option Word := (checks.find? (fun p => p.1)).map Prod.snd

/-- The checks of R149 in its order, with the source and destination types: the offending value. -/
def State.copyFault (s : State) (dst src ctl : Word) (raise : Bool) : Option Word :=
  let len := bits ctl 31 0
  match LaneType.ofCode (ctl.extractLsb' 56 4), LaneType.ofCode (ctl.extractLsb' 52 4) with
  | some st, some dt =>
    let same := st == dt
    let dlen := if same then len else len * laneWidth dt / laneWidth st
    let size := fun (t : LaneType) => max 1 (laneWidth t / 8)
    let ds := spaceOf s.pkg dst
    let ss := spaceOf s.pkg src
    firstBad
      [(bits ctl 63 60 != 0 || bits ctl 51 48 != 0, ctl),
       (len % size st != 0 || (!same && len * 8 / laneWidth st * laneWidth dt % 8 != 0), ctl),
       (raise && decide (0x20000 ≤ 16 * bits ctl 47 32), ctl),
       (s.copyBad dst, dst), (s.copyBad src, src),
       (dst.toNat % size dt != 0, dst), (src.toNat % size st != 0, src),
       (decide (windowRoom dst ds < dlen), dst), (decide (windowRoom src ss < len), src),
       (!copyWrites ds, dst), (!copyReads ss, src)]
  | _, _ => some ctl

/-- An address that a contained activation may not touch with an engine (Table 9.7). -/
def outward (sp : Space) : Bool :=
  match sp with
  | .global | .remote _ => true
  | _ => false

/-- An operation of an open transaction is held, at most 8 (R171, R177). -/
def State.holdOp (s : State) (x : Txn) (o : HeldOp) : Res :=
  if 8 ≤ x.held.length then .error (.abort .capacity 0)
  else go (s.modMe (fun t => { t with txn := some { x with held := x.held ++ [o] } }))

/-- COPY (R148 to R150, R305). -/
def State.copyRes (s : State) (sat raise : Bool) (a b c : Reg) : Res :=
  let dst := s.X a
  let src := s.X b
  let ctl := s.X c
  let (cc, i) := s.cur
  match s.copyFault dst src ctl raise with
  | some v => .error (s.stopWith .copyf v)
  | none =>
    if s.contained cc i && outward (spaceOf s.pkg dst) then .error (s.stopWith .contain dst)
    else if s.contained cc i && outward (spaceOf s.pkg src) then .error (s.stopWith .contain src)
    else
      let o : CopyOp :=
        { serial := s.here.nextOp, slot := i, act := s.me.act, dst, src, srcTy := ctl.extractLsb' 56 4
          dstTy := ctl.extractLsb' 52 4, length := bits ctl 31 0, sat, rm := s.me.rm, fz := s.me.fz
          sw := if raise then some (bits ctl 47 32) else none, done := 0, flags := {} }
      if o.length = 0 then go s
      else match s.me.txn with
        | some x => s.holdOp x (.copy o)
        | none =>
          if 16 ≤ s.here.cq.length || !s.here.firstFor i .copy then .error (.wait s (.full .copy))
          else go (s.modHere (fun k => { k with cq := k.cq ++ [o], nextOp := k.nextOp + 1 }))

/-! ### A delivery (R148, R149) -/

/-- The bytes of a page, the unit that a transfer's translation is looked up by. -/
def pageBytes : Nat := 65536

/-- A range of n bytes at a position of an operand, cut where a page ends. -/
def cutPieces (a : Word) : Nat → Nat → Nat → List (Nat × Nat)
  | 0, _, _ => []
  | fuel + 1, pos, n =>
    let room := pageBytes - (a.toNat + pos) % pageBytes
    if n = 0 then [] else if n ≤ room then [(pos, n)] else (pos, room) :: cutPieces a fuel (pos + room) (n - room)

/-- The address at a position of an operand. -/
def atPos (a : Word) (pos : Nat) : Word := a + BitVec.ofNat 64 pos

/-- What a piece of a copy's source gives: bytes with a mark on each poisoned one, a wait (a question may have been
sent), or a fault at an address. -/
inductive Piece where
  | got (s : State) (bytes : List (Byte × Bool))
  | wait (s : State)
  | fault (a : Word)

/-- The n-th copy of a core changed. -/
def State.modCopy (s : State) (c n : Nat) (f : CopyOp → CopyOp) : State :=
  s.modCore c (fun k => { k with cq := modifyNth k.cq n f })

/-- A copy asks another core or another package for a piece of its source, once. -/
def State.askPiece (s : State) (c n : Nat) (o : CopyOp) (pos len : Nat) (p : Place) (op : MsgBody) : Piece :=
  match find o.parts pos with
  | some (bs, bad) => .got s ((bs.take len).map (fun b => (b, bad)))
  | none =>
    if o.asked.contains pos || !s.zyRoom c p.pkg then .wait s
    else .wait ((s.post c (s.msgFrom c o.slot p op)).modCopy c n (fun o =>
      { o with asked := o.asked ++ [pos], outstanding := o.outstanding + 1 }))

/-- A copy reads a piece of its source in the host window, with a non-posted read (R244). -/
def State.askWindow (s : State) (c n : Nat) (o : CopyOp) (pos len addr : Nat) : Piece :=
  match find o.parts pos with
  | some (bs, bad) => .got s ((bs.take len).map (fun b => (b, bad)))
  | none =>
    if o.asked.contains pos then .wait s
    else .wait ((s.askHost false addr len).modCopy c n (fun o => { o with
      asked := o.asked ++ [pos], window := o.window ++ [pos], outstanding := o.outstanding + 1 }))

/-- One piece of the source of the n-th copy of a core. -/
def State.readPiece (s : State) (c n : Nat) (o : CopyOp) (pos len : Nat) : Piece :=
  let k := s.core c
  match s.locate c (atPos o.src pos) false with
  | .lm off => .got s (marked k.lm (fun g => k.poison.contains (.lm g)) off len)
  | .abuf off => .got s (marked k.abuf (fun g => k.poison.contains (.abuf g)) off len)
  | .mem off => match s.touchTiles false (tilesOf off len) with
    | some s => .got s (marked s.mem s.memPoison.contains off len)
    | none => .wait s
  | .host addr => s.askWindow c n o pos len addr
  | .away pkg off => s.askPiece c n o pos len ⟨pkg, 0⟩ (.globalAccess (.load len) off (.copyRead o.serial pos))
  | .remote p off => s.askPiece c n o pos len p (.access (.load len) off (.copyRead o.serial pos))
  | _ => .fault (atPos o.src pos)

/-- All pieces of the source range, in order. -/
def State.readPieces (s : State) (c n : Nat) (o : CopyOp) : List (Nat × Nat) → Piece
  | [] => .got s []
  | (pos, len) :: r => match s.readPiece c n o pos len with
    | .got s bs => match s.readPieces c n o r with
      | .got s rest => .got s (bs ++ rest)
      | p => p
    | p => p

/-- Element e of source bytes that start at an element's byte: its bits and whether a byte of it is poisoned. -/
def elementAt (width : Nat) (bitOff e : Nat) (bs : List (Byte × Bool)) : Nat × Bool :=
  let start := bitOff + e * width
  let part := (bs.drop (start / 8)).take ((start % 8 + width + 7) / 8)
  (natOfBytes (part.map Prod.fst) / 2 ^ (start % 8) % 2 ^ width, part.any (fun p => p.2))

/-- The destination bytes of converted elements, each with the poison of the elements in it, and the flags (R148). -/
def CopyOp.convert (o : CopyOp) (bitOff count : Nat) (bs : List (Byte × Bool)) : List (Byte × Bool) × Flags :=
  match LaneType.ofCode o.srcTy, LaneType.ofCode o.dstTy with
  | some st, some dt =>
    if st = dt then (bs.take count, {})
    else
      let els := (List.range count).map (fun e =>
        let (v, bad) := elementAt (laneWidth st) bitOff e bs
        let (r, f) := convertLane st dt { rm := o.rm, fz := o.fz, sat := o.sat } v
        (r, f, bad))
      let flags := els.foldl (fun f e => f.or e.2.1) {}
      let w := laneWidth dt
      let n := count * w / 8
      let bytes := if w = 4 then
          (List.range n).map (fun j =>
            let lo := els.getD (2 * j) (0, {}, false)
            let hi := els.getD (2 * j + 1) (0, {}, false)
            (BitVec.ofNat 8 (lo.1 + 16 * hi.1), lo.2.2 || hi.2.2))
        else els.flatMap (fun e => (bytesOfNat (w / 8) e.1).map (fun b => (b, e.2.2)))
      (bytes, flags)
  | _, _ => ([], {})

/-- A byte range as agents share it: a kind of store, its number, and the range. -/
structure Extent where
  kind : Nat
  sub : Nat
  lo : Nat
  len : Nat
  deriving DecidableEq, Repr

/-- The extent of a piece; an own core named by a remote address is the own LM. -/
def State.extent (s : State) (c : Nat) (a : Word) (pos len : Nat) : Extent :=
  match s.locate c (atPos a pos) false with
  | .lm off => ⟨0, c, off, len⟩
  | .abuf off => ⟨1, c, off, len⟩
  | .wbuf off => ⟨2, c, off, len⟩
  | .mem off => ⟨3, 0, off, len⟩
  | .host addr => ⟨4, 0, addr, len⟩
  | .away pkg off => ⟨5, pkg, off, len⟩
  | .remote p off =>
    if p.pkg = s.pkg then match (s.core c).launch.bind (fun l => s.siteOf l p.lcn) with
      | some n => ⟨0, n, off, len⟩
      | none => ⟨6, p.lcn, off, len⟩
    else ⟨7 + p.pkg, p.lcn, off, len⟩
  | .fault => ⟨2 ^ 20, 0, 0, 0⟩

/-- Two extents share a byte. -/
def Extent.meets (a b : Extent) : Bool :=
  a.kind == b.kind && a.sub == b.sub && decide (a.lo < b.lo + b.len) && decide (b.lo < a.lo + a.len)

/-- The extents of a whole operand. -/
def State.extents (s : State) (c : Nat) (a : Word) (n : Nat) : List Extent :=
  (cutPieces a (n / pageBytes + 2) 0 n).map (fun p => s.extent c a p.1 p.2)

/-- Source and destination of a copy share a byte. -/
def State.overlaps (s : State) (c : Nat) (o : CopyOp) : Bool :=
  let srcs := s.extents c o.src o.length
  (s.extents c o.dst (o.total * o.widths.2 / 8)).any (fun d => srcs.any d.meets)

/-- Where source and destination of a copy overlap, the bytes of the destination that lie in the source are free values
(R149, log 9). -/
def State.freeOverlap (s : State) (c : Nat) (o : CopyOp) (first : Nat) (bs : List (Byte × Bool)) :
    State × List (Byte × Bool) :=
  if !s.overlaps c o then (s, bs)
  else
    let srcs := s.extents c o.src o.length
    let out := (List.range bs.length).map (fun j =>
      if srcs.any (s.extent c o.dst (first + j) 1).meets then (Config.freeByte (s.fresh + j), false)
      else bs.getD j (0, false))
    ({ s with fresh := s.fresh + bs.length }, out)

/-- A destination piece can be written now: none for a fault, and a wait while the host or a commit stands in the way, or
the NI takes no packet (R176, R229, R246). -/
def State.pieceReady (s : State) (c : Nat) (a : Word) (pos len : Nat) : Option (Bool × State) :=
  match s.locate c (atPos a pos) true with
  | .fault => none
  | .mem off =>
    if !s.rangeClear off len then some (false, s.snoopRange off len)
    else match s.touchTiles true (tilesOf off len) with
      | some s => some (true, s)
      | none => some (false, s)
  | .away pkg _ => some (s.zyRoom c pkg, s)
  | .remote p _ => some (s.zyRoom c p.pkg, s)
  | _ => some (true, s)

/-- Every destination piece is ready; else the state to wait in, or the address of a fault. -/
def State.piecesReady (s : State) (c : Nat) (a : Word) : List (Nat × Nat) → Except Word (Bool × State)
  | [] => .ok (true, s)
  | (pos, len) :: r => match s.pieceReady c a pos len with
    | none => .error (atPos a pos)
    | some (false, s) => .ok (false, s)
    | some (true, s) => s.piecesReady c a r

/-- Granules whose bytes came from poison become poisoned with them (R217). -/
def badGranules (off : Nat) (bs : List (Byte × Bool)) : List Nat :=
  ((List.range bs.length).filterMap (fun j =>
    if (bs.getD j (0, false)).2 then some ((off + j) / 8) else none)).eraseDups

/-- A piece is written at its destination, and the sync word raised by its bytes once they are there (R115, R148); a
piece that goes to another core or package raises when it arrives. -/
def State.writePiece (s : State) (c n : Nat) (o : CopyOp) (pos : Nat) (bs : List (Byte × Bool)) : State :=
  let plain := bs.map Prod.fst
  let bad := (List.range bs.length).filter (fun j => (bs.getD j (0, false)).2)
  let raiseOwn := fun (s : State) => match o.sw with
    | some sw => s.raise c (16 * sw) bs.length
    | none => s
  let sent := fun (s : State) p op => (s.post c (s.msgFrom c o.slot p op)).modCopy c n (fun o =>
    { o with outstanding := o.outstanding + 1 })
  let s := s.logMoved c (badGranules (atPos o.dst pos).toNat bs)
  match s.locate c (atPos o.dst pos) true with
  | .lm off => raiseOwn (s.modCore c (fun k =>
      let k := k.lmWrite off plain
      { k with poison := k.poison ++ (badGranules off bs).map Poison.lm }))
  | .abuf off => raiseOwn (s.modCore c (fun k =>
      let k := k.abufWrite off plain
      { k with poison := k.poison ++ (badGranules off bs).map Poison.abuf }))
  | .wbuf off => raiseOwn (s.modCore c (fun k =>
      let k := k.wbufWrite off plain
      { k with poison := k.poison ++ (badGranules off bs).map Poison.wbuf }))
  | .mem off =>
    let s := s.homeWrite (.die (dieOf c)) off plain
    raiseOwn { s with memPoison := s.memPoison ++ badGranules off bs }
  | .host addr => raiseOwn { s.askHost true addr plain.length with hostMem := s.hostMem.writeBytes addr plain }
  | .away pkg off => sent s ⟨pkg, 0⟩ (.globalAccess (.store plain none bad) off (.copyWrite o.serial bs.length))
  | .remote p off => sent s p (.access (.store plain o.sw bad) off (.copyWrite o.serial 0))
  | .fault => s

/-- A transfer stops at a fault: nothing more is delivered, and what has been sent still lands and raises (R149). `back`
says that the faulting piece had been sent. -/
def State.copyStop (s : State) (c n : Nat) (o : CopyOp) (v : Word) (back : Bool) : State :=
  let s := s.modCopy c n (fun o => { o with stopped := true, outstanding := o.outstanding - bit back })
  if o.stopped then s else s.engineFault c o.slot o.act .copyf v

/-- A transfer has started (R150). -/
def CopyOp.started (o : CopyOp) : Bool := decide (0 < o.done) || !o.asked.isEmpty || o.kept.isSome || o.stopped

/-- The source bytes lo to hi of a copy: where source and destination overlap, as they were when the transfer started, so
that no byte outside the overlap depends on the order of reads and writes (R149). -/
def State.copySource (s : State) (c n : Nat) (o : CopyOp) (lo hi : Nat) : Piece :=
  match o.kept with
  | some bs => .got s ((bs.drop lo).take (hi - lo))
  | none =>
    if s.overlaps c o then
      match s.readPieces c n o (cutPieces o.src (o.length / pageBytes + 2) 0 o.length) with
      | .got s bs => .got (s.modCopy c n (fun o => { o with kept := some bs })) ((bs.drop lo).take (hi - lo))
      | p => p
    else s.readPieces c n o (cutPieces o.src 4 lo (hi - lo))

/-- One delivery of the n-th copy of a core: up to 256 destination bytes (R148). -/
def State.copyDeliver (s : State) (c n : Nat) (o : CopyOp) : State :=
  let (sb, db) := o.widths
  let count := min (o.total - o.done) (256 * 8 / db)
  let lo := o.done * sb / 8
  let hi := ((o.done + count) * sb + 7) / 8
  match s.copySource c n o lo hi with
  | .wait s => s
  | .fault v => s.copyStop c n o v false
  | .got s bs =>
    let (out, flags) := o.convert (o.done * sb % 8) count bs
    let first := o.done * db / 8
    let targets := cutPieces o.dst 4 first out.length
    match s.piecesReady c o.dst targets with
    | .error v => s.copyStop c n o v false
    | .ok (false, s) => s
    | .ok (true, s) =>
      let (s, out) := s.freeOverlap c o first out
      let s := s.modCopy c n (fun o =>
        { o with done := o.done + count, flags := o.flags.or flags, asked := [], parts := [], last := some s.cycle })
      targets.foldl (fun s p => s.writePiece c n o p.1 ((out.drop (p.1 - first)).take p.2)) s

/-- A copy has delivered everything that it will deliver (R148 to R150). -/
def CopyOp.complete (o : CopyOp) : Bool := (o.stopped || decide (o.total ≤ o.done)) && o.outstanding == 0

/-! ### GATHER and SCATTER (R151, R152, R314, R352) -/

/-- The descriptor of Table 6.12 at an own-LM offset, if its fields pass the checks at issue (R152). Bits that the table does
not list are reserved bits like those it lists (DEDUCED, log 24). -/
def State.gatherDesc (s : State) (off : Nat) (isScatter : Bool) : Option GatherOp :=
  let w := fun n => s.here.lm.word (off + 8 * n)
  let size := 2 ^ bits (w 0) 35 32
  let count := bits (w 0) 31 0
  let toA := bitAt (w 1) 17
  let local_ := bits (w 1) 16 0
  let index := bits (w 2) 16 0
  let base := bits (w 3) 16 0
  let block := bits (w 3) 47 32
  let raise := bitAt (w 0) 47
  let reserved := bits (w 0) 46 36 == 0 && bits (w 1) 63 18 == 0 && bits (w 2) 63 17 == 0 &&
    bits (w 3) 63 48 == 0 && bits (w 3) 31 17 == 0
  let room := if toA then 0x10000 else 0x20000
  if reserved && decide (bits (w 0) 35 32 ≤ 4) && decide (1 ≤ count) && decide (count ≤ 2 ^ 20) && decide (1 ≤ block) &&
      decide (local_ % size = 0) && decide (index % 4 = 0) && decide (base % size = 0) &&
      decide (local_ + count * size ≤ room) && decide (index + 4 * count ≤ 0x20000) &&
      (!raise || decide (16 * bits (w 0) 63 48 < 0x20000)) then
    some { serial := s.here.nextOp, slot := s.cur.2, act := s.me.act, isScatter, desc := s.X 0
           raise := if raise then some (bits (w 0) 63 48) else none, sizeCode := bits (w 0) 35 32, count, toA
           local_, index, base, block, next := 0, outstanding := 0 }
  else none

/-- The own-LM offset of a descriptor of 32 bytes, if its address names one. -/
def descOffset (a : Word) : Option Nat :=
  match spaceOf 0 a with
  | .lm off => if off % 32 = 0 then some off else none
  | _ => none

/-- The remote LM address of a rank's LM offset (Table 5.3). -/
def rankAddress (p : Place) (off : Nat) : Word :=
  BitVec.ofNat 64 (31 * 2 ^ 59 + p.pkg % 2 ^ 13 * 2 ^ 46 + p.lcn % 2 ^ 14 * 2 ^ 32 + off)

/-- The place of a rank of the launch that a core holds. -/
def State.rankPlace (s : State) (c r : Nat) : Option Place :=
  (s.launchOf c).bind (fun l => (l.rankList s.pkg)[r]?)

/-- GATHER and SCATTER at issue (R151, R152, R315). -/
def State.gatherRes (s : State) (a : Reg) (isScatter : Bool) : Res :=
  let d := s.X a
  let (c, i) := s.cur
  match descOffset d with
  | none => .error (s.stopWith .copyf d)
  | some off =>
    if s.here.lmBad off 32 then .error (.poison d)
    else match s.gatherDesc off isScatter with
      | none => .error (s.stopWith .copyf d)
      | some o =>
        let o := { o with desc := d }
        if s.contained c i then
          .error (s.stopWith .contain (rankAddress ((s.rankPlace c 0).getD (s.placeOf c)) o.base))
        else match s.me.txn with
          | some x => s.holdOp x (.gather o)
          | none =>
            if !s.here.gatherRoom || !s.here.firstFor i .gather then .error (.wait s (.full .gather))
            else go (s.modHere (fun k => { k with gq := k.gq ++ [o], nextOp := k.nextOp + 1 }))

/-- The element size of an operation. -/
def GatherOp.size (o : GatherOp) : Nat := 2 ^ o.sizeCode

/-- The n-th GATHER or SCATTER of a core changed. -/
def State.modGather (s : State) (c n : Nat) (f : GatherOp → GatherOp) : State :=
  s.modCore c (fun k => { k with gq := modifyNth k.gq n f })

/-- An operation whose elements have all been delivered leaves. -/
def State.gatherTidy (s : State) (c : Nat) : State :=
  s.modCore c (fun k => { k with gq := k.gq.filter (fun o => !(decide (o.count ≤ o.next) && o.outstanding == 0)) })

/-- The fault of element p: the operation ends. No further element is issued; those already issued are delivered, and
`back` says that the element itself had been issued (R152). Each refused element raises its own COPYF (DEDUCED, log 24). -/
def State.gatherStop (s : State) (c n : Nat) (o : GatherOp) (p : Nat) (back : Bool) : State :=
  let s := s.modGather c n (fun o => { o with count := o.next, outstanding := o.outstanding - bit back })
  (s.gatherTidy c).engineFault c o.slot o.act .copyf (BitVec.ofNat 64 p)

/-- A SCATTER's element as a store: its local bytes, with the poisoned ones among them. -/
def CoreSt.localStore (k : CoreSt) (o : GatherOp) (p : Nat) : RemoteOp :=
  let at_ := o.local_ + p * o.size
  let bs := if o.toA then marked k.abuf (fun g => k.poison.contains (.abuf g)) at_ o.size
    else marked k.lm (fun g => k.poison.contains (.lm g)) at_ o.size
  .store (bs.map Prod.fst) none ((List.range bs.length).filter (fun j => (bs.getD j (0, false)).2))

/-- The next element of the n-th operation of a core is issued (R314, R352). -/
def State.gatherIssue (s : State) (c n : Nat) (o : GatherOp) : State :=
  let k := s.core c
  let p := o.next
  let e := k.lm.num (o.index + 4 * p) 4
  let off := o.base + e % o.block * o.size
  match s.rankPlace c (e / o.block) with
  | none => s.gatherStop c n o p false
  | some r =>
    if 0x20000 < off + o.size then s.gatherStop c n o p false
    else if !s.zyRoom c r.pkg then s
    else
      let op : MsgBody := if o.isScatter then .access (k.localStore o p) off (.scatter o.serial p)
        else .access (.load o.size) off (.gather o.serial p)
      let s := s.logMoved c (match op with | .access (.store _ _ bad) _ _ => bad | _ => [])
      (s.post c (s.msgFrom c o.slot r op)).modGather c n (fun o =>
        { o with next := p + 1, outstanding := o.outstanding + 1 })

/-- A raise of an operation's sync word by a delivery's bytes (R115). -/
def State.gatherRaise (s : State) (c : Nat) (o : GatherOp) (n : Nat) : State :=
  match o.raise with
  | some sw => s.raise c (16 * sw) n
  | none => s

/-- An element of a GATHER has come back (R152, R314). -/
def State.gatherLand (s : State) (c n : Nat) (o : GatherOp) (p : Nat) (bs : List Byte) (bad : Bool) : State :=
  let at_ := o.local_ + p * o.size
  let s := s.modCore c (fun k =>
    let k := if o.toA then k.abufWrite at_ bs else k.lmWrite at_ bs
    let gs := if bad then granules at_ bs.length else []
    { k with poison := k.poison ++ gs.map (if o.toA then Poison.abuf else Poison.lm) })
  let s := s.logMoved c (if bad then granules at_ bs.length else [])
  ((s.gatherRaise c o bs.length).modGather c n (fun o => { o with outstanding := o.outstanding - 1 })).gatherTidy c

/-- An element of a SCATTER has been written at its target (R352). The sync word is raised in the issuing core
(DEDUCED, log 56). -/
def State.scatterLand (s : State) (c n : Nat) (o : GatherOp) : State :=
  ((s.gatherRaise c o o.size).modGather c n (fun o => { o with outstanding := o.outstanding - 1 })).gatherTidy c

/-- The engines of a core run: until it stops, and on while a commit that has begun waits for their queues (R179, R202). -/
def CoreSt.copies (k : CoreSt) : Bool :=
  k.works || k.slots.toList.any (fun (t : Slot) => (t.txn.map Txn.committing).getD false)

/-! ### The meanings -/

/-- COPY (R148, R305). -/
def execCopy (sat raise : Bool) (a b c : Reg) (s : State) : Host.Outcome State Fault Refusal :=
  runC s (s.copyRes sat raise a b c)

/-- GATHER (R151, R314). -/
def execGather (a : Reg) (s : State) : Host.Outcome State Fault Refusal := runC s (s.gatherRes a false)

/-- SCATTER (R151, R352). -/
def execScatter (a : Reg) (s : State) : Host.Outcome State Fault Refusal := runC s (s.gatherRes a true)

/-- COPY_DELIVERY: the n-th copy of a core delivers; it starts after those before it in the queue (R148, R150). -/
def execCopyDelivery (c n : Nat) (s : State) : Host.Outcome State Fault Refusal :=
  .next (match (s.core c).cq[n]? with
    | some o =>
      if (s.core c).copies && decide (o.done < o.total) && !o.stopped && ((s.core c).cq.take n).all CopyOp.started
        then s.copyDeliver c n o else s
    | none => s)

/-- COPY_COMPLETE: the n-th copy of a core is done and leaves the queue; its flags accrue, unless a fault stopped it
(R148 to R150). -/
def execCopyComplete (c n : Nat) (s : State) : Host.Outcome State Fault Refusal :=
  .next (match (s.core c).cq[n]? with
    | some o =>
      if o.complete then
        let s := s.modCore c (fun k => { k with cq := k.cq.eraseIdx n })
        if o.stopped then s else s.engineFlags c o.slot o.act o.flags
      else s
    | none => s)

/-- GATHER_ELEMENT_ISSUE: the n-th GATHER or SCATTER of a core issues its next element (R152). -/
def execGatherElementIssue (c n : Nat) (s : State) : Host.Outcome State Fault Refusal :=
  .next (match (s.core c).gq[n]? with
    | some o => if (s.core c).copies && decide (o.next < o.count) then s.gatherIssue c n o else s
    | none => s)

/-- WRITE_BUFFER_DRAIN: entry n of a core's write buffer is performed at its home (R117, R121). -/
def execWriteBufferDrain (c n : Nat) (s : State) : Host.Outcome State Fault Refusal :=
  .next ((s.drainNth c n).getD (s.snoopWb c))

end Sys2Proof.Machine
end

