-- ==== Sys2Proof/Machine/Engine.lean ====
section
/-!
DEFINITION. Streams (06_engines R131 to R133), the matrix queue's instructions (R137, 15_reference R340, R342), DLAUNCH
(14_reference R308), MCST (15_reference R329 to R331) and COMPOSE (11_caravans R247 to R250).
-/
namespace Sys2Proof.Machine

/-! ### Streams -/

/-- A vector stored at a stream element's place: own LM or own A buffer (R131, R133). -/
def CoreSt.streamStore (k : CoreSt) (a : Int) (v : Vec) : CoreSt :=
  let n := a.toNat
  let bs := bytesOfNat 16 v.toNat
  if n / 2 ^ 56 = 0xF0 then k.lmWrite (n % 2 ^ 56) bs else k.abufWrite (n % 2 ^ 56) bs

/-- The oldest element that a write stream still has to write is written (R133). -/
def State.streamFlushOne (s : State) (c i r : Nat) : State :=
  match find (s.slot c i).streams r with
  | some x => match x.unwritten with
    | (n, v) :: rest =>
      (s.modCore c (fun k => k.streamStore (x.addr n) v)).modSlot c i (fun t =>
        { t with streams := put t.streams r { x with unwritten := rest } })
    | [] => s
  | none => s

/-- Every pending element of a binding is written (R132). -/
def State.streamFlush (s : State) (c i r : Nat) : Nat → State
  | 0 => s
  | n + 1 => (s.streamFlushOne c i r).streamFlush c i r n

/-- The pending elements of a binding. -/
def State.streamPending (s : State) (c i r : Nat) : Nat :=
  match find (s.slot c i).streams r with
  | some x => x.unwritten.length
  | none => 0

/-- One of three corner sums of an axis: the smallest or the largest offset it adds. -/
def axisEnd (count : Nat) (stride : Int) (high : Bool) : Int :=
  let v := ((count : Int) - 1) * stride
  if high then max 0 v else min 0 v

/-- The stream that a descriptor at an own-LM offset describes, if R132 accepts it. -/
def State.streamDesc (s : State) (off : Nat) : Option StreamSt :=
  let w := fun n => s.here.lm.word (off + 8 * n)
  let base := w 0
  let one := fun (n : Nat) => if n = 0 then 1 else n
  let c0 := bits (w 1) 15 0
  let s0 : Int := ((w 3).extractLsb' 0 32).toInt
  let x : StreamSt :=
    { base, count0 := c0, count1 := one (bits (w 1) 31 16), count2 := one (bits (w 1) 47 32), stride0 := s0
      stride1 := ((w 2).extractLsb' 0 32).toInt, stride2 := ((w 2).extractLsb' 32 32).toInt
      isWrite := bitAt (w 3) 32, next := 0, ahead := [], unwritten := [] }
  let ends := fun (high : Bool) => (base.toNat : Int) + axisEnd x.count0 x.stride0 high +
    axisEnd x.count1 x.stride1 high + axisEnd x.count2 x.stride2 high
  let start : Nat := base.toNat / 2 ^ 56 * 2 ^ 56
  let size : Nat := match spaceOf 0 base with | .lm _ => 0x20000 | .abuf _ => 0x10000 | _ => 0
  if bits (w 1) 63 48 = 0 ∧ bits (w 3) 63 33 = 0 ∧ c0 ≠ 0 ∧ s0 % 16 = 0 ∧ base.toNat % 16 = 0 ∧ size ≠ 0 ∧
      (start : Int) ≤ ends false ∧ ends true + 16 ≤ ((start + size : Nat) : Int) then some x else none

/-- The pair's A-word takes the binding that stood at issue: its pop of the register and its write to it come before
SBIND changes the binding (R52, R68). -/
def State.settleStream (s : State) (r : Reg) : State :=
  let (c, i) := s.cur
  let s := if s.me.bundle.popStreams.contains r.toNat then s.popStream c i r.toNat else s
  let mine := fun (w : RegWrite) => w.reg == .v r
  let writes := match s.me.bundle.stash with
    | some e => e.writes.filter mine
    | none => []
  let s := writes.foldl (fun s w => s.writeReg c i w) s
  s.modMe (fun t => { t with bundle := { t.bundle with
    popStreams := t.bundle.popStreams.filter (· != r.toNat)
    stash := t.bundle.stash.map (fun e => { e with writes := e.writes.filter (fun w => !mine w) }) } })

/-- SBIND (R131, R132, R351). -/
def State.sbindRes (s : State) (a b : Reg) : Res := do
  let r := a.toNat
  let (c, i) := s.cur
  if r < 24 then .error (s.stopWith .illegal s.wordVal)
  else if b = 0 then
    let s := s.settleStream a
    let s := s.streamFlush c i r (s.streamPending c i r)
    go (s.modMe (fun t => { t with streams := del t.streams r }))
  else do
    let d := s.X b
    let k ← s.checkMem d 32 .waitev
    match k.space with
    | .lm off =>
      if s.here.lmBad off 32 then .error (.poison d)
      else match s.streamDesc off with
        | none => .error (s.stopWith .stream d)
        | some x =>
          let s := s.settleStream a
          let s := s.streamFlush c i r (s.streamPending c i r)
          go (s.modMe (fun t => { t with streams := put t.streams r x }))
    | _ => .error (s.stopWith .space d)

/-- A read stream fetches one element ahead, at most 4 (R133); a poisoned one stays where it is until it is popped
(R217). -/
def State.streamAhead (s : State) (c i r : Nat) : State :=
  match find (s.slot c i).streams r with
  | some x =>
    let n := x.next + x.ahead.length
    if !x.isWrite && decide (x.ahead.length < 4) && decide (n < x.total) &&
        !(s.core c).badElement (x.addr n).toNat then
      let y := { x with ahead := x.ahead ++ [(s.core c).streamRead (x.addr n)] }
      s.modSlot c i (fun t => { t with streams := put t.streams r y })
    else s
  | none => s

/-! ### The matrix queue -/

/-- The slot's MSWAP marker is still in the queue (R340). -/
def CoreSt.markerWaits (k : CoreSt) (i act : Nat) : Bool :=
  k.mq.any (fun e => e.marker.isSome && e.slot == i && e.act == act)

/-- MSWAP (R137, R340). -/
def State.mswapRes (s : State) (acc : Bool) : Res := do
  s.noTxn
  let i := s.cur.2
  let k := s.here
  if s.me.mswapPending then
    if k.markerWaits i s.me.act then .error (.wait s (.mswap acc))
    else go (s.modMe (fun t => { t with mswapPending := false }))
  else if k.mqFull || !k.firstFor i .matrix then .error (.wait s (.full .matrix))
  else
    let e : MEntry := { serial := k.nextOp, slot := i, act := s.me.act, marker := some acc, words := [], run := none }
    let s := s.modHere (fun k => { k with mq := k.mq ++ [e], nextOp := k.nextOp + 1 })
    .error (.wait (s.modMe (fun t => { t with mswapPending := true })) (.mswap acc))

/-- Every entry pushed before a serial number has left the queue (R342). -/
def CoreSt.doneUpTo (k : CoreSt) (n : Nat) : Bool := k.mq.all (fun e => decide (n ≤ e.serial))

/-- MWAIT (R137, R342). -/
def State.mwaitRes (s : State) : Res := do
  s.noTxn
  let n := s.here.nextOp
  if s.here.doneUpTo n then go s else .error (.wait s (.mwait n))

/-! ### DLAUNCH (R187, R308) -/

/-- The eight words of a header's bytes. -/
def headerWords (bs : List Byte) : List Word := (List.range 8).map (fun n => wordOf8 ((bs.drop (8 * n)).take 8))

/-- A header enters the core's device queue. -/
def State.pushHeader (s : State) (bs : List Byte) : State :=
  let stamp := s.serial
  let l := s.here.launch.getD 0
  let t : State := { s with serial := stamp + 1 }
  t.modHere (fun k => { k with devq := k.devq ++ [{ words := headerWords bs, parent := l, stamp }] })

/-- DLAUNCH (R308). -/
def State.dlaunchRes (s : State) (a : Reg) : Res := do
  s.noTxn
  let h := s.X a
  let k ← s.checkMem h 64 .header
  if s.contained s.cur.1 s.cur.2 then .error (s.stopWith .contain h)
  else do
    let s ← s.release .pkg
    if 4 ≤ s.here.devq.length || !s.here.firstFor s.cur.2 .device then .error (.wait s (.full .device))
    else do
      let (s, bs) ← s.load h 64 k .header
      go (s.pushHeader bs)

/-! ### MCST (R329, R330) -/

/-- A space that MCST may capture from; any other is for CheckMem and SPACE to refuse (R329, R330). -/
def capturable : Space → Bool
  | .global | .lm _ => true
  | _ => false

/-- The control register and the source of MCST pass the checks of R329; else the offending value. -/
def mcstFault (src ctl : Word) : Option Word :=
  let len := bits ctl 8 0
  let off := bits ctl 47 16
  if bits ctl 63 61 ≠ 0 ∨ bits ctl 15 9 ≠ 0 ∨ len < 16 ∨ 256 < len ∨ len % 16 ≠ 0 ∨ off % 16 ≠ 0 ∨ 256 < off % 256 + len then
    some ctl
  else if src.toNat % 16 ≠ 0 ∨ (capturable (spaceOf 0 src) ∧ windowRoom src (spaceOf 0 src) < len) then some src
  else none

/-- Where a piece of a source that MCST may capture stands: own LM, or device memory of this package (R329). -/
def State.captureAt (s : State) (src a : Word) : Except Stop (Bool × Nat) := do
  let k ← s.checkMem a 16 .mcast
  match k.space, k.leaf with
  | .lm off, _ => pure (true, off)
  | .global, some t => match s.homeOf (t.phys a.toNat) t.uncached with
    | .own off _ => pure (false, off)
    | _ => .error (s.stopWith .space src)
  | _, _ => .error (s.stopWith .space src)

/-- The pieces of the source from a position on, cut where a page ends (R125, R330). -/
def State.capturePieces (s : State) (src : Word) : List (Nat × Nat) → Except Stop (List (Nat × Nat))
  | [] => .ok []
  | p :: r => do
    let (_, off) ← s.captureAt src (atPos src p.1)
    return (off, p.2) :: (← s.capturePieces src r)

/-- MCST (R330, R331). -/
def State.mcstRes (s : State) (a b c : Reg) : Res := do
  let p := s.X a
  let src := s.X b
  let ctl := s.X c
  let (cc, i) := s.cur
  let len := bits ctl 8 0
  let off := bits ctl 47 16
  let sw := bits ctl 60 48
  let grp := if bits p 63 62 = 2 ∧ bits p 61 12 = 0 then s.groupOf (ioDie (dieOf cc)) (bits p 11 0) else none
  match grp with
  | none => .error (s.stopWith .place p)
  | some (s, members) =>
    match mcstFault src ctl with
    | some v => .error (s.stopWith .copyf v)
    | none =>
      let (own, at_) ← s.captureAt src src
      let parts ← if own then pure [(at_, len)] else s.capturePieces src (cutPieces src 3 0 len)
      if s.contained cc i then .error (s.stopWith .contain p)
      else match s.me.txn with
        | some x =>
          s.holdOp x (.mcast { group := bits p 11 0, off, length := len, own, parts, sw, members := members.length })
        | none => do
          let s ← s.release .domain
          if !s.mcTurn cc i then .error (.wait s (.full .ni))
          else match s.captureLine cc own parts with
            | some (s, bs, bad) => go ((s.logMoved cc bad).postMcast cc i (bits p 11 0) off bs bad sw members.length)
            | none => .error (.wait s .stall)

/-! ### COMPOSE (R247 to R250) -/

/-- COMPOSE at issue (R248, R304). -/
def State.composeRes (s : State) (d b : Reg) : Res := do
  s.noTxn
  let m := s.X b
  let own := groupPos s.cur.1
  if bits m 63 16 ≠ 0 ∨ bitAt m own = true ∨ 7 < ((List.range 16).filter (bitAt m)).length then
    .error (s.stopWith .illegal m)
  else if 1 < s.me.cvsize then .error (s.stopWith .caravan s.wordVal)
  else .error (.wait s (.compose d m.toNat none))

/-! ### The meanings -/

/-- SBIND (R131). -/
def execSbind (a b : Reg) (s : State) : Host.Outcome State Fault Refusal := runC s (s.sbindRes a b)

/-- MSWAP (R137, R340). -/
def execMswap (n : Bool) (s : State) : Host.Outcome State Fault Refusal := runC s (s.mswapRes n)

/-- MWAIT (R342). -/
def execMwait (s : State) : Host.Outcome State Fault Refusal := runC s s.mwaitRes

/-- DLAUNCH (R308). -/
def execDlaunch (a : Reg) (s : State) : Host.Outcome State Fault Refusal := runC s (s.dlaunchRes a)

/-- MCST (R330). -/
def execMcst (a b c : Reg) (s : State) : Host.Outcome State Fault Refusal := runC s (s.mcstRes a b c)

/-- COMPOSE (R304). -/
def execCompose (a b : Reg) (s : State) : Host.Outcome State Fault Refusal := runC s (s.composeRes a b)

/-- STREAM_PREFETCH (R133). -/
def execStreamPrefetch (c i : Nat) (r : Reg) (s : State) : Host.Outcome State Fault Refusal :=
  .next (s.streamAhead c i r.toNat)

/-- STREAM_WRITE (R133). -/
def execStreamWrite (c i : Nat) (r : Reg) (s : State) : Host.Outcome State Fault Refusal :=
  .next (s.streamFlushOne c i r.toNat)

end Sys2Proof.Machine
end

