-- ==== Sys2Proof/Machine/Select.lean ====
section
/-!
DEFINITION. Selection (12_selection R262 to R272): TKSEND, the merge units of the package, and BKSEL.
-/
namespace Sys2Proof.Machine

/-! ### Lists (R263, R267) -/

/-- The padding entry. -/
def padding : Word := 0x0000FFFFFF800000

/-- The id of an entry. -/
def entryId (w : Word) : Nat := bits w 47 32

/-- The score of an entry as a value. -/
def entryScore (w : Word) : FVal := decodeF .fp32 (bits w 31 0)

/-- An entry that counts: neither padding nor NaN. -/
def entryCounts (w : Word) : Bool := entryId w != 0xFFFF && !(entryScore w).isNaN

/-- The first of two entries has the higher score, with -0 below +0. -/
def above (a b : Word) : Bool := ltF true (entryScore b) (entryScore a)

/-- One entry per id: the one with the higher score, and of equal ones the first (Table 12.4). -/
def keepBest : List Word → List Word
  | [] => []
  | w :: r =>
    let rest := keepBest r
    match rest.find? (fun v => entryId v == entryId w) with
    | some v => if above v w then rest else w :: rest.filter (fun u => entryId u != entryId w)
    | none => w :: rest

/-- An entry placed by descending score, on equal scores the smaller id first. -/
def insertEntry (w : Word) : List Word → List Word
  | [] => [w]
  | v :: r => if above w v || (!above v w && decide (entryId w < entryId v)) then w :: v :: r else v :: insertEntry w r

/-- The merge of lists in port order (Table 12.4). -/
def mergeLists (ls : List MergeList) : MergeList :=
  let k := (ls.map MergeList.k).foldl min 16
  let all := ls.flatMap MergeList.entries
  let nan := (all.filter (fun w => entryId w != 0xFFFF && (entryScore w).isNaN)).length
  let best := ((keepBest (all.filter entryCounts)).foldr insertEntry []).take k
  { k, entries := best ++ List.replicate (k - best.length) padding, nans := (ls.map MergeList.nans).sum + nan
    contributors := (ls.map MergeList.contributors).sum }

/-! ### The tree (R266) -/

/-- The cores of a rectangle. -/
def rectCores (r : Nat × Nat × Nat × Nat) : List Nat := regionCores r

/-- The merge unit of a level that a core lies under: quad, group, sector, die, package. -/
def unitAt (level c : Nat) : Nat :=
  match level with
  | 0 => quadOf c
  | 1 => groupOf c
  | 2 => sectorOf c
  | 3 => dieOf c
  | _ => 0

/-- The input port of the child that holds a core, in the unit of a level. -/
def unitPort (level c : Nat) : Nat :=
  let x := xOf c
  let y := yOf c
  match level with
  | 0 => x % 2 + 2 * (y % 2)
  | 1 => x / 2 % 2 + 2 * (y / 2 % 2)
  | 2 => x / 4 % 2 + 2 * (y / 4 % 2)
  | 3 => x / 8 % 8 + 8 * (y / 8 % 4)
  | _ => dieOf c

/-- The level of the smallest unit that holds the whole rectangle. -/
def topLevel (r : Nat × Nat × Nat × Nat) : Nat :=
  let a := coreAt r.1 r.2.1
  let b := coreAt (r.1 + r.2.2.1 - 1) (r.2.1 + r.2.2.2 - 1)
  ((List.range 4).find? (fun l => unitAt l a == unitAt l b)).getD 4

/-- The ports that a unit awaits a list on. -/
def awaited (r : Nat × Nat × Nat × Nat) (level unit : Nat) : List Nat :=
  (((rectCores r).filter (fun c => unitAt level c == unit)).map (unitPort level)).eraseDups

/-- The lists that a round holds at a unit, as (port, list). -/
def Round.at (x : Round) (level unit : Nat) : List (Nat × MergeList) :=
  (x.lists.filter (fun l => l.1 == level && l.2.1 == unit)).map (fun l => l.2.2)

/-- Open rounds at a unit (R269). -/
def State.openRounds (s : State) (level unit : Nat) : Nat :=
  (s.rounds.filter (fun x => !(x.at level unit).isEmpty)).length

/-! ### TKSEND (R264, R265, R369) -/

/-- The rectangle of a tree word: x0, y0, width, height (Table 12.3). -/
def treeRect (w : Word) : Nat × Nat × Nat × Nat := (bits w 6 0, bits w 14 8, bits w 22 16 + 1, bits w 30 24 + 1)

/-- TKSEND's operands break R265's PLACE conditions. -/
def State.badTree (s : State) (w ctl : Word) (k : Nat) : Bool :=
  let r := treeRect w
  let result := bits w 56 40
  bits w 63 57 != 0 || bitAt w 31 || bitAt w 23 || bitAt w 15 || bitAt w 7 || bits ctl 63 13 != 0 ||
  result % 8 != 0 || decide (128 < r.1 + r.2.2.1) || decide (128 < r.2.1 + r.2.2.2) ||
  decide (0x1F000 < result + 8 + 8 * k) ||
  match s.launchOf s.cur.1 with
  | some l =>
    let mine := l.cores s.pkg
    !(rectCores r).all mine.contains || !(rectCores r).contains s.here.origin
  | none => true

/-- The round that the next TKSEND of a core for an identity joins: TKSENDs count as they issue (R269). -/
def State.issueList (s : State) (c tag : Nat) (r : Nat × Nat × Nat × Nat) : State × Nat :=
  let o := (s.core c).origin
  match (s.core c).launch, s.launchOf c with
  | some l, some x =>
    let e := (x.lists.find? (fun e => e.names tag r o)).getD { tag, rect := r, core := o, next := 0, free := [] }
    let keep := x.lists.filter (fun e => !e.names tag r o)
    match e.free with
    | n :: rest => (s.modLaunch l (fun x => { x with lists := keep ++ [{ e with free := rest }] }), n)
    | [] => (s.modLaunch l (fun x => { x with lists := keep ++ [{ e with next := e.next + 1 }] }), e.next)
  | _, _ => (s, 0)

/-- TKSEND (R264, R265, R369). A bundle that stalls on a full NI keeps the list and the round of its issue. -/
def State.tksendRes (s : State) (a b c : Reg) : Res := do
  s.noTxn
  let e := s.X a
  let w := s.X b
  let ctl := s.X c
  let k := s.here.topk
  let (cc, i) := s.cur
  if e.toNat % 8 ≠ 0 then .error (s.stopWith .align e)
  else match spaceOf s.pkg e with
    | .lm off =>
      if 0x20000 < off + 8 * k then .error (s.stopWith .space e)
      else if s.badTree w ctl k then .error (s.stopWith .place w)
      else if s.here.lmBad off (8 * k) then .error (.poison e)
      else
        let r := treeRect w
        let own : MergeList :=
          { k, entries := (List.range k).map (fun n => s.here.lm.word (off + 8 * n)), nans := 0, contributors := 1 }
        let root : Place := ⟨s.pkg, coreAt r.1 r.2.1⟩
        let m := fun n => s.msgFrom cc i root
          (.list (bits w 39 32) r (bits w 56 40) (16 * bits ctl 12 0) (mergeLists [own]) n)
        let (s, n) := s.issueList cc (bits w 39 32) r
        if s.contained cc i then go (← s.hold w (m n))
        else if s.niTurn cc i root then go ((s.post cc (m n)).modMe Slot.progress)
        else .error (.wait s (.list (m n)))
    | _ => .error (s.stopWith .space e)

/-! ### Merging (R266 to R269) -/

/-- The open round of a number and an identity (R269). -/
def roundOf (rounds : List Round) (key tag : Nat) (r : Nat × Nat × Nat × Nat) (num : Nat) : Option Round :=
  rounds.find? (fun x => x.launch == key && x.tag == tag && x.rect == r && x.num == num)

/-- A list enters its quad unit; none while the unit holds four other rounds (R269). -/
def State.joinRound (s : State) (key c tag : Nat) (r : Nat × Nat × Nat × Nat) (result sw : Nat) (l : MergeList) (num : Nat) :
    Option State :=
  let u := quadOf c
  let entry := (0, u, unitPort 0 c, l)
  let isRoot := c == coreAt r.1 r.2.1
  let join := fun (x : Round) =>
    let x := if isRoot then { x with result := result, sw := sw } else x
    { x with joined := x.joined ++ [c], lists := x.lists ++ [entry] }
  match roundOf s.rounds key tag r num with
  | some x =>
    if (x.at 0 u).isEmpty && decide (4 ≤ s.openRounds 0 u) then none
    else some { s with rounds := s.rounds.map (fun y => if y = x then join y else y) }
  | none =>
    if 4 ≤ s.openRounds 0 u then none
    else
      some { s with rounds := s.rounds ++ [join
        { launch := key, tag, rect := r, num, result, sw, joined := [], lists := [] }] }

/-- Lists that wait in their senders' NIs enter their units, in the order they left (R269). -/
def State.enterFrom (s : State) : List Msg → List Msg → State
  | kept, [] => { s with net := kept }
  | kept, m :: rest =>
    match m.body with
    | .list tag r result sw l num =>
      let behind := kept.any (fun n => n.src == m.src && n.key == m.key &&
        (match n.body with | .list t q _ _ _ _ => t == tag && q == r | _ => false))
      if behind then s.enterFrom (kept ++ [m]) rest
      else match s.joinRound m.key m.src.lcn tag r result sw l num with
        | some s => s.enterFrom kept rest
        | none => s.enterFrom (kept ++ [m]) rest
    | _ => s.enterFrom (kept ++ [m]) rest

/-- Every list that can enter its unit does. -/
def State.enterLists (s : State) : State := s.enterFrom [] s.net

/-- The units of a round, as (level, unit). -/
def Round.units (x : Round) : List (Nat × Nat) := (x.lists.map (fun l => (l.1, l.2.1))).eraseDups

/-- A round's unit that holds a list from every participating child. -/
def Round.ready (x : Round) : List (Nat × Nat) :=
  x.units.filter (fun u => (x.at u.1 u.2).length == (awaited x.rect u.1 u.2).length)

/-- Every (round, level, unit) that can merge. -/
def State.mergesReady (s : State) : List (Round × Nat × Nat) :=
  s.rounds.flatMap (fun x => x.ready.map (fun u => (x, u.1, u.2)))

/-- The lists of a unit, in port order. -/
def inPortOrder (ls : List (Nat × MergeList)) : List MergeList :=
  (List.range 64).flatMap (fun p => (ls.filter (fun l => l.1 == p)).map Prod.snd)

/-- The header doubleword of a result (Table 12.5). -/
def resultHeader (tag : Nat) (l : MergeList) : Word :=
  let valid := (l.entries.filter (fun w => entryId w != 0xFFFF)).length
  BitVec.ofNat 64 (tag * 2 ^ 48 + l.contributors % 2 ^ 16 * 2 ^ 32 + l.nans % 2 ^ 16 * 2 ^ 16 + l.k * 2 ^ 8 + valid)

/-- ROOT_RESULT_WRITE: the root's NI writes the result and raises the root sync word (R268). -/
def State.writeResult (s : State) (site : Nat) (x : Round) (l : MergeList) : State :=
  let words := resultHeader x.tag l :: l.entries
  let s := s.modCore site (fun k => k.lmWrite x.result (words.flatMap (fun w => bytesOfNat 8 w.toNat)))
  s.raise site x.sw 1

/-- A round in the list of open rounds replaced. -/
def State.setRound (s : State) (x y : Round) : State := { s with rounds := s.rounds.map (fun z => if z = x then y else z) }

/-- A merge unit merges one list from every participating child and passes the result up, or to the root (R266); a
result for a root that is not on a core, and one for a full unit, wait. -/
def State.mergeAt (s : State) (x : Round) (level unit : Nat) : State :=
  let merged := mergeLists (inPortOrder (x.at level unit))
  let rest := x.lists.filter (fun l => !(l.1 == level && l.2.1 == unit))
  if level = topLevel x.rect then
    match s.siteOf x.launch (coreAt x.rect.1 x.rect.2.1) with
    | some site => { s.writeResult site x merged with rounds := s.rounds.filter (· != x) }
    | none => s
  else match (rectCores x.rect).find? (fun c => unitAt level c == unit) with
    | some c =>
      let up := unitAt (level + 1) c
      if (x.at (level + 1) up).isEmpty && decide (4 ≤ s.openRounds (level + 1) up) then s
      else s.setRound x { x with lists := rest ++ [(level + 1, up, unitPort (level + 1) c, merged)] }
    | none => s

/-! ### BKSEL (R270 to R272) -/

/-- The type of a key. -/
def KeyType.lane : KeyType → LaneType
  | .fp32 => .fp32
  | .fp16 => .fp16
  | .bf16 => .bf16
  | .i32 => .i32

/-- What BKSEL's descriptor says (Table 12.8). -/
structure BkDesc where
  count : Nat
  keys : Nat
  k : Nat
  values : Option Nat
  result : Nat
  bitmap : Option Nat
  deriving DecidableEq, Repr

/-- The descriptor at an own-LM offset, if it passes R271. -/
def CoreSt.bkDesc (core : CoreSt) (off : Nat) (t : LaneType) : Option BkDesc :=
  let w := fun n => core.lm.word (off + 8 * n)
  let count := bits (w 0) 48 32
  let keys := bits (w 0) 16 0
  let k := bits (w 1) 48 32
  let vals := bits (w 1) 16 0
  let result := bits (w 2) 48 32
  let map := bits (w 2) 16 0
  let size := laneWidth t / 8
  let useV := bitAt (w 1) 17
  let useB := bitAt (w 2) 17
  if bits (w 0) 63 49 = 0 ∧ bits (w 0) 31 17 = 0 ∧ bits (w 1) 63 49 = 0 ∧ bits (w 1) 31 18 = 0 ∧
      bits (w 2) 63 49 = 0 ∧ bits (w 2) 31 18 = 0 ∧ w 3 = 0 ∧ 1 ≤ count ∧ count ≤ 65536 ∧ 1 ≤ k ∧ k ≤ count ∧
      keys % size = 0 ∧ keys + size * count ≤ 0x1F000 ∧
      (useV = true → vals % 4 = 0 ∧ vals + 4 * count ≤ 0x1F000) ∧ result % 8 = 0 ∧ result + 32 ≤ 0x1F000 ∧
      (useB = true → map + (count + 7) / 8 ≤ 0x1F000) then
    some { count, keys, k, values := if useV then some vals else none, result
           bitmap := if useB then some map else none }
  else none

/-- A key widened to 32 bits and made unsigned in order (R272); none for a NaN. -/
def keyOrder (t : LaneType) (b : Nat) : Option Nat :=
  if t.isInt then some (b ^^^ 0x80000000)
  else if (decodeF t b).isNaN then none
  else
    let u := (convertLane t .fp32 farRounding b).1
    some (if 2 ^ 31 ≤ u then 2 ^ 32 - 1 - u else u + 2 ^ 31)

/-- The lowest selected bucket and the count from the top down to it. -/
def bucketFrom (hist : Nat → Nat) (k : Nat) : Nat → Nat → Nat × Nat
  | 0, n => (0, n)
  | b + 1, n => if n < k then bucketFrom hist k b (n + hist b) else (b + 1, n)

/-- A sum of the chosen elements: exact and rounded once to FP32, or an exact wrapped I64 (R272). -/
def bkSum (t : LaneType) (asKeys : Bool) (vs : List Nat) : Word :=
  if asKeys && t.isInt then BitVec.ofInt 64 ((vs.map (intOf t)).sum)
  else BitVec.ofNat 64 (roundVal .fp32 farRounding (sumF 0 (vs.map (decodeF (if asKeys then t else .fp32))))).1

/-- What BKSEL computes: the result record's four doublewords and the selection bits (R272, Table 12.9). -/
def CoreSt.bkselect (core : CoreSt) (d : BkDesc) (t : LaneType) : List Word × List Bool :=
  let size := laneWidth t / 8
  let key := fun i => core.lm.num (d.keys + size * i) size
  let orders := (List.range d.count).map (fun i => keyOrder t (key i))
  let hist := fun b => (orders.filter (fun o => o.map (· / 2 ^ 24) == some b)).length
  let (b, n) := bucketFrom hist d.k 255 (hist 255)
  let sel := orders.map (fun o => match o with | some u => decide (b ≤ u / 2 ^ 24) | none => false)
  let item := fun i => match d.values with | some v => core.lm.num (v + 4 * i) 4 | none => key i
  let pickAll := fun (want : Bool) => (List.range d.count).filterMap (fun i =>
    if ((orders.getD i none).isSome && sel.getD i false == want) then some (item i) else none)
  let nans := (orders.filter Option.isNone).length
  ([BitVec.ofNat 64 (nans * 2 ^ 32 + n), BitVec.ofNat 64 (256 * bit (decide (n < d.k)) + b),
    bkSum t d.values.isNone (pickAll true), bkSum t d.values.isNone (pickAll false)], sel)

/-- Bits packed into bytes, bit 0 first, unused bits 0 (R145). -/
def packBits (bs : List Bool) : List Byte :=
  (List.range ((bs.length + 7) / 8)).map (fun n =>
    BitVec.ofNat 8 (packLanes 1 (((bs.drop (8 * n)).take 8).map bit)))

/-- The first poisoned granule that BKSEL reads, as an address. -/
def CoreSt.bkBad (core : CoreSt) (off size : Nat) (d : BkDesc) : Option Word :=
  let ranges := [(off, 32), (d.keys, size * d.count)] ++ (d.values.map (fun v => (v, 4 * d.count))).toList
  ((ranges.flatMap (fun r => granules r.1 r.2)).find? (fun g => core.poison.contains (.lm g))).map (fun g => lmAddr (8 * g))

/-- BKSEL (R270 to R272, R297). -/
def State.bkselRes (s : State) (ty : KeyType) (d b : Reg) : Res := do
  s.noTxn
  let a := s.X b
  let t := KeyType.lane ty
  if a.toNat % 32 ≠ 0 then .error (s.stopWith .align a)
  else match spaceOf s.pkg a with
    | .lm off => match s.here.bkDesc off t with
      | none => .error (s.stopWith .illegal a)
      | some x => match s.here.bkBad off (laneWidth t / 8) x with
        | some v => .error (.poison v)
        | none =>
          let (rec_, sel) := s.here.bkselect x t
          let s := s.modHere (fun k =>
            let k := k.lmWrite x.result (rec_.flatMap (fun w => bytesOfNat 8 w.toNat))
            match x.bitmap with
            | some m => k.lmWrite m (packBits sel)
            | none => k)
          let time := 8 + 2 * ((x.count + 15) / 16)
          let s := s.modMe (fun t => { t.takePort s.cycle time with notBefore := max t.notBefore (s.cycle + time) })
          go (s.setX d (BitVec.ofNat 64 (bits (rec_.getD 0 0) 31 0)))
    | _ => .error (s.stopWith .space a)

/-! ### The meanings -/

/-- TKSEND (R264). -/
def execTksend (a b c : Reg) (s : State) : Host.Outcome State Fault Refusal := runC s (s.tksendRes a b c)

/-- BKSEL (R270). -/
def execBksel (ty : KeyType) (d b : Reg) (s : State) : Host.Outcome State Fault Refusal := runC s (s.bkselRes ty d b)

/-- LIST_MERGE: lists enter their units, and the n-th unit that holds all of a round's lists merges (R266). -/
def execListMerge (n : Nat) (s : State) : Host.Outcome State Fault Refusal :=
  let s := s.enterLists
  .next (match s.mergesReady[n]? with
    | some (x, level, unit) => s.mergeAt x level unit
    | none => s)

end Sys2Proof.Machine
end

