-- ==== Sys2Proof/Machine/Accumulate.lean ====
section
/-!
DEFINITION. Matrix accumulation (04_arithmetic R93 to R99): one output element's groups, chains and blocks, with the
events they record (R100).
-/
namespace Sys2Proof.Machine

/-- A value with the accumulator events it recorded (Table 4.12). -/
structure Acc where
  bits : Nat
  nv : Bool
  of : Bool
  sat : Bool
  deriving DecidableEq, Repr

/-- A value without events. -/
def Acc.pure (b : Nat) : Acc := { bits := b, nv := false, of := false, sat := false }

/-- The events of another value are added to those of this one. -/
def Acc.also (a b : Acc) : Acc := { a with nv := a.nv || b.nv, of := a.of || b.of, sat := a.sat || b.sat }

/-- floor(log2 |t|) of a non-zero number. -/
def expOf : FVal → Int
  | .num _ m e => (Nat.log2 m : Int) + e
  | _ => 0

/-- A term's signed contribution to a group sum: truncated on its magnitude at the window's end, with one sticky bit,
in units of 2^(emax - W - 1) (R96). -/
def windowTerm (emax : Int) (w : Nat) : FVal → Int
  | .num n m e =>
    let l := emax - w
    let mag := if l ≤ e then m * 2 ^ (e - l).toNat else m / 2 ^ (l - e).toNat
    let stk := if l ≤ e then 0 else if m % 2 ^ (l - e).toNat = 0 then 0 else 1
    let v : Int := (2 * mag + stk : Nat)
    if n then -v else v
  | _ => 0

/-- The largest exponent of some non-zero terms. -/
def maxExpOf : List FVal → Int
  | [] => 0
  | [t] => expOf t
  | t :: r => max (expOf t) (maxExpOf r)

/-- GroupSum of R96: the accumulator value and the exact products of one group, with window w. -/
def groupSum (c : Rounding) (w : Nat) (acc : FVal) (ps : List FVal) : Acc :=
  let acc := match acc with | .nan _ => FVal.nan false | x => x
  let ts := acc :: ps
  if ts.any FVal.isSig || (ts.any (· == .inf false) && ts.any (· == .inf true)) then
    { bits := canonNaN .fp32, nv := true, of := false, sat := false }
  else if ts.any FVal.isNaN then .pure (canonNaN .fp32)
  else if ts.any (· == .inf false) then .pure (infBits .fp32 false)
  else if ts.any (· == .inf true) then .pure (infBits .fp32 true)
  else
    let nz := ts.filter (fun t => !t.isZero)
    if nz = [] then .pure (signBits .fp32 (zeroSign c.rm ts))
    else
      let emax := maxExpOf nz
      let sum := (nz.map (windowTerm emax w)).sum
      if sum = 0 then .pure (signBits .fp32 (c.rm == 2))
      else
        let (b, f) := roundTo .fp32 c (decide (sum < 0)) sum.natAbs (emax - w - 1)
        { bits := b, nv := false, of := f.of, sat := false }

/-- One step of the FP64 chain (R95): rounded to nearest even, subnormals kept. -/
def chainStep (c : Nat) (p : FVal) : Acc :=
  let x := match decodeF .fp64 c with | .nan _ => FVal.nan false | x => x
  match sumF 0 [x, p] with
  | .nan s => { bits := canonNaN .fp64, nv := s, of := false, sat := false }
  | v =>
    let (b, f) := roundVal .fp64 farRounding v
    { bits := b, nv := false, of := f.of, sat := false }

/-- One integer group (R97): exact, then clamped to the I32 range. -/
def intGroup (c : Nat) (ps : List Int) : Acc :=
  let v := intOf .i32 c + ps.sum
  let (b, f) := packInt .i32 true v
  { bits := b, nv := false, of := false, sat := f.sat }

/-- A UE4M3 scale (R93): an invalid one is the NaN that raises NV. -/
def scaleVal (b : Nat) : FVal := if 0x80 ≤ b ∨ b = 0x7F then .nan true else decodeF .e4m3 b

/-- The exact product of an element of A and one of B with their scales (R93, R96); an invalid scale makes it the NaN
that raises NV. -/
def productOf (a b sa sb : FVal) : FVal :=
  if sa.isNaN || sb.isNaN then .nan true else mulF (mulF a sa) (mulF b sb)

/-- A value of an accumulator carried on through further groups. -/
def accFold {α : Type} (f : Nat → α → Acc) : Acc → List α → Acc
  | a, [] => a
  | a, x :: r => accFold f ((f a.bits x).also a) r

/-- BFPm's value of a mantissa's bits as an integer (R94). -/
def bfpInt (m v : Nat) : Int := if 2 ^ (m - 1) ≤ v % 2 ^ m then (v % 2 ^ m : Nat) - (2 ^ m : Nat) else (v % 2 ^ m : Nat)

/-- One block of the CIM path (R98): the exact block sum, the exponents of both blocks, A's mantissa width. A NaN
exponent comes before a zero one. -/
def blockStep (c : Rounding) (m : Nat) (acc : Nat) (p : Int) (ea eb : Nat) : Acc :=
  if ea = 255 ∨ eb = 255 then .pure (canonNaN .fp32)
  else if ea = 0 ∨ eb = 0 then .pure acc
  else
    let e : Int := (ea : Int) - 127 - (m - 2) + ((eb : Int) - 127 - 6)
    let x := match operandF .fp32 c.fz acc with | .nan _ => FVal.nan false | x => x
    match sumF c.rm [x, .num (decide (p < 0)) p.natAbs e] with
    | .nan _ => .pure (canonNaN .fp32)
    | v =>
      let (b, f) := roundVal .fp32 c v
      { bits := b, nv := false, of := f.of, sat := false }

end Sys2Proof.Machine
end

