-- ==== Sys2Proof/Machine/Matrix.lean ====
section
/-!
DEFINITION. The matrix sequencer (06_engines R134 to R147; the entries of MADP, MDRAIN, MLDW, MMA, MMAS, MMAB, MZERO in
15_reference R325 to R343): the checks at a command's start, its work in chunks of 64 k, and its completion.
-/
namespace Sys2Proof.Machine

/-! ### Records (R139, Tables 6.3 and 6.4) -/

/-- Word n of a record. -/
def MEntry.w (e : MEntry) (n : Nat) : Word := e.words.getD n 0

/-- A count field in which 0 means 64. -/
def count64 (n : Nat) : Nat := if n = 0 then 64 else n

def MEntry.code (e : MEntry) : Nat := bits (e.w 0) 7 0
def MEntry.acc (e : MEntry) : Bool := bitAt (e.w 0) 8
def MEntry.zero (e : MEntry) : Bool := bitAt (e.w 0) 9
def MEntry.raises (e : MEntry) : Bool := bitAt (e.w 0) 10
def MEntry.rows (e : MEntry) : Nat := count64 (bits (e.w 0) 23 16)
def MEntry.cols (e : MEntry) : Nat := count64 (bits (e.w 0) 31 24)
def MEntry.k (e : MEntry) : Nat := bits (e.w 0) 47 32
def MEntry.sw (e : MEntry) : Nat := bits (e.w 0) 63 48
def MEntry.row0 (e : MEntry) : Nat := bits (e.w 4) 5 0
def MEntry.col0 (e : MEntry) : Nat := bits (e.w 4) 13 8

/-- Only the bits of a mask are set in a word. -/
def onlyBits (w mask : Word) : Bool := w &&& ~~~mask == 0

/-- Word 1's fields: offset, space, stride. -/
def maskOperand : Word := 0x0000FFFF0003FFFF
/-- Word 2's fields of MMA: offset and stride in W. -/
def maskW : Word := 0x0000FFFF0000FFFF
/-- The two origins of word 4. -/
def maskOrigin : Word := 0x3F3F
/-- An exponent array's offset and stride in word 5. -/
def maskExp : Word := 0x0000FFFF0001FFFF

/-- Unused fields of words 1 to 7 are zero (R139, R326, R332, R336, R337, R339, R343); none for an unknown code.
A field whose use another bit of the record switches off is not counted as unused (DEDUCED, log 27). -/
def MEntry.fieldsOk (e : MEntry) : Option Bool :=
  let ok := fun (ms : List Word) => (List.range 7).all (fun n => onlyBits (e.w (n + 1)) (ms.getD n 0))
  let w0 := fun (mask : Word) => onlyBits (e.w 0) (mask ||| 0xFFFF0000000004FF)
  match e.code with
  | 0x01 => some (w0 0x100 && ok [])
  | 0x02 =>
    if bitAt (e.w 4) 0 then some (w0 0x0000FFFFFF000000 && ok [maskOperand, 0xF, 0, 1, maskExp])
    else some (w0 0x0000FFFF00000000 && ok [maskOperand, maskW, 0, 0xFFFF0001])
  | 0x10 => some (w0 0x0000FFFFFFFF0300 && ok [maskOperand, maskW, 0, maskOrigin])
  | 0x11 => some (w0 0x0000FFFFFFFF0300 && ok [maskOperand, maskW, 0x3FFFF, maskOrigin])
  | 0x12 => some (w0 0x0000FFFFFFFF0300 && ok [maskOperand, 0xFF, 0, maskOrigin, maskExp])
  | 0x13 => some (w0 0x0000FFFFFFFF0300 && ok [maskOperand, 0, 0x1FFFF, maskOrigin, 0xFFFFFFFF000FFFFF, 0x1FFFF])
  | 0x20 => some (w0 0x00000000FFFF0100 && ok [0, 0, maskOperand, 0x3FFFFF])
  | _ => none

/-- The sync word of word 0 is in LM, or zero without a raise (R139). -/
def MEntry.syncOk (e : MEntry) : Bool := if e.raises then decide (16 * e.sw < 0x20000) else e.sw == 0

/-! ### Formats (R141, R142) -/

/-- The type and the scale field of an MFMTA or MFMTB value, if both are assigned. -/
def fmtOf (w : BitVec 12) : Option (LaneType × Nat) :=
  match LaneType.ofCode (w.extractLsb' 0 4) with
  | some t => if (w.extractLsb' 8 4).toNat ≤ 2 then some (t, (w.extractLsb' 8 4).toNat) else none
  | none => none

/-- BFPM of an MFMTA value. -/
def bfpm (w : BitVec 12) : Nat := (w.extractLsb' 4 4).toNat

/-- A rate class of Table 6.9: number, cw, kd and group. -/
structure RateClass where
  id : Nat
  cw : Nat
  kd : Nat
  group : Nat
  deriving DecidableEq, Repr

/-- The rate class of a type, if the digital path takes it. -/
def rateClass : LaneType → Option RateClass
  | .fp64 => some ⟨0, 4, 1, 1⟩
  | .fp32 => some ⟨1, 4, 4, 4⟩
  | .fp16 | .bf16 => some ⟨2, 8, 8, 8⟩
  | .e4m3 | .e5m2 => some ⟨3, 8, 16, 8⟩
  | .i8 | .n8 => some ⟨4, 8, 16, 8⟩
  | .e2m1 => some ⟨5, 8, 32, 8⟩
  | _ => none

/-- A pairing of the digital path: types, scale fields and class. -/
structure Pairing where
  a : LaneType
  b : LaneType
  sa : Nat
  sb : Nat
  cls : RateClass
  deriving DecidableEq, Repr

/-- The pairing of MFMTA and MFMTB, if R141 and R142 allow it. -/
def pairing (fa fb : BitVec 12) : Option Pairing :=
  match fmtOf fa, fmtOf fb with
  | some (a, sa), some (b, sb) => match rateClass a, rateClass b with
    | some ca, some cb =>
      if ca = cb ∧ ((sa = 0 ∧ sb = 0) ∨ ca.id = 3 ∨ ca.id = 5) then some ⟨a, b, sa, sb, ca⟩ else none
    | _, _ => none
  | _, _ => none

/-- The bank kind that a class writes (R142). -/
def RateClass.kind (c : RateClass) : BankKind := if c.id = 0 then .fp64 else if c.id = 4 then .i32 else .fp32

/-! ### Operands in the memories -/

/-- An operand range: which memory, first byte, rows, stride and bytes of a row. -/
structure Span where
  space : Nat
  off : Nat
  rows : Nat
  stride : Nat
  bytes : Nat
  deriving DecidableEq, Repr

/-- Memories that an operand lies in: 0 A buffer, 1 LM, 2 W buffer. -/
def CoreSt.space (k : CoreSt) (n : Nat) : Memory :=
  match n with
  | 0 => k.abuf
  | 1 => k.lm
  | _ => k.wbuf

/-- The size of a memory. -/
def spaceSize (n : Nat) : Nat := if n = 1 then 0x20000 else 0x10000

/-- The range lies inside its window, counted with its stride (R139). -/
def Span.inside (x : Span) : Bool :=
  x.rows == 0 || decide (x.off + (x.rows - 1) * x.stride + x.bytes ≤ spaceSize x.space)

/-- The address of the first poisoned granule of a range (R217). -/
def CoreSt.spanBad (k : CoreSt) (x : Span) : Option Word :=
  let mark := fun g => match x.space with | 0 => Poison.abuf g | 1 => .lm g | _ => .wbuf g
  let base := match x.space with | 0 => 0xF100000000000000 | 1 => 0xF000000000000000 | _ => 0xF200000000000000
  if k.poison = [] then none
  else (((List.range x.rows).flatMap (fun r => granules (x.off + r * x.stride) x.bytes)).find? (fun g =>
    k.poison.contains (mark g))).map (fun g => BitVec.ofNat 64 (base + 8 * g))

/-- Element n of a row that starts at a byte. -/
def element (m : Memory) (t : LaneType) (row n : Nat) : Nat :=
  if laneWidth t = 4 then (m.read (row + n / 2)).toNat / 16 ^ (n % 2) % 16
  else m.num (row + n * (laneWidth t / 8)) (laneWidth t / 8)

/-- Bytes of n elements. -/
def rowBytes (t : LaneType) (n : Nat) : Nat := (n * laneWidth t + 7) / 8

/-- The bytes that an offset or a stride must be a multiple of. -/
def elemBytes (t : LaneType) : Nat := max 1 (laneWidth t / 8)

/-- Operand A as word 1 names it. -/
def MEntry.spanA (e : MEntry) (t : LaneType) : Span :=
  ⟨bits (e.w 1) 17 17, bits (e.w 1) 16 0, e.rows, bits (e.w 1) 47 32, rowBytes t e.k⟩

/-- Operand B as word 2 names it. -/
def MEntry.spanB (e : MEntry) (t : LaneType) : Span :=
  ⟨2, bits (e.w 2) 15 0, e.k, bits (e.w 2) 47 32, rowBytes t e.cols⟩

/-- k-elements per scale. -/
def scaleLen (s : Nat) : Nat := if s = 1 then 16 else 32

/-- A's scale array (Table 6.8). -/
def MEntry.spanSA (e : MEntry) (s : MSample) (f : Nat) : Span :=
  ⟨if bitAt s.sclA 17 then 0 else 1, bits s.sclA 16 0, e.rows, bits s.sclA 47 32, (e.k + scaleLen f - 1) / scaleLen f⟩

/-- B's scale array. -/
def MEntry.spanSB (e : MEntry) (s : MSample) (f : Nat) : Span :=
  ⟨if bitAt s.sclB 17 then 2 else 1, bits s.sclB 16 0, (e.k + scaleLen f - 1) / scaleLen f, bits s.sclB 47 32, e.cols⟩

/-! ### Banks (R107, R142) -/

/-- The working bank of an accumulator. -/
def CoreSt.working (k : CoreSt) (acc : Bool) : Bank := if acc then k.acc1w else k.acc0w

/-- The visible bank. -/
def CoreSt.visible (k : CoreSt) (acc : Bool) : Bank := if acc then k.acc1v else k.acc0v

/-- The core with a working bank replaced. -/
def CoreSt.setWorking (k : CoreSt) (acc : Bool) (b : Bank) : CoreSt :=
  if acc then { k with acc1w := b } else { k with acc0w := b }

/-- The byte of element (i, j) of a bank and the element's bytes. -/
def bankPlace (kind : BankKind) (i j : Nat) : Nat × Nat :=
  if kind = .fp64 then (512 * i + 8 * j, 8) else (256 * i + 4 * j, 4)

/-- Rows of a bank. -/
def bankRows (kind : BankKind) : Nat := if kind = .fp64 then 32 else 64

/-- The origins and the extent stay in the bank (R139). -/
def MEntry.fits (e : MEntry) (kind : BankKind) : Bool :=
  decide (e.row0 + e.rows ≤ bankRows kind) && decide (e.col0 + e.cols ≤ 64)

/-- The bank may be written in a kind: it has that kind, or any, or the command clears it (R142). -/
def Bank.takes (b : Bank) (e : MEntry) (kind : BankKind) : Bool := e.zero || b.kind == .any || b.kind == kind

/-- Element (i, j) of a bank replaced by what a function makes of it, with the events. -/
def updateElement (kind : BankKind) (b : Bank) (i j : Nat) (f : Nat → Acc) : Bank × Acc :=
  let (at_, n) := bankPlace kind i j
  let r := f (b.data.num at_ n)
  ({ b with data := b.data.setNum at_ n r.bits }, r)

/-- The m by n elements of a command's rectangle replaced in turn. -/
def updateTile (e : MEntry) (kind : BankKind) (b : Bank) (f : Nat → Nat → Nat → Acc) : Bank × Acc :=
  (List.range (e.rows * e.cols)).foldl (fun (p : Bank × Acc) n =>
    let i := n / e.cols
    let j := n % e.cols
    let (b, r) := updateElement kind p.1 (e.row0 + i) (e.col0 + j) (f i j)
    (b, Acc.also r p.2)) ({ b with kind }, .pure 0)

/-! ### What a command's start finds -/

/-- The outcome of a command's checks: a MATRIX fault, poison in an operand, or its cycles (R143, R144, R217). -/
inductive MStart where
  | fault
  | poison (v : Word)
  | ok (cycles : Nat)
  deriving DecidableEq, Repr

/-- A start whose operand ranges are named: outside a window it is a fault; poisoned in what the command reads of them it
is poison. -/
def CoreSt.startWith (k : CoreSt) (ok : Bool) (spans : List Span) (cycles : Nat) : MStart :=
  if !ok || !spans.all Span.inside then .fault
  else match spans.findSome? k.spanBad with
    | some v => .poison v
    | none => .ok cycles

/-- The address of the first poisoned granule of the elements of a bank that a command reads: in some rows, n columns from
j on. A working bank's elements have the C window address that they have once the bank is visible (log 39). -/
def Bank.tileBad (b : Bank) (acc : Bool) (kind : BankKind) (rows : List Nat) (j n : Nat) : Option Word :=
  if b.bad = [] then none
  else ((rows.flatMap (fun i =>
    let (at_, w) := bankPlace kind i j
    granules at_ (n * w))).find? b.bad.contains).map (fun g =>
      BitVec.ofNat 64 (0xF300000000000000 + 0x4000 * bit acc + 8 * g))

/-- The start of a command that adds to some rows of its tile of the working bank: poisoned elements there are read too,
unless the zero bit clears the bank first (R217). -/
def CoreSt.withTile (core : CoreSt) (e : MEntry) (kind : BankKind) (rows : List Nat) : MStart → MStart
  | .ok n => if e.zero then .ok n
    else match (core.working e.acc).tileBad e.acc kind (rows.map (e.row0 + ·)) e.col0 e.cols with
      | some v => .poison v
      | none => .ok n
  | r => r

/-- Division rounded up. -/
def ceilDiv (a b : Nat) : Nat := (a + b - 1) / b

/-- Row κ of B is live for MMAS (R145). -/
def CoreSt.live (core : CoreSt) (e : MEntry) (x : Nat) : Bool :=
  if e.code = 0x10 then true
  else if bitAt (e.w 3) 17 then
    (List.range e.rows).any (fun i =>
      let h := (bits (e.w 1) 16 0 + i * bits (e.w 1) 47 32) / 2 + x
      (core.zmap.read (h / 8)).getLsbD (h % 8))
  else (core.lm.read (bits (e.w 3) 16 0 + x / 8)).getLsbD (x % 8)

/-- The live rows of a range of k. -/
def CoreSt.liveCount (core : CoreSt) (e : MEntry) : Nat := ((List.range e.k).filter (core.live e)).length

/-- The start of MMA and MMAS (R337, R338); only live rows of B are read (R145). -/
def CoreSt.startMma (core : CoreSt) (e : MEntry) (s : MSample) : MStart :=
  match pairing s.fmtA s.fmtB with
  | none => .fault
  | some p =>
    let kind := p.cls.kind
    let a := e.spanA p.a
    let b := e.spanB p.b
    let sparse := e.code == 0x11
    let map := sparse && bitAt (e.w 3) 17
    let aligned := a.off % elemBytes p.a == 0 && a.stride % elemBytes p.a == 0 && b.off % elemBytes p.b == 0 &&
      b.stride % elemBytes p.b == 0
    let mapOk := !map || (a.space == 0 && laneWidth p.a == 16)
    let rows := ((List.range e.k).filter (core.live e)).map (fun x => (⟨2, b.off + x * b.stride, 1, 0, b.bytes⟩ : Span))
    let spans := [a] ++ (if sparse then rows else [b]) ++ (if p.sa = 0 then [] else [e.spanSA s p.sa]) ++ (if p.sb = 0 then [] else [e.spanSB s p.sb]) ++
      (if sparse && !map then [⟨1, bits (e.w 3) 16 0, 1, 0, ceilDiv e.k 8⟩] else [])
    let ok := decide (1 ≤ e.k) && e.fits kind && (core.working e.acc).takes e kind && aligned && mapOk && b.inside
    let l := if sparse then core.liveCount e else e.k
    core.withTile e kind (if l = 0 then [] else List.range e.rows) (core.startWith ok spans ((if sparse then 12 + ceilDiv e.k 512 else 12) +
      e.rows * ceilDiv e.cols p.cls.cw * ceilDiv l p.cls.kd))

/-- First macro and macro count of MMAB's word 2. -/
def MEntry.macros (e : MEntry) : Nat × Nat := (bits (e.w 2) 3 0, bits (e.w 2) 7 4 + 1)

/-- The start of MMAB (R339). -/
def CoreSt.startMmab (core : CoreSt) (e : MEntry) (s : MSample) : MStart :=
  let (first, count) := e.macros
  let m := bfpm s.fmtA
  let blocks := ceilDiv e.k 32
  let mant : Span := ⟨bits (e.w 1) 17 17, bits (e.w 1) 16 0, e.rows, bits (e.w 1) 47 32, blocks * 4 * m⟩
  let exps : Span := ⟨1, bits (e.w 5) 16 0, e.rows, bits (e.w 5) 47 32, blocks⟩
  let loaded := (List.range count).all (fun t => core.cimLoaded.getLsbD (first + t))
  let macroBad := (List.range count).find? (fun t => core.poison.contains (.cim (first + t)))
  let ok := (s.fmtA.extractLsb' 0 4).toNat == 15 && decide (2 ≤ m) && decide (m ≤ 8) &&
    (s.fmtA.extractLsb' 8 4).toNat == 0 &&
    decide (1 ≤ e.k) && decide (e.cols ≤ 64) && decide (e.k ≤ 64 * count) && decide (first + count ≤ 16) && loaded &&
    e.fits .fp32 && (core.working e.acc).takes e .fp32
  let weights := (List.range count).map (fun t => (⟨2, 4096 * (first + t), 1, 0, 4096⟩ : Span))
  match core.withTile e .fp32 (List.range e.rows) (core.startWith ok ([mant, exps] ++ weights) (8 + e.rows * m * count)) with
  | .ok n => match macroBad with
    | some t => .poison (BitVec.ofNat 64 (0xE000000600000000 + first + t))
    | none => .ok n
  | r => r

/-! ### Adapters (R326, R327) -/

/-- One operand of an adapter table entry (Table 15.10), with its rows and their bytes; none when reserved bits are set
or the space is 3. -/
def adapterSpan (w : Word) (rows bytes : Nat) : Option Span :=
  if bits w 63 48 ≠ 0 ∨ bits w 31 19 ≠ 0 ∨ bits w 18 17 = 3 then none
  else some ⟨match bits w 18 17 with | 0 => 1 | 1 => 0 | _ => 2, bits w 16 0, rows, bits w 47 32, bytes⟩

/-- The adapter that row i names; none for 0xFFFF. -/
def CoreSt.adapter (core : CoreSt) (e : MEntry) (i : Nat) : Option Nat :=
  let a := core.lm.num (bits (e.w 3) 16 0 + 2 * i) 2
  if a = 0xFFFF then none else some a

/-- The rank of MADP. -/
def MEntry.rank (e : MEntry) : Nat := bits (e.w 5) 19 16 + 1

/-- Down and Up of an adapter. -/
def CoreSt.adapterSpans (core : CoreSt) (e : MEntry) (t : LaneType) (a : Nat) : Option (Span × Span) :=
  let at_ := bits (e.w 6) 16 0 + 16 * a
  match adapterSpan (core.lm.word at_) e.k (rowBytes t e.rank),
      adapterSpan (core.lm.word (at_ + 8)) e.rank (rowBytes t e.cols) with
  | some d, some u => some (d, u)
  | _, _ => none

/-- The start of MADP (R326, R327): A, Down and Up belong to one rate class (R142). -/
def CoreSt.startMadp (core : CoreSt) (e : MEntry) (s : MSample) : MStart :=
  let floatClass := fun (t : LaneType) => t == .fp32 || t == .fp16 || t == .bf16
  match fmtOf s.fmtA, fmtOf s.fmtB with
  | some (ta, 0), some (tb, 0) =>
    match rateClass ta with
    | none => .fault
    | some cls =>
      let index : Span := ⟨1, bits (e.w 3) 16 0, 1, 0, 2 * e.rows⟩
      let used := ((List.range e.rows).filterMap (core.adapter e)).eraseDups
      let entries := used.map (fun a => (⟨1, bits (e.w 6) 16 0 + 16 * a, 1, 0, 16⟩ : Span))
      let pairs := used.map (core.adapterSpans e tb)
      let spans := pairs.flatMap (fun p => match p with | some (d, u) => [d, u] | none => [])
      let count := bits (e.w 5) 15 0
      let ok := floatClass ta && floatClass tb && rateClass ta == rateClass tb && decide (1 ≤ e.k) && decide (1 ≤ count) && index.inside &&
        index.off % 2 == 0 && bits (e.w 6) 16 0 % 16 == 0 && used.all (fun a => decide (a < count)) &&
        entries.all Span.inside && pairs.all Option.isSome && e.fits .fp32 && (core.working e.acc).takes e .fp32
      core.withTile e .fp32 ((List.range e.rows).filter (fun i => (core.adapter e i).isSome)) (core.startWith ok ([index, e.spanA ta] ++ entries ++ spans)
        (12 + e.rows * (ceilDiv e.k cls.kd * ceilDiv e.rank cls.cw + ceilDiv e.rank cls.kd * ceilDiv e.cols cls.cw + 1)))
  | _, _ => .fault

/-- The start of MLDW (R336). -/
def CoreSt.startMldw (core : CoreSt) (e : MEntry) : MStart :=
  let src := fun bytes => (⟨bits (e.w 1) 17 17, bits (e.w 1) 16 0, e.k, bits (e.w 1) 47 32, bytes⟩ : Span)
  if bitAt (e.w 4) 0 then
    let exps : Span := ⟨1, bits (e.w 5) 16 0, 2, bits (e.w 5) 47 32, e.cols⟩
    core.startWith (decide (1 ≤ e.k) && decide (e.k ≤ 64) && decide (e.cols ≤ 64)) [src e.cols, exps]
      (8 + ceilDiv (e.k * e.cols + 2 * e.cols) 64)
  else
    let bytes := bits (e.w 4) 31 16
    let dst : Span := ⟨2, bits (e.w 2) 15 0, e.k, bits (e.w 2) 47 32, bytes⟩
    if !dst.inside then .fault
    else core.startWith (decide (1 ≤ e.k) && decide (1 ≤ bytes)) [src bytes] (8 + ceilDiv (e.k * bytes) 64)

/-! ### MDRAIN (R146, R147, R332, R333) -/

/-- The type of a bank's elements; a bank of kind "any" drains as FP32. -/
def BankKind.lane : BankKind → LaneType
  | .i32 => .i32
  | .fp64 => .fp64
  | _ => .fp32

/-- An output type suits a bank kind (R333). -/
def drainTypes (kind : BankKind) (t : LaneType) : Bool :=
  match kind with
  | .i32 => t == .i32 || t == .i8 || t == .n8
  | .fp64 => t == .fp64 || t == .fp32
  | _ => t == .fp32 || t == .fp16 || t == .bf16 || t == .e4m3 || t == .e5m2 || t == .e2m1

/-- The output of MDRAIN: word 3's space bit is 0 for LM. -/
def MEntry.spanOut (e : MEntry) (t : LaneType) : Span :=
  ⟨1 - bits (e.w 3) 17 17, bits (e.w 3) 16 0, e.rows, bits (e.w 3) 47 32, rowBytes t e.cols⟩

/-- The zero detector's bitmap (R146). -/
def MEntry.spanMap (e : MEntry) : Span :=
  let end_ := bits (e.w 3) 16 0 + e.rows * bits (e.w 3) 47 32
  ⟨1 - bits (e.w 3) 17 17, (end_ + 15) / 16 * 16, 1, 0, if bitAt (e.w 4) 20 then 8 * e.rows else ceilDiv e.cols 8⟩

/-- The bias array. -/
def MEntry.spanBias (e : MEntry) (kind : BankKind) : Span := ⟨1, bits (e.w 4) 16 0, 1, 0, e.cols * (laneWidth kind.lane / 8)⟩

/-- The start of MDRAIN. -/
def CoreSt.startMdrain (core : CoreSt) (e : MEntry) (s : MSample) : MStart :=
  let kind := (core.visible e.acc).kind
  match LaneType.ofCode s.fmtC with
  | none => .fault
  | some t =>
    let out := e.spanOut t
    let bias := e.spanBias kind
    let useBias := bitAt (e.w 4) 17
    let ok := drainTypes kind t && decide (e.rows ≤ bankRows kind) && decide (e.cols ≤ 64) && out.inside &&
      (!bitAt (e.w 4) 19 || e.spanMap.inside) && out.off % elemBytes t == 0 && out.stride % elemBytes t == 0 &&
      (t != .e2m1 || e.cols % 2 == 0) && (!useBias || bias.off % (laneWidth kind.lane / 8) == 0)
    match core.startWith ok (if useBias then [bias] else []) (8 + e.rows * ceilDiv e.cols 16) with
    | .ok n => match (core.visible e.acc).tileBad e.acc kind (List.range e.rows) 0 e.cols with
      | some v => .poison v
      | none => .ok n
    | r => r

/-- The element after bias and ReLU, with the bias addition's flags (R147). -/
def drainValue (kind : BankKind) (c : Rounding) (bias : Option Nat) (relu : Bool) (v : Nat) : Nat × Flags :=
  let t := BankKind.lane kind
  let (x, f) := match bias with
    | none => (v, ({} : Flags))
    | some b => match kind with
      | .i32 => packInt .i32 true (intOf .i32 v + intOf .i32 b)
      | .fp64 => addLane .fp64 farRounding v b
      | _ => addLane .fp32 c v b
  let x := if !relu then x
    else if t.isInt then (if 0 < intOf t x then x else 0)
    else match decodeF t x with
      | .nan _ => canonNaN t
      | .inf n => if n then 0 else x
      | .num n m _ => if n || m == 0 then 0 else x
  (x, f)

/-- An output element is non-zero (R146). -/
def nonZero (t : LaneType) (b : Nat) : Bool := if t.isInt then b != 0 else b % 2 ^ (laneWidth t - 1) != 0

/-- The output bits of row i and the flags they raise. -/
def CoreSt.drainRow (core : CoreSt) (e : MEntry) (s : MSample) (t : LaneType) (i : Nat) : List (Nat × Flags) :=
  let b := core.visible e.acc
  let c : Rounding := { rm := s.rm, fz := s.fz }
  let w := laneWidth b.kind.lane / 8
  (List.range e.cols).map (fun j =>
    let (at_, n) := bankPlace b.kind i j
    let bias := if bitAt (e.w 4) 17 then some (core.lm.num (bits (e.w 4) 16 0 + j * w) w) else none
    let (x, f) := drainValue b.kind c bias (bitAt (e.w 4) 18) (b.data.num at_ n)
    let (r, g) := convertLane b.kind.lane t { c with sat := bitAt (e.w 4) 21 } x
    (r, f.or g))

/-- A core's memory with bytes stored by the matrix unit. -/
def CoreSt.storeSpace (core : CoreSt) (space off : Nat) (bs : List Byte) : CoreSt :=
  if space = 1 then core.lmWrite off bs else core.abufWrite off bs

/-- The bytes of a row of output elements. -/
def outBytes (t : LaneType) (vs : List Nat) : List Byte := bytesOfNat (rowBytes t vs.length) (packLanes (laneWidth t) vs)

/-- The zero detector's bytes: one bit a column, or eight bytes a row. -/
def detectBytes (perElement : Bool) (t : LaneType) (cols : Nat) (rows : List (List Nat)) : List Byte :=
  if perElement then rows.flatMap (fun r => bytesOfNat 8 (packLanes 1 (r.map (fun v => bit (nonZero t v)))))
  else packBits ((List.range cols).map (fun j => rows.any (fun r => nonZero t (r.getD j 0))))

/-- MDRAIN's work: output rows, then the bitmap; the flags for the pushing slot (R102, R332). -/
def CoreSt.drain (core : CoreSt) (e : MEntry) (s : MSample) : CoreSt × Flags :=
  match LaneType.ofCode s.fmtC with
  | none => (core, {})
  | some t =>
    let out := e.spanOut t
    let rows := (List.range e.rows).map (core.drainRow e s t)
    let flags := (rows.flatMap (fun r => r.map Prod.snd)).foldl Flags.or ((core.visible e.acc).drainFlags)
    let vals := rows.map (fun r => r.map Prod.fst)
    let k := (List.range e.rows).foldl (fun (k : CoreSt) i =>
      k.storeSpace out.space (out.off + i * out.stride) (outBytes t (vals.getD i []))) core
    let k := if bitAt (e.w 4) 19 then
        k.storeSpace out.space e.spanMap.off (detectBytes (bitAt (e.w 4) 20) t e.cols vals)
      else k
    (k, flags)

/-! ### The work of the other commands -/

/-- A's element (i, κ) with its scale. -/
def CoreSt.aValue (core : CoreSt) (e : MEntry) (s : MSample) (p : Pairing) (i x : Nat) : FVal × FVal :=
  let a := e.spanA p.a
  let v := operandF p.a s.fz (element (core.space a.space) p.a (a.off + i * a.stride) x)
  let sc := e.spanSA s p.sa
  (v, if p.sa = 0 then .num false 1 0
    else scaleVal ((core.space sc.space).read (sc.off + i * sc.stride + x / scaleLen p.sa)).toNat)

/-- B's element (κ, j) with its scale. -/
def CoreSt.bValue (core : CoreSt) (e : MEntry) (s : MSample) (p : Pairing) (x j : Nat) : FVal × FVal :=
  let b := e.spanB p.b
  let v := operandF p.b s.fz (element core.wbuf p.b (b.off + x * b.stride) j)
  let sc := e.spanSB s p.sb
  (v, if p.sb = 0 then .num false 1 0
    else scaleVal ((core.space sc.space).read (sc.off + x / scaleLen p.sb * sc.stride + j)).toNat)

/-- The product of (i, κ) and (κ, j). -/
def CoreSt.product (core : CoreSt) (e : MEntry) (s : MSample) (p : Pairing) (i j x : Nat) : FVal :=
  let (a, sa) := core.aValue e s p i x
  let (b, sb) := core.bValue e s p x j
  productOf a b sa sb

/-- The integer product. -/
def CoreSt.intProduct (core : CoreSt) (e : MEntry) (p : Pairing) (i j x : Nat) : Int :=
  let a := e.spanA p.a
  let b := e.spanB p.b
  intOf p.a (element (core.space a.space) p.a (a.off + i * a.stride) x) *
    intOf p.b (element core.wbuf p.b (b.off + x * b.stride) j)

/-- The groups of a range of k, as lists of k. -/
def groupsOf (g lo hi : Nat) : List (List Nat) :=
  (List.range (ceilDiv (hi - lo) g)).map (fun n =>
    (List.range (min g (hi - lo - n * g))).map (fun q => lo + n * g + q))

/-- MMA's update of element (i, j) over the k from lo to hi (R95 to R97). -/
def CoreSt.mmaElement (core : CoreSt) (e : MEntry) (s : MSample) (p : Pairing) (lo hi i j : Nat) (c : Nat) : Acc :=
  let live := fun (ks : List Nat) => ks.filter (core.live e)
  let groups := (groupsOf p.cls.group lo hi).map live
  match p.cls.kind with
  | .i32 => accFold intGroup (.pure c) (groups.map (fun ks => ks.map (core.intProduct e p i j)))
  | .fp64 => accFold chainStep (.pure c) (groups.flatten.map (core.product e s p i j))
  | _ =>
    let r : Rounding := { rm := s.rm, fz := s.fz }
    let w := if p.cls.id = 1 then 64 else 48
    accFold (fun c ps => groupSum r w (operandF .fp32 s.fz c) ps) (.pure c)
      (groups.map (fun ks => ks.map (core.product e s p i j)))

/-- MMAB's update of element (i, j) over the blocks of the k from lo to hi (R98, R339). -/
def CoreSt.mmabElement (core : CoreSt) (e : MEntry) (s : MSample) (lo hi i j : Nat) (c : Nat) : Acc :=
  let m := bfpm s.fmtA
  let first := e.macros.1
  let aRow := bits (e.w 1) 16 0 + i * bits (e.w 1) 47 32
  let aMem := core.space (bits (e.w 1) 17 17)
  let blocks := (List.range (ceilDiv hi 32)).filter (fun b => decide (lo ≤ 32 * b))
  let step := fun c b =>
    let mant := aMem.num (aRow + b * 4 * m) (4 * m)
    let macro_ := first + b / 2
    let n := min 32 (e.k - 32 * b)
    let p := ((List.range n).map (fun q =>
      let row := 32 * (b % 2) + q
      bfpInt m (mant / 2 ^ (m * q)) * bfpInt 8 (core.wbuf.read (4096 * macro_ + 64 * row + j)).toNat)).sum
    let ea := (core.lm.read (bits (e.w 5) 16 0 + i * bits (e.w 5) 47 32 + b)).toNat
    let eb := (((find core.cimExp macro_).getD []).read (64 * (b % 2) + j)).toNat
    blockStep { rm := s.rm, fz := s.fz } m c p ea eb
  accFold step (.pure c) blocks

/-- One step of MADP's sums under R96, whose group and window depend on whether both formats are FP32. -/
def sumR96 (s : MSample) (full : Bool) (c : Nat) (ps : List FVal) : Acc :=
  let g := if full then 4 else 8
  let w := if full then 64 else 48
  accFold (fun c qs => groupSum { rm := s.rm, fz := s.fz } w (operandF .fp32 s.fz c) qs) (.pure c)
    ((groupsOf g 0 ps.length).map (fun ks => ks.map (fun q => ps.getD q (.num false 0 0))))

/-- MADP's work on row i (R99, R327): the bank and the events. -/
def CoreSt.madpRow (core : CoreSt) (e : MEntry) (s : MSample) (ta tb : LaneType) (b : Bank) (i : Nat) : Bank × Acc :=
  match (core.adapter e i).bind (core.adapterSpans e tb) with
  | none => (b, .pure 0)
  | some (down, up) =>
    let a := e.spanA ta
    let av := fun x => operandF ta s.fz (element (core.space a.space) ta (a.off + i * a.stride) x)
    let at_ := fun (sp : Span) (r j : Nat) =>
      operandF tb s.fz (element (core.space sp.space) tb (sp.off + r * sp.stride) j)
    let full := ta == .fp32 && tb == .fp32
    let hs := (List.range e.rank).map (fun q =>
      sumR96 s full 0 ((List.range e.k).map (fun x => mulF (av x) (at_ down x q))))
    let alpha := operandF .fp32 s.fz (bits (e.w 5) 63 32)
    let scaled := hs.map (fun h =>
      let (v, f) := roundVal .fp32 { rm := s.rm, fz := s.fz } (mulF alpha (operandF .fp32 s.fz h.bits))
      (v, ({ bits := v, nv := h.nv || f.nv, of := h.of || f.of, sat := false } : Acc)))
    let events := scaled.foldl (fun (x : Acc) p => x.also p.2) (.pure 0)
    (List.range e.cols).foldl (fun (p : Bank × Acc) j =>
      let ps := (List.range e.rank).map (fun q =>
        mulF (operandF .fp32 s.fz ((scaled.getD q (0, .pure 0)).1)) (at_ up q j))
      let (b, r) := updateElement .fp32 p.1 (e.row0 + i) (e.col0 + j) (fun c => sumR96 s full c ps)
      (b, Acc.also r p.2)) (b, events)

/-- MLDW's work (R144, R336). -/
def CoreSt.loadWeights (core : CoreSt) (e : MEntry) : CoreSt :=
  let src := core.space (bits (e.w 1) 17 17)
  let row := fun x => bits (e.w 1) 16 0 + x * bits (e.w 1) 47 32
  if bitAt (e.w 4) 0 then
    let m := bits (e.w 2) 3 0
    let cell := fun n => if n / 64 < e.k ∧ n % 64 < e.cols then src.read (row (n / 64) + n % 64) else 0
    let exps := (List.range 128).foldl (fun (x : Memory) n =>
      x.write n (if n % 64 < e.cols then core.lm.read (bits (e.w 5) 16 0 + n / 64 * bits (e.w 5) 47 32 + n % 64) else 0)) []
    let k := core.wbufWrite (4096 * m) ((List.range 4096).map cell)
    { k with cimExp := put k.cimExp m exps, cimLoaded := k.cimLoaded ||| BitVec.ofNat 16 (2 ^ m)
             poison := k.poison.filter (· != .cim m) }
  else
    let bytes := bits (e.w 4) 31 16
    (List.range e.k).foldl (fun (k : CoreSt) x =>
      k.wbufWrite (bits (e.w 2) 15 0 + x * bits (e.w 2) 47 32) (src.bytes (row x) bytes)) core

/-! ### Running the head of the queue (R135, R136) -/

/-- The sampling of R136. -/
def Slot.sample (t : Slot) : MSample :=
  { rm := t.rm, fz := t.fz, fmtA := t.mfmta, fmtB := t.mfmtb, fmtC := t.mfmtc, sclA := t.mscla, sclB := t.msclb }

/-- A record's start by its code; none for an unknown code. -/
def CoreSt.startOf (core : CoreSt) (e : MEntry) (s : MSample) : MStart :=
  match e.fieldsOk with
  | some true =>
    if !e.syncOk then .fault
    else match e.code with
      | 0x01 => .ok 4
      | 0x02 => core.startMldw e
      | 0x12 => core.startMmab e s
      | 0x13 => core.startMadp e s
      | 0x20 => core.startMdrain e s
      | _ => core.startMma e s
  | _ => .fault

/-- The head entry replaced. -/
def CoreSt.setHead (k : CoreSt) (e : MEntry) : CoreSt := { k with mq := e :: k.mq.drop 1 }

/-- A run that has done nothing yet. -/
def newRun (s : MSample) (due work : Nat) : MRun :=
  { sample := s, kDone := 0, finished := false, due, nv := false, of := false, sat := false, empty := false, flags := {}
    work }

/-- The cycles that the k which are left of a command's k take. -/
def MRun.rest (r : MRun) (k : Nat) : Nat := if r.finished then 0 else (r.work * (k - r.kDone) + k - 1) / k

/-- The cycle in which a running command stands at its boundary: what it has done so far takes until then (R202). -/
def MRun.boundary (r : MRun) (k : Nat) : Nat := r.due - r.rest k

/-- The cycles of a command's start, which no k takes (Table 6.5). -/
def startCycles (code : Nat) : Nat := if code = 0x12 then 8 else 12

/-- The head's record fails at its start: it is discarded, and the pushing slot is told (R143). -/
def State.matrixFault (s : State) (c : Nat) (e : MEntry) : State :=
  (s.modCore c (fun k => { k with mq := k.mq.drop 1 })).engineFault c e.slot e.act .matrix (e.w 0)

/-- A command whose operand is poisoned is discarded, and the pushing slot consumes the poison: it is rolled back when
contained, and else traps ECC at its next bundle boundary (R217, R220). The event log tells (R276). -/
def State.matrixPoison (s : State) (c : Nat) (e : MEntry) (v : Word) : State :=
  let s := (s.log evPoison c [v.toNat]).modCore c (fun k => { k with mq := k.mq.drop 1 })
  let t := s.slot c e.slot
  if t.active && t.act == e.act && s.contained c e.slot then s.rollback c e.slot
  else s.engineFault c e.slot e.act .ecc v

/-- The running command has added to its events. -/
def MRun.record (r : MRun) (a : Acc) : MRun := { r with nv := r.nv || a.nv, of := r.of || a.of, sat := r.sat || a.sat }

/-- The next chunk of 64 k of an accumulating command. -/
def CoreSt.chunk (core : CoreSt) (e : MEntry) (r : MRun) (kind : BankKind) (f : Nat → Nat → Nat → Nat → Nat → Acc) :
    CoreSt :=
  let hi := min e.k (r.kDone + 64)
  let (b, a) := updateTile e kind (core.working e.acc) (f r.kDone hi)
  let r := { r.record a with kDone := hi, finished := decide (e.k ≤ hi) }
  (core.setWorking e.acc b).setHead { e with run := some r }

/-- One piece of a started command's work. -/
def CoreSt.work (core : CoreSt) (e : MEntry) (r : MRun) : CoreSt :=
  let s := r.sample
  let done := fun (k : CoreSt) (r : MRun) => k.setHead { e with run := some { r with finished := true } }
  match e.code with
  | 0x01 => done (core.setWorking e.acc emptyBank) r
  | 0x02 => done (core.loadWeights e) r
  | 0x12 => core.chunk e r .fp32 (fun lo hi i j c => core.mmabElement e s lo hi i j c)
  | 0x13 =>
    match fmtOf s.fmtA, fmtOf s.fmtB with
    | some (ta, _), some (tb, _) =>
      let (b, a) := (List.range e.rows).foldl (fun (p : Bank × Acc) i =>
        let (b, x) := core.madpRow e s ta tb p.1 i
        (b, Acc.also x p.2)) ({ core.working e.acc with kind := .fp32 }, .pure 0)
      done (core.setWorking e.acc b) (r.record a)
    | _, _ => done core r
  | 0x20 =>
    let (k, f) := core.drain e s
    done k { r with flags := r.flags.or f }
  | _ =>
    if core.liveCount e = 0 ∧ r.kDone = 0 then done core { r with empty := true }
    else match pairing s.fmtA s.fmtB with
      | some p => core.chunk e r p.cls.kind (fun lo hi i j c => core.mmaElement e s p lo hi i j c)
      | none => done core r

/-- The zero bit clears the working bank and its status at the start (Table 6.3). -/
def CoreSt.clearFirst (core : CoreSt) (e : MEntry) : CoreSt :=
  if e.zero then core.setWorking e.acc emptyBank else core

/-- The pieces of the head command's work whose time has come: the next 64 k when the time of those before is over. -/
def CoreSt.workOn (core : CoreSt) (now : Nat) : Nat → CoreSt
  | 0 => core
  | n + 1 => match core.mq with
    | e :: _ => match e.run with
      | some r => if r.finished || decide (now < r.boundary e.k) then core else (core.work e r).workOn now n
      | none => core
    | [] => core

/-- The sequencer of a core starts the head record of a command, or goes on with it. -/
def State.runMatrix (s : State) (c code : Nat) : State :=
  let core := s.core c
  match core.mq with
  | e :: _ =>
    if e.marker.isSome || e.code != code || !core.works then s
    else match e.run with
      | some _ => s.setCore c (core.workOn s.cycle (e.k / 64 + 1))
      | none =>
        if e.bad then s.matrixPoison c e 0xE000000500000000
        else
          let sm := (core.slot e.slot).sample
          match core.startOf e sm with
          | .fault => s.matrixFault c e
          | .poison v => s.matrixPoison c e v
          | .ok cycles =>
            let r := newRun sm (s.cycle + cycles) (cycles - startCycles e.code)
            s.setCore c (((core.clearFirst e).work e r).workOn s.cycle (e.k / 64))
  | [] => s

/-- The events of a run that has finished, or is stopped at a 64-k boundary, enter the working bank's status; MDRAIN's
none (R101, R332). -/
def CoreSt.recordEvents (core : CoreSt) (e : MEntry) (r : MRun) : CoreSt :=
  if e.code = 0x20 ∨ e.code = 0x02 then core
  else
    let b := core.working e.acc
    core.setWorking e.acc { b with
      nv := b.nv || r.nv, of := b.of || r.of, sat := b.sat || r.sat, empty := b.empty || r.empty }

/-- The finished head command completes (R101, R139, R102); a record of an unknown code is discarded (R143). -/
def State.completeMatrix (s : State) (c : Nat) : State :=
  match (s.core c).mq with
  | e :: _ =>
    match e.run with
    | some r =>
      if r.finished && decide (r.due ≤ s.cycle) then
        let s := s.modCore c (fun k => { k.recordEvents e r with mq := k.mq.drop 1 })
        let s := s.engineFlags c e.slot e.act r.flags
        if e.raises then s.raise c (16 * e.sw) 1 else s
      else s
    | none => if e.marker.isNone && e.fieldsOk.isNone then s.matrixFault c e else s
  | [] => s

/-- An MSWAP marker at the head exchanges the banks with their statuses, and its MSWAP retires if it still waits
(R101, R137, R340). -/
def State.runMarker (s : State) (c : Nat) : State :=
  match (s.core c).mq with
  | e :: _ => match e.marker with
    | some acc =>
      let s := s.modCore c (fun k =>
        let k := { k with mq := k.mq.drop 1 }
        if acc then { k with acc1w := k.acc1v, acc1v := k.acc1w } else { k with acc0w := k.acc0v, acc0v := k.acc0w })
      let t := s.slot c e.slot
      if t.active && t.act == e.act && (match t.wait with | .mswap _ => true | _ => false) then
        (s.modSlot c e.slot (fun t => { t with mswapPending := false })).completeWait c e.slot
      else s
    | none => s
  | [] => s

/-! ### The meanings -/

/-- MZERO (R343). -/
def execMzero (c : Nat) (s : State) : Host.Outcome State Fault Refusal := .next (s.runMatrix c 0x01)

/-- MLDW (R336). -/
def execMldw (c : Nat) (s : State) : Host.Outcome State Fault Refusal := .next (s.runMatrix c 0x02)

/-- MMA (R337). -/
def execMma (c : Nat) (s : State) : Host.Outcome State Fault Refusal := .next (s.runMatrix c 0x10)

/-- MMAS (R337). -/
def execMmas (c : Nat) (s : State) : Host.Outcome State Fault Refusal := .next (s.runMatrix c 0x11)

/-- MMAB (R339). -/
def execMmab (c : Nat) (s : State) : Host.Outcome State Fault Refusal := .next (s.runMatrix c 0x12)

/-- MADP (R326). -/
def execMadp (c : Nat) (s : State) : Host.Outcome State Fault Refusal := .next (s.runMatrix c 0x13)

/-- MDRAIN (R332). -/
def execMdrain (c : Nat) (s : State) : Host.Outcome State Fault Refusal := .next (s.runMatrix c 0x20)

/-- MATRIX_COMMAND_COMPLETE (R101, R135). -/
def execMatrixCommandComplete (c : Nat) (s : State) : Host.Outcome State Fault Refusal := .next (s.completeMatrix c)

/-- MSWAP_MARKER (R137). -/
def execMswapMarker (c : Nat) (s : State) : Host.Outcome State Fault Refusal := .next (s.runMarker c)

end Sys2Proof.Machine
end

