-- ==== Sys2Proof/Machine/Events.lean ====
section
/-!
DEFINITION. The events of a core that are not a word: held traps (09_traps R199), the watchdog (R212 to R214), the ends
of blocking waits (08_scheduling R195), the filling of slots (02_execution R28 to R31, R256), load levelling (R47), and
uncorrectable errors (R217).
-/
namespace Sys2Proof.Machine

/-! ### Traps that were held -/

/-- A slot in this wait stands at a bundle boundary: its bundle is abandoned and issues again (R196). -/
def Wait.abandonable : Wait → Bool
  | .none | .chrd .. | .swwait .. | .waitev _ | .barrier _ | .mswap _ | .mwait _ | .stall | .full _ | .port | .tend
  | .list _ | .hostFence => true
  | _ => false

/-- The slot stands at a bundle boundary; a committing transaction ends first (R179). -/
def Slot.atBoundary (t : Slot) : Bool :=
  t.wait.abandonable && !((t.txn.map Txn.committing).getD false)

/-- A TKSEND that is abandoned before its list has left has not issued (R196, R269). -/
def State.unissued (s : State) (c i : Nat) : State :=
  match (s.slot c i).wait, (s.core c).launch with
  | .list m, some l => s.modLaunch l (fun x => x.unissue m)
  | _, _ => s

/-- A blocked bundle is abandoned (R196). -/
def State.leaveWait (s : State) (c i : Nat) : State :=
  ((s.unissued c i).modCore c (fun k => { k with chrdWaiters := k.chrdWaiters.filter (fun w => w.1 != i) })).modSlot c i
    (fun t => { t with wait := .none })

/-- The held trap of the lowest cause code (R199). -/
def lowestTrap : List (Cause × Word) → Option (Cause × Word)
  | [] => none
  | p :: r => match lowestTrap r with
    | some q => if q.1.code < p.1.code then some q else some p
    | none => some p

/-- The lowest held trap is taken at a bundle boundary with H = 0; an open transaction aborts with PREEMPT first
(R173, R197, R199). -/
def State.takeHeld (s : State) (c i : Nat) : State :=
  let t := s.slot c i
  if !t.active || t.h || !t.atBoundary || s.parting c i then s
  else match lowestTrap t.heldTraps with
    | none => s
    | some (cause, v) =>
      let s := (s.leaveWait c i).modSlot c i (fun t => { t with heldTraps := t.heldTraps.erase (cause, v) })
      let s := if t.txn.isSome then s.abortTxn c i .preempt 0 else s
      s.takeTrap c i cause v (s.slot c i).pc

/-- The watchdog limit of a class in cycles (R214). -/
def watchLimit (cls : Nat) : Option Nat :=
  if cls = 0 then some (2 ^ 30) else if cls ≤ 47 then some (2 ^ (cls + 16)) else none

/-- The watchdog limit of a core's launch. -/
def State.limitOf (s : State) (c : Nat) : Option Nat := (s.launchOf c).bind (fun l => watchLimit l.wdogClass)

/-- WATCH of a slot has reached the limit (R214). -/
def State.watchReached (s : State) (c i : Nat) : Bool :=
  (s.slot c i).active && (match s.limitOf c with
    | some n => decide (n ≤ (s.slot c i).watch)
    | none => false)

/-- The watchdog fires: the first time it raises WDOG; the second time, or with no handler, the launch ends HUNG
(R214). -/
def State.watchdog (s : State) (c i : Nat) : State :=
  if !s.watchReached c i then s
  else
    let t := s.slot c i
    if t.wdogFired || (s.core c).tvec == 0 then
      (s.log evHung c [i]).endLaunchOf c .hung Cause.wdog.code
    else
      (s.modSlot c i (fun t => { t with wdogFired := true, watch := 0 })).raiseAsync c i .wdog
        (BitVec.ofNat 64 ((s.limitOf c).getD 0))

/-! ### The ends of waits (R195) -/

/-- The state with a slot as the one that acts. -/
def State.actAs (s : State) (c i : Nat) : State := { s with cur := (c, i) }

/-- SWWAIT returns once the generation has moved: a DOMAIN acquire, and the new generation (R116, R365). -/
def State.swwaitEnd (s : State) (c i : Nat) : State :=
  match (s.slot c i).wait with
  | .swwait a off g =>
    let now := generationLm (s.core c).lm off
    if now = g ∨ s.coreRuns c = false then s
    else if (s.core c).lmBad (off + 8) 4 then s.consumePoison c i (lmAddr off)
    else (((s.actAs c i).acquire .domain).setX a (zext now)).completeWait c i
  | _ => s

/-- WAITEV returns once the doubleword is not 0, or a write has left it so (R398). -/
def State.waitevEnd (s : State) (c i : Nat) : State :=
  match (s.slot c i).wait with
  | .waitev off =>
    if ((s.core c).lm.word off = 0 ∧ (s.core c).evSeen.contains i = false) ∨ s.coreRuns c = false then s
    else ((s.actAs c i).modCore c (fun k => { k with evSeen := k.evSeen.filter (· != i) })).completeWait c i
  | _ => s

/-- The slot that a channel's next word goes to: the first that blocked, of those that may pop (R31, R33). -/
def CoreSt.nextReader (k : CoreSt) (ch : Nat) : Option Nat :=
  (k.chrdWaiters.find? (fun w => w.2 == ch && k.canPop w.1 ch)).map Prod.fst

/-- A blocked CHRD pops its word (R33, R301). -/
def State.chrdEnd (s : State) (c i : Nat) : State :=
  match (s.slot c i).wait with
  | .chrd d ch =>
    if (s.core c).nextReader ch ≠ some i ∨ s.coreRuns c = false then s
    else
      let s := (s.actAs c i).leaveWait c i
      s.finishC (s.popRes d ch)
  | _ => s

/-- The word that a stalled bundle's operation stands in goes on: it is executed anew from the operands it read (log 1). -/
def State.resume (s : State) (c i : Nat) : State :=
  match decodeWord (s.slot c i).bundle.word with
  | .ok (_, w) => { s.actAs c i with agenda := w :: s.agenda }
  | .error _ => s

/-- A bundle that waited for a link port or a stream reads its operands and executes (R67, R195). -/
def State.portEnd (s : State) (c i : Nat) : State :=
  let t := s.slot c i
  let index := match s.loopIndex c i with
    | .found n => n
    | .ask .. => none
  let f := classify t.pc t.bundle.word t.bundle.word2
  match ((s.actAs c i).modSlot c i (fun t => { t with wait := .none })).issueWords c i f index with
  | .done s => s
  | .one s w => { s with agenda := w :: s.agenda }
  | .two s w a => { s with agenda := a :: w :: s.agenda }

/-! ### Activations (R28 to R31) -/

/-- A source of activations: the batch queue, the arrival queue, or a channel. -/
inductive Origin where
  | batch
  | arrival
  | channel (n : Nat)
  deriving DecidableEq, Repr

/-- The place of a source in the cyclic order of R28. -/
def Origin.order : Origin → Nat
  | .batch => 0
  | .arrival => 1
  | .channel n => n + 2

/-- Every source, in order. -/
def origins : List Origin := .batch :: .arrival :: (List.range 64).map Origin.channel

/-- The channel whose entry gives a source its priority (R28). -/
def Origin.entry : Origin → Nat
  | .channel n => n
  | _ => 0

/-- The words of a channel that no activation has claimed (R31). -/
def CoreSt.unclaimed (k : CoreSt) (ch : Nat) : Nat :=
  (k.words ch).length - ((List.range 4).map (fun i =>
    if (k.slot i).active ∧ (k.slot i).chan = ch then (k.slot i).claim else 0)).sum

/-- The handler of a channel is runnable (R31). -/
def CoreSt.runnable (k : CoreSt) (ch : Nat) : Bool :=
  match k.handler ch with
  | some h => h.valid && !h.mask && decide (h.threshold ≤ k.unclaimed ch) &&
      (h.multi || k.slots.toList.all (fun (t : Slot) => !(t.active && t.chan == ch)))
  | none => false

/-- A source can start an activation. -/
def CoreSt.offers (k : CoreSt) : Origin → Bool
  | .batch => k.batches.any Batch.offers
  | .arrival => k.arrival.any (fun q => q.slot.isNone)
  | .channel n => k.runnable n

/-- The priority of a source. -/
def CoreSt.originPrio (k : CoreSt) (o : Origin) : Nat := ((k.handler o.entry).map Handler.prio).getD 0

/-- The source that fills the next slot: the highest priority, and round-robin among equals (R28). DESIGN CHOICE, log
45: where the turn starts at a priority that has served none. -/
def CoreSt.nextOrigin (k : CoreSt) : Option Origin :=
  let able := origins.filter k.offers
  let best := (able.map k.originPrio).foldl max 0
  let top := able.filter (fun o => k.originPrio o == best)
  let start := match find k.rrFill best with
    | some n => n + 1
    | none => 0
  (top.find? (fun o => decide (start ≤ o.order))).orElse (fun _ => top.head?)

/-- The lowest-numbered free slot (R28). -/
def CoreSt.freeSlot (k : CoreSt) : Option Nat := (List.range 4).find? (fun i => !(k.slot i).active)

/-- The core may fill a slot now: it works on a running launch and belongs to no caravan (R202, R256). -/
def State.mayFill (s : State) (c : Nat) : Bool :=
  s.coreRuns c && (s.core c).caravan.isNone && (s.core c).freeSlot.isSome && (s.core c).nextOrigin.isSome

/-! ### Grants of caravans (R249, R250) -/

/-- A core is eligible for the caravan of a slot of core c: among the rest, no slot fill of it is decided in the grant
cycle (R249). -/
def State.cvEligible (s : State) (c n : Nat) : Bool :=
  let k := s.core n
  k.launch == (s.core c).launch && k.launch.isSome && k.slots.toList.all (fun t => !t.active) && k.caravan.isNone &&
  k.works && !s.mayFill n

/-- The grant of R249: the members besides the anchor core. -/
def State.cvGrant (s : State) (c i mask : Nat) : List Nat :=
  let named := ((List.range 16).filter (fun p => mask / 2 ^ p % 2 == 1)).map (groupCore c)
  let able := named.filter (s.cvEligible c)
  let alone := (List.range 4).all (fun j => j == i || !(s.slot c j).active)
  let size := min 8 (2 ^ Nat.log2 (1 + able.length))
  if alone && (s.core c).caravan.isNone then able.take (size - 1) else []

/-- CVMASK of the caravan of a slot (Table 11.2). -/
def State.cvMask (s : State) (c i : Nat) : Word :=
  let members := (List.range 16).filter (fun p => (s.core (groupCore c p)).caravan == some ⟨c, i⟩)
  BitVec.ofNat 64 (groupPos c * 2 ^ 16 + (members.map (fun p => 2 ^ p)).sum)

/-- COMPOSE goes on: the grant in the cycle after issue, and retirement 40 or 4 cycles after the grant (R249, R250). -/
def State.composeStep (s : State) (c i : Nat) (d : Reg) (mask : Nat) (grant : Option (Nat × Nat)) : State :=
  match grant with
  | none =>
    if s.cycle ≤ (s.slot c i).lastIssue then s
    else
      let members := s.cvGrant c i mask
      let size := members.length + 1
      let join := fun (s : State) n => s.modCore n (fun k => { k with caravan := some ⟨c, i⟩ })
      let s := if members = [] then s else (c :: members).foldl join s
      let due := s.cycle + (if 1 < size then 40 else 4)
      s.modSlot c i (fun t => { t with wait := .compose d mask (some (size, due)) })
  | some (size, due) =>
    if s.cycle < due then s
    else
      let s := { s with cur := (c, i) }
      let s := if 1 < size then s.modSlot c i (fun t => { t with cvsize := size, cvmask := s.cvMask c i }) else s
      (s.setX d (BitVec.ofNat 64 size)).completeWait c i

/-! ### Stalled bundles (R195) -/

/-- A wait that goes on while its core stops: what a pre-emption waits for (R202, R259, R290). -/
def State.stopEnd (s : State) (c i : Nat) : State :=
  match (s.slot c i).wait with
  | .handBack due => if s.cycle < due then s else (s.handedBack c i).resume c i
  | .parted due => if s.cycle < due then s else s.handedBack c i
  | .asinv asid sent =>
    if !sent then s.resume c i
    else
      let s := (s.actAs c i).drainAsid asid
      if s.translatedOpen asid then s else s.completeWait c i
  | _ => s

/-- STALL_RELEASE: a stalled bundle's condition is looked at; when it holds, the bundle retires (R195). -/
def State.stallEnd (s : State) (c i : Nat) : State :=
  if !s.coreRuns c then s.stopEnd c i
  else match (s.slot c i).wait with
    | .port => s.portEnd c i
    | .stall | .full _ | .leaving => s.resume c i
    | .mwait n => if (s.core c).doneUpTo n then (s.actAs c i).completeWait c i else s
    | .mswap _ =>
      if (s.core c).markerWaits i (s.slot c i).act then s
      else ((s.actAs c i).modSlot c i (fun t => { t with mswapPending := false })).completeWait c i
    | .barrier sc =>
      let s := s.actAs c i
      match s.barAwait sc (spaceOf s.pkg s.me.barAddr) with
      | .ok (.go t) => t.completeWait c i
      | _ => s
    | .compose d m g => s.composeStep c i d m g
    | .list m => if s.niTurn c i m.dst then (((s.actAs c i).post c m).modMe Slot.progress).completeWait c i else s
    | _ => s.stopEnd c i

/-! ### The start of an activation (R29, R30) -/

/-- Registers from x10 on, and the stack pointer (R29, R30). -/
def startX (l : Launch) (i : Nat) (xs : List Word) : Vector Word 32 :=
  let v := (List.range xs.length).foldl (fun (v : Vector Word 32) n =>
    v.set ((10 + n) % 32) (xs.getD n 0) (Nat.mod_lt _ (by decide))) (Vector.replicate 32 0)
  v.set 2 (BitVec.ofNat 64 (0xF000000000000000 + 0x1F000 - i * l.stack))

/-- Every pending element of the streams of a slot is written: bindings survive END, and the next activation starts with
none (R133). -/
def State.flushStreams (s : State) (c i : Nat) : State :=
  ((s.slot c i).streams.map Prod.fst).foldl (fun s r => s.streamFlush c i r (s.streamPending c i r)) s

/-- ActivationStart (R29): the start values of Table 3.12, and what the source gives. The registers that the matrix
sequencer samples keep their values while older commands of the slot have not started (R136). The 4,096 cycles of R195
count from this start (DESIGN CHOICE, log 53). -/
def State.begin (s : State) (c i : Nat) (chan : Nat) (source : Source) (parent : Option Place) (claim : Nat) (pc : Word)
    (xs : List Word) (wid : Word) : State :=
  let s := s.flushStreams c i
  let k := s.core c
  let old := k.slot i
  let seed := BitVec.ofNat 64 (k.origin * 4 + i)
  match s.launchOf c with
  | none => s
  | some l =>
    let t : Slot := { idleSlot with
      active := true, act := s.serial, chan, source, parent, claim, x := startX l i xs, pc, wid, srseed := seed
      gen := if seed = 0 then idleSlot.gen else seed, lastIssue := s.cycle, notBefore := s.cycle
      hostLinks := old.hostLinks }
    let t := if k.unstarted i then
        { t with resetPending := true, rm := old.rm, fz := old.fz, mfmta := old.mfmta, mfmtb := old.mfmtb
                 mfmtc := old.mfmtc, mscla := old.mscla, msclb := old.msclb }
      else t
    { s with serial := s.serial + 1 }.setSlot c i t

/-- The oldest item of a batch with its redelivery count, and the batch without it (R27). -/
def Batch.next (b : Batch) : (Nat × Nat) × Batch :=
  match b.back with
  | p :: r => (p, { b with back := r })
  | [] => ((b.first, 0), { b with first := b.first + 1, left := b.left - 1 })

/-- The oldest item of a batch queue, and the queue without it: a batch leaves with its last item, unless that runs
contained (R27, R219). -/
def nextItem (contained : Bool) : List Batch → Option ((Nat × Nat) × List Batch)
  | [] => none
  | b :: r =>
    if b.offers then
      let (p, b) := b.next
      let b := if contained then { b with held := b.held ++ [p.1] } else b
      some (p, if b.stands then b :: r else r)
    else (nextItem contained r).map (fun x => (x.1, b :: x.2))

/-- The start of the oldest work item (R27, R29). -/
def State.startItem (s : State) (c i : Nat) (l : Launch) : State :=
  match nextItem ((s.core c).containedAt 0) (s.core c).batches with
  | some ((id, tries), batches) =>
    (s.modCore c (fun k => { k with batches })).begin c i 0 (.item id tries) none 0 l.entry
      [BitVec.ofNat 64 id, l.args] (BitVec.ofNat 64 id)
  | none => s

/-- PC, registers, WID and parent that a message gives its activation (Table 2.6). -/
def arrivalStart (m : Msg) : Word × List Word × Word × Option Place :=
  match m.body with
  | .spawn pc xs wid _ => (pc, xs, wid, some m.src)
  | .migrate pc xs wid => (pc, xs, wid, none)
  | .call pc xs wid token => (pc, xs ++ [token], wid, none)
  | _ => (0, [], 0, none)

/-- The start of the oldest arrival; one that is poisoned is consumed as it starts (R217, Table 9.5). -/
def State.startArrival (s : State) (c i : Nat) : State :=
  let queue := (s.core c).arrival
  match queue.findIdx? (fun q => q.slot.isNone) with
  | some n => match queue[n]? with
    | some q =>
      let (pc, xs, wid, parent) := arrivalStart q.msg
      let s := s.modCore c (fun k => { k with
        arrival := if k.containedAt 0 then modifyNth queue n (fun q => { q with slot := some i }) else queue.eraseIdx n })
      let s := (s.begin c i 0 .arrival parent 0 pc xs wid).modCore c CoreSt.settle
      if q.bad then
        (s.modSlot c i (fun t => { t with bundle := { emptyBundle with here := pc } })).consumePoison c i
          (BitVec.ofNat 64 (0xE000000300000000 + n))
      else s
    | none => s
  | none => s

/-- CHANNEL_FIRE: a handler starts and claims its threshold's words (R29, R31). -/
def State.fire (s : State) (c i ch : Nat) (l : Launch) : State :=
  match (s.core c).handler ch with
  | some h =>
    s.begin c i ch (.channel h.threshold) none h.threshold (l.entry + sext h.offset)
      [BitVec.ofNat 64 ch, l.args, BitVec.ofNat 64 ((s.core c).unclaimed ch)] 0
  | none => s

/-- SLOT_FILL: the next source starts an activation in the lowest free slot (R28). -/
def State.fill (s : State) (c : Nat) : State :=
  if !s.mayFill c then s
  else match (s.core c).freeSlot, (s.core c).nextOrigin, s.launchOf c with
    | some i, some o, some l =>
      let p := (s.core c).originPrio o
      let s := s.modCore c (fun k => { k with rrFill := put k.rrFill p o.order })
      match o with
      | .batch => s.startItem c i l
      | .arrival => s.startArrival c i
      | .channel n => s.fire c i n l
    | _, _, _ => s

/-! ### Load levelling (R47) -/

/-- A SPAWNQ child that has not started. -/
def movable (q : QMsg) : Bool :=
  q.slot.isNone && match q.msg.body with
  | .spawn _ _ _ queued => queued
  | _ => false

/-- The load of a core. -/
def CoreSt.load (k : CoreSt) : Nat :=
  k.batches.length + (k.arrival.filter movable).length + (k.oasis.filter movable).length

/-- The neighbours that take part, as sites, in the order west, east, north, south. -/
def State.peers (s : State) (c : Nat) : List Nat := (List.range 4).filterMap (s.portSite c)

/-- The peer of least load, the first of several. -/
def State.leastPeer (s : State) : List Nat → Option Nat
  | [] => none
  | n :: r => match s.leastPeer r with
    | some m => if (s.core m).load < (s.core n).load then some m else some n
    | none => some n

/-- A shipped child joins the neighbour (R47 step 5). -/
def CoreSt.join (k : CoreSt) (q : QMsg) : CoreSt :=
  if k.arrivalUsed < 16 ∧ k.oasis = [] then { k with arrival := k.arrival ++ [q] } else { k with oasis := k.oasis ++ [q] }

/-- The neighbour could take a shipped child. -/
def CoreSt.couldJoin (k : CoreSt) : Bool :=
  (decide (k.arrivalUsed < 16) && k.oasis.isEmpty) || decide (k.oasis.length < Config.oasisCommon)

/-- The last movable entry of a queue, and the queue without it. -/
def lastMovable (l : List QMsg) : Option (QMsg × List QMsg) :=
  match l.reverse.find? movable with
  | some q => some (q, (l.reverse.erase q).reverse)
  | none => none

/-- The newest SPAWNQ child of a core and the core without it: the oasis is newer than the arrival queue. -/
def CoreSt.newestChild (k : CoreSt) : Option (QMsg × CoreSt) :=
  match lastMovable k.oasis with
  | some (q, r) => some (q, { k with oasis := r })
  | none => match lastMovable k.arrival with
    | some (q, r) => some (q, { k with arrival := r })
    | none => none

/-- n children move from a core to a neighbour, newest first, as far as the neighbour can take them. -/
def State.shipChildren (s : State) (c d : Nat) : Nat → State
  | 0 => s
  | n + 1 => match (s.core c).newestChild with
    | some (q, k) =>
      if (s.core d).couldJoin then
        (((s.logMoved c (if q.bad then [0xE000000300000000] else [])).setCore c k).modCore d (fun x => x.join q)).shipChildren c d n
      else s
    | none => s

/-- n batches move, newest first, as far as the neighbour's queue has room (R27); one whose contained items run stays
(R219). -/
def State.shipBatches (s : State) (c d : Nat) : Nat → State
  | 0 => s
  | n + 1 =>
    let k := s.core c
    match k.batches.getLast? with
    | some b =>
      if (s.core d).batches.length < 4 ∧ b.held = [] then
        ((s.setCore c { k with batches := k.batches.dropLast }).modCore d (fun x =>
          { x with batches := x.batches ++ [b] })).shipBatches c d n
      else s
    | none => s

/-- LOAD_LEVEL of a core that holds a context (R47). -/
def State.level (s : State) (c : Nat) : State :=
  let k := s.core c
  if k.launch.isNone || !k.works then s
  else match s.leastPeer (s.peers c) with
    | none => s
    | some d =>
      let low := (s.core d).load
      if low + 1 < k.load then
        let n := min 8 ((k.load - low) / 2)
        let b := min n k.batches.length
        ((s.shipBatches c d b).shipChildren c d (n - b)).modCore c CoreSt.settle
      else s

/-! ### Uncorrectable errors (R217) -/

/-- A poisoned word of a list. -/
def poisonWord (l : List FifoWord) (n : Nat) : List FifoWord :=
  modifyNth l n (fun w => { w with word := { w.word with poison := true } })

/-- The data that an upset strikes becomes poisoned; a speculative tile's transaction aborts with ECC (Table 7.7). -/
def State.strike (s : State) : Upset → State
  | .device pa => { s with memPoison := s.memPoison ++ [pa % 2 ^ 42 / 8] }
  | .lm c off => s.modCore c (fun k => { k with poison := k.poison ++ [.lm (off / 8)] })
  | .abuf c off => s.modCore c (fun k => { k with poison := k.poison ++ [.abuf (off / 8)] })
  | .wbuf c off => s.modCore c (fun k => { k with poison := k.poison ++ [.wbuf (off / 8)] })
  | .cbank c acc visible off =>
    let hit := fun (b : Bank) => { b with bad := b.bad ++ [off / 8] }
    s.modCore c (fun k => match acc, visible with
      | false, false => { k with acc0w := hit k.acc0w }
      | false, true => { k with acc0v := hit k.acc0v }
      | true, false => { k with acc1w := hit k.acc1w }
      | true, true => { k with acc1v := hit k.acc1v })
  | .x c i r => s.modSlot c i (fun t => { t with poisonX := if r = 0 then t.poisonX else t.poisonX ++ [r] })
  | .v c i r => s.modSlot c i (fun t => { t with poisonV := t.poisonV ++ [r] })
  | .arrival c e => s.modCore c (fun k => { k with arrival := modifyNth k.arrival e (fun q => { q with bad := true }) })
  | .fifo c ch w => s.modCore c (fun k => { k with fifos := put k.fifos ch (poisonWord (listOf k.fifos ch) w) })
  | .matrix c e => s.modCore c (fun k => { k with mq := modifyNth k.mq e (fun m => { m with bad := true }) })
  | .cim c tile => s.modCore c (fun k => { k with poison := k.poison ++ [.cim tile] })
  | .speculative c i => if (s.slot c i).aborts then s.abortTxn c i .ecc 0 else s

/-! ### The meanings -/

/-- TAKE_TRAP (R199). -/
def execTakeTrap (c i : Nat) (s : State) : Host.Outcome State Fault Refusal := .next (s.takeHeld c i)

/-- WATCHDOG_FIRE (R214). -/
def execWatchdogFire (c i : Nat) (s : State) : Host.Outcome State Fault Refusal := .next (s.watchdog c i)

/-- SWWAIT_RETURN (R116). -/
def execSwwaitReturn (c i : Nat) (s : State) : Host.Outcome State Fault Refusal := .next (s.swwaitEnd c i)

/-- WAITEV_RETURN (R398). -/
def execWaitevReturn (c i : Nat) (s : State) : Host.Outcome State Fault Refusal := .next (s.waitevEnd c i)

/-- CHRD_WAKE (R33). -/
def execChrdWake (c i : Nat) (s : State) : Host.Outcome State Fault Refusal := .next (s.chrdEnd c i)

/-- STALL_RELEASE (R195). -/
def execStallRelease (c i : Nat) (s : State) : Host.Outcome State Fault Refusal := .next (s.stallEnd c i)

/-- SLOT_FILL (R28). -/
def execSlotFill (c : Nat) (s : State) : Host.Outcome State Fault Refusal := .next (s.fill c)

/-- LOAD_LEVEL (R47). -/
def execLoadLevel (c : Nat) (s : State) : Host.Outcome State Fault Refusal := .next (s.level c)

/-- UNCORRECTABLE_ERROR (R217). -/
def execUncorrectableError (u : Upset) (s : State) : Host.Outcome State Fault Refusal := .next (s.strike u)

end Sys2Proof.Machine
end

