-- ==== Sys2Proof/Machine/Network.lean ====
section
/-!
DEFINITION. The events of the network (02_execution R36 to R46, 05_memory R111, R112, 07_ordering R161, 09_traps R203,
R210, 10_fabric R221 to R223): a message in flight reaches its destination. A message that must wait stays where it is.
-/
namespace Sys2Proof.Machine

/-! ### Order -/

/-- A message that a slot sent itself, not one of its engines. -/
def bySlot : MsgBody → Bool
  | .access _ _ (.gather ..) | .access _ _ (.scatter ..) | .access _ _ (.copyRead ..) | .access _ _ (.copyWrite ..) => false
  | .globalAccess _ _ (.copyRead ..) | .globalAccess _ _ (.copyWrite ..) => false
  | _ => true

/-- Two messages have the same queue as destination (R38). -/
def sameQueue (a b : MsgBody) : Bool := isMessage a && isMessage b && fifoOf a == fifoOf b

/-- An older message a keeps b from being delivered: the network keeps the order from core to core (R221); a message
that its sending NI retries keeps back what R38 and R161 put behind it. -/
def keepsBack (a b : Msg) : Bool :=
  a.key == b.key && a.src == b.src && a.dst == b.dst && isResponse a.body == isResponse b.body &&
  (!a.retried || sameQueue a.body b.body || (a.slot == b.slot && bySlot a.body && bySlot b.body))

/-- The die that a message has to come to: the one where its I/O die attaches, for one that leaves the package; the home's,
for an access to global memory or a multicast's line; that of its destination's context, else of the place it names (R120,
R223, R225). -/
def State.ringGoal (s : State) (m : Msg) : Nat :=
  if s.outgoing m then attachOf (dieOf m.site)
  else match m.body with
    | .globalAccess _ off _ => off / 4096 % 8
    | .mcast g off .. => s.windowAt g off / 4096 % 8
    | _ => dieOf ((s.destSite m).getD m.dst.lcn)

/-- A message stands at the ring interface of the die it has to come to (R223). -/
def State.arrived (s : State) (m : Msg) : Bool := m.ring == s.ringGoal m

/-- The k-th message in flight may be delivered now: it does not leave the package, it has arrived, and nothing older keeps it
back. -/
def State.inOrder (s : State) (k : Nat) (m : Msg) : Bool :=
  !s.outgoing m && s.arrived m && !(s.net.take k).any (fun a => keepsBack a m)

/-- The messages that have come to their I/O die leave, oldest first and in order, as far as its retry buffer has room (R221,
R229); the others stay. -/
def State.sendFrom (s : State) (kept : List Msg) : List Msg → State
  | [] => { s with net := kept ++ s.net }
  | m :: r =>
    if s.outgoing m && s.arrived m && s.fab.retryRoom (ioDie (dieOf m.site)) && !kept.any (fun a => keepsBack a m) then
      (s.leave m).sendFrom kept r
    else s.sendFrom (kept ++ [m]) r

/-- The messages that leave the package in a cycle. -/
def State.sendOut (s : State) : State := if s.net.any s.outgoing then { s with net := [] }.sendFrom [] s.net else s

/-- The launch that a message belongs to, if it is unfinished: by key, or by ASID for a message from another package
(R24, R111). -/
def State.launchFor (s : State) (m : Msg) : Option Nat :=
  if m.src.pkg = s.pkg then (find s.launches m.key).map (fun _ => m.key)
  else (s.launches.find? (fun (l : Nat × Launch) =>
    l.2.asid == m.key && (find l.2.places m.dst.lcn).isSome)).map Prod.fst

/-- The event that takes on a message in flight, when the k-th has left before it: the places behind move up. -/
def Instr.afterMsg (k : Nat) (i : Instr) : Instr :=
  let at_ := fun (n : Nat) => if k < n then n - 1 else n
  match i with
  | .dataMessage n => .dataMessage (at_ n)
  | .spawnMessage n => .spawnMessage (at_ n)
  | .migrateMessage n => .migrateMessage (at_ n)
  | .callMessage n => .callMessage (at_ n)
  | .replyMessage n => .replyMessage (at_ n)
  | .niRetry n => .niRetry (at_ n)
  | .spawnAsk n => .spawnAsk (at_ n)
  | .spawnAnswer n => .spawnAnswer (at_ n)
  | .childEndReport n => .childEndReport (at_ n)
  | .remoteAccess n => .remoteAccess (at_ n)
  | .remoteResponse n => .remoteResponse (at_ n)
  | .gatherReply n => .gatherReply (at_ n)
  | .scatterDelivery n => .scatterDelivery (at_ n)
  | .wakeAnswer n => .wakeAnswer (at_ n)
  | .escapeChannelMove n => .escapeChannelMove (at_ n)
  | .forwarding n => .forwarding (at_ n)
  | i => i

/-- The message leaves the network, and the events that are due follow the messages behind it. -/
def State.dropMsg (s : State) (k : Nat) : State :=
  { s with net := s.net.eraseIdx k, agenda := s.agenda.map (Instr.afterMsg k) }

/-- The core that takes a message now: none while its context is saved or moving (R203). -/
def State.takerOf (s : State) (m : Msg) : Option Nat := s.destSite m

/-! ### Messages to queues (R36 to R41) -/

/-- A message enters its destination, or stays in the sending NI, which retries it (R39, R40); one to a launch that has
ended is dropped. -/
def State.deliver (s : State) (k : Nat) (m : Msg) : State :=
  if !s.inOrder k m then s
  else if (s.launchFor m).isNone then s.dropMsg k
  else match s.takerOf m with
    | none => s
    | some n => match (s.core n).receive m with
      | some x => (s.dropMsg k).setCore n x
      | none => { s with net := modifyNth s.net k (fun m => { m with retried := true }) }

/-- The k-th message if its body is of a kind. -/
def State.msgAt (s : State) (k : Nat) (p : MsgBody → Bool) : Option Msg :=
  match s.net[k]? with
  | some m => if p m.body then some m else none
  | none => none

/-- The k-th message is of a kind, and what becomes of it. -/
def State.onMsg (s : State) (k : Nat) (p : MsgBody → Bool) (f : Msg → State) : State :=
  match s.msgAt k p with
  | some m => f m
  | none => s

def isData : MsgBody → Bool
  | .data .. => true
  | _ => false

def isSpawn : MsgBody → Bool
  | .spawn .. => true
  | _ => false

def isMigrate : MsgBody → Bool
  | .migrate .. => true
  | _ => false

def isCall : MsgBody → Bool
  | .call .. => true
  | _ => false

def isReply : MsgBody → Bool
  | .reply .. => true
  | _ => false

/-- A write of another package to global memory homed here, a multicast's line among them (R166, R239). -/
def isPeerWrite : MsgBody → Bool
  | .globalAccess (.store ..) _ _ | .mcast .. => true
  | _ => false

/-- No write that the same package sent before is still on its way to its home: a peer package's writes become visible in the
order in which they were received (R166). -/
def State.peerTurn (s : State) (k : Nat) (m : Msg) : Bool :=
  !isPeerWrite m.body || !(s.net.take k).any (fun a => a.src.pkg == m.src.pkg && isPeerWrite a.body && !s.outgoing a)

/-- The five kinds of Table 2.7. -/
def isQueued (b : MsgBody) : Bool := isData b || isSpawn b || isMigrate b || isCall b || isReply b

/-! ### SPAWN's question and its answer (R42, R43) -/

/-- An answer of the core n to the sender of m. -/
def State.answerTo (s : State) (n : Nat) (m : Msg) (body : MsgBody) : State :=
  s.post n { s.msgFrom n m.slot m.src body with key := m.key }

/-- The target of a SPAWN takes the child: its arrival queue has a free entry and its oasis is empty (R42). -/
def CoreSt.accepts (k : CoreSt) : Bool := decide (k.arrivalUsed < 16) && k.oasis == []

/-- An arrival-queue entry is reserved (R42). -/
def CoreSt.reserve (k : CoreSt) : CoreSt := if k.accepts then { k with reserved := k.reserved + 1 } else k

/-- Where the context that a message names is now, on a core that it leaves or comes to included (R203, R358). -/
def State.contextAt (s : State) (m : Msg) : Option Where :=
  ((s.launchFor m).bind (find s.launches)).bind (fun x => find x.places m.dst.lcn)

/-- SPAWN_ASK: an arrival-queue entry is reserved, or the child is declined (R42). A context that is saved or moves answers
from its saved state (R358). -/
def State.ask (s : State) (k : Nat) (m : Msg) (slot : Nat) : State :=
  if !s.inOrder k m then s
  else if (s.launchFor m).isNone then s.dropMsg k
  else match s.contextAt m with
    | none => s
    | some (.image i) => match find s.images i with
      | none => s
      | some img =>
        let t := { s.dropMsg k with images := put s.images i { img with core := img.core.reserve } }
        { t with net := t.net ++ [{ key := m.key, src := m.dst, slot := m.slot, dst := m.src
                                    body := .answer slot img.core.accepts, site := img.site, ring := dieOf img.site }] }
    | some (.site n) | some (.leaving n) | some (.transit n) =>
      ((s.dropMsg k).modCore n CoreSt.reserve).answerTo n m (.answer slot (s.core n).accepts)

/-- SPAWN_ANSWER: the child leaves for the reserved entry, or runs inline (R42, R43, R46). -/
def State.spawnAnswered (s : State) (k : Nat) (m : Msg) (i : Nat) (accepted : Bool) : State :=
  if !s.inOrder k m then s
  else match s.takerOf m with
  | none => if (s.launchFor m).isNone then s.dropMsg k else s
  | some n => match (s.slot n i).wait with
    | .spawn pc =>
      if accepted then
        if !s.niRoom n m.src then s
        else
          let s := (s.dropMsg k).actAs n i
          let child := s.msgFrom n i m.src (.spawn pc (s.regs 10 4) s.me.wid false)
          (((s.post n child).bear).modMe Slot.progress).completeWait n i
      else
        let s := (s.dropMsg k).actAs n i
        s.finishC (.ok (s.inlineChild pc))
    | _ => s.dropMsg k

/-- CHILD_END_REPORT (R46). -/
def State.childEnded (s : State) (k : Nat) (m : Msg) : State :=
  if !s.inOrder k m then s
  else match s.takerOf m with
  | none => if (s.launchFor m).isNone then s.dropMsg k else s
  | some n => (s.dropMsg k).modCore n (fun x => { x with children := x.children - 1 })

/-! ### Remote accesses (R111, R112) -/

/-- The bytes that an operation reads before it writes. -/
def opSize : RemoteOp → Nat
  | .load n => n
  | .store bs _ _ => bs.length
  | .nibble .. => 1
  | .amo _ dbl _ => if dbl then 8 else 4
  | .cas dbl _ _ => if dbl then 8 else 4
  | .tred _ _ bs => bs.length
  | .swset _ | .barArrive _ | .raise _ => 16

/-- What an operation's answer returns of the bytes it found. -/
def opReturns : RemoteOp → List Byte → List Byte
  | .load _, old | .amo .., old | .cas .., old => old
  | _, _ => []

/-- The operation reads its data into a register, so that it consumes poison (R217). -/
def opConsumes : RemoteOp → Bool
  | .load _ | .amo .. | .cas .. => true
  | _ => false

/-- The raise that a store carries, and its count (R115, R361). -/
def opRaise : RemoteOp → Option (Nat × Nat)
  | .store bs (some sw) _ => some (sw, bs.length)
  | .nibble _ _ (some sw) => some (sw, 1)
  | _ => none

/-- Granules that take poison with a store's bytes. -/
def opBad (off : Nat) : RemoteOp → List Nat
  | .store _ _ bad => (bad.map (fun j => (off + j) / 8)).eraseDups
  | _ => []

/-- A remote access at the LM port of its target: the new state, the bytes it returns, and whether they are poisoned
(R112, R114, R291). -/
def State.portAccess (s : State) (n : Nat) (m : Msg) (op : RemoteOp) (off : Nat) : State × List Byte × Bool :=
  match op with
  | .swset t => (s.modCore n (fun x => x.swset off t.toNat), [], false)
  | .raise v => (s.raise n off v, [], false)
  | .barArrive v =>
    let g := (generationLm (s.core n).lm off).toNat
    let s := s.modCore n (fun x => { x with barArrivals := x.barArrivals ++ [(m.src, m.slot, off, g)] })
    let (s, g) := s.arrive n off v.toNat
    (s, bytesOfNat 4 g.toNat, false)
  | _ =>
    let x := s.core n
    let old := x.lm.bytes off (opSize op)
    let bad := opConsumes op && x.lmBad off (opSize op)
    if bad && (match op with | .load _ => false | _ => true) then (s, opReturns op old, true)
    else
      let s := match newBytes op old with
        | some new => s.modCore n (fun x =>
            let x := x.lmWrite off new
            { x with poison := x.poison ++ (opBad off op).map Poison.lm })
        | none => s
      let s := match opRaise op with
        | some (sw, v) => s.raise n (16 * sw) v
        | none => s
      (s, opReturns op old, bad)

/-- The event that brings an answer to who waits for it. -/
def answerEvent (k : Nat) : Waiter → Instr
  | .gather .. => .gatherReply k
  | .scatter .. => .scatterDelivery k
  | _ => .remoteResponse k

/-- The answer of an access, where somebody waits for one: within the package it comes in the same cycle, because the
latency of R9 is that of the whole access. -/
def State.respond (s : State) (n : Nat) (m : Msg) (w : Waiter) (bytes : List Byte) (nack bad : Bool) : State :=
  if w = .none then s
  else
    let t := s.answerTo n m (.response w bytes nack bad)
    if m.src.pkg = s.pkg then { t with agenda := answerEvent s.net.length w :: t.agenda } else t

/-- The I/O die that the answer to another package's access leaves through: that of the compute die which homes the memory
or holds the core (R120, R225). -/
def answerDie (m : Msg) : Nat :=
  match m.body with
  | .globalAccess _ off _ => ioDie (off / 4096 % 8)
  | _ => ioDie (dieOf m.dst.lcn)

/-- An access whose answer the NI cannot take yet waits (R229). -/
def State.answerRoom (s : State) (m : Msg) (w : Waiter) : Bool :=
  w == .none || m.src.pkg == s.pkg || s.fab.retryRoom (answerDie m)

/-- The first core of a die. -/
def dieCore (d : Nat) : Nat := if d < 4 then coreAt 0 (32 * d) else coreAt 64 (32 * (7 - d))

/-- An answer sent by a die of the package itself, for an access that no core takes. -/
def State.packageAnswer (s : State) (m : Msg) (w : Waiter) (bytes : List Byte) (nack bad : Bool) : State :=
  if w = .none then s
  else { s with net := s.net ++ [{ key := m.key, src := m.dst, slot := m.slot, dst := m.src, body := .response w bytes nack bad
                                   site := dieCore m.ring, ring := m.ring }] }

/-- An access to a core's LM; one from another package whose core holds no context of the ASID is answered NACK
(R111). Each cycle in which the port was busy with its core's own traffic adds one (R9). -/
def State.accessLm (s : State) (k : Nat) (m : Msg) (op : RemoteOp) (off : Nat) (w : Waiter) : State :=
  if !s.inOrder k m || decide (s.cycle < m.due) || !s.answerRoom m w then s
  else if (s.launchFor m).isNone then
    if m.src.pkg = s.pkg then s.dropMsg k else (s.dropMsg k).packageAnswer m w [] true false
  else match s.takerOf m with
    | none => s
    | some n =>
      if (s.portBusy n && decide (n ≠ m.site ∨ m.src.pkg ≠ s.pkg)) || !s.zyRoom n m.src.pkg then s
      else
        let (t, bs, bad) := (s.dropMsg k).portAccess n m op off
        t.respond n m w bs false bad

/-- The bytes of an access leave device memory of this package whole. -/
def backed (off n : Nat) : Bool := decide (off + n ≤ Config.deviceBytes)

/-- An access of another package to global memory homed here, performed at its home (R111, R119, R166, R176); none while
a commit or the host's copy stands in the way. -/
def State.homeAccess (s : State) (op : RemoteOp) (off : Nat) : Option (State × List Byte × Bool) :=
  let n := opSize op
  let old := s.mem.bytes off n
  let bad := opConsumes op && s.memBad off n
  match newBytes op old, op with
  | none, .load _ => (s.touchTiles false (tilesOf off n)).map (fun s => (s, opReturns op old, bad))
  | none, _ =>
    if bad then some (s, opReturns op old, true)
    else if !s.rangeClear off n then none
    else (s.touchTiles false (tilesOf off n)).map (fun s => (s.atomicDone off n none, opReturns op old, false))
  | some new, _ =>
    if bad then some (s, opReturns op old, true)
    else if !s.rangeClear off n then none
    else (s.touchTiles true (tilesOf off n)).map (fun s =>
      let s := match op with
        | .store .. => s.homeWrite .outside off new
        | _ => s.atomicWrite off new
      ({ s with memPoison := s.memPoison ++ opBad off op }, opReturns op old, false))

/-- A global access from another package is performed and answered. -/
def State.accessGlobal (s : State) (k : Nat) (m : Msg) (op : RemoteOp) (off : Nat) (w : Waiter) : State :=
  if !s.inOrder k m || !s.peerTurn k m || !s.answerRoom m w then s
  else if !backed off (opSize op) then (s.dropMsg k).packageAnswer m w [] true false
  else match s.homeAccess op off with
    | some (t, bs, bad) => (t.dropMsg k).packageAnswer m w bs false bad
    | none => s.snoopRange off (opSize op)

/-- REMOTE_ACCESS. -/
def State.remoteAccess (s : State) (k : Nat) (m : Msg) : State :=
  match m.body with
  | .access op off w => s.accessLm k m op off w
  | .globalAccess op pa w => s.accessGlobal k m op pa w
  | _ => s

/-! ### Answers -/

/-- A word of code comes from its home: the slot issues the bundle that waited for it, or its RPT goes on (R69, R119). -/
def State.codeCame (s : State) (n i : Nat) (va : Word) (bs : List Byte) (issues : Bool) : State :=
  let s := s.modSlot n i (fun t => t.bring va (BitVec.ofNat 32 (natOfBytes bs)) issues)
  if issues then s.modSlot n i (fun t => { t with wait := .none }) else s.resume n i

/-- The answer to a slot's access: a NACK traps ACCESS, poison is consumed, a fetched word enters the instruction cache,
a header the device queue unless its launch is ending, and a load's bytes their register (R111, R119, R188, R217, R308). -/
def State.answerSlot (s : State) (n i : Nat) (land : Landing) (a : Word) (acq : Option Scope) (bs : List Byte)
    (nack bad : Bool) : State :=
  let s := s.actAs n i
  if nack then s.finishC (.error (s.stopWith .access (if land = .fetch then s.me.bundle.here else a)))
  else if bad then s.finishC (.error (.poison a))
  else match land with
    | .fetch => s.codeCame n i a bs true
    | .skip => s.codeCame n i a bs false
    | .leave => s.resume n i
    | .header => if s.ends n then s else s.finishC (go (s.pushHeader bs))
    | .none => s.finishC (go (if spaceOf s.pkg a = .global then s.modMe Slot.progress else s))
    | _ => s.finishC (go (s.landed land acq bs))

/-- A BAR's arrival is answered: the wait after it begins, or is over already (R291). -/
def State.barAnswered (s : State) (n i : Nat) (sc : Scope) (sw : Word) (bs : List Byte) : State :=
  let g : BitVec 32 := BitVec.ofNat 32 (natOfBytes bs)
  let s := (s.actAs n i).modSlot n i (fun t =>
    { t with barWait := true, barGen := g, barAddr := sw, wait := .barrier sc })
  if s.me.barWoken = some g ∧ s.coreRuns n = true then (s.barDone sc).completeWait n i else s

/-- The place of an operation of a copy engine in its queue, by its serial number. -/
def CoreSt.copyPlace (x : CoreSt) (op : Nat) : Option Nat := x.cq.findIdx? (fun o => o.serial == op)

/-- The place of a GATHER or SCATTER, by its serial number. -/
def CoreSt.gatherPlace (x : CoreSt) (op : Nat) : Option Nat := x.gq.findIdx? (fun o => o.serial == op)

/-- Bytes that a copy asked for have come (R148); a NACK stops the transfer (R149). -/
def State.copyCame (s : State) (n : Nat) (op pos : Nat) (bs : List Byte) (nack bad : Bool) : State :=
  match (s.core n).copyPlace op with
  | none => s
  | some p => match (s.core n).cq[p]? with
    | none => s
    | some o =>
      if nack then s.copyStop n p o (atPos o.src pos) true
      else s.modCopy n p (fun o => { o with parts := o.parts ++ [(pos, bs, bad)], outstanding := o.outstanding - 1 })

/-- A copy's bytes have been written away from the core (R115, R148); a NACK stops the transfer (R149),
whatever piece it answers with the destination's first address as TVAL (DEDUCED, log 24). -/
def State.copyWent (s : State) (n : Nat) (op count : Nat) (nack : Bool) : State :=
  match (s.core n).copyPlace op with
  | none => s
  | some p => match (s.core n).cq[p]? with
    | none => s
    | some o =>
      if nack then s.copyStop n p o o.dst true
      else
        let s := match o.sw with
          | some sw => if 0 < count then s.raise n (16 * sw) count else s
          | none => s
        s.modCopy n p (fun o => { o with outstanding := o.outstanding - 1 })

/-- An answer reaches the core that waits for it. -/
def State.answered (s : State) (n : Nat) (w : Waiter) (bs : List Byte) (nack bad : Bool) : State :=
  match w with
  | .slot i => match (s.slot n i).wait with
    | .answer land a acq => s.answerSlot n i land a acq bs nack bad
    | .barAnswer sc sw =>
      if nack then (s.actAs n i).finishC (.error (.trap .access sw)) else s.barAnswered n i sc sw bs
    | _ => s
  | .copyRead op pos => s.copyCame n op pos bs nack bad
  | .copyWrite op pos => s.copyWent n op pos nack
  | .gather op pos => match (s.core n).gatherPlace op with
    | some p => match (s.core n).gq[p]? with
      | some o => if nack then s.gatherStop n p o pos true else s.gatherLand n p o pos bs bad
      | none => s
    | none => s
  | .scatter op pos => match (s.core n).gatherPlace op with
    | some p => match (s.core n).gq[p]? with
      | some o => if nack then s.gatherStop n p o pos true else s.scatterLand n p o
      | none => s
    | none => s
  | .none => s

/-- A header in an answer finds the device queue full, and waits (R308). -/
def State.headerWaits (s : State) (n : Nat) : Waiter → Bool
  | .slot i => (match (s.slot n i).wait with | .answer .header .. => true | _ => false) &&
      decide (4 ≤ (s.core n).devq.length)
  | _ => false

/-- An answer is delivered (R111). -/
def State.answer (s : State) (k : Nat) (m : Msg) : State :=
  match m.body with
  | .response w bs nack bad =>
    if !s.inOrder k m then s
    else if (s.launchFor m).isNone then s.dropMsg k
    else match s.takerOf m with
      | none => s
      | some n => if s.headerWaits n w then s else (s.dropMsg k).answered n w bs nack bad
  | _ => s

def isSlotAnswer : MsgBody → Bool
  | .response (.gather ..) _ _ _ | .response (.scatter ..) _ _ _ => false
  | .response .. => true
  | _ => false

def isGatherAnswer : MsgBody → Bool
  | .response (.gather ..) _ _ _ => true
  | _ => false

def isScatterAnswer : MsgBody → Bool
  | .response (.scatter ..) _ _ _ => true
  | _ => false

/-- WAKE_ANSWER: a slot in BAR's wait after its arrival goes on when the answer is for its generation; while the wait is
abandoned or the arrival's answer is still on its way, the slot's BAR state keeps the generation woken (R291). -/
def State.woken (s : State) (k : Nat) (m : Msg) (i sw : Nat) (g : BitVec 32) : State :=
  if !s.inOrder k m then s
  else match s.takerOf m with
  | none => if (s.launchFor m).isNone then s.dropMsg k else s
  | some n =>
    let t := s.slot n i
    let mine := match spaceOf s.pkg t.barAddr with
      | .remote r => r.place == m.src && r.off == sw
      | _ => false
    let asked := match t.wait with | .barAnswer .. => true | _ => false
    let s := s.dropMsg k
    if !mine || !(asked || (t.barWait && t.barGen == g)) then s
    else
      let s := (s.actAs n i).modSlot n i (fun t => { t with barWoken := some g })
      match t.wait with
      | .barrier sc => if s.coreRuns n then (s.barDone sc).completeWait n i else s
      | _ => s

/-! ### The ring and moved contexts -/

/-- ESCAPE_CHANNEL_MOVE: a packet to another die that has been blocked for 256 cycles takes the escape channel (R223). -/
def State.escape (s : State) (k : Nat) : State :=
  match s.net[k]? with
  | some m =>
    if s.arrived m = false ∧ m.vc < 2 ∧ 256 ≤ m.stuck then
      { s with net := modifyNth s.net k (fun m => { m with vc := 2, stuck := 0 }) }
    else s
  | none => s

/-- A core's NI holds a forwarding entry for the context a message names (R210, R211). -/
def State.forwarded (s : State) (m : Msg) : Bool :=
  s.cores.any (fun (p : Nat × CoreSt) => p.2.forwards.any (fun f => f.1 == m.key && f.2.1 == m.dst.lcn))

/-- A request, of whatever kind, reaches the context it names. -/
def State.reach (s : State) (k : Nat) (m : Msg) : State :=
  match m.body with
  | .ask slot => s.ask k m slot
  | .answer slot ok => s.spawnAnswered k m slot ok
  | .endReport => s.childEnded k m
  | .access .. | .globalAccess .. => s.remoteAccess k m
  | .response .. => s.answer k m
  | .wake slot sw g => s.woken k m slot sw g
  | b => if isQueued b then s.deliver k m else s

/-- FORWARDING: the old core's NI redirects a late message to the context's new core, where it comes in behind what was
restored (R210, R211). -/
def State.forward (s : State) (k : Nat) : State :=
  match s.net[k]? with
  | some m => if s.forwarded m then s.reach k m else s
  | none => s

/-! ### The meanings -/

/-- DATA_MESSAGE (R36, R39). -/
def execDataMessage (k : Nat) (s : State) : Host.Outcome State Fault Refusal :=
  .next (s.onMsg k isData (s.deliver k))

/-- SPAWN_MESSAGE (R42, R44). -/
def execSpawnMessage (k : Nat) (s : State) : Host.Outcome State Fault Refusal :=
  .next (s.onMsg k isSpawn (s.deliver k))

/-- MIGRATE_MESSAGE (R45). -/
def execMigrateMessage (k : Nat) (s : State) : Host.Outcome State Fault Refusal :=
  .next (s.onMsg k isMigrate (s.deliver k))

/-- CALL_MESSAGE (R37). -/
def execCallMessage (k : Nat) (s : State) : Host.Outcome State Fault Refusal :=
  .next (s.onMsg k isCall (s.deliver k))

/-- REPLY_MESSAGE (R37). -/
def execReplyMessage (k : Nat) (s : State) : Host.Outcome State Fault Refusal :=
  .next (s.onMsg k isReply (s.deliver k))

/-- NI_RETRY: a message that an oasis could not take is offered again (R40). -/
def execNiRetry (k : Nat) (s : State) : Host.Outcome State Fault Refusal :=
  .next (s.onMsg k isQueued (fun m => if m.retried then s.deliver k m else s))

/-- SPAWN_ASK (R42). -/
def execSpawnAsk (k : Nat) (s : State) : Host.Outcome State Fault Refusal :=
  .next (match s.net[k]? with
    | some m => (match m.body with | .ask slot => s.ask k m slot | _ => s)
    | none => s)

/-- SPAWN_ANSWER (R42, R43). -/
def execSpawnAnswer (k : Nat) (s : State) : Host.Outcome State Fault Refusal :=
  .next (match s.net[k]? with
    | some m => (match m.body with | .answer slot ok => s.spawnAnswered k m slot ok | _ => s)
    | none => s)

/-- CHILD_END_REPORT (R46). -/
def execChildEndReport (k : Nat) (s : State) : Host.Outcome State Fault Refusal :=
  .next (s.onMsg k (fun b => b == .endReport) (s.childEnded k))

/-- REMOTE_ACCESS (R112). -/
def execRemoteAccess (k : Nat) (s : State) : Host.Outcome State Fault Refusal :=
  .next (match s.net[k]? with
    | some m => s.remoteAccess k m
    | none => s)

/-- REMOTE_RESPONSE (R111). -/
def execRemoteResponse (k : Nat) (s : State) : Host.Outcome State Fault Refusal :=
  .next (s.onMsg k isSlotAnswer (s.answer k))

/-- GATHER_REPLY (R152, R314). -/
def execGatherReply (k : Nat) (s : State) : Host.Outcome State Fault Refusal :=
  .next (s.onMsg k isGatherAnswer (s.answer k))

/-- SCATTER_DELIVERY (R352). -/
def execScatterDelivery (k : Nat) (s : State) : Host.Outcome State Fault Refusal :=
  .next (s.onMsg k isScatterAnswer (s.answer k))

/-- WAKE_ANSWER (R291). -/
def execWakeAnswer (k : Nat) (s : State) : Host.Outcome State Fault Refusal :=
  .next (match s.net[k]? with
    | some m => (match m.body with | .wake slot sw g => s.woken k m slot sw g | _ => s)
    | none => s)

/-- ESCAPE_CHANNEL_MOVE (R223). -/
def execEscapeChannelMove (k : Nat) (s : State) : Host.Outcome State Fault Refusal := .next (s.escape k)

/-- FORWARDING (R210, R211). -/
def execForwarding (k : Nat) (s : State) : Host.Outcome State Fault Refusal := .next (s.forward k)

end Sys2Proof.Machine
end

