-- ==== Sys2Proof/Machine/Dispatcher.lean ====
section
/-!
DEFINITION. The dispatcher (02_execution R19 to R27, 08_scheduling R182 to R194): queues, acceptance and its checks,
dependences, dealing, the start of a launch on a core, completion and tear-down; the host's invalidations (05_memory
R128); capture (13_management R281).
-/
namespace Sys2Proof.Machine

/-! ### The dispatcher's own accesses -/

/-- Some byte of a virtual range, read or written under an ASID by the dispatcher. -/
def State.dispByte (s : State) (asid va : Nat) (write : Bool) : Option Home :=
  match s.walk 0 asid va with
  | none => none
  | some t =>
    if (write && !t.w) || (!write && !t.r) || decide (2 ^ 57 ≤ va) then none
    else some (s.homeOf (t.phys va) t.uncached)

/-- One byte read; none for a fault of translation or permission, and for poison. What lies outside the package is a free
value (log 42). -/
def State.dispRead (s : State) (asid va : Nat) : Option Byte :=
  match s.dispByte asid va false with
  | some (.own off _) => if s.memPoison.contains (off / 8) then none else some (s.mem.read off)
  | some (.host a) => some (Config.hostByte a s.cycle)
  | some (.other pkg off) => some (Config.awayByte pkg off s.cycle)
  | none => none

/-- n bytes read; none when one of them faults. -/
def State.dispBytes (s : State) (asid va n : Nat) : Option (List Byte) :=
  (List.range n).mapM (fun k => s.dispRead asid (va + k))

/-- What lies in the host window of some virtual ranges that the dispatcher reads is asked for on the links (R244). -/
def State.dispAsk (s : State) (asid : Nat) (ranges : List (Nat × Nat)) : State :=
  ranges.foldl (fun (s : State) r => (List.range ((r.1 % 64 + r.2 + 63) / 64)).foldl (fun (s : State) k =>
    let va := max r.1 (r.1 / 64 * 64 + 64 * k)
    match s.dispByte asid va false with
    | some (.host a) => s.askHost false a (min (r.1 + r.2) (r.1 / 64 * 64 + 64 * (k + 1)) - va)
    | _ => s) s) s

/-- A little-endian number read. -/
def State.dispNum (s : State) (asid va n : Nat) : Option Nat := (s.dispBytes asid va n).map natOfBytes

/-! ### Headers (R19 to R21) -/

/-- The VA of the completion word (R20, Table 2.1). -/
def completionVa (w : List Word) : Nat :=
  let v := (w.getD 6 0).toNat
  if bitAt (w.getD 3 0) 42 then (v + 2 ^ 64 - 8) % 2 ^ 64 else v

/-- The completion word (Table 2.3). -/
def completionWord (id : Nat) (st : Status) (cause : Nat) : Nat := cause % 2 ^ 32 * 2 ^ 32 + id % 2 ^ 16 * 2 ^ 16 + st.code

/-- The completion word is written where its VA is valid (R21, R22); who writes it has seen that the write need not wait
(State.heldWords). -/
def State.writeCompletion (s : State) (asid : Nat) (w : List Word) (st : Status) (cause : Nat) : State :=
  let va := completionVa w
  let bs := bytesOfNat 8 (completionWord (bits (w.getD 2 0) 63 48) st cause)
  if va % 8 ≠ 0 then s
  else match s.dispByte asid va true with
    | some (.own off _) => match s.agentWrite off bs with
      | .ok t | .error t => t
    | some (.host a) => { s.askHost true a 8 with hostMem := s.hostMem.writeBytes a bs }
    | some (.other pkg off) => if !s.inDomain pkg then s else s.sendPacket { cls := 0, src := s.pkg, die := 0, dst := pkg } 0
        { key := asid, src := ⟨s.pkg, 0⟩, slot := 0, dst := ⟨pkg, 0⟩
          body := .globalAccess (.store bs none []) off .none }
    | none => s

/-- The conditions of Table 2.2 on the header's own words. A completion word is valid where it is 8-aligned (DEDUCED, log
64). -/
def headerFields (w : List Word) : Bool :=
  let w0 := w.getD 0 0
  let w3 := w.getD 3 0
  let fields := bits w3 38 36
  let sum := fieldAt w3 fields
  let list := bitAt w3 42
  let counts := (w.getD 6 0).toNat
  bits w0 7 0 == 1 && bits w0 31 19 == 0 && bits w3 63 43 == 0 &&
  decide (1 ≤ fields) && decide (fields ≤ 6) && (List.range 6).all (fun n => decide (n < fields) || widthOf w3 n == 0) &&
  decide (sum ≤ 64) && decide (bits w3 41 39 < fields) &&
  (if list then fields == 2 && decide (bits (w.getD 2 0) 47 0 ≤ 2 ^ widthOf w3 1)
    else decide (bits (w.getD 2 0) 47 0 ≤ 2 ^ sum)) &&
  (w.getD 1 0).toNat % 4 == 0 && (w.getD 7 0).toNat % 8 == 0 && completionVa w % 8 == 0 &&
  (!list || (counts % 4 == 0 && decide (8 ≤ counts))) && decide (bits w0 63 56 ≤ 31)

/-- A region lies in the grid (R24). -/
def regionOk (r : Nat × Nat × Nat × Nat) : Bool :=
  decide (1 ≤ r.2.2.1) && decide (r.2.2.1 ≤ 128) && decide (1 ≤ r.2.2.2) && decide (r.2.2.2 ≤ 128) &&
  decide (r.1 + r.2.2.1 ≤ 128) && decide (r.2.1 + r.2.2.2 ≤ 128)

/-- An entry of the handler image (Table 2.5). -/
def handlerOf (w : Word) : Handler :=
  { valid := bitAt w 63, multi := bitAt w 62, contained := bitAt w 61, persistent := bitAt w 60, mask := bitAt w 59
    prio := bits w 58 57, threshold := bits w 56 51 + 1, offset := w.extractLsb' 0 32 }

/-- The conditions of R25 on the image's doublewords. -/
def imageOk (ws : List Word) : Bool :=
  bitAt (ws.getD 0 0) 63 && bits (ws.getD 0 0) 31 0 == 0 &&
  ws.all (fun w => !bitAt w 63 || (bits w 31 0 % 4 == 0 && bits w 50 32 == 0))

/-- An entry of the rank table (Table 2.4). -/
def rankOk (e : Nat) : Bool := e / 2 ^ 27 == 0 && decide (e / 2 ^ 14 % 2 ^ 13 < Config.packages)

/-- The rank table is as R24 wants it: local ranks name distinct cores. -/
def ranksOk (pkg : Nat) (es : List Nat) : Bool :=
  es.all rankOk && distinct ((es.filter (fun e => e / 2 ^ 14 % 2 ^ 13 == pkg)).map (fun e => e % 2 ^ 14))

/-- The outcome of the checks at acceptance: accepted with the copies made, BADHDR, or a fault (R21, R24, R25). -/
inductive Checked2 where
  | ok (handlers : List Handler) (ranks : List Place)
  | bad
  | fault
  deriving DecidableEq, Repr

/-- The rank table's copy; a table of a region's launch is empty. -/
def State.copyRanks (s : State) (asid : Nat) (w : List Word) : Checked2 :=
  if bitAt (w.getD 0 0) 16 || bitAt (w.getD 3 0) 42 then
    (if regionOk (regionOf (w.getD 4 0)) then .ok [] [] else .bad)
  else
    let va := (w.getD 4 0).toNat
    match s.dispNum asid va 8 with
    | none => .fault
    | some m =>
      if m = 0 ∨ 65536 < m then .bad
      else match (List.range m).mapM (fun n => s.dispNum asid (va + 8 + 4 * n) 4) with
        | none => .fault
        | some es => if ranksOk s.pkg es then
            .ok [] (es.map (fun e => ⟨e / 2 ^ 14 % 2 ^ 13, e % 2 ^ 14⟩)) else .bad

/-- The handler image's copy (R25). -/
def State.copyImage (s : State) (asid : Nat) (w : List Word) : Checked2 :=
  let base := ((w.getD 1 0).toNat + 2 ^ 64 - 512) % 2 ^ 64
  match (List.range 64).mapM (fun n => s.dispNum asid (base + 8 * n) 8) with
  | none => .fault
  | some ws =>
    let ws := ws.map (BitVec.ofNat 64)
    if imageOk ws then .ok (ws.map handlerOf) [] else .bad

/-- An unfinished launch of an ASID with an id. -/
def State.launchNamed (s : State) (asid id : Nat) : Option Nat :=
  (s.launches.find? (fun (l : Nat × Launch) => l.2.asid == asid && l.2.id == id)).map Prod.fst

/-- All checks of a header: those on its words, then the rank table, then the image. The first failure in this order
decides the status (DESIGN CHOICE, log 47). -/
def State.checkHeader (s : State) (w : List Word) (agrees : Bool) : Checked2 :=
  let asid := bits (w.getD 0 0) 47 32
  let id := bits (w.getD 2 0) 63 48
  if !headerFields w || !agrees || (id != 0 && (s.launchNamed asid id).isSome) then .bad
  else match s.copyRanks asid w with
    | .ok _ ranks => match s.copyImage asid w with
      | .ok hs _ => .ok hs ranks
      | x => x
    | x => x

/-! ### Work items (R20, R27, R189) -/

/-- Tiles of an expert in a count-list launch (R20). -/
def Launch.tiles (l : Launch) (e : Nat) : Nat := (l.counts.getD e 0 + 63) / 64

/-- The first expert from e on that has work. -/
def Launch.expertFrom (l : Launch) : Nat → Nat → Option Nat
  | 0, _ => none
  | n + 1, e => if l.counts.length ≤ e then none else if 0 < l.tiles e then some e else l.expertFrom n (e + 1)

/-- The next identifier from u on that names a work item. -/
def Launch.nextId (l : Launch) (u : Nat) : Option Nat :=
  if l.countList then
    let w := widthOf (l.word 3) 0
    let e := u / 2 ^ w
    if u % 2 ^ w < l.tiles e then some u
    else (l.expertFrom (l.counts.length + 1) (e + (if u % 2 ^ w = 0 then 0 else 1))).map (fun e => e * 2 ^ w)
  else if u < l.count then some u else none

/-- The batch that an identifier opens (R27): the items that agree with it at or above the deal level. -/
def Launch.batchFrom (l : Launch) (u : Nat) : Batch :=
  let s := fieldAt (l.word 3) l.deal
  let num := u / 2 ^ s
  let last := if l.countList then
      (if l.deal = 0 then u + 1 else u / 2 ^ widthOf (l.word 3) 0 * 2 ^ widthOf (l.word 3) 0 + l.tiles (u / 2 ^ widthOf (l.word 3) 0))
    else min ((num + 1) * 2 ^ s) l.count
  { num, first := u, left := last - u }

/-- Every work item has been dealt. -/
def Launch.allDealt (l : Launch) : Bool := (l.nextId l.undealt).isNone

/-! ### Priority (R190, R191) -/

/-- Effective priority: the header's, that of every waiting launch that names it as a predecessor, and that of its
launcher, through chains of any length (R191). -/
def State.effPrio (s : State) : Nat → Nat → Nat
  | 0, l => ((find s.launches l).map Launch.prio).getD 0
  | n + 1, l => match find s.launches l with
    | none => 0
    | some x =>
      let waiting := s.launches.filter (fun (p : Nat × Launch) => p.2.state == .waiting && p.2.preds.contains l)
      let inherited := waiting.map (fun p => s.effPrio n p.1)
      let parent := match x.parent with
        | some p => if (find s.launches p).isSome then s.effPrio n p else 0
        | none => 0
      (inherited.foldl max (max x.prio parent))

/-- The effective priority of a launch. -/
def State.prioOf (s : State) (l : Nat) : Nat := s.effPrio s.launches.length l

/-! ### Ends of launches (R22, R23, R185) -/

/-- A bank as a launch finds it: its status clear, its contents and its kind as they are (R409, Table 3.12). -/
def Bank.cleared (b : Bank) : Bank := { b with nv := false, of := false, sat := false, empty := false }

/-- A core whose launch starts: the status of its banks is clear (R409, Table 3.12). -/
def CoreSt.clearBanks (k : CoreSt) : CoreSt :=
  { k with acc0w := k.acc0w.cleared, acc0v := k.acc0v.cleared, acc1w := k.acc1w.cleared, acc1v := k.acc1v.cleared }

/-- A core that a launch leaves: queues and slots empty, the registers of Table 3.12 at their start values, the A zero map
zero (R146), the caches empty, so that a later launch fetches the code as stored (R53); memories and banks, the share of the
tenancy classes and forwarding entries stay. -/
def CoreSt.vacate (k : CoreSt) (c : Nat) : CoreSt :=
  { idleCore c with
    lm := k.lm, abuf := k.abuf, wbuf := k.wbuf, acc0w := k.acc0w, acc0v := k.acc0v, acc1w := k.acc1w
    acc1v := k.acc1v, cimExp := k.cimExp, cimLoaded := k.cimLoaded
    deficits := k.deficits, lastClass := k.lastClass, turnLeft := k.turnLeft, turnUsed := k.turnUsed
    poison := k.poison, forwards := k.forwards, nextOp := k.nextOp }

/-- The core with its slots empty, whose caravans are released without hand-back (R257). -/
def State.vacateCore (s : State) (c : Nat) : State :=
  let s := (List.range 4).foldl (fun (s : State) i => s.freeCaravan c i) s
  s.setCore c ((s.core c).vacate c)

/-- The sites on which a launch stands. -/
def Launch.sites (l : Launch) : List Nat :=
  l.places.filterMap (fun p => match p.2 with | .site n | .leaving n | .transit n => some n | .image _ => none)

/-- Images of a launch are freed (R204), its rounds discarded (R269), its counter no longer watched; a class that stops
being active waits for no first core (R192). -/
def State.forget (s : State) (l : Nat) : State :=
  let watched := (find s.launches l).bind Launch.watching
  let s := match watched with
    | some off => s.modDir off (fun e => { e with watched := s.launches.any (fun (p : Nat × Launch) =>
        p.1 != l && p.2.watching == some off) })
    | none => s
  let cls := (find s.launches l).map Launch.cls
  let others := s.launches.any (fun (p : Nat × Launch) => p.1 != l && some p.2.cls == cls && p.2.ending.isNone &&
    (p.2.state == .ready || p.2.state == .running))
  { s with
    disp := if others then s.disp
      else { s.disp with firstCores := s.disp.firstCores.filter (fun p => some p.1 != cls) }
    images := s.images.filter (fun (p : Nat × Image) => p.2.launch != l)
    rounds := s.rounds.filter (fun r => r.launch != l)
    net := s.net.filter (fun m => !(s.ownMsg l m && !isResponse m.body))
    launches := del s.launches l }

/-- Cores that a launch holds are written back, the elements that write streams still hold among it (R133, R309), and
vacated (R164). -/
def State.vacateAll (s : State) (x : Launch) : State :=
  x.sites.foldl (fun (s : State) c =>
    ((List.range 4).foldl (fun (s : State) i => s.flushStreams c i) (s.drainAll c)).vacateCore c) s

/-- The launches that end CANCELLED because they wait on one that has ended otherwise (R185); one that is ending already,
as a kill makes it, ends with its own status (R194). -/
def State.cancelled (s : State) : Nat → List Nat → List Nat
  | 0, ended => ended
  | n + 1, ended =>
    let more := (s.launches.filter (fun (p : Nat × Launch) =>
      p.2.state == .waiting && p.2.ending.isNone && !ended.contains p.1 && p.2.preds.any ended.contains)).map Prod.fst
    if more = [] then ended else s.cancelled n (ended ++ more)

/-- One launch's completion word is written and its entry freed (R22, R183). -/
def State.endOne (s : State) (l : Nat) (st : Status) (cause : Nat) : State :=
  match find s.launches l with
  | some x => ((s.vacateAll x).writeCompletion x.asid x.hdr st cause).forget l
  | none => s

/-- The completion words whose writing waits: for the host's answer, where it holds the line (R246), or for a commit of a
launch other than the one that is ending (R176), or for room in the retry buffer (R229). -/
def State.heldWords (s : State) (l : Option Nat) (hs : List (Nat × List Word)) : List (Option Nat) :=
  hs.filterMap (fun h => match s.dispByte h.1 (completionVa h.2) true with
    | some (.own off _) =>
      let commits := (s.hits (off / 512) .plainWrite none).any (fun t =>
        t.2.2.committing && !(l.isSome && (s.core t.1).launch == l))
      if s.hostClear off && !commits then none else some (some off)
    | some (.other ..) => if s.fab.retryRoom 0 then none else some none
    | _ => none)

/-- The snoops that completion words need. -/
def State.snoopWords (s : State) (offs : List (Option Nat)) : State :=
  (offs.filterMap id).foldl (fun (s : State) off => s.snoopRange off 8) s

/-- The completion word of a header that is not run: written, or kept while its writing waits (R176, R183, R229, R246). -/
def State.postWord (s : State) (asid : Nat) (w : List Word) (st : Status) (cause : Nat) : State :=
  let held := s.heldWords none [(asid, w)]
  if held = [] then s.writeCompletion asid w st cause
  else
    let s := s.snoopWords held
    { s with disp := { s.disp with words := s.disp.words ++ [(asid, w, st, cause)] } }

/-- The completion words that were kept are written, as far as they can be. -/
def State.retryWords (s : State) : State :=
  if s.disp.words = [] then s
  else s.disp.words.foldl (fun (s : State) e => s.postWord e.1 e.2.1 e.2.2.1 e.2.2.2)
    { s with disp := { s.disp with words := [] } }

/-- A launch ends with a status (R22, R164, R185): its cores, its completion word, then what waits on it. While the
writing of a completion word waits, the launch is left ending, and TEARDOWN comes back to it. -/
def State.finish (s : State) (l : Nat) (st : Status) (cause : Nat) : State :=
  let gone := if st = .done then [] else (s.cancelled s.launches.length [l]).filter (· != l)
  let words := (l :: gone).filterMap (fun p => (find s.launches p).map (fun (x : Launch) => (x.asid, x.hdr)))
  let held := s.heldWords (some l) words
  if held ≠ [] then
    (s.snoopWords held).modLaunch l (fun x =>
      { x with ending := some (x.ending.getD (st, cause)) })
  else
  let s := gone.foldl (fun (s : State) p => s.endOne p .cancelled 0) (s.endOne l st cause)
  { s with launches := s.launches.map (fun (p : Nat × Launch) => (p.1, { p.2 with preds := p.2.preds.filter (· != l) })) }

/-! ### Queues and acceptance (R182, R183, R187) -/

/-- A host queue; one that nothing has written is disabled. -/
def Disp.queue (d : Disp) (q : Nat) : HostQueue := (find d.queues q).getD { en := false, cls := 0, asid := 0, recs := [] }

/-- QREC_WRITE (R182): queues take nothing before bring-up has come to step 6 (R277). -/
def State.qrec (s : State) (q : Nat) (deferrable : Bool) (ws : List Word) : State :=
  let x := s.disp.queue q
  let say := fun (s : State) a => { s with answers := s.answers ++ [a] }
  if !deferrable || ws.length != 8 || !x.en || decide (16 ≤ q) || decide (s.tele.bringup < 5) then say s .unsupported
  else if 64 ≤ x.recs.length then say s .retryStatus
  else say { s with disp := { s.disp with queues := put s.disp.queues q { x with recs := x.recs ++ [ws] } } } .success

/-- The oldest header of a die's device queues, with its core. -/
def State.oldestHeader (s : State) (die : Nat) : Option (Nat × DevHeader) :=
  let all := (s.cores.filter (fun (p : Nat × CoreSt) => dieOf p.1 == die)).flatMap (fun p => p.2.devq.map (fun h => (p.1, h)))
  all.foldl (fun best x => match best with
    | some b => if x.2.stamp < b.2.stamp then some x else some b
    | none => some x) none

/-- A header source in the dispatcher's round-robin: host queues 0 to 15, then the sub-dispatchers of dies 0 to 7, which offer
their headers in arrival order: one that a core handed over waits for older ones in device queues (R183, R187). -/
def State.sourceHolds (s : State) (n : Nat) : Bool :=
  if n < 16 then (s.disp.queue n).en && !(s.disp.queue n).recs.isEmpty
  else match listOf s.disp.subq (n - 16) with
    | [] => false
    | h :: _ => match s.oldestHeader (n - 16) with
      | some (_, d) => decide (h.stamp ≤ d.stamp)
      | none => true

/-- The next source that holds a header. -/
def State.nextSource (s : State) : Option Nat :=
  let start := match s.disp.rr with
    | some n => n + 1
    | none => 0
  ((List.range 24).map (fun k => (start + k) % 24)).find? s.sourceHolds

/-- The header of a source, its launcher, whether class and ASID agree with the source, and the highest priority it may
have; and the state without it (R183, R187). -/
def State.takeHeader (s : State) (n : Nat) : Option (State × List Word × Option Nat × Bool × Nat) :=
  let s := { s with disp := { s.disp with rr := some n } }
  let agrees := fun (w : List Word) (asid cls : Nat) =>
    bits (w.getD 0 0) 47 32 == asid && bits (w.getD 0 0) 15 12 == cls
  if n < 16 then
    let x := s.disp.queue n
    match x.recs with
    | w :: r => some ({ s with disp := { s.disp with queues := put s.disp.queues n { x with recs := r } } }, w, none,
        agrees w x.asid x.cls, 7)
    | [] => none
  else
    match listOf s.disp.subq (n - 16) with
    | h :: r => some ({ s with disp := { s.disp with subq := put s.disp.subq (n - 16) r } }, h.words, some h.parent,
        agrees h.words h.asid h.cls, h.prio)
    | [] => none

/-- A launch as it enters the launch table, waiting (R184, R185). -/
def State.newLaunch (s : State) (w : List Word) (hs : List Handler) (ranks : List Place) (parent : Option Nat)
    (cap : Nat) : Launch :=
  let w0 := w.getD 0 0
  let asid := bits w0 47 32
  let names := (List.range 4).map (fun n => bits (w.getD 5 0) (16 * n + 15) (16 * n))
  { hdr := w, state := .waiting, handlers := hs, ranks
    preds := (names.filterMap (fun id => if id = 0 then none else s.launchNamed asid id)).eraseDups
    parent, prio := min (bits w0 10 8) cap, counts := [], undealt := 0, round := [], places := []
    gen := 0, acks := [], front := 1, skipped := [], watching := none, cleared := false, ending := none
    started := false }

/-- The ranges that the dispatcher reads at acceptance: the rank table, and the handler image (R24, R25). -/
def State.headerRanges (s : State) (w : List Word) : List (Nat × Nat) :=
  let va := (w.getD 4 0).toNat
  let m := min 65536 ((s.dispNum (bits (w.getD 0 0) 47 32) va 8).getD 0)
  (if bitAt (w.getD 0 0) 16 || bitAt (w.getD 3 0) 42 then [] else [(va, 8 + 4 * m)]) ++
    [(((w.getD 1 0).toNat + 2 ^ 64 - 512) % 2 ^ 64, 512)]

/-- LAUNCH_ACCEPT (R183): the next header is taken into the launch table, or fails its checks and is not run; a stopped part
takes none (R275). -/
def State.accept (s : State) : State :=
  let s := s.retryWords
  if s.stopped || decide (Config.launchEntries ≤ s.launches.length) then s
  else match s.nextSource.bind s.takeHeader with
    | none => s
    | some (s, w, parent, agrees, cap) =>
      let asid := bits (w.getD 0 0) 47 32
      let s := s.dispAsk asid (s.headerRanges w)
      match s.checkHeader w agrees with
      | .bad => s.postWord asid w .badhdr 0
      | .fault => s.postWord asid w .fault Cause.access.code
      | .ok hs ranks =>
        { s with launches := put s.launches s.serial (s.newLaunch w hs ranks parent cap), serial := s.serial + 1 }

/-- A header takes its place in arrival order. -/
def insertHeader (x : SubHeader) : List SubHeader → List SubHeader
  | [] => [x]
  | h :: r => if h.stamp ≤ x.stamp then h :: insertHeader x r else x :: h :: r

/-- A retired DLAUNCH's header goes from a core to its die's sub-dispatcher, with the priority that its launcher has at most
(R187). -/
def State.handOver (s : State) (c : Nat) (h : DevHeader) : State :=
  let d := dieOf c
  let (asid, cls, prio) := match find s.launches h.parent with
    | some l => (l.asid, l.cls, l.prio)
    | none => (bits (h.words.getD 0 0) 47 32, bits (h.words.getD 0 0) 15 12, 7)
  let x : SubHeader := { words := h.words, parent := h.parent, asid, cls, prio, stamp := h.stamp }
  let s := s.modCore c (fun k => { k with devq := k.devq.erase h })
  { s with disp := { s.disp with subq := put s.disp.subq d (insertHeader x (listOf s.disp.subq d)) } }

/-- SUB_DISPATCH (R187). -/
def State.subDispatch (s : State) (die : Nat) : State :=
  match s.oldestHeader die with
  | some (c, h) => s.handOver c h
  | none => s

/-- Every retired header of a core goes to the sub-dispatcher (R188, R202). -/
def State.handOverAll (s : State) (c : Nat) : State := (s.core c).devq.foldl (fun s h => s.handOver c h) s

/-! ### Wait counters and readiness (R184, R186) -/

/-- The device-memory offset of a launch's wait counter, if R186 accepts it. It is read from the argument block at
each poll (DEDUCED), and poison there ends the launch (DESIGN CHOICE, log 54). -/
def State.counterAt (s : State) (l : Launch) : Option Nat :=
  match s.dispNum l.asid l.args.toNat 8 with
  | none => none
  | some va =>
    if va % 8 ≠ 0 ∨ 2 ^ 57 ≤ va then none
    else match s.walk 0 l.asid va with
      | some t => if !t.r then none else match s.homeOf (t.phys va) t.uncached with
        | .own off uncached => if uncached || s.memBad off 8 then none else some off
        | _ => none
      | none => none

/-- The line is marked watched, and copies in M or E are recalled, with the L1 copies of their dies (R121, R186). -/
def State.watch (s : State) (off : Nat) : State :=
  let owns := fun (p : Nat × DirState) => p.2 == .m || p.2 == .e
  let dies := ((s.dirOf off).l2.filter owns).map Prod.fst
  let line := off / 256 * 256
  let s := s.modDir off (fun e => { e with watched := true, l2 := e.l2.filter (fun p => !owns p) })
  { s with cores := s.cores.map (fun p => if dies.contains (dieOf p.1) then
      (p.1, { p.2 with l1d := p.2.l1d.filter (fun l => l.pa % 2 ^ 42 / 256 * 256 != line) }) else p) }

/-- WAIT_COUNTER_READ (R186): the counter's line is watched from the first read on; zero ends the wait. -/
def State.readCounter (s : State) (l : Nat) : State :=
  match find s.launches l with
  | none => s
  | some x =>
    if x.state ≠ .waiting ∨ x.preds ≠ [] ∨ x.waits = false ∨ x.cleared = true ∨ x.ending.isSome = true then s
    else match s.counterAt x with
      | none => s.finish l .fault Cause.access.code
      | some off =>
        let s := (s.dispAsk x.asid [(x.args.toNat, 8)]).watch off
        let zero := s.mem.num off 8 = 0
        s.modLaunch l (fun x => { x with watching := some off, cleared := decide zero })

/-- A waiting launch's dependences are met (R184). -/
def Launch.met (x : Launch) : Bool :=
  x.state == .waiting && x.preds == [] && (!x.waits || x.cleared) && x.ending.isNone

/-- Tenancy-class weight (Table 8.3): 1 at reset. -/
def Disp.weight (d : Disp) (cls : Nat) : Nat := (find d.clsw cls).getD 1

/-- A class holds some core of the package. -/
def State.classHolds (s : State) (cls : Nat) : Bool :=
  s.launches.any (fun (p : Nat × Launch) => p.2.cls == cls && !p.2.sites.isEmpty)

/-- First cores of waiting classes in a core's sector (R192). -/
def State.firstIn (s : State) (c : Nat) : Nat :=
  (s.disp.firstCores.filter (fun p => sectorOf p.2 == sectorOf c)).length

/-- The core that is better as a first core: the sector with fewer of them, then the turn that ends first (R192). Of several
with the same end the first in the region's order is taken (DESIGN CHOICE, log 65). -/
def State.betterFirst (s : State) (a b : Nat) : Bool :=
  if s.firstIn a = s.firstIn b then decide ((s.core a).turnLeft < (s.core b).turnLeft) else decide (s.firstIn a < s.firstIn b)

/-- A newly active class that holds no core is given a first core (R192). -/
def State.giveFirst (s : State) (l : Launch) : State :=
  if s.classHolds l.cls || (find s.disp.firstCores l.cls).isSome then s
  else match l.cores s.pkg with
    | [] => s
    | c :: r =>
      let best := r.foldl (fun b x => if s.betterFirst x b then x else b) c
      { s with disp := { s.disp with firstCores := put s.disp.firstCores l.cls best } }

/-- The counts array of a count-list launch (R20): read whole, or a fault, or a count that Table 2.2 forbids. -/
def State.readCounts (s : State) (x : Launch) : Except Status (List Nat) :=
  match (List.range x.count).mapM (fun n => s.dispNum x.asid ((x.word 6).toNat + 4 * n) 4) with
  | none => .error .fault
  | some cs => if cs.all (fun v => decide (v < 64 * 2 ^ widthOf (x.word 3) 0)) then .ok cs else .error .badhdr

/-- The launch is ready; one without a work item ends DONE at once (R21, R184). -/
def State.becomeReady (s : State) (l : Nat) (x : Launch) : State :=
  let s := match x.watching with
    | some off => s.modDir off (fun e => { e with watched := s.launches.any (fun (p : Nat × Launch) =>
        p.1 != l && p.2.watching == some off) })
    | none => s
  let x := { x with state := .ready, watching := none }
  let s := s.modLaunch l (fun _ => x)
  if x.allDealt then s.finish l .done 0 else s.giveFirst x

/-- LAUNCH_READY (R20, R184). -/
def State.ready (s : State) (l : Nat) : State :=
  match find s.launches l with
  | none => s
  | some x =>
    if !x.met then s
    else if x.countList then
      let s := s.dispAsk x.asid [((x.word 6).toNat, 4 * x.count)]
      match s.readCounts x with
      | .ok cs => s.becomeReady l { x with counts := cs }
      | .error .fault => s.finish l .fault Cause.access.code
      | .error _ => s.finish l .badhdr 0
    else s.becomeReady l x

/-! ### Which launch a core holds (R190, R192) -/

/-- A launch is ready or running and not ending. -/
def Launch.live (x : Launch) : Bool := (x.state == .ready || x.state == .running) && x.ending.isNone

/-- A launch's region holds the core at a site: the site's own place in the launch is not taken elsewhere, or one of its
contexts stands there (R207). -/
def State.holds (s : State) (x : Launch) (c : Nat) : Bool :=
  x.places.any (fun p => p.2 == .site c || p.2 == .leaving c || p.2 == .transit c) ||
  ((x.cores s.pkg).contains c && (match find x.places c with
    | none | some (.image _) => true
    | _ => false))

/-- A class is active on a core (R192). -/
def State.active (s : State) (c cls : Nat) : Bool :=
  s.launches.any (fun (p : Nat × Launch) => p.2.cls == cls && p.2.live && s.holds p.2 c)

/-- The active classes of a core. -/
def State.activeClasses (s : State) (c : Nat) : List Nat := (List.range 16).filter (s.active c)

/-- Of some launches, the one of highest effective priority, the first accepted of several (R190). -/
def State.bestOf (s : State) : List Nat → Option Nat
  | [] => none
  | l :: r => match s.bestOf r with
    | some m => if s.prioOf l < s.prioOf m then some m else some l
    | none => some l

/-- The launches of a class that could hold a core. -/
def State.rivals (s : State) (c cls : Nat) : List Nat :=
  (s.launches.filter (fun (p : Nat × Launch) => p.2.cls == cls && p.2.live && s.holds p.2 c)).map Prod.fst

/-- The launch that a core should hold now: the best of the class whose turn it is. -/
def State.chosen (s : State) (c : Nat) : Option Nat :=
  match (s.core c).lastClass with
  | some cls => if (s.core c).turnLeft = 0 then none else s.bestOf (s.rivals c cls)
  | none => none

/-- The core holds nothing and is given to nothing. -/
def CoreSt.free (k : CoreSt) : Bool := k.launch.isNone && k.stage == .running && k.caravan.isNone

/-! ### The start of a launch on a core (R25, R164, R281) -/

/-- The ranges that a capture copies: the header (not in memory), the rank table or counts array, 4 KiB of the argument
block, and the capture list (R281). -/
def State.captureRanges (s : State) (x : Launch) : List (Nat × Nat) :=
  let a := x.args.toNat
  let table := if x.countList then [((x.word 6).toNat, 4 * x.count)]
    else if x.relative then [] else [((x.word 4).toNat, 8 + 4 * x.ranks.length)]
  let listed := match s.dispNum x.asid (a + 8) 8 with
    | some va => match s.dispNum x.asid va 8 with
      | some n => (List.range (min n 16)).filterMap (fun k =>
          match s.dispNum x.asid (va + 8 + 16 * k) 8, s.dispNum x.asid (va + 16 + 16 * k) 8 with
          | some v, some len => some (v, len)
          | _, _ => none)
      | none => []
    | none => []
  table ++ [(a, 4096)] ++ listed

/-- The bytes of a capture: the header's words, then the ranges as they read; a byte that cannot be read is a free value
(log 42). -/
def State.captureBytes (s : State) (x : Launch) : List Byte :=
  let read := (s.captureRanges x).flatMap (fun r => (List.range r.2).map (fun k => s.dispRead x.asid (r.1 + k)))
  (x.hdr.flatMap (fun w => bytesOfNat 8 w.toNat)) ++
  read.zipIdx.map (fun p => p.1.getD (Config.freeByte (s.fresh + p.2)))

/-- The positions of a capture whose bytes are poisoned: poison moves with its data (R217). -/
def State.capturePoison (s : State) (x : Launch) : List Nat :=
  let vas := (s.captureRanges x).flatMap (fun r => (List.range r.2).map (fun k => r.1 + k))
  vas.zipIdx.filterMap (fun p => match s.dispByte x.asid p.1 false with
    | some (.own off _) => if s.memPoison.contains (off / 8) then some (8 * x.hdr.length + p.2) else none
    | _ => none)

/-- CAPTURE (R281): the copy goes to the capture pool, or a record tells that it was skipped; else the state in which its
write waits (R176, R246). -/
def State.captureLaunch (s : State) (x : Launch) : Except State State :=
  if !x.captured then .ok s
  else match s.disp.cappool with
    | none => .ok (s.log evCapture 0 [x.id])
    | some (pa, size) =>
      let bs := s.captureBytes x
      let s := s.dispAsk x.asid (s.captureRanges x)
      if size < s.disp.capUsed + bs.length then .ok (s.log evCapture 0 [x.id])
      else
        let at_ := pa % 2 ^ 42 + s.disp.capUsed
        let bad := ((s.capturePoison x).map (fun k => (at_ + k) / 8)).eraseDups
        (s.agentWrite at_ bs).map (fun t =>
          { t.logMoved 0 bad with
            memPoison := t.memPoison ++ bad
            disp := { t.disp with capUsed := t.disp.capUsed + bs.length }, fresh := t.fresh + bs.length })

/-- LAUNCH_START: a free core takes the context of the launch it should hold; the start is a PKG acquire (R26, R164). -/
def State.start (s : State) (l c : Nat) : State :=
  match find s.launches l with
  | none => s
  | some x =>
    if !x.live || (find x.places c).isSome || !(s.core c).free || s.chosen c != some l then s
    else match (if x.started then .ok s else s.captureLaunch x) with
    | .error t => t
    | .ok s =>
      let k := (s.core c).vacate c
      let s := s.setCore c { k.clearBanks with
        launch := some l, origin := c, table := x.handlers, l1d := [], batches := listOf x.ahead c }
      let s := s.modLaunch l (fun x => { x with
        state := .running, started := true, places := put x.places c (.site c), ahead := del x.ahead c })
      { s with disp := { s.disp with firstCores := s.disp.firstCores.filter (fun p => p != (x.cls, c)) } }

/-! ### Dealing (R27) -/

/-- The batches that a launch-origin core of a launch holds, wherever its context is: those dealt to it before its start, or
while it is saved, wait for it (DEDUCED, log 66). -/
def State.batchesOf (s : State) (x : Launch) (c : Nat) : List Batch :=
  (match find x.places c with
    | none => []
    | some (.image n) => ((find s.images n).map (fun (i : Image) => i.core.batches)).getD []
    | some (.site n) | some (.leaving n) | some (.transit n) => (s.core n).batches) ++ listOf x.ahead c

/-- A launch-origin core can be dealt a batch: it holds fewer than 4 (R27). -/
def State.takesBatch (s : State) (x : Launch) (c : Nat) : Bool := decide ((s.batchesOf x c).length < 4)

/-- A launch-origin core is dealt a batch (R27). -/
def State.giveBatch (s : State) (l : Nat) (x : Launch) (c : Nat) (b : Batch) : State :=
  match find x.places c with
  | some (.site n) | some (.leaving n) | some (.transit n) => s.modCore n (fun k => { k with batches := k.batches ++ [b] })
  | _ => s.modLaunch l (fun x => { x with ahead := put x.ahead c (listOf x.ahead c ++ [b]) })

/-- The launch-origin core that the next batch goes to: in the order of the region or the ranks, one batch a round,
full ones skipped. -/
def State.nextDealt (s : State) (x : Launch) : Option Nat :=
  let cs := x.cores s.pkg
  let start := match x.round with
    | c :: _ => cs.findIdx (· == c) + 1
    | [] => 0
  ((List.range cs.length).map (fun k => cs.getD ((start + k) % cs.length) 0)).find? (s.takesBatch x)

/-- BATCH_DEAL of a launch to a launch-origin core (R27). -/
def State.dealBatch (s : State) (l c : Nat) : State :=
  match find s.launches l with
  | none => s
  | some x =>
    match x.nextId x.undealt with
    | some u =>
      if s.nextDealt x ≠ some c ∨ x.live = false then s
      else
        let b := x.batchFrom u
        (s.giveBatch l x c b).modLaunch l (fun x => { x with undealt := u + b.left, round := [c] })
    | none => s

/-! ### Completion (R23, R138) -/

/-- A channel is persistent on a core. -/
def CoreSt.lasting (k : CoreSt) (ch : Nat) : Bool := ((k.handler ch).map Handler.persistent).getD false

/-- Nothing of a launch is left on a core but what belongs to persistent channels (R23, R138). What running contained
activations keep in the queues goes with them (R219). -/
def CoreSt.quiet (k : CoreSt) : Bool :=
  k.batches.all (fun b => !b.offers) && k.arrival.all (fun q => q.slot.isSome) && k.oasis == [] && k.reserved == 0 &&
  k.slots.toList.all (fun (t : Slot) => !t.active || k.lasting t.chan) &&
  (List.range 64).all (fun ch => (k.words ch).isEmpty || k.lasting ch) &&
  k.mq == [] && k.cq == [] && k.gq == []

/-- Packets that a launch has sent and that are not acknowledged (R23). -/
def State.unacked (s : State) (l : Nat) : Bool :=
  s.fab.outs.any (fun o => o.1.cls != 1 && o.2.unacked.any (fun p => p.body.owner == some l)) ||
  s.net.any (fun m => s.outgoing m && !isResponse m.body && m.owner == some l)

/-- Every context of a launch is quiet. -/
def State.quiet (s : State) (l : Nat) (x : Launch) : Bool :=
  x.sites.all (fun c => (s.core c).launch != some l || (s.core c).quiet) &&
  s.images.all (fun (p : Nat × Image) => p.2.launch != l || p.2.core.quiet)

/-- A launch is complete (R23). -/
def State.complete (s : State) (l : Nat) (x : Launch) : Bool :=
  x.state == .running && !x.persistent && x.ending.isNone && x.allDealt && x.ahead == [] && s.quiet l x && !s.unacked l &&
  !s.net.any (fun m => s.ownMsg l m && (match m.body with | .list .. => false | _ => true)) &&
  !s.fab.sends.any (fun m => m.launch == l)

/-- LAUNCH_COMPLETE: the cores are written back first; a line that the host holds makes it wait (R164, R246). -/
def State.completeLaunch (s : State) (l : Nat) : State :=
  match find s.launches l with
  | none => s
  | some x =>
    if !s.complete l x then s
    else
      let s := x.sites.foldl (fun (s : State) c => (s.drainAll c).handOverAll c) s
      if x.sites.all (fun c => (s.core c).wb == []) then s.finish l .done 0 else s

/-! ### Tear-down (R188, R194) -/

/-- A slot that stalls in DLAUNCH, with the address of its header. -/
def Slot.stalledHeader (t : Slot) : Option Word :=
  match t.wait with
  | .stall | .full .device => match decodeWord t.bundle.word with
    | .ok (_, .dlaunch a) => some (if a = 0 then 0 else t.bundle.rdX.get a.toFin)
    | _ => none
  | .answer .header a _ | .hostRead .header a _ _ => some a
  | _ => none

/-- The header that a DLAUNCH of a core names, as an LSU load reads it once the core's stores have drained (R308). -/
def State.headerAt (s : State) (c asid : Nat) (a : Word) : Option (List Word) :=
  match spaceOf s.pkg a with
  | .lm off => if (s.core c).lmBad off 64 then none else some (headerWords ((s.core c).lm.bytes off 64))
  | .global => (s.dispBytes asid a.toNat 64).map headerWords
  | _ => none

/-- The headers that have not retired when a core's slots stop: they are discarded (R188). -/
def State.discarded (s : State) (c asid : Nat) : List (List Word) :=
  (s.core c).slots.toList.filterMap (fun t =>
    if t.active then t.stalledHeader.bind (s.headerAt c asid) else none)

/-- An ending launch leaves a core, unless a store of it or a completion word still waits for the host or for a commit: its
transactions end without effect, its retired headers are handed over, and the completion words of the others say CANCELLED
(R188, R246). -/
def State.leaveEnding (s : State) (l c asid : Nat) : Bool × State :=
  let s := ((List.range 4).foldl (fun (s : State) i => s.modSlot c i (fun t => { t with txn := none })) s).drainAll c
  if (s.core c).wb ≠ [] then (false, s)
  else
    let ws := s.discarded c asid
    let held := s.heldWords (some l) (ws.map (fun w => (asid, w)))
    if held ≠ [] then (false, s.snoopWords held)
    else
      let s := ws.foldl (fun (s : State) w => s.writeCompletion asid w .cancelled 0) (s.handOverAll c)
      let o := (s.core c).origin
      (true, (s.vacateCore c).modLaunch l (fun x => { x with places := del x.places o }))

/-- TEARDOWN of an ending launch on a core: retired headers are handed over, others cancelled, and the core is
released; the last core's tear-down ends the launch (R188). -/
def State.tearDown (s : State) (l c : Nat) : State :=
  match find s.launches l with
  | none => s
  | some x => match x.ending with
    | none => s
    | some (st, cause) =>
      let (left, s) := if (s.core c).launch = some l then s.leaveEnding l c x.asid else (true, s)
      match find s.launches l with
      | some y => if left && y.sites.all (fun n => (s.core n).launch != some l) then s.finish l st cause else s
      | none => s

/-- Launches that a tear-down by the host names (R194). -/
def State.named (s : State) (asid id : Nat) : List Nat :=
  (s.launches.map Prod.fst).filter (fun l => match find s.launches l with
    | some x => x.asid == asid && (id == 0 || x.id == id)
    | none => false)

/-- A write to LKILL with BUSY = 0 (R194, Table 8.4). -/
def State.kill (s : State) (v : Word) : State :=
  if s.disp.lkillBusy then s
  else
    let asid := bits v 47 32
    let id := bits v 15 0
    let s := (s.named asid id).foldl (fun (s : State) l => s.endLaunch l .killed 0) s
    { s with disp := { s.disp with lkill := BitVec.ofNat 64 (asid * 2 ^ 32 + id), lkillBusy := true } }

/-- LKILL_COMPLETE: every completion word concerned has been written (R194). -/
def State.killed (s : State) : State :=
  let v := s.disp.lkill
  if s.disp.lkillBusy && (s.named (bits v 47 32) (bits v 15 0)).all (fun l =>
      ((find s.launches l).bind Launch.ending).isNone) then
    { s with disp := { s.disp with lkillBusy := false } }
  else s

/-! ### Invalidation by the host (R128) -/

/-- A leaf of an ASID that an invalidation covers. -/
def State.covered (s : State) (v : Word) (t : TlbEntry) : Bool :=
  let lo := s.disp.tinvva.toNat / 65536 * 65536
  let hi := lo + (bits v 47 32 + 1) * 65536
  t.asid == bits v 15 0 && (bitAt v 16 || (decide (t.va < hi) && decide (lo < t.va + t.size)))

/-- A write to TINVCTL with BUSY = 0 (R128). -/
def State.invalidate (s : State) (v : Word) : State :=
  if s.disp.tinvBusy then s
  else
    let asid := bits v 15 0
    let keep := v &&& 0x0000FFFF0003FFFF
    let s := { s with tlb := s.tlb.filter (fun t => !s.covered v t) }
    let s := if bitAt v 17 then
        let mine := (s.cores.filter (fun (p : Nat × CoreSt) => s.asidOf p.1 == asid)).map Prod.fst
        let s := mine.foldl (fun (s : State) c => (s.drainAll c).abortCore c) s
        { s with cores := s.cores.map (fun (p : Nat × CoreSt) => (p.1, { p.2 with
            l1d := p.2.l1d.filter (fun l => l.asid != asid), l1i := p.2.l1i.filter (fun e => e.1 != asid) })) }
      else s
    { s with disp := { s.disp with tinvctl := keep, tinvBusy := true } }

/-- TINV_COMPLETE: every access translated under a removed entry has completed (R127, R128). -/
def State.invalidated (s : State) : State :=
  if !s.disp.tinvBusy then s
  else
    let asid := bits s.disp.tinvctl 15 0
    let s := s.drainAsid asid
    if s.translatedOpen asid then s else { s with disp := { s.disp with tinvBusy := false } }

/-! ### The meanings -/

/-- QREC_WRITE (R182). -/
def execQrecWrite (q : Nat) (deferrable : Bool) (rec_ : List Word) (s : State) : Host.Outcome State Fault Refusal :=
  .next (s.qrec q deferrable rec_)

/-- LAUNCH_ACCEPT (R183). -/
def execLaunchAccept (s : State) : Host.Outcome State Fault Refusal := .next s.accept

/-- LAUNCH_READY (R184). -/
def execLaunchReady (l : Nat) (s : State) : Host.Outcome State Fault Refusal := .next (s.ready l)

/-- WAIT_COUNTER_READ (R186). -/
def execWaitCounterRead (l : Nat) (s : State) : Host.Outcome State Fault Refusal := .next (s.readCounter l)

/-- LAUNCH_COMPLETE (R23). -/
def execLaunchComplete (l : Nat) (s : State) : Host.Outcome State Fault Refusal := .next (s.completeLaunch l)

/-- BATCH_DEAL (R27). -/
def execBatchDeal (l c : Nat) (s : State) : Host.Outcome State Fault Refusal := .next (s.dealBatch l c)

/-- LAUNCH_START (R164). -/
def execLaunchStart (l c : Nat) (s : State) : Host.Outcome State Fault Refusal := .next (s.start l c)

/-- TEARDOWN (R188). -/
def execTeardown (l c : Nat) (s : State) : Host.Outcome State Fault Refusal := .next (s.tearDown l c)

/-- SUB_DISPATCH (R187). -/
def execSubDispatch (die : Nat) (s : State) : Host.Outcome State Fault Refusal := .next (s.subDispatch die)

/-- TINVCTL with ALL = 0 (R128). -/
def execTinvctlRange (v : Word) (s : State) : Host.Outcome State Fault Refusal :=
  .next (s.overLinks (fun s => if bitAt v 16 then s else s.invalidate v))

/-- TINVCTL with ALL = 1 (R128). -/
def execTinvctlAll (v : Word) (s : State) : Host.Outcome State Fault Refusal :=
  .next (s.overLinks (fun s => if bitAt v 16 then s.invalidate v else s))

/-- LKILL of one launch (R194). -/
def execLkillLaunch (v : Word) (s : State) : Host.Outcome State Fault Refusal :=
  .next (s.overLinks (fun s => if bits v 15 0 = 0 then s else s.kill v))

/-- LKILL of every launch of an ASID (R194). -/
def execLkillAsid (v : Word) (s : State) : Host.Outcome State Fault Refusal :=
  .next (s.overLinks (fun s => if bits v 15 0 = 0 then s.kill v else s))

/-- TINV_COMPLETE (R128). -/
def execTinvComplete (s : State) : Host.Outcome State Fault Refusal := .next s.invalidated

/-- LKILL_COMPLETE (R194). -/
def execLkillComplete (s : State) : Host.Outcome State Fault Refusal := .next s.killed

end Sys2Proof.Machine
end

