-- ==== Sys2Proof/Machine/Image.lean ====
section
/-!
DEFINITION. The save image of a core's context (09_traps R204 to R206): the bytes that the save engine writes, and the
context as a restore reads it back (01_device R14, R209).
-/
namespace Sys2Proof.Machine

/-! ### Writing an image (R204 to R206) -/

/-- The doublewords of Table 9.3. -/
def Slot.tailWords (t : Slot) : List Word :=
  let status := 2 ^ 63 * bit t.active + 2 ^ 62 * bit t.h + 2 ^ 61 * bit t.barWait + 2 ^ 60 * bit t.mswapPending +
    2 ^ 56 * (t.inlineDepth % 16) + 2 ^ 48 * (t.chan % 64) + t.barGen.toNat
  [t.pc, wordN status, wordN (8 * bit t.fz + t.rm), wordN t.fflags.toNat, t.srseed, t.gen, t.lmb, t.linkmap.setWidth 64,
   t.wid, t.tcause, t.tval, t.tpc, t.tscr, t.tstat, t.tage.getD 0, t.rptst, t.rptpc, rptstOf t.loop,
   (t.loop.map LoopSt.body).getD 0, t.mfmta.setWidth 64, t.mfmtb.setWidth 64, t.mfmtc.setWidth 64, t.mscla, t.msclb,
   wordN t.chkmode, wordN (2 ^ 63 * bit t.wdogFired + t.watch % 2 ^ 63), wordN t.retired, wordN (t.claim % 128), t.barAddr,
   0, 0, 0]

/-- The bytes of doublewords. -/
def wordsBytes (ws : List Word) : List Byte := ws.flatMap (fun w => bytesOfNat 8 w.toNat)

/-- The tail of a slot (R206): x0 as 0, x1 to x31, v0 to v31, the control area. -/
def Slot.tail (t : Slot) : List Byte :=
  wordsBytes (0 :: t.x.toList.drop 1) ++ t.v.toList.flatMap (fun v => bytesOfNat 16 v.toNat) ++ wordsBytes t.tailWords

/-- TAIL_WRITE (R206): the tails of the four slots are written to LM. -/
def CoreSt.writeTails (k : CoreSt) : CoreSt :=
  (List.range 4).foldl (fun k i => k.lmWrite (0x1F000 + 1024 * i) (k.slot i).tail) k

/-- A list of bytes cut or filled with zeros to a size. -/
def fill0 (n : Nat) (bs : List Byte) : List Byte := (List.range n).map (fun i => bs.getD i 0)

/-- An entry of the handler table in Table 2.5's layout. -/
def Handler.word (h : Handler) : Word :=
  wordN (2 ^ 63 * bit h.valid + 2 ^ 62 * bit h.multi + 2 ^ 61 * bit h.contained + 2 ^ 60 * bit h.persistent +
    2 ^ 59 * bit h.mask + 2 ^ 57 * (h.prio % 4) + 2 ^ 51 * ((h.threshold - 1) % 64) + h.offset.toNat)

/-- The base of a core's oasis (R278). -/
def oasisBase (pkg c : Nat) : Nat :=
  let place := 96 * 2 ^ 30 - 256 * 2 ^ 20 + 0x18000 * diePlace c
  pkg * 2 ^ 42 + place / 4096 * 32768 + dieOf c * 4096 + place % 4096

/-- What a byte of a stack's reserved area belongs to (R278): an entry of the oasis of a core, by its place in the die (R10),
which CoreSt.oasis holds, or firmware's tables, which the model holds in Tele.spares, State.launches and Launch.ranks. -/
inductive Reserved where
  | oasis (die core entry byte : Nat)
  | tables (die byte : Nat)
  deriving DecidableEq, Repr

/-- The part of the reserved areas that an offset of device memory lies in: from the start of a stack's top 256 MiB the oases
of its die's cores, 96 KiB each, and at 0xC00_0000 the tables (R120, R278). No page table names these pages, and the host
cannot reach them (R120, R242). -/
def reservedPart (off : Nat) : Option Reserved :=
  let die := off / 4096 % 8
  let place := off / 32768 * 4096 + off % 4096
  let top := 96 * 2 ^ 30 - 256 * 2 ^ 20
  if place < top ∨ 96 * 2 ^ 30 ≤ place then none
  else
    let rel := place - top
    if rel < 0xC000000 then some (.oasis die (rel / 0x18000) (rel % 0x18000 / 96) (rel % 96))
    else some (.tables die (rel - 0xC000000))

/-- The code of a bank's kind in an image (log 18). -/
def BankKind.code : BankKind → Nat
  | .any => 0
  | .fp32 => 1
  | .i32 => 2
  | .fp64 => 3

/-- The kind of a code. -/
def kindOf (n : Nat) : BankKind :=
  match n % 4 with
  | 1 => .fp32
  | 2 => .i32
  | 3 => .fp64
  | _ => .any

/-- A bank's status, in the layout of Table 6.13, and its kind: four bytes of the core state block (R205, R409, log 18). -/
def Bank.saved (b : Bank) : List Byte := bytesOfNat 4 (b.kind.code * 2 ^ 16 + b.status % 2 ^ 16)

/-- The redelivery count that an image holds for a batch: that of its first returned item (R205, R220, log 18). -/
def Batch.tries (b : Batch) : Nat := (b.back.head?.map Prod.snd).getD 0

/-- A batch with that count. -/
def Batch.withTries (b : Batch) (n : Nat) : Batch :=
  { b with back := match b.back with
      | p :: r => (p.1, n) :: r
      | [] => [] }

/-- The redelivery counts that an image holds for channels: those of the oldest words of up to 9 FIFOs, each with its channel
(R205, R220, log 18). -/
def CoreSt.fifoTries (k : CoreSt) : List Nat :=
  (k.fifos.filterMap (fun p => p.2.head?.bind (fun w => if 0 < w.tries then some (p.1 % 64 * 4 + w.tries % 4) else none))).take 9

/-- The count of a channel among those that an image holds. -/
def triesOf (counts : List Nat) (ch : Nat) : Option Nat := (counts.find? (fun b => b != 0 && b / 4 == ch)).map (· % 4)

/-- The core state block (Table 9.4). A command stops with whole
chunks of 64 k done, and so with no row of the next one. -/
def CoreSt.stateBlock (k : CoreSt) (pkg c : Nat) : List Byte :=
  let claimed := fun (ch : Nat) => ((List.range 4).map (fun i =>
    if (k.slot i).active ∧ (k.slot i).chan = ch then (k.slot i).claim else 0)).sum
  let chans := (List.range 64).flatMap (fun ch =>
    bytesOfNat 2 ((listOf k.fifos ch).length % 256 * 256 + claimed ch % 256))
  let batches := fill0 32 (k.batches.flatMap (fun b => bytesOfNat 8 b.first))
  let kDone := match k.mq with
    | e :: _ => (e.run.map MRun.kDone).getD 0
    | [] => 0
  let (desc, next) := match k.gq with
    | o :: _ => (o.desc, o.next)
    | [] => (0, 0)
  chans ++ batches ++
  wordsBytes [wordN (k.oasis.length * 2 ^ 32 + k.arrival.length * 2 ^ 16 + k.children % 2 ^ 16), wordN (oasisBase pkg c), k.tvec] ++
  [k.acc0w, k.acc0v, k.acc1w, k.acc1v].flatMap Bank.saved ++ wordsBytes [wordN kDone, 0, desc, wordN next] ++
  bytesOfNat 2 k.cimLoaded.toNat ++ bytesOfNat 4 (packLanes 2 (k.arrival.map (fun q => q.tries % 4))) ++
  bytesOfNat 1 (packLanes 2 (k.batches.map (fun b => b.tries % 4))) ++
  (List.range 9).flatMap (fun n => bytesOfNat 1 (k.fifoTries.getD n 0)) ++
  wordsBytes [wordN (k.topk * 2 ^ 16 + k.splim)]

/-- An entry of the saved copy queue (Table 9.2): the operands at issue, and the bytes done. -/
def CopyOp.saved (o : CopyOp) : List Byte :=
  let ctl := o.srcTy.toNat * 2 ^ 56 + o.dstTy.toNat * 2 ^ 52 + (o.sw.getD 0) * 2 ^ 32 + o.length
  wordsBytes [o.dst, o.src, wordN ctl, wordN (o.done * o.widths.2 / 8)]

/-- A binding in the saved stream state (Table 9.2): the descriptor of Table 6.2, and the next element's index. -/
def StreamSt.saved (x : StreamSt) : List Byte :=
  let half := fun (v : Int) => (BitVec.ofInt 32 v).toNat
  wordsBytes [x.base, wordN (x.count2 * 2 ^ 32 + x.count1 * 2 ^ 16 + x.count0), wordN (half x.stride2 * 2 ^ 32 + half x.stride1),
    wordN (2 ^ 32 * bit x.isWrite + half x.stride0), wordN x.next, 0]

/-- The 368 KiB of a save image (Table 9.2). `free` stands where the spec gives a size and no layout (log 18). -/
def CoreSt.image (k : CoreSt) (pkg c : Nat) (free : Nat → List Byte) : List Byte :=
  let queueWords := fun (ch : Nat) => fill0 512 (wordsBytes ((listOf k.fifos ch).map (fun w => w.word.val)))
  let record := fun (e : MEntry) => if e.marker.isSome then free 64 else fill0 64 (wordsBytes e.words)
  let stream := fun (i r : Nat) => match find (k.slot i).streams (24 + r) with
    | some x => x.saved
    | none => fill0 48 []
  let port := fun (p : Nat) => fill0 32 (wordsBytes (listOf k.ports p))
  k.lm.bytes 0 0x20000 ++ k.abuf.bytes 0 0x10000 ++ k.wbuf.bytes 0 0x10000 ++
  k.acc0w.data.bytes 0 0x4000 ++ k.acc0v.data.bytes 0 0x4000 ++ k.acc1w.data.bytes 0 0x4000 ++ k.acc1v.data.bytes 0 0x4000 ++
  (List.range 64).flatMap queueWords ++ k.zmap.bytes 0 4096 ++
  (List.range 16).flatMap (fun n => Memory.bytes ((find k.cimExp n).getD []) 0 128) ++
  fill0 512 (wordsBytes (k.table.map Handler.word)) ++ free 1536 ++ fill0 1024 (k.mq.flatMap record) ++
  (List.range 4).flatMap (fun i => (k.slot i).staging.bytes 0 64) ++ k.stateBlock pkg c ++
  fill0 512 (k.cq.flatMap CopyOp.saved) ++ free 3072 ++
  (List.range 4).flatMap (fun i => (List.range 8).flatMap (stream i)) ++ (List.range 4).flatMap port ++
  fill0 64 (wordsBytes ((List.range 4).map (fun p => wordN (listOf k.ports p).length))) ++ fill0 1344 []

/-! ### Reading an image (R14, R209) -/

/-- A part of a memory as a memory of its own. -/
def Memory.slice (m : Memory) (base n : Nat) : Memory :=
  (m.filter (fun c => decide (base ≤ c.1) && decide (c.1 < base + n))).map (fun c => (c.1 - base, c.2))

/-- A slot as its tail describes it (Table 9.3). What the tail does not hold stays with the context. -/
def Slot.reload (t : Slot) (m : Memory) (base : Nat) : Slot :=
  let w := fun off => m.word (base + off)
  let status := w 0x308
  let fp := w 0x310
  let st := w 0x368
  { t with
    x := Vector.ofFn (fun r => if r.val = 0 then t.x.get r else w (8 * r.val))
    v := Vector.ofFn (fun r => BitVec.ofNat 128 (m.num (base + 0x100 + 16 * r.val) 16))
    pc := w 0x300, active := bitAt status 63, h := bitAt status 62, barWait := bitAt status 61
    mswapPending := bitAt status 60, inlineDepth := bits status 59 56, chan := bits status 53 48
    barGen := status.setWidth 32, rm := bits fp 2 0, fz := bitAt fp 3, fflags := Flags.ofWord (w 0x318)
    srseed := w 0x320, gen := w 0x328, lmb := w 0x330, linkmap := (w 0x338).setWidth 9, wid := w 0x340
    tcause := w 0x348, tval := w 0x350, tpc := w 0x358, tscr := w 0x360
    tcode := st.extractLsb' 8 8, tabort := st.extractLsb' 0 8, tage := if bitAt st 58 then some (w 0x370) else none
    rptst := w 0x378, rptpc := w 0x380, loop := loopOf (w 0x388) (w 0x390)
    mfmta := (w 0x398).setWidth 12, mfmtb := (w 0x3A0).setWidth 12, mfmtc := (w 0x3A8).setWidth 4
    mscla := w 0x3B0, msclb := w 0x3B8, chkmode := bits (w 0x3C0) 1 0
    watch := bits (w 0x3C8) 62 0, wdogFired := bitAt (w 0x3C8) 63, retired := (w 0x3D0).toNat
    claim := bits (w 0x3D8) 6 0, barAddr := w 0x3E0 }

/-- A bank as the image has it. -/
def Bank.reload (b : Bank) (m : Memory) (data status : Nat) : Bank :=
  let w := m.num status 4
  { b.withStatus (wordN w) with data := m.slice data 0x4000, kind := kindOf (w / 2 ^ 16) }

/-- An entry of the copy queue as the image has it (Table 9.2). -/
def CopyOp.reload (o : CopyOp) (m : Memory) (base : Nat) : CopyOp :=
  let ctl := m.word (base + 16)
  { o with dst := m.word base, src := m.word (base + 8), srcTy := ctl.extractLsb' 56 4, dstTy := ctl.extractLsb' 52 4
           length := bits ctl 31 0, sw := o.sw.map (fun _ => bits ctl 48 32)
           done := bits (m.word (base + 24)) 63 0 * 8 / o.widths.2 }

/-- A binding as the image has it (Tables 6.2 and 9.2). -/
def StreamSt.reload (x : StreamSt) (m : Memory) (base : Nat) : StreamSt :=
  let w := fun n => m.word (base + 8 * n)
  let half := fun (v : Word) (at_ : Nat) => (v.extractLsb' at_ 32).toInt
  { x with base := w 0, count0 := bits (w 1) 15 0, count1 := bits (w 1) 31 16, count2 := bits (w 1) 47 32
           stride0 := half (w 3) 0, stride1 := half (w 2) 0, stride2 := half (w 2) 32, isWrite := bitAt (w 3) 32
           next := (w 4).toNat }

/-- A record of the matrix queue as the image has it, with the k done of a running command (R209). -/
def MEntry.reload (e : MEntry) (m : Memory) (base kDone : Nat) : MEntry :=
  if e.marker.isSome then e
  else { e with words := (List.range e.words.length).map (fun n => m.word (base + 8 * n))
                run := e.run.map (fun r => { r with kDone }) }

/-- A context as its image in memory has it, from an address on (R14, R204, R205, R209). What the image gives no layout for
stays with the context (log 18). -/
def CoreSt.reload (k : CoreSt) (m : Memory) (base : Nat) : CoreSt :=
  let block := base + 0x5A500
  let bank := fun (b : Bank) n => b.reload m (base + 0x40000 + 0x4000 * n) (block + 0xB8 + 4 * n)
  let kDone := (m.word (block + 0xC8)).toNat
  let counts := (List.range 9).map (fun n => m.num (block + 0xEF + n) 1)
  { k with
    lm := m.slice base 0x20000, abuf := m.slice (base + 0x20000) 0x10000, wbuf := m.slice (base + 0x30000) 0x10000
    acc0w := bank k.acc0w 0, acc0v := bank k.acc0v 1, acc1w := bank k.acc1w 2, acc1v := bank k.acc1v 3
    fifos := k.fifos.map (fun p => (p.1, p.2.mapIdx (fun n (w : FifoWord) =>
      { w with word := { w.word with val := m.word (base + 0x50000 + 512 * p.1 + 8 * n) }
               tries := if n = 0 then (triesOf counts p.1).getD w.tries else w.tries })))
    zmap := m.slice (base + 0x58000) 4096
    cimExp := (List.range 16).filterMap (fun n =>
      let x := m.slice (base + 0x59000 + 128 * n) 128
      if x = [] ∧ (find k.cimExp n).isNone = true then none else some (n, x))
    table := k.table.mapIdx (fun n _ => handlerOf (m.word (base + 0x59800 + 8 * n)))
    mq := k.mq.mapIdx (fun n e => e.reload m (base + 0x5A000 + 64 * n) kDone)
    children := bits (m.word (block + 0xA0)) 15 0, tvec := m.word (block + 0xB0)
    gq := k.gq.mapIdx (fun n o => if n = 0 then { o with next := (m.word (block + 0xE0)).toNat } else o)
    cimLoaded := (m.word (block + 0xE8)).setWidth 16
    arrival := k.arrival.mapIdx (fun n (q : QMsg) => { q with tries := m.num (block + 0xEA) 4 / 4 ^ n % 4 })
    batches := k.batches.mapIdx (fun n (b : Batch) => b.withTries (m.num (block + 0xEE) 1 / 4 ^ n % 4))
    splim := bits (m.word (block + 0xF8)) 10 0, topk := bits (m.word (block + 0xF8)) 20 16
    cq := k.cq.mapIdx (fun n o => o.reload m (base + 0x5A600 + 32 * n))
    ports := k.ports.map (fun p => (p.1, p.2.mapIdx (fun n _ => m.word (base + 0x5BA00 + 32 * p.1 + 8 * n))))
    slots := Vector.ofFn (fun i =>
      let t := (k.slots.get i).reload m (base + 0x1F000 + 1024 * i.val)
      { t with
        staging := m.slice (base + 0x5A400 + 64 * i.val) 64
        streams := t.streams.map (fun p => (p.1, p.2.reload m (base + 0x5B400 + 384 * i.val + 48 * (p.1 - 24)))) }) }

end Sys2Proof.Machine
end

