-- ==== Sys2Proof/Machine/Save.lean ====
section
/-!
DEFINITION. Turns of tenancy classes (08_scheduling R192), pre-emption, the save image, restore and live migration
(09_traps R202 to R211), and the retirement of a core (R215, R216).
-/
namespace Sys2Proof.Machine

/-! ### Turns (R192) -/

/-- The classes that may have a turn on a core: those of weight 0 only when no other class is active. -/
def State.turnClasses (s : State) (c : Nat) : List Nat :=
  let act := s.activeClasses c
  let heavy := act.filter (fun x => decide (0 < s.disp.weight x))
  if heavy = [] then act else heavy

/-- The turn of a core's class is over, or the core has had none. -/
def State.turnOver (s : State) (c : Nat) : Bool :=
  let k := s.core c
  let act := s.turnClasses c
  !act.isEmpty && k.stage == .running &&
  match k.launch, k.lastClass with
  | none, some cls => k.turnLeft == 0 || !act.contains cls
  | none, none => true
  | some _, some cls => k.turnLeft == 0 && act.all (· == cls)
  | some _, none => act.length == 1

/-- The class after the last one served, in round-robin order. -/
def nextClass (last : Option Nat) (act : List Nat) : Nat :=
  let start := match last with
    | some n => n + 1
    | none => 0
  ((((List.range 16).map (fun n => (start + n) % 16)).find? act.contains)).getD 0

/-- A class begins its turn on a core, and the class before it is charged with what it used (R192). A share that is no whole
number of cycles is cut to one (DESIGN CHOICE, log 65). Classes of weight 0 alone have a whole quantum each, in turn (DESIGN
CHOICE, log 52). -/
def State.turnTo (s : State) (c cls : Nat) : State :=
  let k := s.core c
  let wmax := ((cls :: s.turnClasses c).map s.disp.weight).foldl max 0
  let kept := k.deficits.filter (fun p => (s.activeClasses c).contains p.1)
  let kept := match k.lastClass with
    | some last => if (s.activeClasses c).contains last then put kept last ((find k.deficits last).getD 0 - k.turnUsed) else kept
    | none => kept
  let share : Int := if wmax = 0 then Config.quantum else Config.quantum * s.disp.weight cls / wmax
  let d := (find kept cls).getD 0
  let d := if d ≤ 0 then d + share else d
  let turn := min Config.quantum d.toNat
  s.setCore c { k with deficits := put kept cls d, lastClass := some cls, turnLeft := turn, turnUsed := 0 }

/-- CLASS_TURN_END: the next class begins its turn (R192). -/
def State.turnEnd (s : State) (c : Nat) : State :=
  if s.turnOver c then s.turnTo c (nextClass (s.core c).lastClass (s.turnClasses c)) else s

/-- A launch's context comes to a core in a turn of its class (R192, R207). -/
def State.turnFor (s : State) (c l : Nat) : State :=
  let cls := ((find s.launches l).map Launch.cls).getD 0
  if (s.core c).lastClass = some cls then s else s.turnTo c cls

/-- A core must give its launch up: to a ready launch of its class of higher effective priority (R190), or to another
class as its turn ends, asked for 16,384 cycles before; a class of weight 0 has no turn while a class of another weight is
active (R192). -/
def State.mustYield (s : State) (c : Nat) : Bool :=
  let k := s.core c
  match k.launch, k.lastClass with
  | some l, some cls =>
    let higher := (s.rivals c cls).any (fun m => decide (s.prioOf l < s.prioOf m))
    let act := s.turnClasses c
    higher || (act.any (· != cls) && (decide (k.turnLeft ≤ Config.preemptLead) || !act.contains cls))
  | _, _ => false

/-- Images in use or promised to a core that stops (R204). -/
def State.imagesUsed (s : State) : Nat :=
  s.images.length + (s.cores.filter (fun (p : Nat × CoreSt) => match p.2.stage with
    | .requested _ | .stopping none _ => true
    | _ => false)).length

/-- The save pool has a free image (R204, R278). -/
def State.imageFree (s : State) : Bool :=
  match s.disp.savepool with
  | some (_, n) => decide (s.imagesUsed < n)
  | none => false

/-- A context may leave a core: one of its NI's 64 forwarding entries is free (R211). -/
def CoreSt.mayLeave (k : CoreSt) : Bool := decide (k.forwards.length < 64)

/-- PREEMPTION_REQUEST (R192). -/
def State.requestPreempt (s : State) (c : Nat) : State :=
  if (s.core c).stage == .running && s.mustYield c && s.imageFree && (s.core c).mayLeave then
    s.modCore c (fun k => { k with stage := .requested s.cycle })
  else s

/-! ### The save engine of a sector (R192, R206) -/

/-- Cycles that the engine takes for one image (R206). -/
def imageCycles : Nat := 4858

/-- The engine moves an image for a core, or has taken its save and waits for it to stop. -/
def CoreSt.streams (k : CoreSt) : Bool :=
  match k.stage with
  | .stopping none _ | .saving _ | .restoring _ => true
  | _ => false

/-- The engine of a core's sector moves no other core's image. -/
def State.engineIdle (s : State) (c : Nat) : Bool :=
  s.cores.all (fun (p : Nat × CoreSt) => p.1 == c || sectorOf p.1 != sectorOf c || !p.2.streams)

/-- A core is the first core of a waiting class. -/
def State.isFirst (s : State) (c : Nat) : Bool := s.disp.firstCores.any (fun p => p.2 == c)

/-- A core that is free may take a context of a launch now: it is the launch the core should hold, or nobody wants the
core. -/
def State.mayTake (s : State) (c l : Nat) : Bool :=
  (s.core c).free && (s.chosen c == some l || (s.activeClasses c).isEmpty)

/-- A core that is free may take a context of a launch together with the launch's others: nobody wants the core, or the
launch's class may have a turn there and no launch of the class goes before it (R190, R192, R207). -/
def State.mayJoin (s : State) (c l : Nat) : Bool :=
  let cls := ((find s.launches l).map Launch.cls).getD 0
  (s.core c).free && ((s.activeClasses c).isEmpty || ((s.turnClasses c).contains cls && (s.rivals c cls).contains l &&
    !(s.rivals c cls).any (fun m => decide (s.prioOf l < s.prioOf m))))

/-- A request for the save engines: whether it is of a first-core switch, since when it stands, and the cores whose
sectors' engines it needs. -/
structure EngineAsk where
  first : Bool
  since : Nat
  cores : List Nat
  deriving DecidableEq, Repr

/-! ### The bytes of an image -/

/-- Free values for the bytes of an image that the spec gives no layout for (log 18). -/
def State.freeBytes (s : State) (n : Nat) : List Byte := (List.range n).map (fun j => Config.freeByte (s.fresh + j))

/-! ### Stopping a core (R202) -/

/-- A wait that ends before its core stops (R202 step 1): for an answer that the bundle needs, for an ASINV's drain (R290), or
for the hand-back of a caravan (step 3). -/
def Wait.answered : Wait → Bool
  | .answer .. | .barAnswer .. | .hostRead .. | .spawn _ | .asinv .. | .handBack _ | .parted _ => true
  | _ => false

/-- The running matrix command stands at its boundary (R202 step 4). -/
def CoreSt.atBoundary (k : CoreSt) (now : Nat) : Bool :=
  match k.mq with
  | e :: _ => match e.run with
    | some r => decide (r.boundary e.k ≤ now)
    | none => true
  | [] => true

/-- The slots stand at bundle boundaries, outside a caravan, the running matrix command at its own, no element of a GATHER or
SCATTER is on its way, and the write buffer is empty (R202 steps 1, 3, 4, 6, 7). -/
def CoreSt.still (k : CoreSt) (now : Nat) : Bool :=
  k.atBoundary now && k.caravan.isNone &&
  k.slots.toList.all (fun (t : Slot) => !t.active || (!t.wait.answered && !((t.txn.map Txn.committing).getD false))) &&
  k.gq.all (fun o => o.outstanding == 0) && k.wb == []

/-- What a core asks of the engines: a save, a restore of an image that is kept for it, or, once it stands still, a live
migration, which is no first-core switch (R192). -/
def State.asksEngine (s : State) (c : Nat) : Option EngineAsk :=
  match (s.core c).stage with
  | .requested t => some ⟨s.isFirst c, t, [c]⟩
  | .loading n t => if (find s.images n).isSome then some ⟨s.isFirst c, t, [c]⟩ else none
  | .stopping (some d) t => if (s.core c).still s.cycle then some ⟨false, t, [c, d]⟩ else none
  | _ => none

/-- Two requests need the engine of one sector. -/
def EngineAsk.meets (a b : EngineAsk) : Bool := a.cores.any (fun c => b.cores.any (fun d => sectorOf c == sectorOf d))

/-- The engines serve request a of core c before request b of core d: first-core switches first, then in request order
(R192). -/
def EngineAsk.before (a : EngineAsk) (c : Nat) (b : EngineAsk) (d : Nat) : Bool :=
  if a.first != b.first then a.first else decide (a.since < b.since) || (a.since == b.since && decide (c < d))

/-- A core's request is the next that its engines serve: they are idle, and no request that needs one of them goes before. -/
def State.engineNext (s : State) (c : Nat) : Bool :=
  match s.asksEngine c with
  | none => false
  | some a => a.cores.all s.engineIdle && s.cores.all (fun (p : Nat × CoreSt) => p.1 == c || match s.asksEngine p.1 with
    | some b => !a.meets b || a.before c b p.1
    | none => true)

/-- The caravan of a slot is released for a pre-emption (R260): at a bundle boundary, an open transaction having aborted and a
blocked bundle being abandoned, the hand-back begins; a COMPOSE that has not retired is abandoned, its grant undone (R261). -/
def State.partCaravan (s : State) (c i : Nat) : State :=
  match (s.slot c i).wait with
  | .compose .. => (s.freeCaravan c i).modSlot c i (fun t => { t with wait := .none })
  | _ =>
    if (s.slot c i).cvsize ≤ 1 || !(s.slot c i).atBoundary then s
    else
      let s := if (s.slot c i).txn.isSome then s.abortTxn c i .preempt 0 else s
      (s.leaveWait c i).part c i

/-- The caravan that a core belongs to is released. -/
def State.partMember (s : State) (c : Nat) : State :=
  match (s.core c).caravan with
  | some m => s.partCaravan m.anchor m.slot
  | none => s

/-- The caravans that a stopping core has to do with are released: the one that it belongs to, and what its slots compose. -/
def State.partCore (s : State) (c : Nat) : State :=
  (List.range 4).foldl (fun (s : State) i => if (s.slot c i).active then s.partCaravan c i else s) (s.partMember c)

/-- A slot as it is saved: pending writes landed, waits abandoned, read-ahead discarded (R59, R133, R202). -/
def Slot.halt (t : Slot) : Slot :=
  { t.landAll with
    wait := .none, streams := t.streams.map (fun p => (p.1, { p.2 with ahead := [] })) }

/-- A matrix command that is stopped at a 64-k boundary records its events (R101). -/
def CoreSt.recordStopped (k : CoreSt) : CoreSt :=
  match k.mq with
  | e :: _ => match e.run with
    | some r => k.recordEvents e r
    | none => k
  | [] => k

/-- Steps 2 and 5 to 9 of R202 on a core whose slots stand still. -/
def State.halt (s : State) (c : Nat) : State :=
  let s := (List.range 4).foldl (fun (s : State) i =>
    if (s.slot c i).txn.isSome then s.abortTxn c i .preempt 0 else s) s
  let s := (List.range 4).foldl (fun (s : State) i => if (s.slot c i).active then s.leaveWait c i else s) s
  let s := (List.range 4).foldl (fun (s : State) i => (s.flushStreams c i).modSlot c i Slot.halt) s
  let s := s.handOverAll c
  let s := s.modCore c CoreSt.recordStopped
  s.modCore c (fun k => ({ k with chrdWaiters := [], l1d := [], l1i := [] }).writeTails)

/-- The poisoned data that a context holds, by Table 9.5's codes and by granules: it moves with the context (R217). -/
def CoreSt.marks (k : CoreSt) : List Nat :=
  let banks := [k.acc0w, k.acc0v, k.acc1w, k.acc1v].flatMap Bank.bad
  let regs := k.slots.toList.flatMap (fun (t : Slot) => if t.active then
    t.poisonX.map (fun r => 0xE000000100000000 + r.toNat) ++ t.poisonV.map (fun r => 0xE000000200000000 + r.toNat) else [])
  let words := k.fifos.flatMap (fun p => p.2.zipIdx.filterMap (fun w =>
    if w.1.word.poison then some (0xE000000400000000 + 64 * p.1 + w.2) else none))
  let code := fun (p : Poison) => match p with
    | .lm g | .abuf g | .wbuf g => g
    | .cim tile => 0xE000000600000000 + tile
  k.poison.map code ++ banks ++ regs ++ words ++
    (k.arrival.zipIdx.filter (fun q => q.1.bad)).map (fun q => 0xE000000300000000 + q.2) ++
    (k.mq.zipIdx.filter (fun e => e.1.bad)).map (fun e => 0xE000000500000000 + e.2)

/-- The poison that a core's context holds moves with it, and is logged (R217, R276). -/
def State.logContext (s : State) (c : Nat) : State := s.logMoved c (s.core c).marks

/-- The lowest place of the save pool that no image has. -/
def State.freeImage (s : State) : Nat :=
  ((List.range (s.images.length + 1)).find? (fun n => s.images.all (fun (p : Nat × Image) => p.2.slot != n))).getD 0

/-- The place of a context in its launch. -/
def State.setPlace (s : State) (l o : Nat) (w : Where) : State :=
  s.modLaunch l (fun x => { x with places := put x.places o w })

/-- The context of a stopped core becomes an image, and the engine begins to stream it (R204). -/
def State.saveImage (s : State) (c l : Nat) : State :=
  let s := (s.halt c).logContext c
  let k := s.core c
  let n := s.serial
  let img : Image := { launch := l, origin := k.origin, site := c, core := k, slot := s.freeImage, written := false }
  let s := { s with images := put s.images n img, serial := n + 1 }.setPlace l k.origin (.image n)
  s.setCore c { k.vacate c with stage := .saving (s.cycle + imageCycles) }

/-- A running matrix command goes on from the k it has done (R209). -/
def MEntry.resumed (e : MEntry) (now : Nat) : MEntry := { e with run := e.run.map (fun r => { r with due := now + r.rest e.k }) }

/-- A context as a core receives it (R195, R209): caches cold, the issue order at its start, ready to issue once the
engine is done. The fill position stays as it was saved (DESIGN CHOICE, log 45), and the 4,096 cycles of R195 count
from the start of the restore (DESIGN CHOICE, log 53). -/
def CoreSt.received (k at_ : CoreSt) (now due : Nat) : CoreSt :=
  { k with
    mq := k.mq.map (fun e => e.resumed due)
    stage := .restoring due, rrIssue := [], l1d := [], l1i := [], wb := [], caravan := none
    deficits := at_.deficits, lastClass := at_.lastClass, turnLeft := at_.turnLeft, turnUsed := at_.turnUsed
    forwards := at_.forwards
    slots := k.slots.map (fun (t : Slot) => { t with notBefore := due, lastIssue := now }) }

/-- The context of a stopped core moves to another, whose engine and its own stream it, or, for a retired core, to the spare
in its place (R210, R216). -/
def State.moveContext (s : State) (c d l : Nat) : State :=
  let s := (s.halt c).logContext c
  let k := s.core c
  let due := s.cycle + imageCycles
  if d = c then (s.setCore c (k.received k s.cycle due)).setPlace l k.origin (.transit c)
  else
    let old := { k.vacate c with stage := .saving due }
    let s := s.setCore c { old with forwards := old.forwards ++ [(l, k.origin, d)] }
    let s := (s.turnFor d l).modCore d (fun at_ => k.received at_ s.cycle due)
    (s.setPlace l k.origin (.transit d)).modLaunch l (fun x => { x with acks := [] })

/-- A matrix command that is done completes, on a stopping core too (R202 step 4). -/
def State.endRun (s : State) (c : Nat) : State :=
  match (s.core c).mq with
  | e :: _ => if e.run.isSome then s.completeMatrix c else s
  | [] => s

/-- A stopping core releases its caravans (R202 step 3); one that stands still is saved, or moved when the engines take it. -/
def State.stopStep (s : State) (c : Nat) : State :=
  let s := ((s.drainAll c).endRun c).partCore c
  match (s.core c).stage, (s.core c).launch with
  | .stopping dest _, some l =>
    if !(s.core c).still s.cycle then s
    else match dest with
      | none => s.saveImage c l
      | some d => if s.engineNext c then s.moveContext c d l else s
  | _, _ => s

/-- PREEMPTION of a core (R202): a request that the engine takes stops the core; once it stands still, its context is
saved. A request whose reason is gone is dropped. -/
def State.preempt (s : State) (c : Nat) : State :=
  match (s.core c).stage with
  | .requested since =>
    if !s.mustYield c then s.modCore c (fun k => { k with stage := .running })
    else if s.engineNext c then (s.modCore c (fun k => { k with stage := .stopping none since })).stopStep c
    else s
  | .stopping .. => s.stopStep c
  | _ => s

/-- The image of the context that left a core goes to the save pool; it waits while the host holds a line of its place or
a commit stands in the way (R176, R204, R246). -/
def State.writeImage (s : State) (c : Nat) : Except State State :=
  match s.images.find? (fun (p : Nat × Image) => p.2.site == c && !p.2.written), s.disp.savepool with
  | some (n, img), some (pa, _) =>
    let bs := img.core.image s.pkg img.origin s.freeBytes
    (s.agentWrite (pa % 2 ^ 42 + Config.imageBytes * img.slot) bs).map (fun t =>
      { t with images := put t.images n { img with written := true }, fresh := t.fresh + Config.imageBytes })
  | _, _ => .ok s

/-- IMAGE_SAVE_DONE: the image lies in the save pool, and the core is free (R204, R206); a class whose turn was about to
end has ended it (R192). -/
def State.imageDone (s : State) (c : Nat) : State :=
  match (s.core c).stage with
  | .saving due =>
    if s.cycle < due then s
    else
      match s.writeImage c with
      | .error t => t
      | .ok s =>
        let others := (s.turnClasses c).any (fun x => some x != (s.core c).lastClass)
        s.modCore c (fun k => { k with
          stage := .running
          turnLeft := if others && decide (k.turnLeft ≤ Config.preemptLead) then 0 else k.turnLeft })
  | _ => s

/-! ### Restore and live migration (R207 to R211) -/

/-- The state of a launch's context, on its core or in its image. -/
def State.contextOf (s : State) (l o : Nat) : Option CoreSt :=
  match (find s.launches l).bind (fun x => find x.places o) with
  | some (.site n) | some (.leaving n) | some (.transit n) => some (s.core n)
  | some (.image n) => (find s.images n).map Image.core
  | none => none

/-- A slot of a context has a link port mapped. -/
def CoreSt.portMapped (k : CoreSt) (p : Nat) : Bool := k.slots.toList.any (fun (t : Slot) => t.linkmap.getLsbD p)

/-- A move from a launch-origin core to a site, as the change of coordinates. -/
def shift (o c : Nat) : Int × Int := ((xOf c : Int) - xOf o, (yOf c : Int) - yOf o)

/-- The core that a move brings a launch-origin core to, inside the grid. -/
def movedTo (d : Int × Int) (o : Nat) : Option Nat :=
  let x := (xOf o : Int) + d.1
  let y := (yOf o : Int) + d.2
  if 0 ≤ x ∧ x < 128 ∧ 0 ≤ y ∧ y < 128 then some (coreAt x.toNat y.toNat) else none

/-- The contexts of a launch that have a mapped port, and those that such a port faces: the block that keeps its relative
positions (R208). -/
def State.portBlock (s : State) (l : Nat) : List Nat :=
  let all := ((find s.launches l).map (fun (x : Launch) => x.places.map Prod.fst)).getD []
  let faced := fun (o : Nat) => (List.range 4).filterMap (fun p => match s.contextOf l o with
    | some k => if k.portMapped p then neighbour o p else none
    | none => none)
  let own := all.filter (fun o => match s.contextOf l o with
    | some k => (List.range 4).any k.portMapped
    | none => false)
  (own ++ (own.flatMap faced).filter all.contains).eraseDups

/-- The contexts that keep their relative positions with one (R207, R208): all of a RELATIVE launch, the linked ones of a
RANK launch. -/
def State.blockOf (s : State) (l o : Nat) : List Nat :=
  match find s.launches l with
  | some x => if x.relative then x.places.map Prod.fst else if (s.portBlock l).contains o then s.portBlock l else [o]
  | none => [o]

/-- The site that a context stands on, leaves or comes to, if it is not in an image. -/
def State.standsAt (s : State) (l o : Nat) : Option Nat :=
  match (find s.launches l).bind (fun x => find x.places o) with
  | some (.site n) | some (.leaving n) | some (.transit n) => some n
  | _ => none

/-- A context may stand at a site (R207, R208): one that keeps no relative position anywhere, and a block by one move, as
far as the grid goes, that agrees with the contexts of it which stand somewhere; a RELATIVE launch moves whole. -/
def State.allowedSite (s : State) (l o c : Nat) : Bool :=
  match find s.launches l with
  | none => false
  | some x =>
    let b := s.blockOf l o
    let d := shift o c
    (b == [o] && !x.relative) ||
    (d.1 % 8 == 0 && d.2 % 8 == 0 && b.all (fun n => (movedTo d n).isSome &&
      (match s.standsAt l n with
      | some m => n == o || shift n m == d
      | none => true)) &&
      (!x.relative || d == (0, 0) || decide (x.places.length = (x.cores s.pkg).length)))

/-- Images of a block that have no place on a core, with the cores that a move brings them to. -/
def State.targets (s : State) (l : Nat) (b : List Nat) (d : Int × Int) : List (Nat × Nat × Nat) :=
  b.filterMap (fun o => match (find s.launches l).bind (fun x => find x.places o), movedTo d o with
    | some (.image n), some c => some (n, o, c)
    | _, _ => none)

/-- The images that one restore brings back (R207, R208, log 31): all those of a block, by one move. -/
def State.restoredWith (s : State) (c : Nat) (img : Image) : List (Nat × Nat × Nat) :=
  s.targets img.launch (s.blockOf img.launch img.origin) (shift img.origin c)

/-- An image is kept for a core already. -/
def State.kept (s : State) (n : Nat) : Bool := s.cores.any (fun (p : Nat × CoreSt) => match p.2.stage with
  | .loading m _ => m == n
  | _ => false)

/-- An image can come back to a core now, as far as the two go (R207). -/
def State.fits (s : State) (n c : Nat) : Bool :=
  match find s.images n with
  | some img => img.written && !s.kept n && s.mayTake c img.launch && s.allowedSite img.launch img.origin c
  | none => false

/-- An image can come back to a core together with another of its block. -/
def State.joins (s : State) (n c : Nat) : Bool :=
  match find s.images n with
  | some img => img.written && !s.kept n && s.mayJoin c img.launch
  | none => false

/-- An image and those of its block can all come back now (R207, R208). -/
def State.restorable (s : State) (n c : Nat) (img : Image) : Bool :=
  s.fits n c && (s.restoredWith c img).all (fun p => p.1 == n || s.joins p.1 p.2.2)

/-- The engine reads an image back from the save pool onto the core that is kept for it (R14, R206, R209). -/
def State.loadImage (s : State) (n c : Nat) (img : Image) : State :=
  let cls := ((find s.launches img.launch).map Launch.cls).getD 0
  let k := match s.disp.savepool with
    | some (pa, _) => img.core.reload s.mem (pa % 2 ^ 42 + Config.imageBytes * img.slot)
    | none => img.core
  let due := s.cycle + imageCycles
  let s := { (s.logMoved c k.marks).turnFor c img.launch with images := del s.images n }
  let s := { s with disp := { s.disp with firstCores := s.disp.firstCores.filter (fun p => p != (cls, c)) } }
  (s.modCore c (fun at_ => k.received at_ s.cycle due)).setPlace img.launch img.origin (.transit c)

/-- A core is kept for an image, whose restore it asks the engine for (R192). -/
def State.keepFor (s : State) (n c : Nat) : State := s.modCore c (fun k => { k with stage := .loading n s.cycle })

/-- RESTORE of an image on a core (R207, R209): the cores that its block needs are kept for it, and the engines load the images
as the requests take their turns (R192). A core whose image has gone with its launch is free again. -/
def State.restoreImage (s : State) (n c : Nat) : State :=
  match (s.core c).stage, find s.images n with
  | .loading m _, some img => if m = n && s.engineNext c then s.loadImage n c img else s
  | .loading m _, none => if m = n then s.modCore c (fun k => { k with stage := .running }) else s
  | _, some img =>
    if s.restorable n c img then (s.restoredWith c img).foldl (fun (s : State) p => s.keepFor p.1 p.2.2) s else s
  | _, none => s

/-- The contexts that leave with one in a live migration, with the cores that they go to; none when one of them cannot
(R207, R208, R210). -/
def State.leaveWith (s : State) (l o d : Nat) : Option (List (Nat × Nat × Nat)) :=
  (s.blockOf l o).mapM (fun n => match (find s.launches l).bind (fun x => find x.places n), movedTo (shift o d) n with
    | some (.site c), some t =>
      if (s.core c).stage == .running && (s.core c).mayLeave && s.mayTake t l then some (n, c, t) else none
    | _, _ => none)

/-- A block may move as a whole: by a multiple of 8 in both directions, or one context that keeps no relative position; a
RELATIVE launch with all its contexts (R207, R208). -/
def State.mayMove (s : State) (l o d : Nat) : Bool :=
  match find s.launches l with
  | none => false
  | some x =>
    let m := shift o d
    (s.blockOf l o == [o] && !x.relative) ||
    (m.1 % 8 == 0 && m.2 % 8 == 0 && (!x.relative || decide (x.places.length = (x.cores s.pkg).length)))

/-- One context of a live migration: its place is in transit, its core stops, and the core that it goes to is kept for it. -/
def State.leaveFor (s : State) (l : Nat) (p : Nat × Nat × Nat) : State :=
  let s := s.modCore p.2.1 (fun k => { k with stage := .stopping (some p.2.2) s.cycle })
  (s.modCore p.2.2 (fun k => { k with stage := .promised p.2.1 })).setPlace l p.1 (.leaving p.2.1)

/-- LIVE_MIGRATION of a core's context to a free core (R208, R210, Table 9.6): its entry and those of its block go in
transit and the generation rises; the old cores stop, and each one that stands still sends its context on when the engines
take it. Nothing is pre-empted before there is a save pool (R278). A core that was kept for a context which has gone with its
launch is free again. -/
def State.migrateLive (s : State) (c d : Nat) : State :=
  let k := s.core c
  let goes := match k.stage with
    | .stopping (some e) _ => e == d
    | _ => false
  if goes then s.stopStep c
  else if (s.core d).stage == .promised c then s.modCore d (fun k => { k with stage := .running })
  else match k.launch with
  | none => s
  | some l =>
    if k.stage == .running && decide (c ≠ d) && s.disp.savepool.isSome && s.mayMove l k.origin d then
      match s.leaveWith l k.origin d with
      | none => s
      | some all =>
        let s := all.foldl (fun (s : State) p => s.leaveFor l p) s
        (s.modLaunch l (fun x => { x with gen := x.gen + 1 })).stopStep c
    else s

/-- NEW_GENERATION_ACK: the NI of a core of the launch acknowledges; when all have, the forwarding entries are freed
(R210). -/
def State.ackGeneration (s : State) (l c : Nat) : State :=
  match find s.launches l with
  | none => s
  | some x =>
    if !x.sites.contains c then s
    else
      let acks := if x.acks.contains c then x.acks else x.acks ++ [c]
      let s := s.modLaunch l (fun x => { x with acks })
      if x.sites.all acks.contains then
        { s with cores := s.cores.map (fun (p : Nat × CoreSt) =>
            (p.1, { p.2 with forwards := p.2.forwards.filter (fun f => f.1 != l) })) }
      else s

/-! ### The checker (R215, R216, R258) -/

/-- The next spare physical core of a die (R216). -/
def Tele.nextSpare (t : Tele) (die : Nat) : Option Nat :=
  ((t.good die).drop 2048).find? (fun p => !t.retired.contains p && t.spares.all (fun x => x.2 != p))

/-- A core that fails for good is retired: a spare takes its logical position, and its context comes back there
(R216). Before SAVEPOOL the launch ends FAULT (DEDUCED, log 59). -/
def State.retireCore (s : State) (c : Nat) : State :=
  match s.tele.nextSpare (dieOf c) with
  | none => s.endLaunchOf c .fault Cause.chk.code
  | some p =>
    let s := s.log evRetired c [p]
    let s := { s with tele := { s.tele with
      retired := s.tele.retired ++ [s.tele.physical c], spares := put s.tele.spares c p } }
    if (s.core c).launch.isNone then s
    else if s.disp.savepool.isNone then s.endLaunchOf c .fault Cause.chk.code
    else (s.modCore c (fun k => { k with stage := .stopping (some c) s.cycle })).stopStep c

/-- CHK for the slot that runs on a core, or for the slot that pushed the running matrix command. -/
def State.raiseChk (s : State) (c i : Nat) (matrix : Bool) : State :=
  if matrix then
    match (s.core c).mq with
    | e :: _ =>
      if (s.slot c e.slot).active && (s.slot c e.slot).act == e.act then s.raiseAsync c e.slot .chk (e.w 0) else s
    | [] => s
  else
    let w := match s.walkWord c i (s.slot c i).pc with
      | .ok w => w.setWidth 64
      | .error _ => (s.slot c i).bundle.word.setWidth 64
    if (s.slot c i).active then s.raiseAsync c i .chk w else s

/-- CHECKER_MISMATCH: one that the second execution does not repeat is logged; one that persists retires the core. In a
caravan the anchor slot takes CHK (R258); for a matrix step the slot that pushed the command does (R216). -/
def State.mismatch (s : State) (c i : Nat) (persists matrix : Bool) : State :=
  if !persists then s.log evCorrected c [i]
  else
    let (a, j) := match (s.core c).caravan with
      | some m => if matrix then (c, i) else (m.anchor, m.slot)
      | none => (c, i)
    ((s.partMember c).raiseChk a j matrix).retireCore c

/-! ### The meanings -/

/-- CLASS_TURN_END (R192). -/
def execClassTurnEnd (c : Nat) (s : State) : Host.Outcome State Fault Refusal := .next (s.turnEnd c)

/-- PREEMPTION_REQUEST (R192). -/
def execPreemptionRequest (c : Nat) (s : State) : Host.Outcome State Fault Refusal := .next (s.requestPreempt c)

/-- PREEMPTION (R202). -/
def execPreemption (c : Nat) (s : State) : Host.Outcome State Fault Refusal := .next (s.preempt c)

/-- IMAGE_SAVE_DONE (R204). -/
def execImageSaveDone (c : Nat) (s : State) : Host.Outcome State Fault Refusal := .next (s.imageDone c)

/-- RESTORE (R209). -/
def execRestore (img c : Nat) (s : State) : Host.Outcome State Fault Refusal := .next (s.restoreImage img c)

/-- LIVE_MIGRATION (R210). -/
def execLiveMigration (c d : Nat) (s : State) : Host.Outcome State Fault Refusal := .next (s.migrateLive c d)

/-- NEW_GENERATION_ACK (R210). -/
def execNewGenerationAck (l c : Nat) (s : State) : Host.Outcome State Fault Refusal := .next (s.ackGeneration l c)

/-- CHECKER_MISMATCH (R215, R216). -/
def execCheckerMismatch (c i : Nat) (persists matrix : Bool) (s : State) : Host.Outcome State Fault Refusal :=
  .next (s.mismatch c i persists matrix)

end Sys2Proof.Machine
end

