-- ==== Sys2Proof/Machine/Fabric.lean ====
section
/-!
DEFINITION. The Zynong fabric as this package sees it (10_fabric R224 to R241): streams and their delivery, replay,
switches and route versions, multicast and its answers, and MCINV.
-/
namespace Sys2Proof.Machine

/-! ### Streams at the receiving NI (R228, R229) -/

/-- The reorder buffer of one I/O die (R228). -/
def reorderBytes : Nat := 2 * 2 ^ 20

/-- An inbound stream. -/
def Fab.inStream (f : Fab) (id : StreamId) : InStream := (assoc f.ins id).getD { expected := 0, held := [] }

/-- The fabric with an inbound stream set. -/
def State.setIn (s : State) (id : StreamId) (x : InStream) : State :=
  { s with fab := { s.fab with ins := assocPut s.fab.ins id x } }

/-- The reorder buffer of the I/O die that a packet comes in through has room for it: that of the planes it travels
on, of the same number as its source's (R225). Each packet that waits takes its own length (DEDUCED, log 50). -/
def Fab.reorderRoom (f : Fab) (p : Packet) : Bool :=
  decide ((f.ins.map (fun e => ((e.2.held.filter (fun q => q.die == p.die)).map packetSize).sum)).sum + packetSize p
    ≤ reorderBytes)

/-- What the receiver does with a packet by its distance ahead of the next expected number (R228). -/
inductive Arrival where
  | duplicate | tooFar | take | hold
  deriving DecidableEq, Repr

def arrivalOf (expected seq : BitVec 32) : Arrival :=
  let d := (seq - expected).toNat
  if 2 ^ 31 ≤ d then .duplicate
  else if 2 ^ 15 < d then .tooFar
  else if d = 0 then .take
  else .hold

/-- The receiver acknowledges the stream by the highest number delivered in order (R229). -/
def State.acknowledge (s : State) (id : StreamId) : State :=
  { s with fab := { s.fab with acked := s.fab.acked ++ [(id, (s.fab.inStream id).expected - 1)] } }

/-- Packets freed by a cumulative acknowledgement; the count of timeouts begins again (R229, R230). -/
def OutStream.ack (o : OutStream) (seq : BitVec 32) : OutStream :=
  let rest := o.unacked.filter (fun p => decide (2 ^ 31 ≤ (seq - p.seq).toNat))
  if rest.length = o.unacked.length then o else { o with unacked := rest, timeouts := 0 }

/-- ACKNOWLEDGEMENT of a request or response stream of this package (R229). -/
def State.ackStream (s : State) (id : StreamId) (seq : BitVec 32) : State :=
  match assoc s.fab.outs id with
  | some o => if id.cls = 2 then s else { s with fab := { s.fab with outs := assocPut s.fab.outs id (o.ack seq) } }
  | none => s

/-- The request that a response answers. -/
def answersTo (m q : Msg) : Bool :=
  asksResponse q.body && waiterOf q.body == waiterOf m.body && q.src == m.dst && q.dst.pkg == m.src.pkg && q.key == m.key

/-- A response acknowledges its request, and the request waits no more (R229). -/
def State.responseIn (s : State) (m : Msg) : State :=
  match m.body with
  | .response .. =>
    let s := { s with fab := { s.fab with awaiting := s.fab.awaiting.eraseP (answersTo m) } }
    s.fab.outs.foldl (fun (s : State) o =>
      if o.1.cls = 0 ∧ o.1.dst = m.src.pkg then
        match o.2.unacked.find? (fun p => answersTo m p.body) with
        | some p => s.ackStream o.1 p.seq
        | none => s
      else s) s
  | _ => s

/-- The compute die at which what comes in through an I/O die enters the ring: of the two that the I/O die attaches to, the one
on the goal's side (R223, R225; DEDUCED, log 34). -/
def enterAt (io goal : Nat) : Nat := if goal < 4 then (if io = 0 then 0 else 3) else (if io = 0 then 7 else 4)

/-- A packet's message comes into the package by the I/O die of its planes, and the die ring carries it on, behind what is on
its way already (R225, R228). -/
def State.enterRing (s : State) (die : Nat) (m : Msg) : State :=
  let m := { m with retried := false, stuck := 0, vc := 0, due := 0, held := false }
  { s with net := s.net ++ [{ m with ring := enterAt die (s.ringGoal m) }] }

/-- A packet's message comes into the package; an activation message of the control class takes effect (R228, R233). -/
def State.takeIn (s : State) (p : Packet) : State :=
  let s := s.responseIn p.body
  match p.body.body with
  | .activate v => { s with agenda := s.agenda ++ [.versionActivation v] }
  | _ => s.enterRing p.die p.body

/-- Packets that have become next in order leave the reorder buffer. -/
def State.takeHeldIn (s : State) (id : StreamId) : Nat → State
  | 0 => s
  | n + 1 =>
    let x := s.fab.inStream id
    match x.held.find? (fun p => p.seq == x.expected) with
    | some p => ((s.setIn id { expected := x.expected + 1, held := x.held.filter (fun q => q.seq != p.seq) }).takeIn p).takeHeldIn
        id n
    | none => s

/-- A packet that is ahead waits in the reorder buffer, once, if there is room (R228). -/
def State.holdPacket (s : State) (p : Packet) : State :=
  let x := s.fab.inStream p.stream
  if x.held.any (fun q => q.seq == p.seq) || !s.fab.reorderRoom p then s
  else s.setIn p.stream { x with held := x.held ++ [p] }

/-- A packet of a request or response stream arrives (R228, R229). -/
def State.streamIn (s : State) (p : Packet) : State :=
  let x := s.fab.inStream p.stream
  match arrivalOf x.expected p.seq with
  | .duplicate => s.acknowledge p.stream
  | .tooFar => s
  | .hold => s.holdPacket p
  | .take =>
    let s := (s.setIn p.stream { x with expected := x.expected + 1 }).takeIn p
    (s.takeHeldIn p.stream x.held.length).acknowledge p.stream

/-! ### Multicast at a member (R237 to R240, R406) -/

/-- The position of a package in a group's list, as this package's group table has it (log 19). -/
def State.memberIndex (s : State) (g pkg : Nat) : Nat :=
  match s.groupEntry g with
  | some ms => if ms.contains pkg then ms.findIdx (· == pkg) else 511
  | none => 511

/-- A positive answer of one member. -/
def positive : McAnswer := { pos := 1, neg := 0, low := 511, cause := 0 }

/-- The node above another in a group's tree: a switch, or this package as the source. -/
inductive Above where
  | switch (n children : Nat)
  | source
  | outside

/-- Where the answers of a node go (R240). -/
def State.above (s : State) (child : Node) (id : StreamId) : Above :=
  match s.fab.switches.find? (fun e => (listOf e.2.cur.trees id.dst).contains child) with
  | some e => .switch e.1 (listOf e.2.cur.trees id.dst).length
  | none =>
    if id.src = s.pkg ∧ s.fab.cur.any (fun t => (listOf t.2.trees id.dst).contains child) = true then .source else .outside

/-- An answer leaves a node for the node above it (R239, R240). -/
def State.sendAnswer (s : State) (child : Node) (id : StreamId) (seq : BitVec 32) (ver : BitVec 16) (a : McAnswer) : State :=
  let s := { s with fab := { s.fab with answered := s.fab.answered ++ [(child, id, seq, a)] } }
  match s.above child id with
  | .switch n children => { s with agenda := s.agenda ++ [.answerMerge n child id seq ver children a] }
  | .source => { s with agenda := s.agenda ++ [.multicastAggregate id.dst seq ver a] }
  | .outside => s

/-- The answer recorded for a sequence number of a stream (R239). -/
def State.recorded (s : State) (id : StreamId) (seq : BitVec 32) : Option McAnswer :=
  assoc ((assoc s.fab.records id).getD []) seq

/-- The answer is recorded; the record holds the last 256 (R239). -/
def State.record (s : State) (id : StreamId) (seq : BitVec 32) (a : McAnswer) : State :=
  let old := (assoc s.fab.records id).getD []
  { s with fab := { s.fab with records := assocPut s.fab.records id ((old ++ [(seq, a)]).drop (old.length + 1 - 256)) } }

/-- A delivery's answer, with the line written where it is positive; none while the write must wait for a commit or the
host's copy (R176, R238, R239, R246). -/
def State.writeLine (s : State) (g off : Nat) (bs : List Byte) (bad : List Nat) : Option (State × McAnswer) :=
  let e := s.mapEntry g
  let nack := fun c => { pos := 0, neg := 1, low := s.memberIndex g s.pkg, cause := c : McAnswer }
  let base := bits e 55 8 * 256
  let at_ := s.windowAt g off
  if !bitAt e 63 then some (s, nack 1)
  else if (bits e 7 0 + 1) * 256 < off + bs.length then some (s, nack 2)
  else if base / 2 ^ 42 ≠ s.pkg ∨ backed at_ bs.length = false then some (s, nack 2)
  else if !s.rangeClear at_ bs.length then none
  else (s.touchTiles true (tilesOf at_ bs.length)).map (fun s =>
    let s := s.homeWrite .outside at_ bs
    ({ s with memPoison := s.memPoison ++ (bad.map (fun j => (at_ + j) / 8)).eraseDups }, positive))

/-- A line of a multicast stream that has come in and waits for its home (R239). -/
def isLine (id : StreamId) (seq : BitVec 32) (m : Msg) : Bool :=
  m.src.pkg == id.src && m.delivery.map Prod.fst == some seq && (match m.body with
    | .mcast g .. => g == id.dst
    | _ => false)

/-- A line comes into the package in its stream's order, and the die ring carries it to its home (R225, R239). -/
def State.lineIn (s : State) (p : Packet) : State :=
  s.enterRing p.die { p.body with delivery := some (p.seq, p.version), dst := ⟨s.pkg, 0⟩ }

/-- Lines that have become next in order leave the reorder buffer (R239). -/
def State.linesIn (s : State) (id : StreamId) : Nat → State
  | 0 => s
  | n + 1 =>
    let x := s.fab.inStream id
    match x.held.find? (fun p => p.seq == x.expected) with
    | some p => ((s.setIn id { expected := x.expected + 1, held := x.held.filter (fun q => q.seq != p.seq) }).lineIn p).linesIn
        id n
    | none => s

/-- A line is written at its home, recorded and answered (R238, R239): once it has come there, in its turn, and no commit and no
copy of the host stands in the way. -/
def State.writeAt (s : State) (k : Nat) (m : Msg) : State :=
  match m.body, m.delivery with
  | .mcast g off bs _ bad, some (seq, ver) =>
    if !s.inOrder k m || !s.peerTurn k m then s
    else match s.writeLine g off bs bad with
      | none => s.snoopRange (s.windowAt g off) bs.length
      | some (t, a) =>
        let id : StreamId := { cls := 2, src := m.src.pkg, die := 0, dst := g }
        ((t.dropMsg k).record id seq a).sendAnswer (.package s.pkg) id seq ver a
  | _, _ => s

/-- A packet of a multicast comes to a member: a duplicate is answered from the record; one whose record is gone is handled as
a first delivery (R228, R239, R406). -/
def State.mcastIn (s : State) (p : Packet) : State :=
  let x := s.fab.inStream p.stream
  match arrivalOf x.expected p.seq with
  | .duplicate => match s.recorded p.stream p.seq with
    | some a => s.sendAnswer (.package s.pkg) p.stream p.seq p.version a
    | none => s.lineIn p
  | .tooFar => s
  | .hold => s.holdPacket p
  | .take => ((s.setIn p.stream { x with expected := x.expected + 1 }).lineIn p).linesIn p.stream x.held.length

/-- MCST_DELIVERY: a packet of a multicast comes in; where its line has come in and waits, the line is written as far as it can
be, and answered with the version of the latest transmission (R239, R240). -/
def State.delivery (s : State) (p : Packet) : State :=
  match s.net.findIdx? (isLine p.stream p.seq) with
  | some k =>
    let s := { s with net := modifyNth s.net k (fun m => { m with delivery := some (p.seq, p.version) }) }
    match s.net[k]? with
    | some m => s.writeAt k m
    | none => s
  | none => s.mcastIn p

/-- ZYNONG_PACKET_RECEIVE: the receiving NI takes a packet for this package (R227, R228). -/
def State.packetIn (s : State) (p : Packet) : State :=
  match p.stream.cls with
  | 2 => s.delivery p
  | _ => if p.stream.dst = s.pkg then s.streamIn p else s

/-! ### Replay (R230, R234, R236) -/

/-- A stream's unacknowledged packets are sent again, stamped with the current version (R230, R233); a multicast's
latest transmission then has that version (R240). -/
def State.replay (s : State) (id : StreamId) (timeouts : Nat) : State :=
  match assoc s.fab.outs id with
  | none => s
  | some o =>
    let ps := o.unacked.map (fun p => { p with version := (s.fab.table p.die).version, sent := s.cycle })
    { s with fab := { s.fab with
        outs := assocPut s.fab.outs id { o with unacked := ps, timeouts }
        flight := s.fab.flight ++ ps.map (fun p => (.package s.pkg, none, p))
        sends := if id.cls = 2 then s.fab.sends.map (fun m =>
            match ps.find? (fun p => m.group == id.dst && p.seq == m.seq) with
            | some p => { m with version := p.version }
            | none => m)
          else s.fab.sends } }

/-- ZRTO of an I/O die, in cycles (R230, R241; 3.3 GHz, 01_device Table 1.1). -/
def Fab.timeout (f : Fab) (die : Nat) : Nat := (find f.zrto die).getD 200 * 3300

/-- A stream's oldest packet has waited for the retry timeout since its latest transmission. -/
def State.expired (s : State) (o : OutStream) : Bool :=
  match o.unacked with
  | p :: _ => decide (p.sent + s.fab.timeout p.die ≤ s.cycle)
  | [] => false

/-- RETRY_TIMEOUT; every fourth in a row is reported to the fabric manager, and logged (R230). -/
def State.retry (s : State) (id : StreamId) : State :=
  match assoc s.fab.outs id with
  | none => s
  | some o =>
    if !s.expired o then s
    else
      let n := o.timeouts + 1
      let s := s.replay id n
      if n % 4 = 0 then s.log evFabric 0 [id.cls, id.src, id.die, id.dst] else s

/-! ### Links and switches (R224, R225, R231, R232, R239) -/

/-- The plane of a switch, and its place in it: leaves 0 to 63, spines from 64 on (R224). -/
def switchPlane (n : Nat) : Nat := n / 136
def switchPlace (n : Nat) : Nat := n % 136

/-- A link joins two nodes (R224): in every plane a package hangs below its leaf, and every leaf is joined to every
spine. -/
def linked : Node → Node → Bool
  | .package p, .switch n | .switch n, .package p =>
    decide (n < 32 * 136) && switchPlace n == p / 72 && decide (p < Config.packages)
  | .switch a, .switch b =>
    switchPlane a == switchPlane b && decide (a < 32 * 136) && decide (b < 32 * 136) &&
      (decide (switchPlace a < 64) != decide (switchPlace b < 64))
  | .package _, .package _ => false

/-- A packet may leave its source on the planes of the I/O die that it leaves through (R225). -/
def ownPlane (p : Packet) : Node → Node → Bool
  | .package _, .switch n => switchPlane n / 16 == p.die
  | _, _ => true

/-- Cycles within which a failed link leaves the spray sets at its ends: 2 µs (R231). -/
def removeCycles : Nat := 6600

/-- A link has failed. -/
def Fab.broken (f : Fab) (a b : Node) : Bool := f.failed.any (fun l => l == (a, b) || l == (b, a))

/-- LINK_FAILURE: the packets on the link are lost, and the spray sets at its ends lose the link within 2 µs (R231). -/
def State.linkFails (s : State) (p q : Node) : State :=
  { s with fab := { s.fab with
      failed := if s.fab.broken p q then s.fab.failed else s.fab.failed ++ [(p, q)]
      removing := s.fab.removing ++ [(p, q, s.cycle + removeCycles)]
      flight := s.fab.flight.filter (fun f => !((f.1 == p && f.2.1 == some q) || (f.1 == q && f.2.1 == some p))) } }

/-- A table without a node in its spray sets. -/
def withoutNode (t : RouteTable) (n : Node) : RouteTable :=
  { t with routes := t.routes.map (fun r => (r.1, r.2.filter (· != n))) }

/-- A node takes a link's other end out of every spray set of its tables. -/
def State.unspray (s : State) (at_ gone : Node) : State :=
  match at_ with
  | .switch n => { s with fab := { s.fab with switches := s.fab.switches.map (fun e =>
      if e.1 = n then (e.1, { cur := withoutNode e.2.cur gone, shadow := e.2.shadow.map (fun t => withoutNode t gone) })
      else e) } }
  | .package p =>
    let cut := fun (e : Nat × RouteTable) => (e.1, withoutNode e.2 gone)
    if p = s.pkg then { s with fab := { s.fab with cur := s.fab.cur.map cut, shadow := s.fab.shadow.map cut } }
    else s

/-- A switch has no way left to a destination that its current table names. -/
def Fab.cutOff (f : Fab) (dst : Nat) : Node → Bool
  | .switch n => ((find f.switches n).map (fun (w : Switch) => w.cur.routes.any (fun r => r.1 == dst && r.2.isEmpty))).getD false
  | .package _ => false

/-- A table whose spray sets leave out the switches that have no way to the destination. -/
def pruneTable (t : RouteTable) (f : Fab) : RouteTable :=
  { t with routes := t.routes.map (fun r => (r.1, r.2.filter (fun n => !f.cutOff r.1 n))) }

/-- The nodes before a switch that a failure has left without a way to a destination spray past it, from node to node: new
traffic avoids the link (Table 10.4, R235; DEDUCED, log 12). -/
def State.prune (s : State) : Nat → State
  | 0 => s
  | n + 1 =>
    let f := s.fab
    let cur := f.cur.map (fun (e : Nat × RouteTable) => (e.1, pruneTable e.2 f))
    let switches := f.switches.map (fun (e : Nat × Switch) => (e.1, { e.2 with cur := pruneTable e.2.cur f }))
    State.prune { s with fab := { f with cur, switches } } n

/-- SPRAY_SET_REMOVE, for a link that has failed (R231). -/
def State.removeLink (s : State) (p q : Node) : State :=
  if s.fab.broken p q then
    let t := ((s.unspray p q).unspray q p).prune 3
    { t with fab := { t.fab with removing := t.fab.removing.filter (fun e => e.1 != p || e.2.1 != q) } }
  else s

/-- Version a is newer than b (R232). -/
def newer (a b : BitVec 16) : Bool := decide (1 ≤ (a - b).toNat) && decide ((a - b).toNat < 2 ^ 15)

/-- A switch makes its shadow table current; its merges of older versions are discarded (R232, R240). -/
def State.activateSwitch (s : State) (n : Nat) (v : BitVec 16) : State :=
  match find s.fab.switches n with
  | some w => match w.shadow with
    | some t =>
      if t.version = v then
        { s with fab := { s.fab with
            switches := put s.fab.switches n { cur := t, shadow := none }
            merges := s.fab.merges.filter (fun m => m.sw != n || !newer v m.version) } }
      else s
    | none => s
  | none => s

/-- A packet leaves a node on the links to some nodes; on a broken one it is lost (R231). There is no way where there is no
link (R224, R225). -/
def State.launchPackets (s : State) (at_ : Node) (p : Packet) (ns : List Node) : State :=
  { s with fab := { s.fab with flight := s.fab.flight ++
      (ns.filter (fun n => linked at_ n && ownPlane p at_ n && !s.fab.broken at_ n)).map (fun n => (at_, some n, p)) } }

/-- One port of a spray set. -/
def State.sprayOne (s : State) (ns : List Node) : State × List Node :=
  match ns with
  | [] => (s, [])
  | n :: r => ({ s with fresh := s.fresh + 1 }, [(n :: r).getD (Config.sprayChoice s.fresh % (r.length + 1)) n])

/-- A packet is forwarded by a table: along its group's tree, or to one port of its destination's spray set. A member
that the tables cannot reach is answered UNREACHABLE by the switch (R231, R239). -/
def State.route (s : State) (at_ : Node) (t : RouteTable) (p : Packet) : State :=
  if p.stream.cls = 2 then
    let kids := listOf t.trees p.stream.dst
    let lost := fun (n : Node) => match n with
      | .package q => !t.members.contains q
      | .switch _ => false
    let s := s.launchPackets at_ p (kids.filter (fun n => !lost n))
    match at_ with
    | .switch sw => (kids.filter lost).foldl (fun (s : State) n => match n with
        | .package q => { s with agenda := s.agenda ++ [.answerMerge sw n p.stream p.seq p.version kids.length
            { pos := 0, neg := 1, low := s.memberIndex p.stream.dst q, cause := 3 }] }
        | .switch _ => s) s
    | .package _ => s
  else
    let (s, ns) := s.sprayOne (listOf t.routes p.stream.dst)
    s.launchPackets at_ p ns

/-- A packet at a switch, by its version (R232). -/
def State.atSwitch (s : State) (n : Nat) (p : Packet) : State :=
  match find s.fab.switches n with
  | none => s
  | some w =>
    if p.version = w.cur.version then s.route (.switch n) w.cur p
    else match w.shadow with
      | some t =>
        if newer p.version w.cur.version && t.version == p.version then (s.activateSwitch n p.version).route (.switch n) t p
        else s
      | none => s

/-- SWITCH_FORWARD: a packet leaves the node it stands at, or comes to the far end of its link (R225, R232, R239); one
that comes to another package leaves the model (log 11). -/
def State.forwardPacket (s : State) (k : Nat) : State :=
  match s.fab.flight[k]? with
  | none => s
  | some (at_, on, p) =>
    let s := { s with fab := { s.fab with flight := s.fab.flight.eraseIdx k } }
    match on with
    | some (.switch n) => { s with fab := { s.fab with flight := s.fab.flight ++ [(.switch n, none, p)] } }
    | some (.package q) => if q = s.pkg then { s with agenda := s.agenda ++ [.zynongPacketReceive p] } else s
    | none => match at_ with
      | .switch n => s.atSwitch n p
      | .package _ => s.route at_ (s.fab.table p.die) p

/-! ### Route versions (R232, R233, R236) -/

/-- SHADOW_INSTALL at a switch or at the NI of an I/O die of this package: at most one shadow table (R232, R241). -/
def State.install (s : State) (n : Node) (die : Nat) (t : RouteTable) : State :=
  match n with
  | .switch k =>
    let w := (find s.fab.switches k).getD { cur := { emptyTable 0 with members := [] }, shadow := none }
    { s with fab := { s.fab with switches := put s.fab.switches k { w with shadow := some t } } }
  | .package p => if p = s.pkg ∧ die < 2 then { s with fab := { s.fab with shadow := put s.fab.shadow die t } } else s

/-- A package has left the domain: packets to it are discarded, launches whose posted traffic is discarded end FAULT,
and every access to it that waits is answered so that its slot traps ACCESS (R236). -/
def State.dropPackage (s : State) (q : Nat) : State :=
  let mine := fun (o : StreamId × OutStream) => o.1.cls != 2 && o.1.dst == q
  let gone := (s.fab.outs.filter mine).flatMap (fun o => o.2.unacked.map Packet.body)
  let nacks := (s.fab.awaiting.filter (fun m => m.dst.pkg == q)).map nackOf
  let s := { s with
    net := s.net ++ nacks
    fab := { s.fab with
      outs := s.fab.outs.map (fun o => if mine o then (o.1, { o.2 with unacked := [], timeouts := 0 }) else o)
      awaiting := s.fab.awaiting.filter (fun m => m.dst.pkg != q) } }
  (gone.filter (fun m => isPosted m.body)).foldl (fun (s : State) m =>
    match s.senderOf m with
    | some l => s.endLaunch l .fault Cause.access.code
    | none => s) s

/-- The NI of an I/O die makes its shadow current and replays what is unacknowledged (R233). -/
def State.activateDie (s : State) (v : BitVec 16) (die : Nat) : State :=
  match find s.fab.shadow die with
  | some t =>
    if t.version = v then
      let s := { s with fab := { s.fab with cur := put s.fab.cur die t, shadow := del s.fab.shadow die } }
      (s.fab.outs.filter (fun o => o.2.unacked.any (fun p => p.die == die))).foldl (fun (s : State) o => s.replay o.1 0) s
    else s
  | none => s

/-- VERSION_ACTIVATION: every switch and every NI that holds the version as shadow activates it; packages that have no
route any more leave the domain (R233, R236, R240). -/
def State.activate (s : State) (v : BitVec 16) : State :=
  let before := (s.fab.cur.flatMap (fun t => t.2.members)).eraseDups
  let s := (s.fab.switches.map Prod.fst).foldl (fun (s : State) n => s.activateSwitch n v) s
  let s := [0, 1].foldl (fun (s : State) d => s.activateDie v d) s
  (before.filter (fun q => !s.inDomain q)).foldl (fun (s : State) q => s.dropPackage q) s

/-! ### Answers on their way up (R240) -/

/-- Two answers merged. -/
def mergeAnswers (a b : McAnswer) : McAnswer :=
  let second := b.neg ≠ 0 ∧ (a.neg = 0 ∨ b.low < a.low)
  { pos := a.pos + b.pos, neg := a.neg + b.neg
    low := if second then b.low else a.low, cause := if second then b.cause else a.cause }

/-- No answer yet. -/
def noAnswer : McAnswer := { pos := 0, neg := 0, low := 511, cause := 0 }

/-- ANSWER_MERGE: a switch merges a child's answer, once; a merge of another version than the switch's is discarded
(R240). -/
def State.mergeAnswer (s : State) (sw : Nat) (child : Node) (id : StreamId) (seq : BitVec 32) (ver : BitVec 16)
    (children : Nat) (a : McAnswer) : State :=
  let stale := match find s.fab.switches sw with
    | some w => w.cur.version != ver
    | none => false
  if stale then s
  else
    let same := fun (m : McMerge) => m.sw == sw && m.id == id && m.seq == seq && m.version == ver
    let got := assocPut (((s.fab.merges.find? same).map McMerge.got).getD []) child a
    let rest := s.fab.merges.filter (fun m => !same m)
    if children ≤ got.length then
      ({ s with fab := { s.fab with merges := rest } }).sendAnswer (.switch sw) id seq ver
        (got.foldl (fun m (e : Node × McAnswer) => mergeAnswers m e.2) noAnswer)
    else { s with fab := { s.fab with merges := rest ++ [{ sw, id, seq, version := ver, got }] } }

/-- An accepted aggregate raises the source's sync word, once the context that sent the multicast is on a core (R203,
R240). -/
def State.raiseAggregate (s : State) (m : McSent) (a : McAnswer) : State :=
  let done := fun (s : State) => { s with fab := { s.fab with
    sends := s.fab.sends.filter (· != m), pendingAgg := s.fab.pendingAgg.filter (fun e => e.1 != m) } }
  if (find s.launches m.launch).isNone then done s
  else match s.siteOf m.launch m.origin with
    | some c => if (s.core c).stage = .running ∨ (s.core c).works = true then (done s).raiseMulticast c (16 * m.sw) a else s
    | none => s

/-- MULTICAST_AGGREGATE: the source NI accepts only an aggregate of the latest transmission's version that covers every
member (R240). -/
def State.aggregate (s : State) (group : Nat) (seq : BitVec 32) (ver : BitVec 16) (a : McAnswer) : State :=
  match s.fab.sends.find? (fun m => m.group == group && m.seq == seq) with
  | none => s
  | some m => match s.fab.pendingAgg.find? (fun e => e.1 == m) with
    | some e => s.raiseAggregate m e.2
    | none =>
      if m.version ≠ ver ∨ a.pos + a.neg ≠ m.members then s
      else
        let id := s.mcStream group
        let free := fun (o : OutStream) => { o with unacked := o.unacked.filter (fun p => p.seq != seq), timeouts := 0 }
        let s := { s with fab := { s.fab with
          outs := s.fab.outs.map (fun (o : StreamId × OutStream) => if o.1 = id then (o.1, free o.2) else o)
          pendingAgg := s.fab.pendingAgg ++ [(m, a)] } }
        s.raiseAggregate m a

/-! ### MCINV (R237, R238, R241) -/

/-- A write to MCINV with BUSY = 0: GROUP drops the cached group entry in both I/O dies, MAP reloads the inbound map
entry. -/
def State.mcinv (s : State) (v : Word) : State :=
  if s.fab.mcinvBusy then s
  else
    let g := bits v 11 0
    let s := { s with fab := { s.fab with mcinv := v &&& 0x30FFF, mcinvBusy := true } }
    let s := if bitAt v 16 then { s with fab := { s.fab with groups := s.fab.groups.filter (fun e => e.2.1 != g) } } else s
    if bitAt v 17 then
      { s with fab := { s.fab with inmap := put s.fab.inmap g (s.tableWord (s.fab.mcmapbase.toNat + 8 * g)) } }
    else s

/-! ### The meanings -/

/-- ZYNONG_PACKET_RECEIVE (R228). -/
def execZynongPacketReceive (p : Packet) (s : State) : Host.Outcome State Fault Refusal := .next (s.packetIn p)

/-- MCST_DELIVERY (R239). -/
def execMcstDelivery (p : Packet) (s : State) : Host.Outcome State Fault Refusal :=
  .next (if p.stream.cls = 2 then s.delivery p else s)

/-- ACKNOWLEDGEMENT (R229). -/
def execAcknowledgement (id : StreamId) (seq : BitVec 32) (s : State) : Host.Outcome State Fault Refusal :=
  .next (s.ackStream id seq)

/-- RETRY_TIMEOUT (R230). -/
def execRetryTimeout (id : StreamId) (s : State) : Host.Outcome State Fault Refusal := .next (s.retry id)

/-- SWITCH_FORWARD (R232). -/
def execSwitchForward (k : Nat) (s : State) : Host.Outcome State Fault Refusal := .next (s.forwardPacket k)

/-- LINK_FAILURE (R231). -/
def execLinkFailure (p q : Node) (s : State) : Host.Outcome State Fault Refusal := .next (s.linkFails p q)

/-- SPRAY_SET_REMOVE (R231). -/
def execSpraySetRemove (p q : Node) (s : State) : Host.Outcome State Fault Refusal := .next (s.removeLink p q)

/-- SHADOW_INSTALL (R232). -/
def execShadowInstall (n : Node) (die : Nat) (t : RouteTable) (s : State) : Host.Outcome State Fault Refusal :=
  .next (s.install n die t)

/-- VERSION_ACTIVATION (R233). -/
def execVersionActivation (v : BitVec 16) (s : State) : Host.Outcome State Fault Refusal := .next (s.activate v)

/-- ANSWER_MERGE (R240). -/
def execAnswerMerge (sw : Nat) (child : Node) (id : StreamId) (seq : BitVec 32) (ver : BitVec 16) (children : Nat)
    (ans : McAnswer) (s : State) : Host.Outcome State Fault Refusal :=
  .next (s.mergeAnswer sw child id seq ver children ans)

/-- MULTICAST_AGGREGATE (R240). -/
def execMulticastAggregate (group : Nat) (seq : BitVec 32) (ver : BitVec 16) (ans : McAnswer) (s : State) :
    Host.Outcome State Fault Refusal :=
  .next (s.aggregate group seq ver ans)

/-- MCINV_GROUP (R237). -/
def execMcinvGroup (v : Word) (s : State) : Host.Outcome State Fault Refusal :=
  .next (s.overLinks (fun s => if bitAt v 16 then s.mcinv v else s))

/-- MCINV_MAP (R238). -/
def execMcinvMap (v : Word) (s : State) : Host.Outcome State Fault Refusal :=
  .next (s.overLinks (fun s => if bitAt v 17 then s.mcinv v else s))

/-- MCINV_COMPLETE: both I/O dies have finished (R241). -/
def execMcinvComplete (s : State) : Host.Outcome State Fault Refusal :=
  .next { s with fab := { s.fab with mcinvBusy := false } }

end Sys2Proof.Machine
end

