-- ==== Sys2Proof/Machine/Host.lean ====
section
/-!
DEFINITION. The host links (10_fabric R242 to R246): register writes through BAR0, device memory through BAR2 and
CXL.mem, and completions of reads of the host window.
-/
namespace Sys2Proof.Machine

/-- What the part answers to the host. -/
def State.say (s : State) (a : Answer) : State := { s with answers := s.answers ++ [a] }

/-! ### Device memory for the host (R120, R242, R243, R246) -/

/-- Where the firmware-reserved memory begins: the top 256 MiB of each stack are the top 2 GiB of the offsets, because
the dies interleave by 4 KiB (R120, R278). -/
def reservedFrom : Nat := Config.deviceBytes - 8 * 2 ^ 28

/-- The host may reach a range of device memory (R242). -/
def hostReach (off n : Nat) : Bool := decide (off + n ≤ reservedFrom)

/-- The directory recalls what L2s hold in M, O or E (R121, R243). -/
def DirEntry.recall (e : DirEntry) : DirEntry :=
  { e with l2 := e.l2.map (fun p => (p.1, match p.2 with | .m | .o | .e => DirState.s | x => x)) }

/-- A host request is performed at its home; none while a commit stands in the way (R176, R243). -/
def State.hostRequest (s : State) : HostReq → Option State
  | .read off n => (s.touchTiles false (tilesOf off n)).map (fun s =>
      let s := (linesOf off n).foldl (fun (s : State) l => s.modDir l DirEntry.recall) s
      s.say (.data (s.mem.bytes off n)))
  | .line off =>
    let base := off / 64 * 64
    (s.touchTiles false (tilesOf base 64)).map (fun s =>
      let s := s.modDir base (fun e => { e.recall with hostShares := true })
      s.say (.data (s.mem.bytes base 64)))
  | .write off bs => (s.touchTiles true (tilesOf off bs.length)).map (fun s => s.homeWrite .outside off bs)

/-- Host requests are performed in the order received, as far as they can be (R166, R243). -/
def State.drainHost (s : State) : Nat → State
  | 0 => s
  | n + 1 => match s.fab.inbound with
    | [] => s
    | q :: r => match s.hostRequest q with
      | some t => ({ t with fab := { t.fab with inbound := r } }).drainHost n
      | none => s

/-- A host request comes in behind those that wait. -/
def State.hostAsks (s : State) (q : HostReq) : State :=
  ({ s with fab := { s.fab with inbound := s.fab.inbound ++ [q] } }).drainHost (s.fab.inbound.length + 1)

/-- The host has given up its copy of a line (R246). -/
def State.snoopAnswered (s : State) (off : Nat) : State :=
  if (s.dirOf off).snooping then s.modDir off (fun e => { e with hostShares := false, snooping := false }) else s

/-! ### Reads of the host window (R244) -/

/-- A header from the host window enters the device queue, unless its launch is ending; at a full queue DLAUNCH stalls, and
reads it anew (R188, R308). -/
def State.headerCame (s : State) (c : Nat) (bs : List Byte) : State :=
  if s.ends c then s
  else if 4 ≤ (s.core c).devq.length then s.modMe (fun t => { t with wait := .stall })
  else s.finishC (go (s.pushHeader bs))

/-- A read of the host window by a copy completes: the oldest that is out (R148, R244). -/
def State.windowCame (s : State) (c n : Nat) (bs : List Byte) : State :=
  match (s.core c).cq[n]? with
  | none => s
  | some o => match o.window with
    | [] => s
    | pos :: rest => s.modCopy c n (fun o => { o with
        window := rest, parts := o.parts ++ [(pos, bs, false)], outstanding := o.outstanding - 1 })

/-- A non-posted read of the host window completes: with the bytes a slot awaits, as the zero-length read of a SYSTEM
release on one link, after the last of which its bundle goes on unless its core stops (R313), or, from number 4 on, with
bytes for the copies of the core, in the order of its copy queue. -/
def State.hostReadDone (s : State) (c i : Nat) (bs : List Byte) : State :=
  if 4 ≤ i then s.windowCame c (i - 4) bs
  else match (s.slot c i).wait with
  | .hostRead land a acq _ =>
    let s := s.actAs c i
    let s := match s.translate c (s.asidOf c) a.toNat with
      | some t => match s.homeOf (t.phys a.toNat) t.uncached with
        | .host h => { s with hostMem := s.hostMem.writeBytes h bs }
        | _ => s
      | none => s
    match land with
    | .header => s.headerCame c bs
    | .fetch => s.codeCame c i a bs true
    | .skip => s.codeCame c i a bs false
    | _ => s.finishC (go (s.landed land acq bs))
  | .hostFence =>
    let s := s.modSlot c i (fun t => { t with hostLinks := t.hostLinks.tail })
    if (s.slot c i).hostLinks = [] ∧ s.coreRuns c = true then
      (s.modSlot c i (fun t => { t with wait := .stall })).resume c i
    else s
  | _ => s

/-! ### BAR0 (R128, R182, R194, R241, R242, R273) -/

/-- A mailbox. -/
def Tele.mbox (t : Tele) (box : Nat) : Mbox :=
  (find t.mboxes box).getD { cmd := 0, busy := false, status := 0, done := false, data := [] }

/-- The state with a mailbox changed. -/
def State.modMbox (s : State) (box : Nat) (f : Mbox → Mbox) : State :=
  { s with tele := { s.tele with mboxes := put s.tele.mboxes box (f (s.tele.mbox box)) } }

/-- A write to MBCMD: with GO the command starts; ignored while BUSY (R273). -/
def State.mailboxGo (s : State) (box : Nat) (v : Word) : State :=
  if (s.tele.mbox box).busy then s
  else
    let s := s.modMbox box (fun m => { m with cmd := v &&& 0x0000FFFF000000FF, busy := bitAt v 63, done := false })
    if bitAt v 63 then { s with tele := { s.tele with order := s.tele.order ++ [box] } } else s

/-- A write to the dispatcher's registers (Table 8.1); none for an unused offset. -/
def State.dispWrite (s : State) (off : Nat) (v : Word) : Option State :=
  if off = 0x000 then some { s with disp := { s.disp with tinvva := v } }
  else if off = 0x008 then some (s.invalidate v)
  else if off = 0x010 then some (s.kill v)
  else if 0x100 ≤ off ∧ off < 0x180 ∧ off % 8 = 0 then
    some { s with disp := { s.disp with clsw := put s.disp.clsw ((off - 0x100) / 8) (bits v 7 0) } }
  else if 0x200 ≤ off ∧ off < 0x280 ∧ off % 8 = 0 then
    let q := (off - 0x200) / 8
    let x := { (s.disp.queue q) with en := bitAt v 63, cls := bits v 51 48, asid := bits v 47 32 }
    some { s with disp := { s.disp with queues := put s.disp.queues q x } }
  else none

/-- A write to the fabric registers (Table 10.10); none for an unused offset. A read-only register ignores it. -/
def State.fabWrite (s : State) (die off : Nat) (v : Word) : Option State :=
  if off = 0x4000 then some s
  else if off = 0x4008 then
    let n := bits v 15 0
    some (if 10 ≤ n ∧ n ≤ 10000 then { s with fab := { s.fab with zrto := put s.fab.zrto die n } } else s)
  else if off = 0x4010 then some { s with fab := { s.fab with mctbase := v / 2048 * 2048 } }
  else if off = 0x4018 then some { s with fab := { s.fab with mcmapbase := v / 8192 * 8192 } }
  else if off = 0x4020 then some (s.mcinv v)
  else if off = 0x4028 then some { s with fab := { s.fab with hwsel := bits v 1 0 } }
  else none

/-- A write to the mailbox (Table 13.1); none for an unused offset. -/
def State.boxWrite (s : State) (die off : Nat) (v : Word) : Option State :=
  if off = 0x8000 then some (s.mailboxGo die v)
  else if off = 0x8008 then some s
  else if 0x8100 ≤ off ∧ off + 8 ≤ 0x10000 then
    some (s.modMbox die (fun m => { m with data := m.data.writeBytes off (bytesOfNat 8 v.toNat) }))
  else none

/-- REGISTER_WRITE: a doubleword written through one function's BAR0; an unused offset, and a record window written so,
answer Unsupported Request (R182, R242). -/
def State.barWrite (s : State) (die off : Nat) (v : Word) : State :=
  let r := if off < 0x4000 then s.dispWrite off v else if off < 0x8000 then s.fabWrite die off v else s.boxWrite die off v
  r.getD (s.say .unsupported)

/-! ### Reads through BAR0 (R128, R182, R194, R241, R242, R273) -/

/-- A register's stored fields with BUSY, GO or EN in bit 63. -/
def withTop (b : Bool) (v : Word) : Word := v ||| BitVec.ofNat 64 (bit b * 2 ^ 63)

/-- What a read of the dispatcher's registers gives (Tables 5.11, 8.1 to 8.4); none for an unused offset and for a record
window (R182). -/
def State.dispReg (s : State) (off : Nat) : Option Word :=
  let d := s.disp
  if off = 0x000 then some d.tinvva
  else if off = 0x008 then some (withTop d.tinvBusy d.tinvctl)
  else if off = 0x010 then some (withTop d.lkillBusy d.lkill)
  else if 0x100 ≤ off ∧ off < 0x180 ∧ off % 8 = 0 then some (BitVec.ofNat 64 (d.weight ((off - 0x100) / 8)))
  else if 0x200 ≤ off ∧ off < 0x280 ∧ off % 8 = 0 then
    let x := d.queue ((off - 0x200) / 8)
    some (withTop x.en (BitVec.ofNat 64 (x.cls * 2 ^ 48 + x.asid * 2 ^ 32 + x.recs.length)))
  else none

/-- What a read of the fabric registers of an I/O die gives (Table 10.10); none for an unused offset. -/
def State.fabReg (s : State) (die off : Nat) : Option Word :=
  let f := s.fab
  if off = 0x4000 then
    let shadow := find f.shadow die
    some (BitVec.ofNat 64 (bit shadow.isSome * 2 ^ 32 + ((shadow.map RouteTable.version).getD 0).toNat * 2 ^ 16 +
      (f.table die).version.toNat))
  else if off = 0x4008 then some (BitVec.ofNat 64 ((find f.zrto die).getD 200))
  else if off = 0x4010 then some f.mctbase
  else if off = 0x4018 then some f.mcmapbase
  else if off = 0x4020 then some (withTop f.mcinvBusy f.mcinv)
  else if off = 0x4028 then some (BitVec.ofNat 64 f.hwsel)
  else none

/-- What a read of a mailbox gives (Table 13.1); none for an unused offset. -/
def State.boxReg (s : State) (die off : Nat) : Option Word :=
  let m := s.tele.mbox die
  if off = 0x8000 then some (withTop m.busy m.cmd)
  else if off = 0x8008 then some (withTop m.busy (BitVec.ofNat 64 m.status))
  else if 0x8100 ≤ off ∧ off + 8 ≤ 0x10000 then some (m.data.word off)
  else none

/-- A read of a doubleword through one function's BAR0; none is Unsupported Request (R182, R242). A read changes
nothing. DESIGN CHOICE, log 44: no row of the opcode table stands for it. -/
def State.barRead (s : State) (die off : Nat) : Option Word :=
  if off < 0x4000 then s.dispReg off else if off < 0x8000 then s.fabReg die off else s.boxReg die off

/-! ### The meanings -/

/-- REGISTER_WRITE (R2, R242). -/
def execRegisterWrite (die off : Nat) (v : Word) (s : State) : Host.Outcome State Fault Refusal :=
  .next (s.overLinks (fun s => if die < 2 then s.barWrite die off v else s))

/-- BAR2_READ (R243). -/
def execBar2Read (off size : Nat) (s : State) : Host.Outcome State Fault Refusal :=
  .next (s.overLinks (fun s => if hostReach off size then s.hostAsks (.read off size) else s.say .unsupported))

/-- BAR2_WRITE (R243). -/
def execBar2Write (off : Nat) (bytes : List Byte) (s : State) : Host.Outcome State Fault Refusal :=
  .next (s.overLinks (fun s =>
    if hostReach off bytes.length then s.hostAsks (.write off bytes) else s.say .unsupported))

/-- HOST_WRITE_BACK (R245, R246). -/
def execHostWriteBack (off : Nat) (bytes : List Byte) (s : State) : Host.Outcome State Fault Refusal :=
  .next (s.overCxl (fun s =>
    if hostReach off bytes.length then s.hostAsks (.write off bytes) else s.say .unsupported))

/-- CXL_MEM_READ (R245, R246). -/
def execCxlMemRead (off : Nat) (s : State) : Host.Outcome State Fault Refusal :=
  .next (s.overCxl (fun s => if hostReach (off / 64 * 64) 64 then s.hostAsks (.line off) else s.say .unsupported))

/-- BACK_INVALIDATE_ANSWER (R245, R246). -/
def execBackInvalidateAnswer (off : Nat) (s : State) : Host.Outcome State Fault Refusal :=
  .next (s.overCxl (fun s => s.snoopAnswered off))

/-- HOST_WINDOW_READ_COMPLETION (R244). -/
def execHostWindowReadCompletion (c i : Nat) (bytes : List Byte) (s : State) : Host.Outcome State Fault Refusal :=
  .next (s.hostReadDone c i bytes)

end Sys2Proof.Machine
end

