-- ==== Sys2Proof/Machine/Telemark.lean ====
section
/-!
DEFINITION. Telemark (13_management R273 to R281, R412): the mailbox commands, sensors and the power cap, the event log,
bring-up, firmware and measurements.
-/
namespace Sys2Proof.Machine

/-! ### The mailbox (R273) -/

/-- MBSTAT's codes. -/
def mbOk := 0
def mbBadCmd := 1
def mbBadArg := 2
def mbVerify := 3

/-- Data bytes a mailbox holds (R273). -/
def mbBytes : Nat := 32512

/-- A mailbox's command and its LEN field. -/
def Mbox.code (m : Mbox) : Nat := bits m.cmd 7 0
def Mbox.len (m : Mbox) : Nat := bits m.cmd 47 32

/-- A doubleword of the data. -/
def Mbox.dword (m : Mbox) (n : Nat) : Word := m.data.word (0x8100 + 8 * n)

/-- A mailbox's command is the one being served, and is not done. -/
def State.serves (s : State) (box code : Nat) : Bool :=
  s.tele.order.head? == some box && (s.tele.mbox box).busy && !(s.tele.mbox box).done && (s.tele.mbox box).code == code

/-- A served command ends with a status (R273). -/
def State.boxDone (s : State) (box status : Nat) : State := s.modMbox box (fun m => { m with status, done := true })

/-- A command is served: f gives what it does, or the status it fails with. A LEN out of range gives BADARG. -/
def State.serve (s : State) (box code : Nat) (f : Mbox → Except Nat State) : State :=
  if s.serves box code then
    if mbBytes < (s.tele.mbox box).len then s.boxDone box mbBadArg
    else match f (s.tele.mbox box) with
      | .ok t => t.boxDone box mbOk
      | .error e => s.boxDone box e
  else s

/-- Cycles of 1 ms (01_device: 3.3 GHz). -/
def windowCycles : Nat := 3300000

/-- MAILBOX_DONE: BUSY clears, and the next mailbox is served (R273); a cap that SETCAP has accepted holds from 1 ms after
this return of OK (R275). -/
def State.mailboxDone (s : State) (box : Nat) : State :=
  if s.tele.order.head? == some box && (s.tele.mbox box).done then
    let s := s.modMbox box (fun m => { m with busy := false, done := false })
    { s with tele := { s.tele with
        order := s.tele.order.tail
        capNext := s.tele.capNext.map (fun p => (p.1, some (p.2.getD (s.cycle + windowCycles)))) } }
  else s

/-- The commands of Table 13.2. -/
def knownCodes : List Nat := [0x01, 0x02, 0x03, 0x10, 0x11, 0x20, 0x21]

/-! ### The cap and the sensors (R274, R275) -/

/-- SETCAP: the new cap waits for OK to be returned, and then for the window that starts 1 ms later (R275). -/
def State.setcap (s : State) (m : Mbox) : Except Nat State :=
  let cap := (m.dword 0).toNat
  if 1200 ≤ cap ∧ cap ≤ 2800 then
    .ok (({ s with tele := { s.tele with capNext := s.tele.capNext ++ [(cap, none)] } }).log evCap 0 [cap])
  else .error mbBadArg

/-- The hottest die temperature of some records, in m°C. -/
def hottest (recs : List SensorRec) : Int :=
  (recs.filter (fun r => isDieTemp r.id.toNat)).foldl (fun (m : Int) r => max m r.value.toInt) 0

/-- The cap lowered by 100 W for every 1 °C above 105 °C (R275). -/
def effectiveCap (cap : Nat) (temp : Int) : Nat := cap - 100 * ((temp - 105000).toNat / 1000)

/-- The part stops, and every launch ends with FAULT and cause 0 (R275): its slots stop now, and its completion word is
written as at every tear-down (R22, R188). -/
def State.stopPart (s : State) : State :=
  { (s.launches.map Prod.fst).foldl (fun (s : State) l => s.endLaunch l .fault 0) s with stopped := true }

/-- SENSOR_SAMPLE (R274, R275): each sensor that the sample names by its id has a new record, the first one of that id. -/
def State.sample (s : State) (recs : List SensorRec) : State :=
  let recs := s.tele.sensors.map (fun old => (recs.find? (fun r => r.id == old.id)).getD old)
  let temp := hottest recs
  let eff := effectiveCap s.tele.cap temp
  let low := decide (eff < s.tele.capEff)
  let s := { s with tele := { s.tele with sensors := recs, capEff := eff } }
  let s := if low then s.log evCap 0 [eff] else s
  if 115000 < temp then s.stopPart else s

/-- POWER_WINDOW: a window begins, with the cap that holds in it; the engines are paced while the mean power lies above
it (R18, R275). -/
def State.window (s : State) (mean : Nat) : State :=
  let due := fun (p : Nat × Option Nat) => p.2.any (fun t => decide (t ≤ s.cycle))
  let cap := ((s.tele.capNext.filter due).getLast?.map Prod.fst).getD s.tele.cap
  let next := s.tele.capNext.filter (fun p => !due p)
  let eff := effectiveCap cap (hottest s.tele.sensors)
  { s with tele := { s.tele with cap, capNext := next, capEff := eff, throttle := decide (eff < mean) } }

/-- The bytes of a sensor record (R274). -/
def SensorRec.bytes (r : SensorRec) : List Byte :=
  bytesOfNat 8 r.value.toNat ++ bytesOfNat 4 r.status.toNat ++ bytesOfNat 4 r.id.toNat

/-- Bytes written to a mailbox's data. -/
def State.boxData (s : State) (box : Nat) (bs : List Byte) : State :=
  s.modMbox box (fun m => { m with data := m.data.writeBytes 0x8100 (bs.take mbBytes) })

/-- The bytes of a log record (R276, log 17). -/
def LogRec.bytes (r : LogRec) : List Byte :=
  (List.range 64).map (fun n => Config.recordByte r.cycle r.code r.phys r.core r.vals n)

/-- READLOG: up to 508 records from the first index on (R273, R276). -/
def State.readlog (s : State) (box : Nat) (m : Mbox) : Except Nat State :=
  let first := (m.dword 0).toNat
  if 16384 ≤ first then .error mbBadArg
  else .ok (s.boxData box (((s.tele.log.drop first).take 508).flatMap LogRec.bytes))

/-! ### Firmware (R279, R280) -/

/-- A bank's image. -/
def Tele.bank (t : Tele) (n : Nat) : List Byte := (find t.banks n).getD []

/-- The bank that is not active. -/
def Tele.inactive (t : Tele) : Nat := 1 - t.activeBank

/-- An image is accepted (R279). -/
def accepted (img : List Byte) : Bool :=
  Config.imageVerifies img && decide (Config.fusedMinimum ≤ Config.imageVersion img)

/-- Bytes written into an image from an offset on. -/
def patch (img : List Byte) (off : Nat) (bs : List Byte) : List Byte :=
  let base := if img.length < off then img ++ List.replicate (off - img.length) 0 else img
  base.take off ++ bs ++ base.drop (off + bs.length)

/-- FWWRITE (R279): until FWACTIVATE has accepted what it writes, a reset boots the active bank. -/
def State.fwwrite (s : State) (m : Mbox) : Except Nat State :=
  if m.len < 8 then .error mbBadArg
  else
    let n := s.tele.inactive
    let img := patch (s.tele.bank n) (m.dword 0).toNat (m.data.bytes 0x8108 (m.len - 8))
    .ok { s with tele := { s.tele with banks := put s.tele.banks n img, nextBank := s.tele.activeBank } }

/-- FWACTIVATE (R279). -/
def State.fwactivate (s : State) : Except Nat State :=
  let n := s.tele.inactive
  if accepted (s.tele.bank n) then .ok { s with tele := { s.tele with nextBank := n } } else .error mbVerify

/-- GET_MEASUREMENTS over the I3C port, which answers from bring-up step 1 on (R277, R280). -/
def State.measure (s : State) (nonce : List Byte) : State :=
  if s.tele.bringup = 0 then s
  else
    let a := Config.sha256 (s.tele.bank 0)
    let b := Config.sha256 (s.tele.bank 1)
    let n := s.tele.retired.length
    s.say (.measurements a b Config.fusedMinimum n (Config.identitySign nonce a b Config.fusedMinimum n))

/-! ### Pools (R278, R412) -/

/-- Two ranges share a byte. -/
def meets (a b : Nat × Nat) : Bool := decide (a.1 < b.1 + b.2) && decide (b.1 < a.1 + a.2)

/-- A pool's range in bytes is as R412 requires. -/
def State.poolOk (s : State) (m : Mbox) (size : Nat) (other : Option (Nat × Nat)) : Bool :=
  let pa := (m.dword 0).toNat
  decide (16 ≤ m.len) && decide (0 < size) && pa % 4096 == 0 && pa / 2 ^ 42 == s.pkg && hostReach (pa % 2 ^ 42) size &&
  (match other with
   | some r => !meets (pa % 2 ^ 42, size) (r.1 % 2 ^ 42, r.2)
   | none => true)

/-- SAVEPOOL: its size is in images (R278, R412). -/
def State.savepool (s : State) (m : Mbox) : Except Nat State :=
  let n := (m.dword 1).toNat
  if s.poolOk m (n * Config.imageBytes) s.disp.cappool then
    .ok { s with disp := { s.disp with savepool := some ((m.dword 0).toNat, n) } }
  else .error mbBadArg

/-- CAPPOOL: its size is in bytes, a multiple of 4 KiB (R281, R412). -/
def State.cappool (s : State) (m : Mbox) : Except Nat State :=
  let n := (m.dword 1).toNat
  let other := s.disp.savepool.map (fun p => (p.1, p.2 * Config.imageBytes))
  if n % 4096 = 0 ∧ s.poolOk m n other = true then
    .ok { s with disp := { s.disp with cappool := some ((m.dword 0).toNat, n), capUsed := 0 } }
  else .error mbBadArg

/-! ### Bring-up (R277, R279) -/

/-- FWWRITE or FWACTIVATE is the command being served (R279). -/
def Tele.writing (t : Tele) : Bool :=
  t.order.head?.any (fun b => (t.mbox b).busy && ((t.mbox b).code == 0x10 || (t.mbox b).code == 0x11))

/-- Bring-up step 1: the bank that Telemark boots, and whether it had to fall back (R279). -/
def Tele.boot (t : Tele) : Nat × Bool :=
  let n := if t.writing then t.activeBank else t.nextBank
  if accepted (t.bank n) then (n, false) else (1 - n, true)

/-- The physical cores that bring-up excludes (R277). -/
def Tele.excludes (t : Tele) (inp : BringupInput) : List Nat :=
  (inp.badCores.map (fun p => p.1 * diePhysical + p.2) ++ t.retired).eraseDups

/-- A die has too few good cores left (R277). -/
def Tele.short (t : Tele) : Bool := (List.range 8).any (fun d => decide ((t.good d).length < 2048))

/-- POWER_GOOD: everything volatile takes its reset value; the log, the banks and the list of retired cores stay; and
the part comes up in the order of Table 13.4 as far as step 5 (R277). -/
def State.powerUp (s : State) (inp : BringupInput) : State :=
  let (bank, fell) := s.tele.boot
  let tele := { State.reset.tele with
    log := s.tele.log, banks := s.tele.banks, activeBank := bank, nextBank := bank
    excluded := s.tele.excludes inp, retired := s.tele.retired }
  let s := { State.reset with
    hostMem := s.hostMem, asidBase := s.asidBase, pkg := s.pkg, answers := s.answers, agenda := s.agenda, fresh := s.fresh
    fab := { State.reset.fab with
      cur := [(0, emptyTable s.pkg), (1, emptyTable s.pkg)]
      cxl := inp.cxl, switches := s.fab.switches, failed := s.fab.failed, flight := s.fab.flight
      removing := s.fab.removing.map (fun (e : Node × Node × Nat) => (e.1, e.2.1, e.2.2 - s.cycle)) }
    tele := tele }
  let s := if fell then s.log evFirmware 0 [bank] else s
  if s.tele.short then
    let s := s.log evBringup 0 []
    { s with tele := { s.tele with failed := true, bringup := 3 } }
  else { s with tele := { s.tele with bringup := 5 } }

/-! ### The meanings -/

/-- SETCAP (R275). -/
def execSetcap (box : Nat) (s : State) : Host.Outcome State Fault Refusal := .next (s.serve box 0x01 s.setcap)

/-- SENSORS (R274). -/
def execSensors (box : Nat) (s : State) : Host.Outcome State Fault Refusal :=
  .next (s.serve box 0x02 (fun _ => .ok (s.boxData box (s.tele.sensors.flatMap SensorRec.bytes))))

/-- READLOG (R276). -/
def execReadlog (box : Nat) (s : State) : Host.Outcome State Fault Refusal := .next (s.serve box 0x03 (s.readlog box))

/-- FWWRITE (R279). -/
def execFwwrite (box : Nat) (s : State) : Host.Outcome State Fault Refusal := .next (s.serve box 0x10 s.fwwrite)

/-- FWACTIVATE (R279). -/
def execFwactivate (box : Nat) (s : State) : Host.Outcome State Fault Refusal := .next (s.serve box 0x11 (fun _ => s.fwactivate))

/-- SAVEPOOL (R412). -/
def execSavepool (box : Nat) (s : State) : Host.Outcome State Fault Refusal := .next (s.serve box 0x20 s.savepool)

/-- CAPPOOL (R412). -/
def execCappool (box : Nat) (s : State) : Host.Outcome State Fault Refusal := .next (s.serve box 0x21 s.cappool)

/-- MAILBOX_UNKNOWN_CMD (R273). -/
def execMailboxUnknownCmd (box : Nat) (s : State) : Host.Outcome State Fault Refusal :=
  let code := (s.tele.mbox box).code
  .next (if knownCodes.contains code || !s.serves box code then s else s.boxDone box mbBadCmd)

/-- MAILBOX_DONE (R273). -/
def execMailboxDone (box : Nat) (s : State) : Host.Outcome State Fault Refusal := .next (s.mailboxDone box)

/-- SENSOR_SAMPLE (R274). -/
def execSensorSample (recs : List SensorRec) (s : State) : Host.Outcome State Fault Refusal := .next (s.sample recs)

/-- POWER_WINDOW (R275). -/
def execPowerWindow (mean : Nat) (s : State) : Host.Outcome State Fault Refusal := .next (s.window mean)

/-- POWER_GOOD (R277). -/
def execPowerGood (inp : BringupInput) (s : State) : Host.Outcome State Fault Refusal := .next (s.powerUp inp)

/-- GET_MEASUREMENTS (R280). -/
def execGetMeasurements (nonce : List Byte) (s : State) : Host.Outcome State Fault Refusal := .next (s.measure nonce)

end Sys2Proof.Machine
end

