-- ==== Sys2Proof/Machine/Vector.lean ====
section
/-!
DEFINITION. The vector instructions (16_reference R373 to R397): lanes, latencies and flags of Table 16.10.
-/
namespace Sys2Proof.Machine

/-! ### Lanes of integer types (R79) -/

/-- An integer lane operation: the exact result, kept to its low bits or saturated. -/
def intLane (t : LaneType) (sat : Bool) (f : Int → Int → Int) (a b : Nat) : Nat × Flags :=
  packInt t sat (f (intOf t a) (intOf t b))

/-- VADD and VSUB of a lane (R374, R376). -/
def addSubLane (t : LaneType) (sub sat : Bool) (c : Rounding) (a b : Nat) : Nat × Flags :=
  if t.isInt then intLane t sat (fun x y => if sub then x - y else x + y) a b
  else if sub then subLane t c a b else addLane t c a b

/-- VMUL of a lane (R388). -/
def mulAnyLane (t : LaneType) (c : Rounding) (a b : Nat) : Nat × Flags :=
  if t.isInt then intLane t false (· * ·) a b else mulLane t c a b

/-- VMIN, VMAX, VMINN and VMAXN of a lane (R386). -/
def minmaxAny (t : LaneType) (fz isMax number : Bool) (a b : Nat) : Nat × Flags :=
  if t.isInt then (if (if isMax then decide (intOf t a < intOf t b) else decide (intOf t b < intOf t a)) then b else a, {})
  else minmaxLane t fz isMax number a b

/-- VABS and VNEG of a lane: bits of the sign alone on floating-point types (R375). -/
def absLane (t : LaneType) (a : Nat) : Nat :=
  let w := laneWidth t
  if !t.isInt then a % 2 ^ (w - 1)
  else if t.isSigned then bitsOfInt w (if intOf t a < 0 then -intOf t a else intOf t a) else a

/-- VNEG of a lane. -/
def negLane (t : LaneType) (a : Nat) : Nat :=
  let w := laneWidth t
  if t.isInt then (2 ^ w - a % 2 ^ w) % 2 ^ w else (a + 2 ^ (w - 1)) % 2 ^ w

/-- The condition of VCMP on a lane (R377). -/
def cmpAny (t : LaneType) (fz : Bool) (cond : VCond) (a b : Nat) : Bool × Flags :=
  if t.isInt then
    (match cond with
      | .eq => a == b
      | .ne => a != b
      | .lt => decide (intOf t a < intOf t b)
      | .le => decide (intOf t a ≤ intOf t b)
      | .un => false
      | .ord => true
      | .ltn => decide (a < b)
      | .len => decide (a ≤ b), {})
  else cmpLane t fz cond a b

/-- A shift of a lane by an amount taken mod w (R394). -/
def shiftLane (t : LaneType) (right : Bool) (a n : Nat) : Nat :=
  let w := laneWidth t
  let k := n % w
  if !right then a * 2 ^ k % 2 ^ w
  else if t.isSigned then bitsOfInt w (intOf t a / 2 ^ k) else a / 2 ^ k

/-- A lane is zero (R397). -/
def zeroLane (t : LaneType) (fz : Bool) (a : Nat) : Bool :=
  if t.isInt then a == 0 else (operandF t fz a).isZero

/-! ### Whole vectors -/

/-- Two operands lane by lane. -/
def zipLanes (t : LaneType) (f : Nat → Nat → Nat × Flags) (a b : Vec) : List (Nat × Flags) :=
  (List.range (laneCount t)).map (fun i => f (lane t a i) (lane t b i))

/-- A form of two vector operands, the second perhaps an LM entry (R373). -/
def State.vecEff (s : State) (t : LaneType) (f : Nat → Nat → Nat × Flags) (d a b : Reg) (m : Bool) (latency : Nat) :
    AEff :=
  (effLanes t d (zipLanes t f (s.V a) (s.operandV m b)) latency).withPoison (s.poisonC m b 16)

/-- A form of one vector operand. -/
def State.vecEff1 (s : State) (t : LaneType) (f : Nat → Nat × Flags) (d a : Reg) (latency : Nat) : AEff :=
  effLanes t d ((lanes t (s.V a)).map f) latency

/-- The latency of the forms that differ between integer and floating-point types (Table 3.3). -/
def lat24 (t : LaneType) : Nat := if t.isInt then 2 else 4

/-- A logic form on all 128 bits (R385). -/
def State.logicEff (s : State) (f : Vec → Vec → Vec) (d a b : Reg) (m : Bool) : AEff :=
  (effV d (f (s.V a) (s.operandV m b)) 2).withPoison (s.poisonC m b 16)

/-- The result of a floating-point form in lane 0 alone, of a result type. -/
def effLane0 (t : LaneType) (d : Reg) (x : Nat × Flags) (latency : Nat) : AEff :=
  effV d (BitVec.ofNat 128 (x.1 % 2 ^ laneWidth t)) latency x.2

/-- VREDMAX and VREDMIN: VMAX or VMIN over all lanes in lane order (R391). -/
def reduceMinmax (t : LaneType) (fz isMax : Bool) (ls : List Nat) : Nat × Flags :=
  match ls with
  | [] => (0, {})
  | x :: r => r.foldl (fun acc y => let z := minmaxAny t fz isMax false acc.1 y; (z.1, acc.2.or z.2)) (x, {})

/-- The effect of VREDMAX and VREDMIN: an x register for integer types, lane 0 for the others. -/
def State.redEff (s : State) (t : LaneType) (isMax : Bool) (d a : Reg) : AEff :=
  let r := reduceMinmax t s.me.fz isMax (lanes t (s.V a))
  if t.isInt then effX d (widen t r.1) 4 else effLane0 t d r 4

/-- VREDSUM (R392). -/
def State.redsumEff (s : State) (t : LaneType) (d a : Reg) : AEff :=
  let ls := lanes t (s.V a)
  if t.isInt then effX d (BitVec.ofInt 64 ((ls.map (intOf t)).sum)) 6
  else
    let r : LaneType := if t = .fp64 then .fp64 else .fp32
    effLane0 r d (roundVal r s.rounding (sumF s.me.rm (ls.map (operandF t s.me.fz)))) 6

/-- The product of lane n of two operands (R380). -/
def prodLane (t : LaneType) (fz : Bool) (a b : Vec) (n : Nat) : FVal :=
  mulF (operandF t fz (lane t a n)) (operandF t fz (lane t b n))

/-- VDOT: exact sums rounded once to FP32 (R380). -/
def State.dotEff (s : State) (t : LaneType) (d a b : Reg) (m : Bool) : AEff :=
  let c := s.rounding
  let u := s.V a
  let v := s.operandV m b
  let acc := fun i => operandF .fp32 c.fz (lane .fp32 (s.V d) i)
  let sum := fun i ns => roundVal .fp32 c (sumF c.rm (acc i :: ns.map (prodLane t c.fz u v)))
  let xs := if t = .fp32 then
      sum 0 [0, 1, 2, 3] :: [1, 2, 3].map (fun i => (lane .fp32 (s.V d) i, {}))
    else (List.range 4).map (fun i => sum i [2 * i, 2 * i + 1])
  (effLanes .fp32 d xs 5).withPoison (s.poisonC m b 16)

/-- The lanes of VCMPRS: those under the mask packed low, zero above (R378). -/
def compressLanes (ls : List Nat) (mask : Word) : List Nat :=
  (ls.zipIdx.filter (fun p => bitAt mask p.2)).map Prod.fst

/-- The lanes of VEXPND: low lanes placed under the mask, zero elsewhere (R378). -/
def expandLanes (mask : Word) : List Nat → Nat → Nat → List Nat
  | _, _, 0 => []
  | src, i, n + 1 =>
    if bitAt mask i then src.headD 0 :: expandLanes mask (src.drop 1) (i + 1) n
    else 0 :: expandLanes mask src (i + 1) n

/-- VPERM: each byte selects a byte, or zero (R389). -/
def permBytes (a sel : Vec) : Vec :=
  ofLanes .n8 ((lanes .n8 sel).map (fun n => if 128 ≤ n then 0 else lane .n8 a (n % 16)))

/-- One advance of the generator G (R87). -/
def drawNext (g : Word) : Word :=
  let g := g ^^^ (g <<< 13)
  let g := g ^^^ (g >>> 7)
  g ^^^ (g <<< 17)

/-- The lanes of VCVT in increasing order, with the generator left after their draws (R87, R90). -/
def cvtLanes (src dst : LaneType) (c : Rounding) (sr : Bool) : Word → List Nat → List (Nat × Flags) × Word
  | g, [] => ([], g)
  | g, x :: r =>
    let g' := if sr then drawNext g else g
    let y := convertLane src dst { c with draw := if sr then some (bits g' 63 32) else none } x
    let rest := cvtLanes src dst c sr g' r
    (y :: rest.1, rest.2)

/-- VCVT (R379). -/
def State.cvtEff (s : State) (dst src : LaneType) (sat sr : Bool) (d a : Reg) : AEff :=
  let n := min (laneCount src) (laneCount dst)
  let r := cvtLanes src dst (s.rounding sat) sr s.me.gen ((lanes src (s.V a)).take n)
  { effLanes dst d r.1 3 with gen := if sr then some r.2 else none }

/-- The special functions: each lane rounded once; the free placement of R390 is drawn per lane (log 10). -/
def State.specialEff (s : State) (t : LaneType) (f : Rounding → Nat → Nat → Nat × Flags) (d a : Reg) : AEff :=
  effLanes t d ((lanes t (s.V a)).zipIdx.map (fun p => f s.rounding (s.fresh + p.2) p.1)) 1

/-! ### The meanings -/

/-- VADD (R376). -/
def execVadd (sat : Bool) (t : LaneType) (d a b : Reg) (m : Bool) (s : State) : Host.Outcome State Fault Refusal :=
  runA s (s.vecEff t (addSubLane t false sat s.rounding) d a b m (lat24 t))

/-- VSUB (R376). -/
def execVsub (sat : Bool) (t : LaneType) (d a b : Reg) (m : Bool) (s : State) : Host.Outcome State Fault Refusal :=
  runA s (s.vecEff t (addSubLane t true sat s.rounding) d a b m (lat24 t))

/-- VMUL (R388). -/
def execVmul (t : LaneType) (d a b : Reg) (m : Bool) (s : State) : Host.Outcome State Fault Refusal :=
  runA s (s.vecEff t (mulAnyLane t s.rounding) d a b m (lat24 t))

/-- VMIN (R386). -/
def execVmin (t : LaneType) (d a b : Reg) (m : Bool) (s : State) : Host.Outcome State Fault Refusal :=
  runA s (s.vecEff t (minmaxAny t s.me.fz false false) d a b m (lat24 t))

/-- VMAX (R386). -/
def execVmax (t : LaneType) (d a b : Reg) (m : Bool) (s : State) : Host.Outcome State Fault Refusal :=
  runA s (s.vecEff t (minmaxAny t s.me.fz true false) d a b m (lat24 t))

/-- VMINN (R386). -/
def execVminn (t : LaneType) (d a b : Reg) (m : Bool) (s : State) : Host.Outcome State Fault Refusal :=
  runA s (s.vecEff t (minmaxAny t s.me.fz false true) d a b m (lat24 t))

/-- VMAXN (R386). -/
def execVmaxn (t : LaneType) (d a b : Reg) (m : Bool) (s : State) : Host.Outcome State Fault Refusal :=
  runA s (s.vecEff t (minmaxAny t s.me.fz true true) d a b m (lat24 t))

/-- VDOT (R380). -/
def execVdot (t : LaneType) (d a b : Reg) (m : Bool) (s : State) : Host.Outcome State Fault Refusal :=
  runA s (s.dotEff t d a b m)

/-- VSHL by per-lane amounts (R394). -/
def execVshlVector (t : LaneType) (d a b : Reg) (m : Bool) (s : State) : Host.Outcome State Fault Refusal :=
  runA s (s.vecEff t (fun x n => (shiftLane t false x n, {})) d a b m 2)

/-- VSHR by per-lane amounts (R394). -/
def execVshrVector (t : LaneType) (d a b : Reg) (m : Bool) (s : State) : Host.Outcome State Fault Refusal :=
  runA s (s.vecEff t (fun x n => (shiftLane t true x n, {})) d a b m 2)

/-- VSRA by per-lane amounts (R394). -/
def execVsraVector (t : LaneType) (d a b : Reg) (m : Bool) (s : State) : Host.Outcome State Fault Refusal :=
  runA s (s.vecEff t (fun x n => (shiftLane t true x n, {})) d a b m 2)

/-- VFMA: fusedMultiplyAdd with vd as the addend (R382). -/
def execVfma (neg : Bool) (t : LaneType) (d a b : Reg) (m : Bool) (s : State) : Host.Outcome State Fault Refusal :=
  runA s ((effLanes t d ((List.range (laneCount t)).map (fun i =>
    fmaLane t s.rounding neg (lane t (s.V a) i) (lane t (s.operandV m b) i) (lane t (s.V d) i))) 4).withPoison
    (s.poisonC m b 16))

/-- VABS (R375). -/
def execVabs (t : LaneType) (d a : Reg) (s : State) : Host.Outcome State Fault Refusal :=
  runA s (s.vecEff1 t (fun x => (absLane t x, {})) d a 2)

/-- VNEG (R375). -/
def execVneg (t : LaneType) (d a : Reg) (s : State) : Host.Outcome State Fault Refusal :=
  runA s (s.vecEff1 t (fun x => (negLane t x, {})) d a 2)

/-- VREDSUM (R392). -/
def execVredsum (t : LaneType) (d a : Reg) (s : State) : Host.Outcome State Fault Refusal :=
  runA s (s.redsumEff t d a)

/-- VREDMAX (R391). -/
def execVredmax (t : LaneType) (d a : Reg) (s : State) : Host.Outcome State Fault Refusal :=
  runA s (s.redEff t true d a)

/-- VREDMIN (R391). -/
def execVredmin (t : LaneType) (d a : Reg) (s : State) : Host.Outcome State Fault Refusal :=
  runA s (s.redEff t false d a)

/-- VRCP (R390). -/
def execVrcp (t : LaneType) (d a : Reg) (s : State) : Host.Outcome State Fault Refusal :=
  runA s (s.specialEff t (fun c _ => rcpLane t c) d a)

/-- VRSQ (R390). -/
def execVrsq (t : LaneType) (d a : Reg) (s : State) : Host.Outcome State Fault Refusal :=
  runA s (s.specialEff t (fun c _ => rsqLane t c) d a)

/-- VEXP2 (R390). -/
def execVexp2 (t : LaneType) (d a : Reg) (s : State) : Host.Outcome State Fault Refusal :=
  runA { s with fresh := s.fresh + laneCount t } (s.specialEff t (exp2Lane t) d a)

/-- VLOG2 (R390). -/
def execVlog2 (t : LaneType) (d a : Reg) (s : State) : Host.Outcome State Fault Refusal :=
  runA { s with fresh := s.fresh + laneCount t } (s.specialEff t (log2Lane t) d a)

/-- VTANH (R390). -/
def execVtanh (t : LaneType) (d a : Reg) (s : State) : Host.Outcome State Fault Refusal :=
  runA { s with fresh := s.fresh + laneCount t } (s.specialEff t (tanhLane t) d a)

/-- VSPLAT (R395). -/
def execVsplat (t : LaneType) (d a : Reg) (s : State) : Host.Outcome State Fault Refusal :=
  runA s (effV d (ofLanes t (List.replicate (laneCount t) ((s.X a).toNat % 2 ^ laneWidth t))) 2)

/-- VZMASK (R397). -/
def execVzmask (t : LaneType) (d a : Reg) (s : State) : Host.Outcome State Fault Refusal :=
  runA s (effX d (maskOf ((lanes t (s.V a)).map (zeroLane t s.me.fz))) 2)

/-- VAND (R385). -/
def execVand (d a b : Reg) (m : Bool) (s : State) : Host.Outcome State Fault Refusal :=
  runA s (s.logicEff (· &&& ·) d a b m)

/-- VOR (R385). -/
def execVor (d a b : Reg) (m : Bool) (s : State) : Host.Outcome State Fault Refusal :=
  runA s (s.logicEff (· ||| ·) d a b m)

/-- VXOR (R385). -/
def execVxor (d a b : Reg) (m : Bool) (s : State) : Host.Outcome State Fault Refusal :=
  runA s (s.logicEff (· ^^^ ·) d a b m)

/-- VANDN (R385). -/
def execVandn (d a b : Reg) (m : Bool) (s : State) : Host.Outcome State Fault Refusal :=
  runA s (s.logicEff (fun x y => x &&& ~~~y) d a b m)

/-- VPERM (R389). -/
def execVperm (d a b : Reg) (m : Bool) (s : State) : Host.Outcome State Fault Refusal :=
  runA s (s.logicEff permBytes d a b m)

/-- VSHL by one amount (R394). -/
def execVshlScalar (t : LaneType) (d a b : Reg) (s : State) : Host.Outcome State Fault Refusal :=
  runA s (s.vecEff1 t (fun x => (shiftLane t false x (s.X b).toNat, {})) d a 2)

/-- VSHR by one amount (R394). -/
def execVshrScalar (t : LaneType) (d a b : Reg) (s : State) : Host.Outcome State Fault Refusal :=
  runA s (s.vecEff1 t (fun x => (shiftLane t true x (s.X b).toNat, {})) d a 2)

/-- VSRA by one amount (R394). -/
def execVsraScalar (t : LaneType) (d a b : Reg) (s : State) : Host.Outcome State Fault Refusal :=
  runA s (s.vecEff1 t (fun x => (shiftLane t true x (s.X b).toNat, {})) d a 2)

/-- VEXT: the lane index is taken mod L (R381). -/
def execVext (t : LaneType) (d a b : Reg) (s : State) : Host.Outcome State Fault Refusal :=
  runA s (effX d (widen t (lane t (s.V a) ((s.X b).toNat % laneCount t))) 2)

/-- VINS: the other lanes keep their values (R383). -/
def execVins (t : LaneType) (d a b : Reg) (s : State) : Host.Outcome State Fault Refusal :=
  runA s (effV d (ofLanes t ((lanes t (s.V d)).set ((s.X b).toNat % laneCount t) ((s.X a).toNat % 2 ^ laneWidth t))) 2)

/-- VCMPRS (R378). -/
def execVcmprs (t : LaneType) (d a b : Reg) (s : State) : Host.Outcome State Fault Refusal :=
  runA s (effV d (ofLanes t (compressLanes (lanes t (s.V a)) (s.X b))) 2)

/-- VEXPND (R378). -/
def execVexpnd (t : LaneType) (d a b : Reg) (s : State) : Host.Outcome State Fault Refusal :=
  runA s (effV d (ofLanes t (expandLanes (s.X b) (lanes t (s.V a)) 0 (laneCount t))) 2)

/-- VCMP: a lane mask in an x register (R377). -/
def execVcmp (cond : VCond) (t : LaneType) (d a b : Reg) (s : State) : Host.Outcome State Fault Refusal :=
  let rs := (List.range (laneCount t)).map (fun i => cmpAny t s.me.fz cond (lane t (s.V a) i) (lane t (s.V b) i))
  runA s { effX d (maskOf (rs.map Prod.fst)) 2 with flags := flagsOf (rs.map (fun r => (0, r.2))) }

/-- VSEL: lanes under the mask (R393). -/
def execVsel (t : LaneType) (d a mask : Reg) (s : State) : Host.Outcome State Fault Refusal :=
  runA s (effV d (ofLanes t ((List.range (laneCount t)).map (fun i =>
    if bitAt (s.X mask) i then lane t (s.V a) i else lane t (s.V d) i))) 2)

/-- VCVT (R379). -/
def execVcvt (dst src : LaneType) (sat sr : Bool) (d a : Reg) (s : State) : Host.Outcome State Fault Refusal :=
  runA s (s.cvtEff dst src sat sr d a)

/-- VMOV (R387). -/
def execVmov (d a : Reg) (s : State) : Host.Outcome State Fault Refusal :=
  runA s (effV d (s.V a) 2)

end Sys2Proof.Machine
end

