-- ==== Sys2Proof/Machine/Dispatch.lean ====
section
/-!
DEFINITION. One arm per operation of the part: its meaning.
-/
namespace Sys2Proof.Machine

/-- What one operation does. -/
def exec (i : Instr) (s : State) : Host.Outcome State Fault Refusal :=
  match i with
  | .addA d a b m => Sys2Proof.Machine.execAddA d a b m s
  | .subA d a b m => Sys2Proof.Machine.execSubA d a b m s
  | .andA d a b m => Sys2Proof.Machine.execAndA d a b m s
  | .orA d a b m => Sys2Proof.Machine.execOrA d a b m s
  | .xorA d a b m => Sys2Proof.Machine.execXorA d a b m s
  | .shlA d a b m => Sys2Proof.Machine.execShlA d a b m s
  | .shrA d a b m => Sys2Proof.Machine.execShrA d a b m s
  | .sraA d a b m => Sys2Proof.Machine.execSraA d a b m s
  | .sltA d a b m => Sys2Proof.Machine.execSltA d a b m s
  | .sltnA d a b m => Sys2Proof.Machine.execSltnA d a b m s
  | .minA d a b m => Sys2Proof.Machine.execMinA d a b m s
  | .maxA d a b m => Sys2Proof.Machine.execMaxA d a b m s
  | .minnA d a b m => Sys2Proof.Machine.execMinnA d a b m s
  | .maxnA d a b m => Sys2Proof.Machine.execMaxnA d a b m s
  | .mul d a b m => Sys2Proof.Machine.execMul d a b m s
  | .mulh d a b m => Sys2Proof.Machine.execMulh d a b m s
  | .mulhn d a b m => Sys2Proof.Machine.execMulhn d a b m s
  | .div d a b m => Sys2Proof.Machine.execDiv d a b m s
  | .divn d a b m => Sys2Proof.Machine.execDivn d a b m s
  | .rem d a b m => Sys2Proof.Machine.execRem d a b m s
  | .remn d a b m => Sys2Proof.Machine.execRemn d a b m s
  | .popc d a => Sys2Proof.Machine.execPopc d a s
  | .clz d a => Sys2Proof.Machine.execClz d a s
  | .ctz d a => Sys2Proof.Machine.execCtz d a s
  | .addC d a b => Sys2Proof.Machine.execAddC d a b s
  | .subC d a b => Sys2Proof.Machine.execSubC d a b s
  | .andC d a b => Sys2Proof.Machine.execAndC d a b s
  | .orC d a b => Sys2Proof.Machine.execOrC d a b s
  | .xorC d a b => Sys2Proof.Machine.execXorC d a b s
  | .shlC d a b => Sys2Proof.Machine.execShlC d a b s
  | .shrC d a b => Sys2Proof.Machine.execShrC d a b s
  | .sraC d a b => Sys2Proof.Machine.execSraC d a b s
  | .sltC d a b => Sys2Proof.Machine.execSltC d a b s
  | .sltnC d a b => Sys2Proof.Machine.execSltnC d a b s
  | .minC d a b => Sys2Proof.Machine.execMinC d a b s
  | .maxC d a b => Sys2Proof.Machine.execMaxC d a b s
  | .minnC d a b => Sys2Proof.Machine.execMinnC d a b s
  | .maxnC d a b => Sys2Proof.Machine.execMaxnC d a b s
  | .addiA d a imm => Sys2Proof.Machine.execAddiA d a imm s
  | .addiC d a imm => Sys2Proof.Machine.execAddiC d a imm s
  | .andiA d a imm => Sys2Proof.Machine.execAndiA d a imm s
  | .andiC d a imm => Sys2Proof.Machine.execAndiC d a imm s
  | .oriA d a imm => Sys2Proof.Machine.execOriA d a imm s
  | .oriC d a imm => Sys2Proof.Machine.execOriC d a imm s
  | .xoriA d a imm => Sys2Proof.Machine.execXoriA d a imm s
  | .xoriC d a imm => Sys2Proof.Machine.execXoriC d a imm s
  | .sltiA d a imm => Sys2Proof.Machine.execSltiA d a imm s
  | .sltiC d a imm => Sys2Proof.Machine.execSltiC d a imm s
  | .shlImmA d a amount => Sys2Proof.Machine.execShlImmA d a amount s
  | .shlImmC d a amount => Sys2Proof.Machine.execShlImmC d a amount s
  | .shrImmA d a amount => Sys2Proof.Machine.execShrImmA d a amount s
  | .shrImmC d a amount => Sys2Proof.Machine.execShrImmC d a amount s
  | .sraImmA d a amount => Sys2Proof.Machine.execSraImmA d a amount s
  | .sraImmC d a amount => Sys2Proof.Machine.execSraImmC d a amount s
  | .extr d a len pos => Sys2Proof.Machine.execExtr d a len pos s
  | .ins d a len pos => Sys2Proof.Machine.execIns d a len pos s
  | .widf d n => Sys2Proof.Machine.execWidf d n s
  | .vadd sat t d a b m => Sys2Proof.Machine.execVadd sat t d a b m s
  | .vsub sat t d a b m => Sys2Proof.Machine.execVsub sat t d a b m s
  | .vmul t d a b m => Sys2Proof.Machine.execVmul t d a b m s
  | .vmin t d a b m => Sys2Proof.Machine.execVmin t d a b m s
  | .vmax t d a b m => Sys2Proof.Machine.execVmax t d a b m s
  | .vminn t d a b m => Sys2Proof.Machine.execVminn t d a b m s
  | .vmaxn t d a b m => Sys2Proof.Machine.execVmaxn t d a b m s
  | .vdot t d a b m => Sys2Proof.Machine.execVdot t d a b m s
  | .vshlVector t d a b m => Sys2Proof.Machine.execVshlVector t d a b m s
  | .vshrVector t d a b m => Sys2Proof.Machine.execVshrVector t d a b m s
  | .vsraVector t d a b m => Sys2Proof.Machine.execVsraVector t d a b m s
  | .vfma neg t d a b m => Sys2Proof.Machine.execVfma neg t d a b m s
  | .vabs t d a => Sys2Proof.Machine.execVabs t d a s
  | .vneg t d a => Sys2Proof.Machine.execVneg t d a s
  | .vredsum t d a => Sys2Proof.Machine.execVredsum t d a s
  | .vredmax t d a => Sys2Proof.Machine.execVredmax t d a s
  | .vredmin t d a => Sys2Proof.Machine.execVredmin t d a s
  | .vrcp t d a => Sys2Proof.Machine.execVrcp t d a s
  | .vrsq t d a => Sys2Proof.Machine.execVrsq t d a s
  | .vexp2 t d a => Sys2Proof.Machine.execVexp2 t d a s
  | .vlog2 t d a => Sys2Proof.Machine.execVlog2 t d a s
  | .vtanh t d a => Sys2Proof.Machine.execVtanh t d a s
  | .vsplat t d a => Sys2Proof.Machine.execVsplat t d a s
  | .vzmask t d a => Sys2Proof.Machine.execVzmask t d a s
  | .vand d a b m => Sys2Proof.Machine.execVand d a b m s
  | .vor d a b m => Sys2Proof.Machine.execVor d a b m s
  | .vxor d a b m => Sys2Proof.Machine.execVxor d a b m s
  | .vandn d a b m => Sys2Proof.Machine.execVandn d a b m s
  | .vperm d a b m => Sys2Proof.Machine.execVperm d a b m s
  | .vshlScalar t d a b => Sys2Proof.Machine.execVshlScalar t d a b s
  | .vshrScalar t d a b => Sys2Proof.Machine.execVshrScalar t d a b s
  | .vsraScalar t d a b => Sys2Proof.Machine.execVsraScalar t d a b s
  | .vext t d a b => Sys2Proof.Machine.execVext t d a b s
  | .vins t d a b => Sys2Proof.Machine.execVins t d a b s
  | .vcmprs t d a b => Sys2Proof.Machine.execVcmprs t d a b s
  | .vexpnd t d a b => Sys2Proof.Machine.execVexpnd t d a b s
  | .vcmp cond t d a b => Sys2Proof.Machine.execVcmp cond t d a b s
  | .vsel t d a mask => Sys2Proof.Machine.execVsel t d a mask s
  | .vcvt dst src sat sr d a => Sys2Proof.Machine.execVcvt dst src sat sr d a s
  | .vmov d a => Sys2Proof.Machine.execVmov d a s
  | .waitev a => Sys2Proof.Machine.execWaitev a s
  | .asinv a => Sys2Proof.Machine.execAsinv a s
  | .mswap n => Sys2Proof.Machine.execMswap n s
  | .trap code => Sys2Proof.Machine.execTrap code s
  | .crr d num => Sys2Proof.Machine.execCrr d num s
  | .crw a d num => Sys2Proof.Machine.execCrw a d num s
  | .crs a d num => Sys2Proof.Machine.execCrs a d num s
  | .crc a d num => Sys2Proof.Machine.execCrc a d num s
  | .hmask ch => Sys2Proof.Machine.execHmask ch s
  | .hunmask ch => Sys2Proof.Machine.execHunmask ch s
  | .lih d imm => Sys2Proof.Machine.execLih d imm s
  | .liq d imm => Sys2Proof.Machine.execLiq d imm s
  | .liw d imm => Sys2Proof.Machine.execLiw d imm s
  | .beq a b off => Sys2Proof.Machine.execBeq a b off s
  | .bne a b off => Sys2Proof.Machine.execBne a b off s
  | .blt a b off => Sys2Proof.Machine.execBlt a b off s
  | .bge a b off => Sys2Proof.Machine.execBge a b off s
  | .bltn a b off => Sys2Proof.Machine.execBltn a b off s
  | .bgen a b off => Sys2Proof.Machine.execBgen a b off s
  | .bbs a bit off => Sys2Proof.Machine.execBbs a bit off s
  | .bbc a bit off => Sys2Proof.Machine.execBbc a bit off s
  | .j off => Sys2Proof.Machine.execJ off s
  | .jal off => Sys2Proof.Machine.execJal off s
  | .jalr d b imm => Sys2Proof.Machine.execJalr d b imm s
  | .rpt a len stride => Sys2Proof.Machine.execRpt a len stride s
  | .tbegin a off => Sys2Proof.Machine.execTbegin a off s
  | .tabort code => Sys2Proof.Machine.execTabort code s
  | .ldB d b imm => Sys2Proof.Machine.execLdB d b imm s
  | .ldH d b imm => Sys2Proof.Machine.execLdH d b imm s
  | .ldW d b imm => Sys2Proof.Machine.execLdW d b imm s
  | .ldD d b imm => Sys2Proof.Machine.execLdD d b imm s
  | .ldnB d b imm => Sys2Proof.Machine.execLdnB d b imm s
  | .ldnH d b imm => Sys2Proof.Machine.execLdnH d b imm s
  | .ldnW d b imm => Sys2Proof.Machine.execLdnW d b imm s
  | .vld d b imm => Sys2Proof.Machine.execVld d b imm s
  | .stB a b imm => Sys2Proof.Machine.execStB a b imm s
  | .stH a b imm => Sys2Proof.Machine.execStH a b imm s
  | .stW a b imm => Sys2Proof.Machine.execStW a b imm s
  | .stD a b imm => Sys2Proof.Machine.execStD a b imm s
  | .vst a b imm => Sys2Proof.Machine.execVst a b imm s
  | .st4 a b off hi => Sys2Proof.Machine.execSt4 a b off hi s
  | .lda dbl scope d b => Sys2Proof.Machine.execLda dbl scope d b s
  | .stl dbl scope a b => Sys2Proof.Machine.execStl dbl scope a b s
  | .amo op dbl ar d b c => Sys2Proof.Machine.execAmo op dbl ar d b c s
  | .cas dbl ar a b c => Sys2Proof.Machine.execCas dbl ar a b c s
  | .fence kind scope => Sys2Proof.Machine.execFence kind scope s
  | .fencex ca cb scope => Sys2Proof.Machine.execFencex ca cb scope s
  | .swset a b => Sys2Proof.Machine.execSwset a b s
  | .swwait a b => Sys2Proof.Machine.execSwwait a b s
  | .bar scope a b => Sys2Proof.Machine.execBar scope a b s
  | .tred vec op t b c => Sys2Proof.Machine.execTred vec op t b c s
  | .send a b count ch => Sys2Proof.Machine.execSend a b count ch s
  | .spawn a b => Sys2Proof.Machine.execSpawn a b s
  | .spawnq a b => Sys2Proof.Machine.execSpawnq a b s
  | .migrate a b => Sys2Proof.Machine.execMigrate a b s
  | .callat a b ch => Sys2Proof.Machine.execCallat a b ch s
  | .reply a b => Sys2Proof.Machine.execReply a b s
  | .chrd d ch => Sys2Proof.Machine.execChrd d ch s
  | .copy sat raise a b c => Sys2Proof.Machine.execCopy sat raise a b c s
  | .gather a => Sys2Proof.Machine.execGather a s
  | .scatter a => Sys2Proof.Machine.execScatter a s
  | .dlaunch a => Sys2Proof.Machine.execDlaunch a s
  | .tskip a => Sys2Proof.Machine.execTskip a s
  | .mcst a b c => Sys2Proof.Machine.execMcst a b c s
  | .tksend a b c => Sys2Proof.Machine.execTksend a b c s
  | .bksel ty d b => Sys2Proof.Machine.execBksel ty d b s
  | .sbind a b => Sys2Proof.Machine.execSbind a b s
  | .compose a b => Sys2Proof.Machine.execCompose a b s
  | .mzero c => Sys2Proof.Machine.execMzero c s
  | .mldw c => Sys2Proof.Machine.execMldw c s
  | .mma c => Sys2Proof.Machine.execMma c s
  | .mmas c => Sys2Proof.Machine.execMmas c s
  | .mmab c => Sys2Proof.Machine.execMmab c s
  | .madp c => Sys2Proof.Machine.execMadp c s
  | .mdrain c => Sys2Proof.Machine.execMdrain c s
  | .matrixCommandComplete c => Sys2Proof.Machine.execMatrixCommandComplete c s
  | .mswapMarker c => Sys2Proof.Machine.execMswapMarker c s
  | .slotFill c => Sys2Proof.Machine.execSlotFill c s
  | .loadLevel c => Sys2Proof.Machine.execLoadLevel c s
  | .classTurnEnd c => Sys2Proof.Machine.execClassTurnEnd c s
  | .preemptionRequest c => Sys2Proof.Machine.execPreemptionRequest c s
  | .preemption c => Sys2Proof.Machine.execPreemption c s
  | .imageSaveDone c => Sys2Proof.Machine.execImageSaveDone c s
  | .takeTrap c n => Sys2Proof.Machine.execTakeTrap c n s
  | .watchdogFire c n => Sys2Proof.Machine.execWatchdogFire c n s
  | .swwaitReturn c n => Sys2Proof.Machine.execSwwaitReturn c n s
  | .waitevReturn c n => Sys2Proof.Machine.execWaitevReturn c n s
  | .chrdWake c n => Sys2Proof.Machine.execChrdWake c n s
  | .stallRelease c n => Sys2Proof.Machine.execStallRelease c n s
  | .commit c n => Sys2Proof.Machine.execCommit c n s
  | .streamPrefetch c n r => Sys2Proof.Machine.execStreamPrefetch c n r s
  | .streamWrite c n r => Sys2Proof.Machine.execStreamWrite c n r s
  | .copyDelivery c n => Sys2Proof.Machine.execCopyDelivery c n s
  | .copyComplete c n => Sys2Proof.Machine.execCopyComplete c n s
  | .gatherElementIssue c n => Sys2Proof.Machine.execGatherElementIssue c n s
  | .writeBufferDrain c n => Sys2Proof.Machine.execWriteBufferDrain c n s
  | .illegalEncoding w => Sys2Proof.Machine.execIllegalEncoding w s
  | .dataMessage k => Sys2Proof.Machine.execDataMessage k s
  | .spawnMessage k => Sys2Proof.Machine.execSpawnMessage k s
  | .migrateMessage k => Sys2Proof.Machine.execMigrateMessage k s
  | .callMessage k => Sys2Proof.Machine.execCallMessage k s
  | .replyMessage k => Sys2Proof.Machine.execReplyMessage k s
  | .niRetry k => Sys2Proof.Machine.execNiRetry k s
  | .spawnAsk k => Sys2Proof.Machine.execSpawnAsk k s
  | .spawnAnswer k => Sys2Proof.Machine.execSpawnAnswer k s
  | .childEndReport k => Sys2Proof.Machine.execChildEndReport k s
  | .remoteAccess k => Sys2Proof.Machine.execRemoteAccess k s
  | .remoteResponse k => Sys2Proof.Machine.execRemoteResponse k s
  | .gatherReply k => Sys2Proof.Machine.execGatherReply k s
  | .scatterDelivery k => Sys2Proof.Machine.execScatterDelivery k s
  | .wakeAnswer k => Sys2Proof.Machine.execWakeAnswer k s
  | .escapeChannelMove k => Sys2Proof.Machine.execEscapeChannelMove k s
  | .forwarding k => Sys2Proof.Machine.execForwarding k s
  | .listMerge n => Sys2Proof.Machine.execListMerge n s
  | .launchReady l => Sys2Proof.Machine.execLaunchReady l s
  | .waitCounterRead l => Sys2Proof.Machine.execWaitCounterRead l s
  | .launchComplete l => Sys2Proof.Machine.execLaunchComplete l s
  | .batchDeal l c => Sys2Proof.Machine.execBatchDeal l c s
  | .launchStart l c => Sys2Proof.Machine.execLaunchStart l c s
  | .teardown l c => Sys2Proof.Machine.execTeardown l c s
  | .newGenerationAck l c => Sys2Proof.Machine.execNewGenerationAck l c s
  | .subDispatch die => Sys2Proof.Machine.execSubDispatch die s
  | .restore img c => Sys2Proof.Machine.execRestore img c s
  | .liveMigration c d => Sys2Proof.Machine.execLiveMigration c d s
  | .setcap box => Sys2Proof.Machine.execSetcap box s
  | .sensors box => Sys2Proof.Machine.execSensors box s
  | .readlog box => Sys2Proof.Machine.execReadlog box s
  | .fwwrite box => Sys2Proof.Machine.execFwwrite box s
  | .fwactivate box => Sys2Proof.Machine.execFwactivate box s
  | .savepool box => Sys2Proof.Machine.execSavepool box s
  | .cappool box => Sys2Proof.Machine.execCappool box s
  | .mailboxUnknownCmd box => Sys2Proof.Machine.execMailboxUnknownCmd box s
  | .mailboxDone box => Sys2Proof.Machine.execMailboxDone box s
  | .zynongPacketReceive p => Sys2Proof.Machine.execZynongPacketReceive p s
  | .retryTimeout id => Sys2Proof.Machine.execRetryTimeout id s
  | .switchForward k => Sys2Proof.Machine.execSwitchForward k s
  | .answerMerge sw child id seq ver children ans => Sys2Proof.Machine.execAnswerMerge sw child id seq ver children ans s
  | .multicastAggregate group seq ver ans => Sys2Proof.Machine.execMulticastAggregate group seq ver ans s
  | .yield => Sys2Proof.Machine.execYield s
  | .endI => Sys2Proof.Machine.execEnd s
  | .eret => Sys2Proof.Machine.execEret s
  | .bkpt => Sys2Proof.Machine.execBkpt s
  | .l1wb => Sys2Proof.Machine.execL1wb s
  | .l1inv => Sys2Proof.Machine.execL1inv s
  | .mwait => Sys2Proof.Machine.execMwait s
  | .release => Sys2Proof.Machine.execRelease s
  | .tend => Sys2Proof.Machine.execTend s
  | .alive => Sys2Proof.Machine.execAlive s
  | .nopA => Sys2Proof.Machine.execNopA s
  | .nopC => Sys2Proof.Machine.execNopC s
  | .launchAccept => Sys2Proof.Machine.execLaunchAccept s
  | .tinvComplete => Sys2Proof.Machine.execTinvComplete s
  | .lkillComplete => Sys2Proof.Machine.execLkillComplete s
  | .mcinvComplete => Sys2Proof.Machine.execMcinvComplete s
  | .instructionFetchFault => Sys2Proof.Machine.execInstructionFetchFault s
  | .qrecWrite q deferrable rec => Sys2Proof.Machine.execQrecWrite q deferrable rec s
  | .tinvctlRange v => Sys2Proof.Machine.execTinvctlRange v s
  | .tinvctlAll v => Sys2Proof.Machine.execTinvctlAll v s
  | .lkillLaunch v => Sys2Proof.Machine.execLkillLaunch v s
  | .lkillAsid v => Sys2Proof.Machine.execLkillAsid v s
  | .mcinvGroup v => Sys2Proof.Machine.execMcinvGroup v s
  | .mcinvMap v => Sys2Proof.Machine.execMcinvMap v s
  | .registerWrite die off v => Sys2Proof.Machine.execRegisterWrite die off v s
  | .checkerMismatch c n persists matrix => Sys2Proof.Machine.execCheckerMismatch c n persists matrix s
  | .uncorrectableError u => Sys2Proof.Machine.execUncorrectableError u s
  | .sensorSample recs => Sys2Proof.Machine.execSensorSample recs s
  | .powerWindow mean => Sys2Proof.Machine.execPowerWindow mean s
  | .powerGood inp => Sys2Proof.Machine.execPowerGood inp s
  | .getMeasurements nonce => Sys2Proof.Machine.execGetMeasurements nonce s
  | .acknowledgement id seq => Sys2Proof.Machine.execAcknowledgement id seq s
  | .linkFailure p q => Sys2Proof.Machine.execLinkFailure p q s
  | .spraySetRemove p q => Sys2Proof.Machine.execSpraySetRemove p q s
  | .shadowInstall n die t => Sys2Proof.Machine.execShadowInstall n die t s
  | .versionActivation v => Sys2Proof.Machine.execVersionActivation v s
  | .mcstDelivery p => Sys2Proof.Machine.execMcstDelivery p s
  | .bar2Read off size => Sys2Proof.Machine.execBar2Read off size s
  | .bar2Write off bytes => Sys2Proof.Machine.execBar2Write off bytes s
  | .hostWriteBack off bytes => Sys2Proof.Machine.execHostWriteBack off bytes s
  | .backInvalidateAnswer off => Sys2Proof.Machine.execBackInvalidateAnswer off s
  | .cxlMemRead off => Sys2Proof.Machine.execCxlMemRead off s
  | .hostWindowReadCompletion c n bytes => Sys2Proof.Machine.execHostWindowReadCompletion c n bytes s

end Sys2Proof.Machine
end

