-- ==== Sys2Proof/Machine/Place.lean ====
section
/-!
DEFINITION. Placing an instruction where step fetches next (logs 4, 5): at the PC of the slot that issues next, or,
where no slot can issue, in a running launch of one core that is built for it.
-/
namespace Sys2Proof.Machine

/-- The A-class NOP as a second word (R344). -/
def nopSecond : Nat := 0x08000000

/-- The words stored at an 8-aligned PC for a word: a lone word alone; a first word with an A-class NOP behind it; a
second word behind a C-class NOP with L = 0 (log 5). -/
def placedWords (w : Nat) : List Nat :=
  if w / 2 ^ 31 % 2 = 1 then [w]
  else if w / 2 ^ 27 % 2 = 0 then [w, nopSecond]
  else [0, 0x08000000 + w % 2 ^ 27]

/-- The bytes of instruction words in memory (R49). -/
def wordBytes : List Nat → List Byte
  | [] => []
  | w :: r => bytesOfNat 4 w ++ wordBytes r

/-- The PC of the slot that issues next, and the device-memory offset it names, if both are as the fetch needs. -/
def State.fetchPlace (s : State) : Option (Nat × Nat) :=
  match s.nextCore with
  | none => none
  | some (c, i) =>
    let pc := (s.slot c i).pc
    if pc.toNat % 8 ≠ 0 ∨ spaceOf s.pkg pc ≠ .global ∨ (s.slot c i).loop ≠ none then none
    else match s.translateFor c (s.asidOf c) pc.toNat TlbEntry.x with
      | none => none
      | some t =>
        if !t.x then none
        else match s.homeOf (t.phys pc.toNat) t.uncached with
          | .own off _ => some (c, off)
          | _ => none

/-- The words written at a place, and no stale copy of them. -/
def State.putWords (s : State) (c off : Nat) (w : Nat) : State :=
  let bs := wordBytes (placedWords w)
  let s := { s with mem := s.mem.writeBytes off bs, memPoison := s.memPoison.filter (· != off / 8) }
  s.modCore c (fun k => { k with l1i := [] })

/-- The PC that the built launch starts at. -/
def placePc : Nat := 0x1000

/-- The base of the built launch's tables (log 15). -/
def placeTables : Nat := 0x80000000

/-- A launch of one core, as if it had been loaded from outside: entry at placePc. -/
def placeLaunch : Launch :=
  { hdr := [1 + 2 ^ 16, BitVec.ofNat 64 placePc, 1, 2 ^ 36, 2 ^ 32 + 2 ^ 48, 0, 0, 0]
    state := .running, handlers := [{ valid := true, multi := false, contained := false, persistent := false
                                      mask := false, prio := 0, threshold := 1, offset := 0 }]
    ranks := [], preds := [], parent := none, prio := 0, counts := [], undealt := 1, round := []
    places := [(0, .site 0)], gen := 0, acks := [], front := 1, skipped := [], watching := none, cleared := false, ending := none
    started := true }

/-- The tables that map the first GiB with R, W and X for ASID 0 (R123, R124). -/
def placeMemory (m : Memory) : Memory :=
  let t := placeTables
  ((((m.setNum t 8 (t + 0x100000 + 1)).setNum (t + 0x100000) 8 (t + 0x101000 + 1)).setNum (t + 0x101000) 8
    (t + 0x102000 + 1)).setNum (t + 0x102000) 8 0xF)

/-- A state in which that launch runs in slot 0 of core 0, at its entry. -/
def State.placeProgram (s : State) : State :=
  let k := { idleCore 0 with
    launch := some 0, table := placeLaunch.handlers
    slots := (Vector.replicate 4 idleSlot).set 0
      { idleSlot with active := true, source := .item 0 0, pc := BitVec.ofNat 64 placePc } }
  { s with cores := [(0, k)], launches := [(0, placeLaunch)], mem := placeMemory s.mem
           asidBase := BitVec.ofNat 64 placeTables, tlb := [], turn := 0, serial := max s.serial 1 }

/-- The word stands where step fetches next. -/
def State.placeWord (s : State) (w : Nat) : State :=
  let s := { s with agenda := [], stopped := false }
  match s.fetchPlace with
  | some (c, off) => s.putWords c off w
  | none => s.placeProgram.putWords 0 placePc w

end Sys2Proof.Machine
end

