-- ==== Sys2Proof/Machine/Schedule.lean ====
section
/-!
DEFINITION. The end of a cycle: the counters that it advances, and the part's own events that it puts on the agenda, as
one serial order of what the part does at the same time (log 1).
-/
namespace Sys2Proof.Machine

/-! ### Events of a slot -/

/-- The end of a wait that a slot is in. -/
def waitEvents (c i : Nat) : Wait → List Instr
  | .swwait .. => [.swwaitReturn c i]
  | .waitev _ => [.waitevReturn c i]
  | .chrd .. => [.chrdWake c i]
  | .stall | .full _ | .port | .asinv .. | .list _ | .mwait _ | .mswap _ | .barrier _ | .compose .. | .handBack _ | .parted _
  | .leaving => [.stallRelease c i]
  | .tend => [.commit c i]
  | _ => []

/-- Elements that a slot's streams move: each stream moves one element at the end of a cycle, at the most four elements ahead
(DESIGN CHOICE, log 67: R133 says "at any time after SBIND"). -/
def streamEvents (c i : Nat) (t : Slot) : List Instr :=
  t.streams.flatMap (fun p =>
    let r : Reg := BitVec.ofNat 5 p.1
    if p.2.isWrite then (if p.2.unwritten == [] then [] else [.streamWrite c i r])
    else if p.2.ahead.length < 4 ∧ p.2.next + p.2.ahead.length < p.2.total then [.streamPrefetch c i r] else [])

/-- What a slot has due. The streams of a slot that has ended go on (R133, R309). -/
def State.slotEvents (s : State) (c i : Nat) : List Instr :=
  let t := s.slot c i
  if !t.active then streamEvents c i t
  else
    (if t.heldTraps ≠ [] ∧ t.h = false then [.takeTrap c i] else []) ++
    (if s.watchReached c i then [.watchdogFire c i] else []) ++ waitEvents c i t.wait ++ streamEvents c i t

/-! ### Events of a core -/

/-- The word of a matrix command's code (Table 6.5); a record of an unknown code is only discarded (R143). -/
def commandOf (c code : Nat) : Instr :=
  match code with
  | 0x01 => .mzero c
  | 0x02 => .mldw c
  | 0x10 => .mma c
  | 0x11 => .mmas c
  | 0x12 => .mmab c
  | 0x13 => .madp c
  | 0x20 => .mdrain c
  | _ => .matrixCommandComplete c

/-- What the matrix queue's head has due. -/
def State.matrixEvents (s : State) (c : Nat) : List Instr :=
  match (s.core c).mq with
  | [] => []
  | e :: _ =>
    if e.marker.isSome then [.mswapMarker c]
    else match e.run with
      | none => [commandOf c e.code]
      | some r =>
        if !r.finished then [commandOf c e.code]
        else if r.due ≤ s.cycle then [.matrixCommandComplete c] else []

/-- What the copy engine and the gather unit have due: every copy, the youngest first, and one element of the oldest GATHER
or SCATTER that has one (R152). -/
def CoreSt.copyEvents (k : CoreSt) (c : Nat) : List Instr :=
  ((List.range k.cq.length).reverse.filterMap (fun n => (k.cq[n]?).map (fun o =>
    if o.complete then Instr.copyComplete c n else .copyDelivery c n))) ++
  ((k.gq.findIdx? (fun o => decide (o.next < o.count))).map (Instr.gatherElementIssue c)).toList

/-- What a core's stage has due. -/
def State.stageEvents (s : State) (c : Nat) : List Instr :=
  match (s.core c).stage with
  | .running =>
    (if s.turnOver c then [.classTurnEnd c] else []) ++
    (if s.mustYield c && s.imageFree && (s.core c).mayLeave then [.preemptionRequest c] else [])
  | .requested _ | .stopping none _ => [.preemption c]
  | .stopping (some d) _ => [.liveMigration c d]
  | .saving due => if due ≤ s.cycle then [.imageSaveDone c] else []
  | .loading n _ => [.restore n c]
  | .promised b => match (s.core b).stage with
    | .stopping (some d) _ => if d = c then [] else [.liveMigration b c]
    | _ => [.liveMigration b c]
  | .restoring _ | .applying => []

/-- What a core has due. -/
def State.coreEvents (s : State) (c : Nat) : List Instr :=
  let k := s.core c
  let free := ((List.range 4).filter (fun i => !(k.slot i).active)).length
  (if s.mayFill c then List.replicate free (.slotFill c) else []) ++
  (List.range 4).flatMap (s.slotEvents c) ++
  (if k.works then s.matrixEvents c else []) ++ (if k.copies then k.copyEvents c else []) ++
  (if k.wb == [] then [] else [.writeBufferDrain c 0]) ++
  (if s.cycle % 4096 = 0 ∧ k.launch.isSome = true then [.loadLevel c] else []) ++
  s.stageEvents c

/-! ### Events of the network and the fabric -/

/-- The event that takes a message on. -/
def State.msgEvent (s : State) (k : Nat) (m : Msg) : Option Instr :=
  if s.outgoing m then none
  else if s.forwarded m then some (.forwarding k)
  else if m.retried then some (.niRetry k)
  else match m.body with
    | .data .. => some (.dataMessage k)
    | .spawn .. => some (.spawnMessage k)
    | .migrate .. => some (.migrateMessage k)
    | .call .. => some (.callMessage k)
    | .reply .. => some (.replyMessage k)
    | .ask _ => some (.spawnAsk k)
    | .answer .. => some (.spawnAnswer k)
    | .endReport => some (.childEndReport k)
    | .access .. | .globalAccess .. => some (.remoteAccess k)
    | .response (.gather ..) .. => some (.gatherReply k)
    | .response (.scatter ..) .. => some (.scatterDelivery k)
    | .response .. => some (.remoteResponse k)
    | .wake .. => some (.wakeAnswer k)
    | .mcast g off bs sw bad => m.delivery.map (fun d => .mcstDelivery
        { version := d.2, stream := { cls := 2, src := m.src.pkg, die := 0, dst := g }, seq := d.1
          body := { m with body := .mcast g off bs sw bad } })
    | .list .. | .activate _ => none

/-- A packet has been blocked on the die ring for 256 cycles (R223). -/
def blockedLong (m : Msg) : Bool := decide (256 ≤ m.stuck) && decide (m.vc < 2)

/-- What the messages in flight have due, the oldest first. -/
def State.netEvents (s : State) : List Instr :=
  (List.range s.net.length).flatMap (fun k => match s.net[k]? with
    | some m => (if s.cycle < m.due then [] else (s.msgEvent k m).toList) ++ (if blockedLong m then [.escapeChannelMove k] else [])
    | none => [])

/-- The lists of TKSEND rounds have something due: every unit that holds all its lists, and lists that enter (R266). -/
def State.listEvents (s : State) : List Instr :=
  let waits := s.net.any (fun m => match m.body with | .list .. => true | _ => false)
  let n := s.enterLists.mergesReady.length
  if n = 0 then (if waits then [.listMerge 0] else []) else (List.range n).reverse.map Instr.listMerge

/-- What the fabric has due. -/
def State.fabricEvents (s : State) : List Instr :=
  s.fab.outs.filterMap (fun o => if s.expired o.2 then some (.retryTimeout o.1) else none) ++
  s.fab.removing.filterMap (fun e => if e.2.2 ≤ s.cycle then some (.spraySetRemove e.1 e.2.1) else none) ++
  (List.range s.fab.flight.length).reverse.map Instr.switchForward ++
  s.fab.pendingAgg.map (fun e => .multicastAggregate e.1.group e.1.seq e.1.version e.2) ++
  (if s.fab.mcinvBusy then [.mcinvComplete] else [])

/-! ### Events of the dispatcher and of Telemark -/

/-- What one launch has due. -/
def State.launchEvents (s : State) (l : Nat) (x : Launch) : List Instr :=
  if x.ending.isSome then
    match x.sites with
    | [] => [.teardown l 0]
    | cs => cs.map (Instr.teardown l)
  else
    (if x.state == .waiting && x.preds == [] && x.waits && !x.cleared then [.waitCounterRead l] else []) ++
    (if x.met then [.launchReady l] else []) ++
    (if s.complete l x then [.launchComplete l] else []) ++
    (if x.live then
      ((x.cores s.pkg).filter (fun c => s.chosen c == some l && (find x.places c).isNone)).map (Instr.launchStart l) ++
      (if x.allDealt then [] else ((s.nextDealt x).map (Instr.batchDeal l)).toList)
    else []) ++
    (if s.cores.any (fun (p : Nat × CoreSt) => p.2.forwards.any (fun f => f.1 == l)) then
      (x.sites.filter (fun c => !x.acks.contains c)).map (Instr.newGenerationAck l)
    else [])

/-- The cores that a context may come to (R207, R208): any, for one that keeps no relative position, else those that
agree with its launch-origin core in x mod 8 and y mod 8. -/
def State.sitesOf (s : State) (l o : Nat) : List Nat :=
  if s.blockOf l o == [o] && !((find s.launches l).map Launch.relative).getD true then List.range 16384
  else (List.range 16).flatMap (fun j => (List.range 16).map (fun i => coreAt (8 * i + xOf o % 8) (8 * j + yOf o % 8)))

/-- The core that a saved context comes back to: the one it left, else its own, else the first that it may stand on
(R207). -/
def State.restoreAt (s : State) (n : Nat) (img : Image) : Option Nat :=
  let ok := fun c => s.restorable n c img
  if ok img.site then some img.site
  else if ok img.origin then some img.origin
  else if (s.chosen img.site).isSome && s.chosen img.site == some img.launch then none
  else (s.sitesOf img.launch img.origin).find? ok

/-- Saved contexts that can come back (R207). -/
def State.imageEvents (s : State) : List Instr :=
  s.images.filterMap (fun (p : Nat × Image) => if s.kept p.1 then none else (s.restoreAt p.1 p.2).map (Instr.restore p.1))

/-- What the dispatcher has due. -/
def State.dispEvents (s : State) : List Instr :=
  (if s.nextSource.isSome || s.disp.words != [] then [.launchAccept] else []) ++
  (List.range 8).filterMap (fun d => (s.oldestHeader d).map (fun _ => .subDispatch d)) ++
  s.launches.flatMap (fun p => s.launchEvents p.1 p.2) ++ s.imageEvents ++
  (if s.disp.tinvBusy then [.tinvComplete] else []) ++ (if s.disp.lkillBusy then [.lkillComplete] else [])

/-- The command that Telemark serves. -/
def boxCommand (box code : Nat) : Instr :=
  match code with
  | 0x01 => .setcap box
  | 0x02 => .sensors box
  | 0x03 => .readlog box
  | 0x10 => .fwwrite box
  | 0x11 => .fwactivate box
  | 0x20 => .savepool box
  | 0x21 => .cappool box
  | _ => .mailboxUnknownCmd box

/-- What Telemark has due. -/
def State.boxEvents (s : State) : List Instr :=
  match s.tele.order with
  | [] => []
  | b :: _ => if (s.tele.mbox b).done then [.mailboxDone b] else [boxCommand b (s.tele.mbox b).code]

/-- Telemark samples its sensors every 10 µs, and a power window begins every 1 ms: what they measure are free values
(R274, R275, log 43). -/
def State.sensorEvents (s : State) : List Instr :=
  if s.tele.bringup = 0 then []
  else
    (if s.cycle % 33000 = 0 then [.sensorSample (s.tele.sensors.zipIdx.map (fun p =>
      { p.1 with status := Config.sensorStatus s.cycle p.2, value := Config.sensorValue s.cycle p.2 }))] else []) ++
    (if s.cycle % windowCycles = 0 then [.powerWindow (Config.meanPower s.cycle)] else [])

/-! ### The end of a cycle -/

/-- The cores that have something to do: those in use, and those that a launch could start on. -/
def State.busyCores (s : State) : List Nat :=
  (s.cores.map Prod.fst ++
    (s.launches.filter (fun (p : Nat × Launch) => p.2.live)).flatMap (fun p => p.2.cores s.pkg)).eraseDups

/-- The events that become due (log 1). -/
def State.due (s : State) : List Instr :=
  s.netEvents ++ s.listEvents ++ s.fabricEvents ++ s.busyCores.flatMap s.coreEvents ++ s.dispEvents ++ s.boxEvents ++ s.sensorEvents

/-- The counters of a core: WATCH of its slots, and the turn of its class while it holds a context (R192, R212). Slots
of a context that is being restored count too (DESIGN CHOICE, log 55). -/
def CoreSt.tick (k : CoreSt) : CoreSt :=
  let k := { k with slots := k.slots.map Slot.tick }
  let saving := match k.stage with
    | .saving _ => true
    | _ => false
  if k.lastClass.isSome && (k.launch.isSome || saving) then
    { k with turnLeft := k.turnLeft - 1, turnUsed := k.turnUsed + 1 }
  else k

/-- A context whose image has been loaded stands on its core from now on, with the batches dealt to it meanwhile, and what was
sent to it before is held for it (R27, R203, R209). -/
def State.arriveAt (s : State) (c l : Nat) : State :=
  let o := (s.core c).origin
  let ahead := ((find s.launches l).map (fun (x : Launch) => listOf x.ahead o)).getD []
  let s := (s.modCore c (fun k => { k with stage := .applying, batches := k.batches ++ ahead })).setPlace l o (.site c)
  let s := s.modLaunch l (fun x => { x with ahead := del x.ahead o })
  { s with net := s.net.map (fun m => if s.destSite m = some c ∧ s.outgoing m = false then { m with held := true } else m) }

/-- What was held for the context of a core has come to the core's die, so that it is applied before a slot issues (R203,
R293). -/
def State.heldHere (s : State) (c : Nat) : Bool := s.net.all (fun m => !m.held || s.destSite m != some c || s.arrived m)

/-- A core whose context has been loaded goes on, once what was held for it has come (R203, R209). -/
def State.settleCore (s : State) (c : Nat) : State :=
  let s := match (s.core c).stage, (s.core c).launch with
    | .restoring due, some l => if due ≤ s.cycle then s.arriveAt c l else s
    | _, _ => s
  if (s.core c).stage == .applying && s.heldHere c then s.modCore c (fun k => { k with stage := .running }) else s

/-- The replacement of the L1 data cache, which is not architectural (R117, log 6): besides the line that a fill puts out,
every line goes each 4,096 cycles, so that no copy stays for ever. -/
def CoreSt.evict (k : CoreSt) (now : Nat) : CoreSt := if now % 4096 = 0 then { k with l1d := [] } else k

/-- The shorter way to a die goes up; at distance 4 it does too (R223). -/
def ringUp (here goal : Nat) : Bool := decide ((goal + 8 - here) % 8 ≤ 4)

/-- A message on the die ring comes to the next die of its way, on virtual channel 1 once it has crossed the dateline between
dies 7 and 0; where both channels are blocked it waits. The escape channel (2, and 3 beyond the dateline) is not blocked, and
goes up only (R223, log 12). -/
def ringStep (m : Msg) (blocked : Bool) (goal : Nat) : Msg :=
  if m.vc < 2 && blocked then { m with stuck := m.stuck + 1 }
  else
    let up := decide (2 ≤ m.vc) || ringUp m.ring goal
    let crosses := m.ring == (if up then 7 else 0)
    { m with
      ring := if up then (m.ring + 1) % 8 else (m.ring + 7) % 8, stuck := 0
      vc := if crosses then (if m.vc < 2 then 1 else 3) else m.vc }

/-- The counters that a cycle advances, and the messages on the die ring. -/
def State.tick (s : State) : State :=
  { s with
    cycle := s.cycle + 1, turn := 0
    cores := s.cores.map (fun (p : Nat × CoreSt) => (p.1, p.2.tick.evict (s.cycle + 1)))
    net := s.net.zipIdx.map (fun p =>
      if s.arrived p.1 then p.1 else ringStep p.1 (Config.ringBlocked s.cycle p.2) (s.ringGoal p.1)) }

/-- The end of a cycle. -/
def State.endCycle (s : State) : State :=
  let s := s.tick.sendOut
  let s := (s.cores.map Prod.fst).foldl (fun (s : State) c => s.settleCore c) s
  let s := s.drainHost s.fab.inbound.length
  { s with agenda := s.due }

end Sys2Proof.Machine
end

