-- ==== Sys2Proof/Machine/Step.lean ====
section
/-!
DEFINITION. The step: the next event that is due, else the next bundle of the cycle, else the end of the cycle.
-/
namespace Sys2Proof.Machine

/-- A pair's words run as one: the A-word's effects are computed first and kept back (R52). -/
def runPair (s : State) (c a : Instr) : Host.Outcome State Fault Refusal :=
  match exec a s with
  | .next t => exec c (t.modMe (fun u => { u with bundle := { u.bundle with mode := .first } }))
  | o => o

/-- What an issue leaves to execute. -/
def runIssued : Issued → Host.Outcome State Fault Refusal
  | .done s => .next s
  | .one s i => exec i s
  | .two s c a => runPair s c a

/-- The place in the cycle's order after a core has issued from a slot: the next core, or the same one while its slot runs
a caravan, of which each member may issue a bundle in the cycle (R255). -/
def State.nextTurn (s : State) (c i : Nat) : Nat := if 1 < (s.slot c i).cvsize then c else c + 1

/-- A stopped part does nothing more, once its launches have ended, until it is powered anew (R275, R277): the next power-good of
the agenda, and what comes after it. -/
def powerCycle : List Instr → Option (BringupInput × List Instr)
  | [] => none
  | .powerGood inp :: r => some (inp, r)
  | _ :: r => powerCycle r

/-- One step of the part (log 1). -/
def step (s : State) : Host.Outcome State Fault Refusal :=
  if s.stopped && s.launches == [] then match powerCycle s.agenda with
    | some (inp, r) => exec (.powerGood inp) { s with agenda := r }
    | none => .fault .partStopped
  else match s.agenda with
    | e :: r => exec e { s with agenda := r }
    | [] => match s.nextCore with
      | some (c, i) => runIssued (({ s with turn := s.nextTurn c i }).issue c i)
      | none => .next s.endCycle

/-- The state with an instruction word stored where step fetches its next instruction (logs 4, 5). -/
def State.withFetchWord (s : State) (_ w : Nat) : State := s.placeWord w

end Sys2Proof.Machine
end

