-- ==== Sys2Proof/Safety.lean ====
section
/-!
DEFINITION. The terms in which statements about the machine are made: what a run must keep, what a slot's registers
hold, and what a bundle of one word leaves as it was.
-/
namespace Sys2Proof.Machine

/-- Device memory and the host's memory are in their canonical form. -/
def State.memOk (s : State) : Prop := s.mem.wf = true ∧ s.hostMem.wf = true

/-- The value of a register once every write that is still on its way has landed in program order (R55, R59). -/
def Slot.settled (t : Slot) (r : RegName) : Vec := t.landAll.reg r

/-- An x value as a register write of it leaves the register: x0 stays zero (R66). -/
def xValue (d : Reg) (v : Word) : Vec := if d = 0 then 0 else v.setWidth 128

/-- The running slot's bundle is one word, as issue leaves it, that meets no poisoned operand, pops no link port and
no stream (R67, R68, R217). -/
structure Lone (s : State) : Prop where
  mode : s.me.bundle.mode = .lone
  stash : s.me.bundle.stash = none
  bad : s.me.bundle.bad = none
  ports : s.me.bundle.popPorts = []
  streams : s.me.bundle.popStreams = []

/-- A register that a write reaches: no link port takes it, no stream is bound to it (R67, R68). -/
def Slot.writesInto (t : Slot) : RegName → Prop
  | .x r => portOf t.bundle.links r = none
  | .v r => t.stream r = none

/-- The part of a slot that an ordinary bundle leaves as it was: everything except the registers, their pending
writes and poison marks, the accrued flags, PC and loop, RETIRED, the next issue, its use of the LM port, and the bundle. -/
def Slot.system (t : Slot) : Slot :=
  { t with x := Vector.replicate 32 0, v := Vector.replicate 32 0, pend := [], poisonX := [], poisonV := [], fflags := {}
           pc := 0, loop := none, retired := 0, wait := .none, notBefore := 0, bundle := emptyBundle, landed := []
           portFrom := 1, portTo := 0 }

/-- What a slot's own bundle leaves when it retires and changes, in the whole part, registers of its own slot alone:
`ds` names the registers it may write, `fl` the flags it raises. The rest of the part, every byte of every memory
among it, is as it was. -/
structure Retired (s t : State) (ds : List RegName) (fl : Flags) : Prop where
  elsewhere : t = s.setSlot s.cur.1 s.cur.2 t.me
  registers : ∀ r, r ∉ ds → t.me.settled r = s.me.settled r
  flags : t.me.fflags = s.me.fflags.or fl
  system : t.me.system = s.me.system
  count : t.me.retired = s.me.retired + 1
  waits : t.me.wait = .none
  next : t.me.notBefore = (s.me.retireCount s.cycle).notBefore

/-- The slot goes on with the next bundle: outside a loop's body, the one that follows in memory (R60, R69). -/
def GoesOn (s t : State) : Prop := t.me.pc = s.me.advance.pc ∧ t.me.loop = s.me.advance.loop

/-- The instruction completes and leaves a value in an x register, and otherwise only moves on. -/
def LeavesX (s : State) (i : Instr) (d : Reg) (v : Word) : Prop :=
  ∃ t, exec i s = .next t ∧ Retired s t [.x d] {} ∧ GoesOn s t ∧ t.me.settled (.x d) = xValue d v

/-- The instruction completes and leaves a vector, lane by lane, in the v register its field names (renamed in an RPT
body, R69), raises these flags, and otherwise only moves on. -/
def LeavesV (s : State) (i : Instr) (d : Reg) (ty : LaneType) (f : Nat → Nat) (fl : Flags) : Prop :=
  ∃ t, exec i s = .next t ∧ Retired s t [.v (s.vName d)] fl ∧ GoesOn s t ∧
    ∀ k, k < laneCount ty → lane ty (t.me.settled (.v (s.vName d))) k = f k

/-- Operand c of a scalar A-class form: a register, or the doubleword at LMB + 8·c of own LM (R66). -/
def State.entryX (s : State) (m : Bool) (c : Reg) : Word :=
  if m then s.here.lm.word ((s.me.lmb.toNat + 8 * c.toNat) % 0x20000) else s.X c

/-- Operand c of a vector A-class form: a register, or the 16 bytes at LMB + 16·c of own LM (R66). -/
def State.entryV (s : State) (m : Bool) (c : Reg) : Vec :=
  if m then vecOf16 (s.here.lm.bytes ((s.me.lmb.toNat + 16 * c.toNat) % 0x20000) 16) else s.V c

/-- The slot after a trap: cause, value and saved PC, the live loop saved and cleared, H set, PC at the vector; nothing
else of the slot changes but that its pending writes have landed (R70, R197). -/
def TrapTaken (s : State) (t : State) (cause : Cause) (value tpc vec : Word) : Prop :=
  t = s.setSlot s.cur.1 s.cur.2 t.me ∧ t.me.tcause = BitVec.ofNat 64 cause.code ∧ t.me.tval = value ∧ t.me.tpc = tpc ∧
    t.me.pc = vec ∧ t.me.h = true ∧ t.me.loop = none ∧ t.me.rptst = rptstOf s.me.loop ∧
    t.me.rptpc = (s.me.loop.map LoopSt.body).getD 0 ∧ t.me.pend = [] ∧ t.me.wait = .none ∧
    t.me.fflags = s.me.fflags ∧ t.me.retired = s.me.retired ∧ (∀ r, t.me.settled r = s.me.settled r) ∧
    ({ t.me with tcause := s.me.tcause, tval := s.me.tval, tpc := s.me.tpc, rptst := s.me.rptst, rptpc := s.me.rptpc,
                 h := s.me.h } : Slot).system = s.me.system

/-- The slot after its transaction's abort: the registers and their poison marks as the shadow has them, cause and code in
TSTAT, the PC at the target; FFLAGS, the age and the trap state stay, and nothing but the slot changes (R169). -/
def TxnAborted (s t : State) (x : Txn) (why : Abort) (code : Nat) : Prop :=
  t = s.setSlot s.cur.1 s.cur.2 t.me ∧ t.me.txn = none ∧ t.me.tabort = BitVec.ofNat 8 why.code ∧
    t.me.tcode = BitVec.ofNat 8 code ∧ t.me.pc = x.target ∧ t.me.x = x.shadowX ∧ t.me.v = x.shadowV ∧
    t.me.poisonX = x.shadowPX ∧ t.me.poisonV = x.shadowPV ∧ t.me.pend = [] ∧ t.me.loop = none ∧ t.me.wait = .none ∧
    t.me.fflags = s.me.fflags ∧ t.me.tage = s.me.tage ∧ t.me.h = s.me.h ∧ t.me.tcause = s.me.tcause ∧
    t.me.retired = s.me.retired

/-- The slot of another transaction after it has been aborted: it resumes at its target (R169, R175, R176). -/
def OtherAborted (u : Slot) (y : Txn) (why : Abort) : Prop :=
  u.txn = none ∧ u.tabort = BitVec.ofNat 8 why.code ∧ u.tcode = 0 ∧ u.pc = y.target ∧ u.x = y.shadowX ∧ u.v = y.shadowV

/-- The number that a decoded value is; NaNs and infinities are none (R80). -/
def FVal.rat : FVal → Option ℚ
  | .num n m e => some ((if n then -1 else 1) * m * (2 : ℚ) ^ e)
  | _ => none

/-- The state with own LM as another one has it: its bytes, its poison marks, and the slots in WAITEV that a write has woken
(R217, R398). -/
def State.withLmOf (s t : State) : State :=
  s.modHere (fun k => { k with lm := t.here.lm, poison := t.here.poison, evSeen := t.here.evSeen })

/-- An acquire of scope GROUP or wider drops the core's L1 lines, outside a transaction (R156, R159). -/
def State.acquired (s : State) (sc : Scope) : State :=
  if sc = .slot ∨ sc = .core ∨ s.me.txn.isSome then s else s.modHere (fun k => { k with l1d := [] })

/-- The dispatcher can write a completion word at a device-memory offset at once: the host does not hold its line, and no
commit has its tile (R176, R246). -/
def State.wordFree (s : State) (off : Nat) : Prop :=
  off % 8 = 0 ∧ s.hostClear off = true ∧ ∀ t ∈ s.hits (off / 512) .plainWrite none, t.2.2.committing = false

end Sys2Proof.Machine
end

