-- ==== Sys2Proof/Certificates/Slice0/Obligations.lean ====
section
/-!
DEFINITION. The statements for the provers, family by family in the order of the table of operations. A statement about
an instruction gives the state that exec answers; `Retired s t ds fl` says in it that nothing but the registers `ds`,
the flags `fl`, the PC with its loop, and RETIRED has changed in the whole part, memory among it.
-/
open Sys2Proof Sys2Proof.Machine

/-! ### Scalar instructions -/

/-- The A-class forms of two scalar sources with latency 1 (R62, R66; R284, R289, R328, R345, R355, R356, R363, R400):
the second source is a register or, with M = 1, the doubleword at LMB + 8·c of own LM. x0 is never written. MUL, MULH,
MULHN, DIV, DIVN, REM and REMN (R307, R341, R348), with the spec's results for a zero divisor and for the most
negative value by -1. The C-class forms of two scalar sources (R62, R64; the rules of the A-class forms). -/
def Obligations.ScalarRegisterForms : Prop :=
  (∀ (s : State) (d a b : Reg) (m : Bool), Lone s → s.me.writesInto (.x d) → s.poisonC m b 8 = none →
    ∀ p ∈ ([(.addA, fun x y => x + y), (.subA, fun x y => x - y), (.andA, fun x y => x &&& y),
        (.orA, fun x y => x ||| y), (.xorA, fun x y => x ^^^ y), (.shlA, fun x y => x <<< (y.toNat % 64)),
        (.shrA, fun x y => x >>> (y.toNat % 64)), (.sraA, fun x y => x.sshiftRight (y.toNat % 64)),
        (.sltA, fun x y => if x.toInt < y.toInt then 1 else 0), (.sltnA, fun x y => if x.toNat < y.toNat then 1 else 0),
        (.minA, fun x y => if x.toInt ≤ y.toInt then x else y), (.maxA, fun x y => if x.toInt ≤ y.toInt then y else x),
        (.minnA, fun x y => if x.toNat ≤ y.toNat then x else y),
        (.maxnA, fun x y => if x.toNat ≤ y.toNat then y else x)] :
        List ((Reg → Reg → Reg → Bool → Instr) × (Word → Word → Word))),
    LeavesX s (p.1 d a b m) d (p.2 (s.X a) (s.entryX m b))) ∧
  (∀ (s : State) (d a b : Reg) (m : Bool), Lone s → s.me.writesInto (.x d) → s.poisonC m b 8 = none →
    ∀ p ∈ ([(.mul, fun x y => BitVec.ofInt 64 (x.toInt * y.toInt)),
        (.mulh, fun x y => BitVec.ofInt 64 (x.toInt * y.toInt / 2 ^ 64)),
        (.mulhn, fun x y => BitVec.ofNat 64 (x.toNat * y.toNat / 2 ^ 64)),
        (.div, fun x y => if y = 0 then BitVec.allOnes 64 else BitVec.ofInt 64 (x.toInt.tdiv y.toInt)),
        (.divn, fun x y => if y = 0 then BitVec.allOnes 64 else BitVec.ofNat 64 (x.toNat / y.toNat)),
        (.rem, fun x y => if y = 0 then x else BitVec.ofInt 64 (x.toInt - y.toInt * x.toInt.tdiv y.toInt)),
        (.remn, fun x y => if y = 0 then x else BitVec.ofNat 64 (x.toNat - y.toNat * (x.toNat / y.toNat)))] :
        List ((Reg → Reg → Reg → Bool → Instr) × (Word → Word → Word))),
    LeavesX s (p.1 d a b m) d (p.2 (s.X a) (s.entryX m b))) ∧
  (∀ (s : State) (d a b : Reg), Lone s → s.me.writesInto (.x d) →
    ∀ p ∈ ([(.addC, fun x y => x + y), (.subC, fun x y => x - y), (.andC, fun x y => x &&& y),
        (.orC, fun x y => x ||| y), (.xorC, fun x y => x ^^^ y), (.shlC, fun x y => x <<< (y.toNat % 64)),
        (.shrC, fun x y => x >>> (y.toNat % 64)), (.sraC, fun x y => x.sshiftRight (y.toNat % 64)),
        (.sltC, fun x y => if x.toInt < y.toInt then 1 else 0), (.sltnC, fun x y => if x.toNat < y.toNat then 1 else 0),
        (.minC, fun x y => if x.toInt ≤ y.toInt then x else y), (.maxC, fun x y => if x.toInt ≤ y.toInt then y else x),
        (.minnC, fun x y => if x.toNat ≤ y.toNat then x else y),
        (.maxnC, fun x y => if x.toNat ≤ y.toNat then y else x)] :
        List ((Reg → Reg → Reg → Instr) × (Word → Word → Word))),
    LeavesX s (p.1 d a b) d (p.2 (s.X a) (s.X b)))

/-- The immediate forms of both classes (R284, R289, R345, R355, R356, R400): ADDI, ANDI and SLTI extend the sign, ORI
and XORI extend with zeros, shift amounts are six bits. LIH, LIQ, LIW, EXTR and INS by the bits they leave (R311,
R317, R324), and both forms of NOP (R344). POPC, CLZ and CTZ (R303, R346), and WIDF (R20, R399): the field of the work
identifier that the launch's widths give, 0 when the header has no such field. -/
def Obligations.ScalarImmediatesFieldsAndCounts : Prop :=
  (∀ (s : State) (d a : Reg) (imm : BitVec 11) (n : BitVec 6), Lone s → s.me.writesInto (.x d) →
    ∀ p ∈ ([(.addiA d a imm, s.X a + imm.signExtend 64), (.addiC d a imm, s.X a + imm.signExtend 64),
        (.andiA d a imm, s.X a &&& imm.signExtend 64), (.andiC d a imm, s.X a &&& imm.signExtend 64),
        (.oriA d a imm, s.X a ||| imm.zeroExtend 64), (.oriC d a imm, s.X a ||| imm.zeroExtend 64),
        (.xoriA d a imm, s.X a ^^^ imm.zeroExtend 64), (.xoriC d a imm, s.X a ^^^ imm.zeroExtend 64),
        (.sltiA d a imm, if (s.X a).toInt < imm.toInt then 1 else 0),
        (.sltiC d a imm, if (s.X a).toInt < imm.toInt then 1 else 0),
        (.shlImmA d a n, s.X a <<< n.toNat), (.shlImmC d a n, s.X a <<< n.toNat),
        (.shrImmA d a n, s.X a >>> n.toNat), (.shrImmC d a n, s.X a >>> n.toNat),
        (.sraImmA d a n, (s.X a).sshiftRight n.toNat), (.sraImmC d a n, (s.X a).sshiftRight n.toNat)] :
        List (Instr × Word)),
    LeavesX s p.1 d p.2) ∧
  (∀ (s : State) (d a : Reg) (imm : BitVec 16) (len : BitVec 5) (pos : BitVec 6), Lone s → s.me.writesInto (.x d) →
    (∀ p ∈ ([(.lih d imm, fun k => if k < 16 then false else imm.getLsbD (min (k - 16) 15)),
        (.liq d imm, fun k => if 32 ≤ k ∧ k < 48 then imm.getLsbD (k - 32) else (s.X d).getLsbD k),
        (.liw d imm, fun k => if 48 ≤ k then imm.getLsbD (k - 48) else (s.X d).getLsbD k),
        (.extr d a len pos, fun k => decide (k ≤ len.toNat) && (s.X a).getLsbD (pos.toNat + k)),
        (.ins d a len pos, fun k => if pos.toNat ≤ k ∧ k ≤ pos.toNat + len.toNat then (s.X a).getLsbD (k - pos.toNat)
          else (s.X d).getLsbD k)] : List (Instr × (Nat → Bool))),
      ∃ t : State, exec p.1 s = .next t ∧ Retired s t [.x d] {} ∧ GoesOn s t ∧
        (d ≠ 0 → ∀ k, k < 64 → (t.me.settled (.x d)).getLsbD k = p.2 k)) ∧
    (∀ i ∈ ([.nopA, .nopC] : List Instr), ∃ t : State, exec i s = .next t ∧ Retired s t [] {} ∧ GoesOn s t)) ∧
  (∀ (s : State) (d a : Reg) (n : BitVec 3) (l : Launch), Lone s → s.me.writesInto (.x d) →
    s.launchOf s.cur.1 = some l →
    LeavesX s (.popc d a) d (BitVec.ofNat 64 ((Finset.range 64).filter (fun k => (s.X a).getLsbD k)).card) ∧
    (∃ z, LeavesX s (.clz d a) d (BitVec.ofNat 64 z) ∧ z ≤ 64 ∧ (z < 64 → (s.X a).getLsbD (63 - z) = true) ∧
      ∀ k, k < z → (s.X a).getLsbD (63 - k) = false) ∧
    (∃ z, LeavesX s (.ctz d a) d (BitVec.ofNat 64 z) ∧ z ≤ 64 ∧ (z < 64 → (s.X a).getLsbD z = true) ∧
      ∀ k, k < z → (s.X a).getLsbD k = false) ∧
    LeavesX s (.widf d n) d (if n.toNat < l.fields then BitVec.ofNat 64
      (s.me.wid.toNat / 2 ^ (((List.range n.toNat).map (widthOf (l.word 3))).sum) % 2 ^ widthOf (l.word 3) n.toNat)
      else 0))

/-! ### Vector instructions -/

/-- VADD, VSUB, VMUL, VMIN, VMAX, VMINN, VMAXN, VABS and VNEG on integer types (R375, R376, R386, R374): each lane is
the low w bits of the exact result, and no flag is raised; with .sat, VADD and VSUB clamp to the type's range and raise
SAT when a lane is clipped. -/
def Obligations.VectorIntegerArithmetic : Prop :=
  ∀ (s : State) (ty : LaneType) (d a b : Reg) (m : Bool), Lone s → s.me.writesInto (.v (s.vName d)) →
    s.poisonC m b 16 = none → ty.isInt = true →
    (∀ p ∈ ([(.vadd false ty d a b m, fun x y => x + y), (.vsub false ty d a b m, fun x y => x - y),
        (.vmul ty d a b m, fun x y => x * y), (.vmin ty d a b m, min), (.vmax ty d a b m, max),
        (.vminn ty d a b m, min), (.vmaxn ty d a b m, max), (.vabs ty d a, fun x _ => |x|),
        (.vneg ty d a, fun x _ => -x)] : List (Instr × (Int → Int → Int))),
      LeavesV s p.1 d ty (fun k => (p.2 (intOf ty (lane ty (s.V a) k)) (intOf ty (lane ty (s.entryV m b) k)) %
        2 ^ laneWidth ty).toNat) {}) ∧
    (∀ p ∈ ([(.vadd true ty d a b m, fun x y => x + y), (.vsub true ty d a b m, fun x y => x - y)] :
        List (Instr × (Int → Int → Int))),
      LeavesV s p.1 d ty
        (fun k => (min (max (p.2 (intOf ty (lane ty (s.V a) k)) (intOf ty (lane ty (s.entryV m b) k))) (intRange ty).1)
          (intRange ty).2 % 2 ^ laneWidth ty).toNat)
        { sat := (List.range (laneCount ty)).any (fun k =>
          let z := p.2 (intOf ty (lane ty (s.V a) k)) (intOf ty (lane ty (s.entryV m b) k))
          decide (z < (intRange ty).1) || decide ((intRange ty).2 < z)) })

/-- VADD, VSUB, VMUL, VFMA, VMIN, VMAX, VMINN, VMAXN, VABS and VNEG on floating-point types (R374, R375, R382, R386):
one rounding of the exact sum or product per lane; the flags of all lanes are ORed (R84). A minimum or maximum is one of its
operands, -0 below +0; a NaN gives the canonical NaN, or the other operand in VMINN and VMAXN, and NV where it signals (R91,
Table 4.9). -/
def Obligations.VectorFloatArithmetic : Prop :=
  (∀ (ty : LaneType) (fz isMax number : Bool) (a b : Nat), ty.isMainFloat = true →
    let x := operandF ty fz a
    let y := operandF ty fz b
    let r := minmaxLane ty fz isMax number a b
    let less := fun (v w : FVal) => (∃ p q, v.rat = some p ∧ w.rat = some q ∧ p < q) ∨ (v = .inf true ∧ w ≠ .inf true) ∨
      (w = .inf false ∧ v ≠ .inf false) ∨ ∃ e f, v = .num true 0 e ∧ w = .num false 0 f
    (x.isNaN = false → y.isNaN = false → r.2 = {} ∧ (less x y → decodeF ty r.1 = if isMax then y else x) ∧
      (less y x → decodeF ty r.1 = if isMax then x else y) ∧ (x = y → decodeF ty r.1 = x)) ∧
    (x.isNaN = true ∨ y.isNaN = true → r.2 = { nv := x.isSig || y.isSig } ∧
      (number = true → x.isNaN = false → decodeF ty r.1 = x) ∧ (number = true → y.isNaN = false → decodeF ty r.1 = y) ∧
      (number = false ∨ (x.isNaN = true ∧ y.isNaN = true) → r.1 = canonNaN ty))) ∧
  ∀ (s : State) (ty : LaneType) (d a b : Reg) (m : Bool), Lone s → s.me.writesInto (.v (s.vName d)) →
    s.poisonC m b 16 = none → ty.isMainFloat = true →
    let val := fun (v : Vec) (k : Nat) => operandF ty s.me.fz (lane ty v k)
    let c : Rounding := { rm := s.me.rm, fz := s.me.fz }
    (∀ p ∈ ([(.vadd false ty d a b m, fun k => roundVal ty c (sumF c.rm [val (s.V a) k, val (s.entryV m b) k])),
        (.vsub false ty d a b m, fun k => roundVal ty c (sumF c.rm [val (s.V a) k, (val (s.entryV m b) k).neg])),
        (.vmul ty d a b m, fun k => roundVal ty c (mulF (val (s.V a) k) (val (s.entryV m b) k))),
        (.vfma false ty d a b m, fun k =>
          roundVal ty c (sumF c.rm [mulF (val (s.V a) k) (val (s.entryV m b) k), val (s.V d) k])),
        (.vfma true ty d a b m, fun k =>
          roundVal ty c (sumF c.rm [(mulF (val (s.V a) k) (val (s.entryV m b) k)).neg, val (s.V d) k])),
        (.vmin ty d a b m, fun k => minmaxLane ty c.fz false false (lane ty (s.V a) k) (lane ty (s.entryV m b) k)),
        (.vmax ty d a b m, fun k => minmaxLane ty c.fz true false (lane ty (s.V a) k) (lane ty (s.entryV m b) k)),
        (.vminn ty d a b m, fun k => minmaxLane ty c.fz false true (lane ty (s.V a) k) (lane ty (s.entryV m b) k)),
        (.vmaxn ty d a b m, fun k => minmaxLane ty c.fz true true (lane ty (s.V a) k) (lane ty (s.entryV m b) k)),
        (.vabs ty d a, fun k => (lane ty (s.V a) k % 2 ^ (laneWidth ty - 1), {})),
        (.vneg ty d a, fun k => (lane ty (s.V a) k ^^^ 2 ^ (laneWidth ty - 1), {}))] :
        List (Instr × (Nat → Nat × Flags))),
      LeavesV s p.1 d ty (fun k => (p.2 k).1 % 2 ^ laneWidth ty) (flagsOf ((List.range (laneCount ty)).map p.2)))

/-- A number that a format holds is rounded to itself, under every rounding mode, and raises no flag (R85). -/
def Obligations.RoundingKeepsWhatTheFormatHolds : Prop :=
  ∀ (ty : LaneType) (c : Rounding) (b : Nat) (n : Bool) (m : Nat) (e : Int), ty.isInt = false → b < 2 ^ laneWidth ty →
    c.fz = false → decodeF ty b = .num n m e → roundTo ty c n m e = (b, {})

/-- The shifts of integer lanes, by one amount or by an amount per lane, taken mod w (R394). The forms on bits, bytes
and whole lanes: VAND, VOR, VXOR, VANDN, VPERM, VMOV, VSPLAT, VINS, VSEL, VCMPRS and VEXPND (R378, R383, R385, R387,
R389, R393, R395). VCMPRS packs the lanes under the mask low in order, VEXPND places them back, and both leave zero
elsewhere. -/
def Obligations.VectorShiftsBitsAndLanes : Prop :=
  (∀ (s : State) (ty : LaneType) (d a b : Reg) (m : Bool), Lone s → s.me.writesInto (.v (s.vName d)) →
    s.poisonC m b 16 = none → ty.isInt = true →
    let w := laneWidth ty
    let per := fun k => lane ty (s.entryV m b) k % w
    let one := fun (_ : Nat) => (s.X b).toNat % w
    (∀ p ∈ ([(.vshlVector ty d a b m, per), (.vshlScalar ty d a b, one)] : List (Instr × (Nat → Nat))),
      LeavesV s p.1 d ty (fun k => lane ty (s.V a) k * 2 ^ p.2 k % 2 ^ w) {}) ∧
    (ty.isUnsigned = true → ∀ p ∈ ([(.vshrVector ty d a b m, per), (.vshrScalar ty d a b, one)] :
        List (Instr × (Nat → Nat))),
      LeavesV s p.1 d ty (fun k => lane ty (s.V a) k / 2 ^ p.2 k) {}) ∧
    (ty.isSigned = true → ∀ p ∈ ([(.vsraVector ty d a b m, per), (.vsraScalar ty d a b, one)] :
        List (Instr × (Nat → Nat))),
      LeavesV s p.1 d ty (fun k => (intOf ty (lane ty (s.V a) k) / 2 ^ p.2 k % 2 ^ w).toNat) {})) ∧
  (∀ (s : State) (ty : LaneType) (d a b : Reg) (m : Bool), Lone s → s.me.writesInto (.v (s.vName d)) →
    s.poisonC m b 16 = none →
    let n := laneCount ty
    let below := fun k => ((List.range k).filter (fun j => (s.X b).getLsbD j)).length
    (∀ p ∈ ([(.vand d a b m, s.V a &&& s.entryV m b), (.vor d a b m, s.V a ||| s.entryV m b),
        (.vxor d a b m, s.V a ^^^ s.entryV m b), (.vandn d a b m, s.V a &&& ~~~s.entryV m b), (.vmov d a, s.V a)] :
        List (Instr × Vec)),
      LeavesV s p.1 d .n64 (lane .n64 p.2) {}) ∧
    LeavesV s (.vperm d a b m) d .n8 (fun k => if 128 ≤ lane .n8 (s.entryV m b) k then 0
      else lane .n8 (s.V a) (lane .n8 (s.entryV m b) k % 16)) {} ∧
    LeavesV s (.vsplat ty d a) d ty (fun _ => (s.X a).toNat % 2 ^ laneWidth ty) {} ∧
    LeavesV s (.vins ty d a b) d ty (fun k => if k = (s.X b).toNat % n then (s.X a).toNat % 2 ^ laneWidth ty
      else lane ty (s.V d) k) {} ∧
    LeavesV s (.vsel ty d a b) d ty (fun k => if (s.X b).getLsbD k then lane ty (s.V a) k else lane ty (s.V d) k) {} ∧
    LeavesV s (.vexpnd ty d a b) d ty (fun k => if (s.X b).getLsbD k then lane ty (s.V a) (below k) else 0) {} ∧
    (∃ f, LeavesV s (.vcmprs ty d a b) d ty f {} ∧
      (∀ k, k < n → (s.X b).getLsbD k = true → f (below k) = lane ty (s.V a) k) ∧ ∀ j, below n ≤ j → j < n → f j = 0))

/-- VCMP, VZMASK and VEXT write an x register (R377, R381, R397): a lane mask with zeros above, or a lane extended by
its type. VCMP raises the flags of its lanes: NV for a signalling NaN, and with LT and LE for any NaN; it compares values, -0
equal to +0, and with LTN and LEN the bits (R92). The reductions and VDOT (R380, R391, R392): integer types reduce into an
x register; floating-point types leave the exact sum, rounded once, or VMAX or VMIN (R386) over the lanes, in lane 0 and
zero in the others; VDOT sums its exact products with vd's FP32 lanes. -/
def Obligations.VectorToScalarAndReductions : Prop :=
  (∀ (ty : LaneType) (fz : Bool) (a b : Nat), ty.isMainFloat = true →
    let x := operandF ty fz a
    let y := operandF ty fz b
    let c := fun (cond : VCond) => cmpLane ty fz cond a b
    let nan := x.isNaN || y.isNaN
    let sig : Flags := { nv := x.isSig || y.isSig }
    c .ltn = (decide (a < b), {}) ∧ c .len = (decide (a ≤ b), {}) ∧ c .un = (nan, sig) ∧ c .ord = (!nan, sig) ∧
    (c .eq).2 = sig ∧ (c .ne).2 = sig ∧ (c .lt).2 = { nv := nan } ∧ (c .le).2 = { nv := nan } ∧
    (nan = true → (c .eq).1 = false ∧ (c .ne).1 = true ∧ (c .lt).1 = false ∧ (c .le).1 = false) ∧
    (∀ p q, x.rat = some p → y.rat = some q → (c .eq).1 = decide (p = q) ∧ (c .ne).1 = decide (p ≠ q) ∧
      (c .lt).1 = decide (p < q) ∧ (c .le).1 = decide (p ≤ q))) ∧
  (∀ (s : State) (ty : LaneType) (d a b : Reg) (cond : VCond), Lone s → s.me.writesInto (.x d) →
    let n := laneCount ty
    let cmp := fun k => if ty.isInt then
        (match cond with
          | .eq => decide (lane ty (s.V a) k = lane ty (s.V b) k)
          | .ne => decide (lane ty (s.V a) k ≠ lane ty (s.V b) k)
          | .lt => decide (intOf ty (lane ty (s.V a) k) < intOf ty (lane ty (s.V b) k))
          | .le => decide (intOf ty (lane ty (s.V a) k) ≤ intOf ty (lane ty (s.V b) k))
          | .un => false
          | .ord => true
          | .ltn => decide (lane ty (s.V a) k < lane ty (s.V b) k)
          | .len => decide (lane ty (s.V a) k ≤ lane ty (s.V b) k), ({} : Flags))
      else cmpLane ty s.me.fz cond (lane ty (s.V a) k) (lane ty (s.V b) k)
    (∃ t : State, exec (.vcmp cond ty d a b) s = .next t ∧
      Retired s t [.x d] (flagsOf ((List.range n).map (fun k => (0, (cmp k).2)))) ∧ GoesOn s t ∧
      (d ≠ 0 → ∀ k, (t.me.settled (.x d)).getLsbD k = (decide (k < n) && (cmp k).1))) ∧
    (∃ t : State, exec (.vzmask ty d a) s = .next t ∧ Retired s t [.x d] {} ∧ GoesOn s t ∧
      (d ≠ 0 → ∀ k, (t.me.settled (.x d)).getLsbD k = (decide (k < n) &&
        (if ty.isInt then decide (lane ty (s.V a) k = 0) else (operandF ty s.me.fz (lane ty (s.V a) k)).isZero)))) ∧
    LeavesX s (.vext ty d a b) d
      (if ty.isSigned then BitVec.ofInt 64 (intOf ty (lane ty (s.V a) ((s.X b).toNat % n)))
        else BitVec.ofNat 64 (lane ty (s.V a) ((s.X b).toNat % n)))) ∧
  (∀ (s : State) (ty : LaneType) (d a b : Reg) (m : Bool), Lone s → s.poisonC m b 16 = none →
    let n := laneCount ty
    let c : Rounding := { rm := s.me.rm, fz := s.me.fz }
    let ints := (List.range n).map (fun k => intOf ty (lane ty (s.V a) k))
    let vals := (List.range n).map (fun k => operandF ty c.fz (lane ty (s.V a) k))
    let prod := fun k => mulF (operandF ty c.fz (lane ty (s.V a) k)) (operandF ty c.fz (lane ty (s.entryV m b) k))
    let acc := fun k => operandF .fp32 c.fz (lane .fp32 (s.V d) k)
    (ty.isInt = true → s.me.writesInto (.x d) →
      LeavesX s (.vredsum ty d a) d (BitVec.ofInt 64 ints.sum) ∧
      (∃ z, LeavesX s (.vredmax ty d a) d (BitVec.ofInt 64 z) ∧ z ∈ ints ∧ ∀ y ∈ ints, y ≤ z) ∧
      (∃ z, LeavesX s (.vredmin ty d a) d (BitVec.ofInt 64 z) ∧ z ∈ ints ∧ ∀ y ∈ ints, z ≤ y)) ∧
    (s.me.writesInto (.v (s.vName d)) → ty.isMainFloat = true →
      let r : LaneType := if ty = .fp64 then .fp64 else .fp32
      let sum := roundVal r c (sumF c.rm vals)
      LeavesV s (.vredsum ty d a) d r (fun k => if k = 0 then sum.1 % 2 ^ laneWidth r else 0) sum.2 ∧
      ∀ p ∈ ([(.vredmax ty d a, true), (.vredmin ty d a, false)] : List (Instr × Bool)),
        let best := ((List.range (n - 1)).map (fun k => lane ty (s.V a) (k + 1))).foldl
          (fun acc y => (minmaxLane ty c.fz p.2 false acc y).1) (lane ty (s.V a) 0)
        LeavesV s p.1 d ty (fun k => if k = 0 then best % 2 ^ laneWidth ty else 0) { nv := vals.any FVal.isSig } ∧
        (vals.any FVal.isNaN = true → best = canonNaN ty)) ∧
    (s.me.writesInto (.v (s.vName d)) → ty = .fp16 ∨ ty = .bf16 →
      let z := fun k => roundVal .fp32 c (sumF c.rm [acc k, prod (2 * k), prod (2 * k + 1)])
      LeavesV s (.vdot ty d a b m) d .fp32 (fun k => (z k).1 % 2 ^ 32) (flagsOf ((List.range 4).map z))) ∧
    (s.me.writesInto (.v (s.vName d)) → ty = .fp32 →
      let z := roundVal .fp32 c (sumF c.rm [acc 0, prod 0, prod 1, prod 2, prod 3])
      LeavesV s (.vdot ty d a b m) d .fp32 (fun k => if k = 0 then z.1 % 2 ^ 32 else lane .fp32 (s.V d) k) z.2))

/-- VCVT converts min(Ls, Lt) lanes and zeroes the rest (R379); without .sr the generator stays, with .sr it advances
once for each converted lane (R87). A lane to an integer type is rounded under RM to an integer next to it, NaN is 0, and what
lies outside the range is the nearest bound, with NV; integers keep their low bits or clamp with SAT, and are exact in a
floating-point type that holds them; a NaN becomes the canonical one, an infinity an infinity or, with saturation, the
largest finite value with SAT (R89, Table 4.7). VRCP, VRSQ, VEXP2, VLOG2 and VTANH give the special operands of Table 16.13 their
exact results, lane by lane, whatever the other lanes hold (R390). Which way an undecided rounding of another operand
goes is free (log 10). -/
def Obligations.VectorConversionsAndSpecialFunctions : Prop :=
  (∀ (dst src : LaneType) (c : Rounding) (b : Nat), c.draw = none →
    let r := convertLane src dst c b
    let x := operandF src c.fz b
    let lo := (intRange dst).1
    let hi := (intRange dst).2
    let low := fun (v : Int) => (v % 2 ^ laneWidth dst).toNat
    (src.isInt = false → dst.isInt = true →
      (x.isNaN = true → r = (0, { nv := true })) ∧
      (∀ n, x = .inf n → r = (low (if n then lo else hi), { nv := true })) ∧
      (∀ q, x.rat = some q → (q ≤ lo - 1 → r = (low lo, { nv := true })) ∧ (hi + 1 ≤ q → r = (low hi, { nv := true })) ∧
        (lo ≤ q → q ≤ hi → ∃ z : Int, r = (low z, { nx := decide (q ≠ z) }) ∧ lo ≤ z ∧ z ≤ hi ∧ |q - z| < 1 ∧
          (c.rm = 0 → |q - z| ≤ 1 / 2 ∧ (|q - z| = 1 / 2 → z % 2 = 0)) ∧ (c.rm = 1 → |(z : ℚ)| ≤ |q|) ∧
          (c.rm = 2 → z ≤ q) ∧ (c.rm = 3 → q ≤ z) ∧
          (c.rm = 4 → |q - z| ≤ 1 / 2 ∧ (|q - z| = 1 / 2 → |q| < |(z : ℚ)|))))) ∧
    (src.isInt = true → dst.isInt = true →
      let v := intOf src b
      r = (if c.sat = true ∧ v < lo then (low lo, { sat := true })
        else if c.sat = true ∧ hi < v then (low hi, { sat := true }) else (low v, {}))) ∧
    (src.isInt = true → dst.isInt = false →
      let v := intOf src b
      v.natAbs < 2 ^ (fracBits dst + 1) → r.2 = {} ∧ (decodeF dst r.1).rat = some (v : ℚ)) ∧
    (src.isInt = false → dst.isInt = false →
      (x.isNaN = true → r = if dst = .e2m1 then (0, { nv := true }) else (canonNaN dst, { nv := x.isSig })) ∧
      (∀ n, x = .inf n → r = if c.sat = true ∨ dst = .e2m1 then (signBits dst n + maxFinite dst, { sat := true })
        else if dst = .e4m3 then (canonNaN dst, { nv := true }) else (infBits dst n, {})))) ∧
  (∀ (s : State) (dst src : LaneType) (sat : Bool) (d a : Reg), Lone s → s.me.writesInto (.v (s.vName d)) →
    let n := min (laneCount src) (laneCount dst)
    let c : Rounding := { rm := s.me.rm, fz := s.me.fz, sat := sat }
    let plain := fun k => convertLane src dst c (lane src (s.V a) k)
    let gen := fun k => (drawNext^[k + 1]) s.me.gen
    let drawn := fun k => convertLane src dst { c with draw := some (bits (gen k) 63 32) } (lane src (s.V a) k)
    LeavesV s (.vcvt dst src sat false d a) d dst (fun k => if k < n then (plain k).1 % 2 ^ laneWidth dst else 0)
      (flagsOf ((List.range n).map plain)) ∧
    ∃ t : State, exec (.vcvt dst src sat true d a) s = .next t ∧ t.me.gen = (drawNext^[n]) s.me.gen ∧
      Retired s (t.modMe (fun u => { u with gen := s.me.gen })) [.v (s.vName d)] (flagsOf ((List.range n).map drawn)) ∧
      GoesOn s t ∧ ∀ k, k < laneCount dst →
        lane dst (t.me.settled (.v (s.vName d))) k = if k < n then (drawn k).1 % 2 ^ laneWidth dst else 0) ∧
  (∀ (s : State) (ty : LaneType) (d a : Reg), Lone s → s.me.writesInto (.v (s.vName d)) → ty.isMainFloat = true →
    let w := laneWidth ty
    let neg := 2 ^ (w - 1)
    let inf := infBits ty false
    let one := (layout ty).2.2.toNat * 2 ^ fracBits ty
    ∀ p ∈ ([(.vrcp ty d a, [(0, inf), (neg, inf + neg), (inf, 0), (inf + neg, neg), (one, one)]),
        (.vrsq ty d a, [(0, inf), (neg, inf + neg), (inf, 0), (inf + neg, canonNaN ty), (one, one), (one + neg, canonNaN ty)]),
        (.vexp2 ty d a, [(0, one), (neg, one), (inf, inf), (inf + neg, 0), (one, one + 2 ^ fracBits ty)]),
        (.vlog2 ty d a, [(0, inf + neg), (neg, inf + neg), (inf, inf), (inf + neg, canonNaN ty), (one, 0), (one + neg, canonNaN ty)]),
        (.vtanh ty d a, [(0, 0), (neg, neg), (inf, one), (inf + neg, one + neg)])] : List (Instr × List (Nat × Nat))),
      ∃ t fl, exec p.1 s = .next t ∧
        Retired { s with fresh := t.fresh } t [.v (s.vName d)] fl ∧ GoesOn { s with fresh := t.fresh } t ∧
        ∀ k, k < laneCount ty → ∀ q ∈ p.2, lane ty (s.V a) k = q.1 → lane ty (t.me.settled (.v (s.vName d))) k = q.2)

/-! ### Bundles: pairs, latencies, link ports, streams -/

/-- The two words of a pair read the registers as they stood before the bundle and retire together (R52): both
destinations take their results, the slot's RETIRED counts one bundle, and nothing else changes. A branch or jump in a
pair is followed after the pair's A-word has completed, JAL in a pair writes the address of the pair plus 8, and a
TRAP in a pair lets the A-word complete and saves the next bundle's address (R52). -/
def Obligations.Pairs : Prop :=
  (∀ (s : State) (d a b e f g : Reg), s.me.bundle.mode = .second → s.me.bundle.bad = none → s.me.bundle.late = none →
    s.me.bundle.popPorts = [] → s.me.bundle.popStreams = [] → s.me.writesInto (.x d) → s.me.writesInto (.x e) →
    d ≠ e →
    ∀ p ∈ ([(.addC d a b, s.X a + s.X b), (.subC d a b, s.X a - s.X b), (.xorC d a b, s.X a ^^^ s.X b)] :
        List (Instr × Word)),
    ∀ q ∈ ([(.addA e f g false, s.X f + s.X g), (.orA e f g false, s.X f ||| s.X g),
        (.mul e f g false, BitVec.ofInt 64 ((s.X f).toInt * (s.X g).toInt))] : List (Instr × Word)),
    ∃ t, runPair s p.1 q.1 = .next t ∧ Retired s t [.x d, .x e] {} ∧ GoesOn s t ∧
      t.me.settled (.x d) = xValue d p.2 ∧ t.me.settled (.x e) = xValue e q.2) ∧
  (∀ (s : State) (a b e f g : Reg) (off : BitVec 11) (far : BitVec 21) (code : BitVec 11),
    s.me.bundle.mode = .second → s.me.bundle.bad = none → s.me.bundle.late = none → s.me.bundle.popPorts = [] →
    s.me.bundle.popStreams = [] → s.me.writesInto (.x 1) → s.me.writesInto (.x e) → e ≠ 1 →
    let sum := xValue e (s.X f + s.X g)
    (s.X a = s.X b → ∃ t, runPair s (.beq a b off) (.addA e f g false) = .next t ∧ Retired s t [.x e] {} ∧
      t.me.settled (.x e) = sum ∧ t.me.pc = s.me.bundle.here + 4 * off.signExtend 64) ∧
    (∃ t, runPair s (.jal far) (.addA e f g false) = .next t ∧ Retired s t [.x 1, .x e] {} ∧
      t.me.settled (.x e) = sum ∧ t.me.settled (.x 1) = s.me.bundle.next.setWidth 128 ∧
      t.me.pc = s.me.bundle.here + 4 * far.signExtend 64) ∧
    (s.me.txn = none → s.here.tvec ≠ 0 → ∃ t, runPair s (.trap code) (.addA e f g false) = .next t ∧
      t.me.settled (.x e) = sum ∧ t.me.tcause = 9 ∧ t.me.tval = code.setWidth 64 ∧ t.me.tpc = s.me.bundle.next ∧
      t.me.pc = s.here.tvec))

/-- A result with a fixed latency L of Table 3.3 that issues in cycle t is read from cycle t + L on, and until then
the register reads its old value (R55, R57). In a caravan the crossing comes on top (R253); here the slot runs alone. -/
def Obligations.FixedLatencyResults : Prop :=
  ∀ (s : State) (ty : LaneType) (d a b : Reg) (m : Bool), Lone s → s.me.cvsize ≤ 1 → s.poisonC m b 16 = none →
    s.poisonC m b 8 = none → (ty.isInt = true ∨ ty.isMainFloat = true) →
    let v : RegName := .v (s.vName d)
    let arith := if ty.isInt then 2 else 4
    ∀ p ∈ ([(.mul d a b m, .x d, 3), (.mulh d a b m, .x d, 3), (.mulhn d a b m, .x d, 3),
        (.vadd false ty d a b m, v, arith), (.vsub false ty d a b m, v, arith), (.vmul ty d a b m, v, arith),
        (.vmin ty d a b m, v, arith), (.vmax ty d a b m, v, arith), (.vand d a b m, v, 2), (.vperm d a b m, v, 2),
        (.vmov d a, v, 2), (.vfma false ty d a b m, v, 4), (.vabs ty d a, v, 2), (.vneg ty d a, v, 2),
        (.vdot .fp32 d a b m, v, 5), (.vcvt .fp16 .fp32 false false d a, v, 3)] : List (Instr × RegName × Nat)),
    s.me.writesInto p.2.1 →
    ∃ t : State, exec p.1 s = .next t ∧ ∀ now, (t.me.land now).reg p.2.1 =
      if now < s.me.lastIssue + p.2.2 then (s.me.land now).reg p.2.1 else t.me.settled p.2.1

/-- A write to a mapped register pushes a word into the neighbour's port and leaves every register as it was; a read
of one pops the oldest word, and with the forward bit passes it on to the opposite port (R67). A read of a read-bound
v register takes the stream's next 16 bytes and moves the stream on; a write to a write-bound one appends an element
and leaves the register as it was (R68, R133). SBIND binds a stream that its descriptor describes, with nothing read
ahead, or unbinds it (R131, R132, R351); the prefetcher reads the next element and the writer stores the oldest one
that waits (R133). -/
def Obligations.PortsAndStreams : Prop :=
  (∀ (s : State) (d a b : Reg) (p n : Nat), s.me.bundle.mode = .lone → s.me.bundle.stash = none →
    s.me.bundle.bad = none → s.me.bundle.popStreams = [] → p < 4 → n ≠ s.cur.1 →
    (s.me.bundle.popPorts = [] → portOf s.me.bundle.links d = some p → s.portSite s.cur.1 p = some n →
      ∃ t : State, exec (.addC d a b) s = .next t ∧
        Retired (s.modCore n (fun k => { k with
          ports := put k.ports (opposite p) (listOf k.ports (opposite p) ++ [s.X a + s.X b]) })) t [] {}) ∧
    (∀ w r, s.me.bundle.popPorts = [p] → s.me.writesInto (.x d) → listOf s.here.ports p = w :: r →
      let popped := s.modHere (fun k => { k with ports := put k.ports p r })
      (s.me.bundle.links.getLsbD (4 + p) = false → ∃ t : State, exec (.addC d a b) s = .next t ∧
        Retired popped t [.x d] {} ∧ t.me.settled (.x d) = xValue d (s.X a + s.X b)) ∧
      (s.me.bundle.links.getLsbD (4 + p) = true → s.portSite s.cur.1 (opposite p) = some n →
        ∃ t : State, exec (.addC d a b) s = .next t ∧
          Retired (popped.modCore n (fun k => { k with ports := put k.ports p (listOf k.ports p ++ [w]) })) t [.x d] {} ∧
          t.me.settled (.x d) = xValue d (s.X a + s.X b)))) ∧
  (∀ (s : State) (d a : Reg) (x : StreamSt), s.me.bundle.mode = .lone → s.me.bundle.stash = none →
    s.me.bundle.bad = none → s.me.bundle.popPorts = [] → s.me.bundle.rename = 0 →
    let bound := fun (r : Nat) (y : StreamSt) => s.modMe (fun u => { u with streams := put u.streams r y })
    (s.me.bundle.popStreams = [a.toNat] → s.me.writesInto (.v d) → d ≠ a → find s.me.streams a.toNat = some x →
      ∃ t : State, exec (.vmov d a) s = .next t ∧
        Retired (bound a.toNat { x with next := x.next + 1, ahead := x.ahead.drop 1 }) t [.v d] {} ∧
        t.me.settled (.v d) = s.me.bundle.rdV.get a.toFin) ∧
    (s.me.bundle.popStreams = [] → find s.me.streams d.toNat = some x →
      ∃ t : State, exec (.vmov d a) s = .next t ∧
        Retired (bound d.toNat { x with
          next := x.next + 1, unwritten := x.unwritten ++ [(x.next, s.me.bundle.rdV.get a.toFin)] }) t [] {})) ∧
  ((∀ (s : State) (r b : Reg) (off : Nat), Lone s → s.me.txn = none → 24 ≤ r.toNat →
    s.streamPending s.cur.1 s.cur.2 r.toNat = 0 →
    (∃ t : State, exec (.sbind r 0) s = .next t ∧ GoesOn s t ∧
      Retired (s.modMe (fun u => { u with streams := del u.streams r.toNat })) t [] {}) ∧
    (b ≠ 0 → s.checkMem (s.X b) 32 .waitev = .ok ⟨.lm off, none⟩ → s.here.lmBad off 32 = false →
      (∀ x, s.streamDesc off = some x → x.base = s.here.lm.word off ∧ x.next = 0 ∧ x.ahead = [] ∧ x.unwritten = [] ∧
        x.isWrite = bitAt (s.here.lm.word (off + 24)) 32 ∧ ∃ t : State, exec (.sbind r b) s = .next t ∧ GoesOn s t ∧
        Retired (s.modMe (fun u => { u with streams := put u.streams r.toNat x })) t [] {}) ∧
      (s.streamDesc off = none → s.here.tvec ≠ 0 →
        ∃ t : State, exec (.sbind r b) s = .next t ∧ TrapTaken s t .stream (s.X b) s.me.bundle.here s.here.tvec))) ∧
  (∀ (s : State) (c i : Nat) (r : Reg) (x : StreamSt), find (s.slot c i).streams r.toNat = some x →
    (x.isWrite = false → x.ahead.length < 4 → x.next + x.ahead.length < x.total →
      (s.core c).badElement (x.addr (x.next + x.ahead.length)).toNat = false → exec (.streamPrefetch c i r) s =
      .next (s.modSlot c i (fun u => { u with streams := put u.streams r.toNat (
        { x with ahead := x.ahead ++ [(s.core c).streamRead (x.addr (x.next + x.ahead.length))] } : StreamSt) }))) ∧
    (∀ n v rest off, x.unwritten = (n, v) :: rest → x.addr n = ((0xF000000000000000 + off : Nat) : Int) → off < 0x20000 →
      ∃ t : State, exec (.streamWrite c i r) s = .next t ∧
        (find (t.slot c i).streams r.toNat).map StreamSt.unwritten = some rest ∧
        ∀ y, (t.core c).lm.read y = if off ≤ y ∧ y < off + 16 then BitVec.ofNat 8 (v.toNat / 256 ^ (y - off))
          else (s.core c).lm.read y)))

/-! ### Branches, loops, traps -/

/-- The branches and jumps (R60, R294, R295, R318, R319): a taken one goes to its target, one that is not taken goes
on; JAL and JALR leave the next bundle's address in x1 and xd. RPT starts a loop of len + 1 bundles behind it and x[a]
passes; the last bundle of a body goes back to its start until the passes are done and then goes on behind it; a count
of 0 goes on behind the body, whose words that are homed elsewhere it asks for first; a count above 65,535 traps ILLEGAL
(R69, R350). -/
def Obligations.BranchesJumpsAndLoops : Prop :=
  (∀ (s : State) (d a b : Reg) (off imm : BitVec 11) (bit : BitVec 6) (near : BitVec 10) (far : BitVec 21), Lone s →
    (∀ p ∈ ([(.beq a b off, s.X a = s.X b, off.signExtend 64), (.bne a b off, s.X a ≠ s.X b, off.signExtend 64),
        (.blt a b off, (s.X a).toInt < (s.X b).toInt, off.signExtend 64),
        (.bge a b off, (s.X b).toInt ≤ (s.X a).toInt, off.signExtend 64),
        (.bltn a b off, (s.X a).toNat < (s.X b).toNat, off.signExtend 64),
        (.bgen a b off, (s.X b).toNat ≤ (s.X a).toNat, off.signExtend 64),
        (.bbs a bit near, (s.X a).getLsbD bit.toNat = true, near.signExtend 64),
        (.bbc a bit near, (s.X a).getLsbD bit.toNat = false, near.signExtend 64),
        (.j far, True, far.signExtend 64)] : List (Instr × Prop × Word)),
      ∃ t : State, exec p.1 s = .next t ∧ Retired s t [] {} ∧
        (p.2.1 → t.me.pc = s.me.bundle.here + 4 * p.2.2 ∧ t.me.loop = s.me.loop) ∧ (¬ p.2.1 → GoesOn s t)) ∧
    (s.me.writesInto (.x 1) → ∃ t : State, exec (.jal far) s = .next t ∧ Retired s t [.x 1] {} ∧
      t.me.pc = s.me.bundle.here + 4 * far.signExtend 64 ∧
      t.me.settled (.x 1) = s.me.bundle.next.setWidth 128) ∧
    (s.me.writesInto (.x d) → (s.X b + imm.signExtend 64).toNat % 4 = 0 →
      ∃ t : State, exec (.jalr d b imm) s = .next t ∧ Retired s t [.x d] {} ∧ t.me.pc = s.X b + imm.signExtend 64 ∧
        t.me.settled (.x d) = xValue d s.me.bundle.next)) ∧
  (∀ (s : State) (a : Reg) (len : BitVec 3) (stride : BitVec 4), Lone s →
    let count := (s.X a).toNat
    (0 < count → count ≤ 65535 → s.me.bundle.bodyLast = false → ∃ t : State, exec (.rpt a len stride) s = .next t ∧
      Retired s t [] {} ∧ t.me.loop = some { pass := 0, count, len := len.toNat + 1, stride := stride.toNat,
                                             body := s.me.bundle.next } ∧
      t.me.pc = s.me.bundle.next) ∧
    (∀ pc, count = 0 → s.skipBundles s.cur.1 s.cur.2 (len.toNat + 1) s.me.bundle.next = .found pc →
      ∃ t : State, exec (.rpt a len stride) s = .next t ∧ Retired s t [] {} ∧ t.me.pc = pc) ∧
    (∀ va pkg at_, count = 0 → s.skipBundles s.cur.1 s.cur.2 (len.toNat + 1) s.me.bundle.next = .ask va (.other pkg at_) →
      s.zyRoom s.cur.1 pkg = true →
      ∃ t : State, exec (.rpt a len stride) s = .next t ∧ t.me.wait = .answer .skip va none ∧ t.me.pc = s.me.pc) ∧
    (65535 < count → s.me.txn = none → s.here.tvec ≠ 0 → ∃ t : State, exec (.rpt a len stride) s = .next t ∧
      t.me.tcause = 1 ∧ t.me.tval = s.X a ∧ t.me.tpc = s.me.bundle.here ∧ t.me.pc = s.here.tvec) ∧
    (∀ l, s.me.loop = some l → ∀ i ∈ ([.nopA, .nopC] : List Instr), ∃ t : State, exec i s = .next t ∧
      (s.me.bundle.bodyLast = false → t.me.pc = s.me.bundle.next ∧ t.me.loop = some l) ∧
      (s.me.bundle.bodyLast = true → l.pass + 1 < l.count →
        t.me.pc = l.body ∧ t.me.loop = some { l with pass := l.pass + 1 }) ∧
      (s.me.bundle.bodyLast = true → l.count ≤ l.pass + 1 → t.me.pc = s.me.bundle.next ∧ t.me.loop = none)))

/-- TakeTrap for the running slot, with a vector: R197's registers and no other. Without a vector, WDOG ends the
launch with HUNG, a checker mismatch is logged only, and every other cause ends it with FAULT and the cause's code.
TRAP and BKPT retire and then trap, with TPC at the next bundle; an undecodable word traps ILLEGAL and a failed fetch
ACCESS at their own bundle; inside a transaction each aborts it with ILLEGAL and the suppressed cause (R65, R106,
R173, R296, R370). -/
def Obligations.TrapsTaken : Prop :=
  (∀ (s : State) (cause : Cause) (value tpc : Word),
    (s.here.tvec ≠ 0 → TrapTaken s (s.takeTrap s.cur.1 s.cur.2 cause value tpc) cause value tpc s.here.tvec) ∧
    (s.here.tvec = 0 → ∀ l x, s.here.launch = some l → find s.launches l = some x → x.ending = none →
      let t := s.takeTrap s.cur.1 s.cur.2 cause value tpc
      ((find t.launches l).map Launch.ending = some (match cause with
        | .chk => none
        | .wdog => some (.hung, 8)
        | c => some (.fault, c.code))) ∧
      t.me.tcause = s.me.tcause ∧ t.me.pc = s.me.pc ∧ t.mem = s.mem)) ∧
  (∀ (s : State) (code : BitVec 11) (w : IWord), Lone s →
    let b := s.me.bundle
    ∀ p ∈ ([(.trap code, Cause.trapi, code.setWidth 64, true), (.bkpt, .bkpt, b.here, true),
        (.illegalEncoding w, .illegal, w.setWidth 64, false), (.instructionFetchFault, .access, b.here, false)] :
        List (Instr × Cause × Word × Bool)),
    s.fetchBad s.cur.1 b.here = false →
    let from_ := if p.2.2.2 then s.retire s.cur.1 s.cur.2 none else s
    (s.me.txn = none → s.here.tvec ≠ 0 → ∃ t : State, exec p.1 s = .next t ∧
      TrapTaken from_ t p.2.1 p.2.2.1 (if p.2.2.2 then b.next else b.here) s.here.tvec) ∧
    (∀ x, s.me.txn = some x → ∃ t : State, exec p.1 s = .next t ∧ t = s.setSlot s.cur.1 s.cur.2 t.me ∧ t.me.txn = none ∧
      t.me.tabort = 6 ∧ t.me.tcode = BitVec.ofNat 8 p.2.1.code ∧ t.me.pc = x.target ∧ t.me.x = x.shadowX ∧
      t.me.v = x.shadowV ∧ t.me.tcause = s.me.tcause ∧ t.me.h = s.me.h))

/-- ERET goes to TPC, clears H, and makes the loop that RPTST and RPTPC describe live again, or none (R70, R201, R310); a TPC
that is not a multiple of 4 traps ALIGN with it, and inside a transaction ERET aborts with ILLEGAL. The held trap of the
lowest code is taken at a bundle boundary with H = 0, blocked bundles abandoned, with TPC at the bundle that would have
issued: all that R197 writes, and nothing else (R196, R199), but that a list which has not left is not issued (R269); it
waits for a commit, for an answer, and while a caravan is released for a pre-emption (R179, R196, R202). A transaction
aborts with PREEMPT first (R173), and with
TVEC = 0 the launch ends FAULT (R197). The watchdog of a slot that has reached its limit raises WDOG the first time, and
ends the launch with HUNG and cause 8 the second time or with TVEC = 0 (R214). That the ALIGN trap of ERET sets H as every
trap does is the model's reading (log 23). -/
def Obligations.HeldTrapsAndReturns : Prop :=
  (∀ (s : State), Lone s →
    (s.me.txn = none → s.me.tpc.toNat % 4 = 0 → ∃ t : State, exec .eret s = .next t ∧ t.me.pc = s.me.tpc ∧ t.me.h = false ∧
      Retired s (t.modMe (fun u => { u with h := s.me.h })) [] {} ∧
      t.me.loop = if s.me.rptst.getLsbD 63 then
        some { pass := bits s.me.rptst 15 0, count := bits s.me.rptst 31 16, len := bits s.me.rptst 54 52 + 1,
               stride := bits s.me.rptst 51 48, body := s.me.rptpc } else none) ∧
    (s.me.txn = none → s.me.tpc.toNat % 4 ≠ 0 → s.here.tvec ≠ 0 → ∃ t : State, exec .eret s = .next t ∧
      TrapTaken s t .align s.me.tpc s.me.bundle.here s.here.tvec) ∧
    (∀ x, s.me.txn = some x → ∃ t : State, exec .eret s = .next t ∧ t = s.setSlot s.cur.1 s.cur.2 t.me ∧ t.me.txn = none ∧
      t.me.tabort = 6 ∧ t.me.tcode = 0 ∧ t.me.pc = x.target ∧ t.me.x = x.shadowX ∧ t.me.v = x.shadowV ∧
      t.me.loop = none ∧ t.me.h = s.me.h ∧ t.me.tpc = s.me.tpc ∧ t.me.tcause = s.me.tcause ∧ t.me.tval = s.me.tval ∧
      t.me.rptst = s.me.rptst ∧ t.me.fflags = s.me.fflags ∧ t.me.retired = s.me.retired)) ∧
  (∀ (s : State) (c i : Nat), i < 4 → (s.slot c i).active = true →
    let u := s.slot c i
    let left := (s.unissued c i).modCore c (fun k => { k with chrdWaiters := k.chrdWaiters.filter (fun w => w.1 != i) })
    (∀ cause v, (cause, v) ∈ u.heldTraps → (∀ q ∈ u.heldTraps, cause.code < q.1.code ∨ q = (cause, v)) → u.h = false →
      u.wait.abandonable = true → s.parting c i = false →
      ((s.core c).tvec ≠ 0 → u.txn = none → ∃ t n, exec (.takeTrap c i) s = .next t ∧ t = left.setSlot c i n ∧
        n.tcause = BitVec.ofNat 64 cause.code ∧ n.tval = v ∧ n.tpc = u.pc ∧ n.pc = (s.core c).tvec ∧ n.h = true ∧
        n.heldTraps = u.heldTraps.erase (cause, v) ∧ n.loop = none ∧ n.rptst = rptstOf u.loop ∧
        n.rptpc = (u.loop.map LoopSt.body).getD 0 ∧ n.pend = [] ∧ n.wait = .none ∧ n.fflags = u.fflags ∧
        n.retired = u.retired ∧ (∀ r, n.settled r = u.settled r) ∧
        ({ n with tcause := u.tcause, tval := u.tval, tpc := u.tpc, rptst := u.rptst, rptpc := u.rptpc, h := u.h,
                  heldTraps := u.heldTraps } : Slot).system = u.system) ∧
      (∀ x, (s.core c).tvec ≠ 0 → u.txn = some x → x.committing = false → ∃ t n, exec (.takeTrap c i) s = .next t ∧
        t = left.setSlot c i n ∧ n.txn = none ∧ n.tabort = 4 ∧ n.x = x.shadowX ∧ n.v = x.shadowV ∧
        n.tcause = BitVec.ofNat 64 cause.code ∧ n.tval = v ∧ n.tpc = x.target ∧ n.pc = (s.core c).tvec ∧ n.h = true ∧
        n.loop = none ∧ n.heldTraps = u.heldTraps.erase (cause, v)) ∧
      (∀ l x, (s.core c).tvec = 0 → u.txn = none → cause ≠ .chk → cause ≠ .wdog → (s.core c).launch = some l →
        find s.launches l = some x → x.ending = none → ∃ t : State, exec (.takeTrap c i) s = .next t ∧
        (find t.launches l).map Launch.ending = some (some (.fault, cause.code)) ∧ t.mem = s.mem)) ∧
    (u.h = true ∨ u.heldTraps = [] ∨ s.parting c i = true ∨ u.wait.abandonable = false ∨
      (∃ x, u.txn = some x ∧ x.committing = true) → exec (.takeTrap c i) s = .next s) ∧
    ((∀ m, u.wait ≠ .list m) → s.unissued c i = s) ∧
    (s.limitOf c = none → exec (.watchdogFire c i) s = .next s) ∧
    (∀ n, s.limitOf c = some n → (u.watch < n → exec (.watchdogFire c i) s = .next s) ∧
      (n ≤ u.watch → u.wdogFired = false → (s.core c).tvec ≠ 0 → exec (.watchdogFire c i) s = .next (s.setSlot c i
        { u with watch := 0, wdogFired := true, heldTraps := u.heldTraps ++ [(.wdog, BitVec.ofNat 64 n)] })) ∧
      (n ≤ u.watch → u.wdogFired = true ∨ (s.core c).tvec = 0 → ∀ l x, (s.core c).launch = some l →
        find s.launches l = some x → x.ending = none → ∃ t : State, exec (.watchdogFire c i) s = .next t ∧
        (find t.launches l).map Launch.ending = some (some (.hung, 8)) ∧
        (∀ m, m ≠ l → find t.launches m = find s.launches m) ∧ t.cores = s.cores ∧ t.mem = s.mem)))

/-- YIELD is not eligible in the cycle after its issue, ALIVE clears WATCH, HMASK and HUNMASK set and clear a channel's mask bit in the core's
handler table, RELEASE outside a caravan changes nothing (R195, R285, R316, R347, R401). END of an inline child
returns to x1 one level up (R43); at depth 0 it frees the slot, and a child's end is reported to its parent core (R46,
R309), once the NI takes the report; inside a transaction it aborts. In a caravan RELEASE and END first wait until 40
cycles after the landing of the last pending write; a RELEASE inside a transaction aborts it with PREEMPT, and the members
hand back after that (R259, R260). -/
def Obligations.SystemWordsAndTheEnd : Prop :=
  (∀ (s : State) (ch : BitVec 6), Lone s →
    (∃ t : State, exec .yield s = .next t ∧ GoesOn s t ∧
      Retired (s.modMe (fun u => { u with skipAt := some (s.me.lastIssue + 1) })) t [] {} ∧
      ({ t with cycle := s.me.lastIssue + 1 } : State).eligible s.cur.1 s.cur.2 = false) ∧
    (∃ t : State, exec .alive s = .next t ∧ GoesOn s t ∧
      Retired (s.modMe (fun u => { u with watch := 0, wdogFired := false })) t [] {}) ∧
    (∀ p ∈ ([(.hmask ch, true), (.hunmask ch, false)] : List (Instr × Bool)), ∃ t : State, exec p.1 s = .next t ∧ GoesOn s t ∧
      Retired (s.modHere (fun k => { k with table := t.here.table })) t [] {} ∧
      ∀ n, t.here.table[n]? = (s.here.table[n]?).map (fun h => if n = ch.toNat then { h with mask := p.2 } else h)) ∧
    (s.me.cvsize ≤ 1 → ∃ t : State, exec .release s = .next t ∧ GoesOn s t ∧ Retired s t [] {}) ∧
    (1 < s.me.cvsize → s.me.txn = none → exec .release s =
      .next (s.modMe (fun u => { u with wait := .handBack ((s.me.pend.map Pending.due).foldl max s.cycle + 40) }))) ∧
    (∀ x, 1 < s.me.cvsize → s.me.txn = some x → ∃ t : State, exec .release s = .next t ∧ t = s.setSlot s.cur.1 s.cur.2 t.me ∧
      t.me.txn = none ∧ t.me.tabort = 4 ∧ t.me.tcode = 0 ∧ t.me.pc = x.target ∧ t.me.x = x.shadowX ∧ t.me.v = x.shadowV ∧
      t.me.wait = .parted (s.cycle + 40))) ∧
  (∀ (s : State), Lone s →
    (s.me.txn = none → 0 < s.me.inlineDepth → (s.X 1).toNat % 4 = 0 → ∃ t : State, exec .endI s = .next t ∧
      t.me.pc = s.X 1 ∧ Retired (s.modMe (fun u => { u with inlineDepth := s.me.inlineDepth - 1 })) t [] {}) ∧
    (s.me.txn = none → s.me.inlineDepth = 0 → 1 < s.me.cvsize → exec .endI s =
      .next (s.modMe (fun u => { u with wait := .handBack ((s.me.pend.map Pending.due).foldl max s.cycle + 40) }))) ∧
    (s.me.txn = none → s.me.inlineDepth = 0 → s.me.cvsize ≤ 1 → s.me.heldMsgs = [] →
      (∀ q, s.me.parent = some q → s.zyTurn s.cur.1 s.cur.2 q.pkg = false → exec .endI s =
        .next (s.modMe (fun u => { u with wait := .full .retry }))) ∧
      ((∀ q, s.me.parent = some q → s.zyTurn s.cur.1 s.cur.2 q.pkg = true) → ∃ t : State, exec .endI s = .next t ∧ t.me.active = false ∧ t.me.claim = 0 ∧ t.me.wait = .none ∧ t.me.watch = 0 ∧
        t.mem = s.mem ∧ t.here.lm = s.here.lm ∧ t.here.mq = s.here.mq ∧ t.here.cq = s.here.cq ∧ t.here.wb = s.here.wb ∧
        t.me.streams = s.me.streams ∧
        (∀ q, s.me.parent = some q → q.pkg = s.pkg →
          t.net = s.net ++ [{ s.msgFrom s.cur.1 s.cur.2 q .endReport with ring := dieOf s.cur.1 }]) ∧
        (∀ q, s.me.parent = some q → q.pkg ≠ s.pkg → t.net = s.net ++ [{ s.msgFrom s.cur.1 s.cur.2 q .endReport with
          ring := dieOf s.cur.1, key := s.asidOf s.cur.1, owner := s.here.launch }]) ∧
        (s.me.parent = none → t.net = s.net))) ∧
    (∀ x, s.me.txn = some x → ∃ t : State, exec .endI s = .next t ∧ t.me.txn = none ∧ t.me.tabort = 6 ∧ t.me.tcode = 0 ∧
      t.me.pc = x.target ∧ t.me.active = s.me.active))

/-! ### Control registers -/

/-- CRR reads every register of Table 3.12 (R306): FPCTL, FFLAGS, SRSEED, LMB, LINKMAP, the identity registers, the
trap and transaction registers, the loop state as saved, the matrix registers, CHKMODE, SPLIM, WATCH, the counters and
the caravan's size and mask. -/
def Obligations.ControlRegisterReads : Prop :=
  ∀ (s : State) (d : Reg) (l : Launch), Lone s → s.me.writesInto (.x d) → s.launchOf s.cur.1 = some l →
    (∀ e ∈ s.here.mq, e.targets false = false ∧ e.targets true = false) →
    let t := s.me
    let k := s.here
    ∀ p ∈ ([(0x000, BitVec.ofNat 64 (8 * bit t.fz + t.rm)), (0x001, BitVec.ofNat 64 t.fflags.toNat), (0x002, t.srseed),
        (0x010, t.lmb), (0x011, t.linkmap.setWidth 64), (0x020, t.wid),
        (0x021, BitVec.ofNat 64 ((l.word 3).toNat % 2 ^ 43)), (0x022, BitVec.ofNat 64 s.cur.2),
        (0x023, BitVec.ofNat 64 k.origin), (0x024, BitVec.ofNat 64 s.pkg),
        (0x025, BitVec.ofNat 64 ((l.rankList s.pkg).findIdx (· == ⟨s.pkg, k.origin⟩))), (0x030, k.tvec), (0x031, t.tcause),
        (0x032, t.tval), (0x033, t.tpc), (0x034, t.tscr), (0x035, t.tstat), (0x036, t.tage.getD 0),
        (0x037, s.frontOf s.cur.1), (0x038, t.rptst), (0x039, t.rptpc), (0x040, t.mfmta.setWidth 64),
        (0x041, t.mfmtb.setWidth 64), (0x042, t.mfmtc.setWidth 64), (0x043, t.mscla), (0x044, t.msclb),
        (0x045, BitVec.ofNat 64 k.acc0v.status), (0x046, BitVec.ofNat 64 k.acc1v.status), (0x047, BitVec.ofNat 64 k.topk),
        (0x050, BitVec.ofNat 64 t.chkmode), (0x051, BitVec.ofNat 64 k.splim), (0x052, BitVec.ofNat 64 t.watch),
        (0x060, BitVec.ofNat 64 s.cycle), (0x061, BitVec.ofNat 64 t.retired), (0x070, BitVec.ofNat 64 t.cvsize),
        (0x071, t.cvmask)] : List (BitVec 11 × Word)),
    LeavesX s (.crr d p.1) d p.2

/-- CRW, CRS and CRC leave the old value in xd and the new value, cut to the register's writable bits, in the
register: x[a], the old value with x[a]'s bits set, or with them cleared (R71, R306, Table 14.21). Nothing else of the part
changes: no other control register but RETIRED, no other register, no memory. A write of SRSEED restarts the generator,
and zero takes the fixed start value (R87); TSTAT keeps all but its two code fields; CRC of TAGE with a nonzero mask ends
the timestamp's life, with mask zero it only reads. Any other write of TAGE traps ILLEGAL, with the word as TVAL, and so do
a read-only register, an unknown number and a value outside the range of Table 14.21; a LINKMAP value that maps a port
without a neighbour in the launch traps PLACE with the value (R67, R71, R306). A write of a matrix register or of ACCSTn
waits for the commands that it concerns (R102, R136). -/
def Obligations.ControlRegisterWrites : Prop :=
  ∀ (s : State) (a d : Reg) (num : BitVec 11), Lone s →
    let old := s.creg s.cur.1 s.cur.2 num.toNat
    let me := fun (f : Slot → Slot) => s.modMe f
    let core := fun (f : CoreSt → CoreSt) => s.modHere f
    let ways : List (Instr × Word) := [(.crw a d num, s.X a), (.crs a d num, old ||| s.X a), (.crc a d num, old &&& ~~~s.X a)]
    let fits := fun (v : Word) => (num = 0x000 → bits v 2 0 ≤ 4) ∧ (num = 0x030 → bits v 1 0 = 0) ∧
      (num = 0x047 → 1 ≤ v.toNat ∧ v.toNat ≤ 16) ∧ (num = 0x050 → v.toNat ≤ 2) ∧ (num = 0x051 → v.toNat ≤ 1024)
    let all : Word := BitVec.allOnes 64
    let rows : List (BitVec 11 × Word × (Word → State)) := [
      (0x000, 0xF, fun v => me (fun u => { u with rm := bits v 2 0, fz := v.getLsbD 3 })),
      (0x001, 0x3F, fun v => me (fun u => { u with fflags := { sat := v.getLsbD 5, nx := v.getLsbD 4, uf := v.getLsbD 3
                                                               of := v.getLsbD 2, dz := v.getLsbD 1, nv := v.getLsbD 0 } })),
      (0x002, all, fun v => me (fun u => { u with srseed := v, gen := if v = 0 then 0x9E3779B97F4A7C15 else v })),
      (0x010, 0x1FFF0, fun v => me (fun u => { u with lmb := v &&& 0x1FFF0 })),
      (0x011, 0x1FF, fun v => me (fun u => { u with linkmap := v.setWidth 9 })),
      (0x030, all, fun v => core (fun k => { k with tvec := v })),
      (0x031, all, fun v => me (fun u => { u with tcause := v })),
      (0x032, all, fun v => me (fun u => { u with tval := v })),
      (0x033, all, fun v => me (fun u => { u with tpc := v })),
      (0x034, all, fun v => me (fun u => { u with tscr := v })),
      (0x038, 0x807F0000FFFFFFFF, fun v => me (fun u => { u with rptst := v &&& 0x807F0000FFFFFFFF })),
      (0x039, all, fun v => me (fun u => { u with rptpc := v })),
      (0x040, 0xFFF, fun v => me (fun u => { u with mfmta := v.setWidth 12 })),
      (0x041, 0xFFF, fun v => me (fun u => { u with mfmtb := v.setWidth 12 })),
      (0x042, 0xF, fun v => me (fun u => { u with mfmtc := v.setWidth 4 })),
      (0x043, 0x0000FFFF0003FFFF, fun v => me (fun u => { u with mscla := v &&& 0x0000FFFF0003FFFF })),
      (0x044, 0x0000FFFF0003FFFF, fun v => me (fun u => { u with msclb := v &&& 0x0000FFFF0003FFFF })),
      (0x045, 0x65, fun v => core (fun k => { k with acc0v := { k.acc0v with
        empty := v.getLsbD 6, sat := v.getLsbD 5, of := v.getLsbD 2, nv := v.getLsbD 0 } })),
      (0x046, 0x65, fun v => core (fun k => { k with acc1v := { k.acc1v with
        empty := v.getLsbD 6, sat := v.getLsbD 5, of := v.getLsbD 2, nv := v.getLsbD 0 } })),
      (0x047, all, fun v => core (fun k => { k with topk := v.toNat })),
      (0x050, all, fun v => me (fun u => { u with chkmode := v.toNat })),
      (0x051, all, fun v => core (fun k => { k with splim := v.toNat }))]
    (s.me.writesInto (.x d) → s.cregWaits num.toNat true = false → ∀ m ∈ rows, num = m.1 → ∀ p ∈ ways, fits p.2 →
      (num = 0x011 → s.badLinkmap p.2 = false) → ∃ t : State, exec p.1 s = .next t ∧ GoesOn s t ∧
        Retired (m.2.2 p.2) t [.x d] {} ∧ t.me.settled (.x d) = xValue d old ∧
        t.creg s.cur.1 s.cur.2 num.toNat = p.2 &&& m.2.1 ∧
        ∀ n, n ≠ num.toNat → n ≠ 0x061 → t.creg s.cur.1 s.cur.2 n = s.creg s.cur.1 s.cur.2 n) ∧
    (s.me.writesInto (.x d) → num = 0x035 → ∀ p ∈ ways, ∃ t : State, exec p.1 s = .next t ∧ GoesOn s t ∧
      Retired (me (fun u => { u with tabort := p.2.setWidth 8, tcode := p.2.extractLsb' 8 8 })) t [.x d] {} ∧
      t.me.settled (.x d) = xValue d old) ∧
    (s.me.writesInto (.x d) → num = 0x036 → ∃ t : State, exec (.crc a d num) s = .next t ∧ GoesOn s t ∧
      Retired (me (fun u => { u with tage := if s.X a = 0 then u.tage else none })) t [.x d] {} ∧
      t.me.settled (.x d) = xValue d (s.me.tage.getD 0)) ∧
    (s.me.txn = none → s.here.tvec ≠ 0 → s.cregWaits num.toNat true = false →
      ((num = 0x036 → ∀ i ∈ ([.crw a d num, .crs a d num] : List Instr), ∃ t : State, exec i s = .next t ∧
          TrapTaken s t .illegal (s.me.bundle.word.setWidth 64) s.me.bundle.here s.here.tvec) ∧
        ((num ∉ rows.map Prod.fst ∧ num ≠ 0x035 ∧ num ≠ 0x036) → ∀ p ∈ ways, ∃ t : State, exec p.1 s = .next t ∧
          TrapTaken s t .illegal (s.me.bundle.word.setWidth 64) s.me.bundle.here s.here.tvec) ∧
        ∀ p ∈ ways, (¬ fits p.2 → ∃ t : State, exec p.1 s = .next t ∧
            TrapTaken s t .illegal (s.me.bundle.word.setWidth 64) s.me.bundle.here s.here.tvec) ∧
          (num = 0x011 → s.badLinkmap p.2 = true → ∃ t : State, exec p.1 s = .next t ∧
            TrapTaken s t .place p.2 s.me.bundle.here s.here.tvec))) ∧
    (s.cregWaits num.toNat true = true → ∀ p ∈ ways, exec p.1 s = .next (s.modMe (fun u => { u with wait := .stall })))

/-! ### Memory: own spaces -/

/-- LD, LDN and VLD from own LM, the A buffer and the C window (R107, R321, R384): the little-endian bytes at the
address, extended from their size; nothing but the register changes. -/
def Obligations.LocalLoads : Prop :=
  ∀ (s : State) (d b : Reg) (imm : BitVec 11) (off n : Nat) (bs : List Byte), Lone s →
    let a := s.X b + imm.signExtend 64
    (spaceOf s.pkg a = .lm off ∧ s.here.lmBad off n = false ∧ bs = s.here.lm.bytes off n) ∨
      (spaceOf s.pkg a = .abuf off ∧ s.here.abufBad off n = false ∧ bs = s.here.abuf.bytes off n) ∨
      (spaceOf s.pkg a = .cbuf off ∧ s.here.cBad off n = false ∧ bs = (if off < 0x4000 then s.here.acc0v.data.bytes off n
        else s.here.acc1v.data.bytes (off - 0x4000) n)) →
    a.toNat % n = 0 →
    (s.me.writesInto (.x d) → ∀ p ∈ ([(.ldB d b imm, 1, true), (.ldH d b imm, 2, true), (.ldW d b imm, 4, true),
        (.ldD d b imm, 8, true), (.ldnB d b imm, 1, false), (.ldnH d b imm, 2, false), (.ldnW d b imm, 4, false)] :
        List (Instr × Nat × Bool)), n = p.2.1 →
      LeavesX s p.1 d (if p.2.2 then (BitVec.ofNat (8 * n) (natOfBytes bs)).signExtend 64
        else (BitVec.ofNat (8 * n) (natOfBytes bs)).zeroExtend 64)) ∧
    (s.me.writesInto (.v d) → n = 16 → ∃ t : State, exec (.vld d b imm) s = .next t ∧ Retired s t [.v d] {} ∧ GoesOn s t ∧
      t.me.settled (.v d) = BitVec.ofNat 128 (natOfBytes bs))

/-- ST, VST and ST4 to own LM, the A buffer and the C window (R107, R359, R361, R396): exactly the bytes of the access
change, to the register's low bytes in little-endian order; ST4 replaces one nibble and keeps the other; no register and
no other memory changes. A VST to the A buffer with LINKMAP[8] set also writes its byte of the zero map, bit i telling that
halfword i is neither 0x0000 nor 0x8000 (R146); no other store touches the map. -/
def Obligations.LocalStores : Prop :=
  ∀ (s : State) (a b : Reg) (imm : BitVec 11) (near : BitVec 10) (hi : Bool) (off : Nat), Lone s →
    let addr := s.X b + imm.signExtend 64
    let sets := fun (m m' : Memory) (at_ n v : Nat) => ∀ x, m'.read x =
      if at_ ≤ x ∧ x < at_ + n then BitVec.ofNat 8 (v / 256 ^ (x - at_)) else m.read x
    let inLm := s.withLmOf
    let inA := fun (t : State) => s.modHere (fun k => { k with
      abuf := t.here.abuf, zmap := t.here.zmap, poison := t.here.poison })
    let inC := fun (t : State) => s.modHere (fun k => if off < 0x4000
      then { k with acc0v := { k.acc0v with data := t.here.acc0v.data, bad := t.here.acc0v.bad } }
      else { k with acc1v := { k.acc1v with data := t.here.acc1v.data, bad := t.here.acc1v.bad } })
    let bank := fun (u : State) => if off < 0x4000 then u.here.acc0v.data else u.here.acc1v.data
    (∀ p ∈ ([(.stB a b imm, 1, (s.X a).toNat), (.stH a b imm, 2, (s.X a).toNat), (.stW a b imm, 4, (s.X a).toNat),
        (.stD a b imm, 8, (s.X a).toNat), (.vst a b imm, 16, (s.Vc a).toNat)] : List (Instr × Nat × Nat)),
      addr.toNat % p.2.1 = 0 →
      (spaceOf s.pkg addr = .lm off → ∃ t : State, exec p.1 s = .next t ∧ GoesOn s t ∧ Retired (inLm t) t [] {} ∧
        sets s.here.lm t.here.lm off p.2.1 p.2.2) ∧
      (spaceOf s.pkg addr = .abuf off → ∃ t : State, exec p.1 s = .next t ∧ GoesOn s t ∧ Retired (inA t) t [] {} ∧
        sets s.here.abuf t.here.abuf off p.2.1 p.2.2 ∧
        ∀ x, t.here.zmap.read x = if p.2.1 = 16 ∧ s.me.linkmap.getLsbD 8 = true ∧ x = off / 16 then
            BitVec.ofNat 8 (((List.range 8).map (fun i => if p.2.2 / 65536 ^ i % 65536 % 0x8000 = 0 then 0 else 2 ^ i)).sum)
          else s.here.zmap.read x) ∧
      (spaceOf s.pkg addr = .cbuf off → ∃ t : State, exec p.1 s = .next t ∧ GoesOn s t ∧ Retired (inC t) t [] {} ∧
        sets (bank s) (bank t) (off % 0x4000) p.2.1 p.2.2)) ∧
    (let at_ := s.X b + near.signExtend 64
     let one := fun (m m' : Memory) (o : Nat) => (∀ x, x ≠ o → m'.read x = m.read x) ∧
       m'.read o = (if hi then (s.X a).setWidth 4 ++ (m.read o).setWidth 4
         else (m.read o).extractLsb' 4 4 ++ (s.X a).setWidth 4)
     (spaceOf s.pkg at_ = .lm off → ∃ t : State, exec (.st4 a b near hi) s = .next t ∧ GoesOn s t ∧
        Retired (inLm t) t [] {} ∧ one s.here.lm t.here.lm off) ∧
     (spaceOf s.pkg at_ = .abuf off → ∃ t : State, exec (.st4 a b near hi) s = .next t ∧ GoesOn s t ∧
        Retired (inA t) t [] {} ∧ one s.here.abuf t.here.abuf off ∧ t.here.zmap = s.here.zmap) ∧
     (spaceOf s.pkg at_ = .cbuf off → ∃ t : State, exec (.st4 a b near hi) s = .next t ∧ GoesOn s t ∧
        Retired (inC t) t [] {} ∧ one (bank s) (bank t) (off % 0x4000)))

/-- The checks of a memory access in their order (R106, R109, Table 14.1): an address outside every space, and a remote one
of a package outside the domain, trap ACCESS, a misaligned one ALIGN, a space that the use does not admit SPACE (the W buffer
for every form, the A buffer and the C window for AMO, CAS and TRED), each with the address, and nothing is written. -/
def Obligations.MemoryAccessTraps : Prop :=
  ∀ (s : State) (d b c : Reg) (imm : BitVec 11) (near : BitVec 10) (hi dbl ar vec : Bool) (sc : Scope) (op : AmoOp)
    (rop : RedOp) (ty : LaneType), Lone s → s.me.txn = none → s.here.tvec ≠ 0 → ty.isTred = true →
    let at_ := s.X b + imm.signExtend 64
    let size := if dbl then 8 else 4
    let atomics : List (Instr × Word × Nat) := [(.amo op dbl ar d b c, s.X b, size), (.cas dbl ar d b c, s.X b, size),
      (.tred vec rop ty b c, s.X b, if vec then 16 else laneWidth ty / 8)]
    let traps := fun (i : Instr) (cause : Cause) (a : Word) => ∃ t : State, exec i s = .next t ∧
      TrapTaken s t cause a s.me.bundle.here s.here.tvec
    (∀ p ∈ [(.ldB d b imm, at_, 1), (.ldH d b imm, at_, 2), (.ldW d b imm, at_, 4), (.ldD d b imm, at_, 8),
        (.ldnB d b imm, at_, 1), (.ldnH d b imm, at_, 2), (.ldnW d b imm, at_, 4), (.vld d b imm, at_, 16),
        (.stB d b imm, at_, 1), (.stH d b imm, at_, 2), (.stW d b imm, at_, 4), (.stD d b imm, at_, 8),
        (.vst d b imm, at_, 16), (.st4 d b near hi, s.X b + near.signExtend 64, 1), (.lda dbl sc d b, s.X b, size),
        (.stl dbl sc d b, s.X b, size)] ++ atomics,
      (spaceOf s.pkg p.2.1 = .outside → traps p.1 .access p.2.1) ∧
      (∀ r, spaceOf s.pkg p.2.1 = .remote r → s.inDomain r.place.pkg = false → traps p.1 .access p.2.1) ∧
      (∀ off, spaceOf s.pkg p.2.1 = .lm off ∨ spaceOf s.pkg p.2.1 = .wbuf off → p.2.1.toNat % p.2.2 ≠ 0 →
        traps p.1 .align p.2.1) ∧
      (∀ off, spaceOf s.pkg p.2.1 = .wbuf off → p.2.1.toNat % p.2.2 = 0 → traps p.1 .space p.2.1)) ∧
    ∀ p ∈ atomics, ∀ off, spaceOf s.pkg p.2.1 = .abuf off ∨ spaceOf s.pkg p.2.1 = .cbuf off → p.2.1.toNat % p.2.2 = 0 →
      traps p.1 .space p.2.1

/-- LDA reads and then acquires; STL releases and then stores; with the write buffer empty and no access on its way a
release waits for nothing (R156, R157, R323, R362). FENCE and FENCEX, L1WB and L1INV with nothing to wait for: a fence
that acquires drops the L1 lines from GROUP up, a releasing one changes nothing; FENCEX drops what its second class
holds; L1INV empties the L1, L1WB does not (R159, R160, R312, R313, R320). A release from GROUP up waits for a posted
access, and a release to the system, or a FENCEX to the host's class whatever its scope, for a zero-length read on each
link that carried the slot's writes to the host window (R157, R160, R244). What such a read is on a link that has trained as
CXL is the model's choice (log 63). -/
def Obligations.AcquiresReleasesAndFences : Prop :=
  (∀ (s : State) (dbl : Bool) (sc : Scope) (a b d : Reg) (off : Nat), Lone s →
    let n := if dbl then 8 else 4
    spaceOf s.pkg (s.X b) = .lm off → (s.X b).toNat % n = 0 →
    (s.me.writesInto (.x d) → s.here.lmBad off n = false → ∃ t : State, exec (.lda dbl sc d b) s = .next t ∧
      Retired (s.acquired sc) t [.x d] {} ∧ GoesOn s t ∧ t.me.settled (.x d) =
        xValue d ((BitVec.ofNat (8 * n) (natOfBytes (s.here.lm.bytes off n))).signExtend 64)) ∧
    (s.here.wb = [] → s.posted = false → s.me.hostLinks = [] → ∃ t : State, exec (.stl dbl sc a b) s = .next t ∧
      Retired (s.withLmOf t) t [] {} ∧ GoesOn s t ∧
      ∀ x, t.here.lm.read x = if off ≤ x ∧ x < off + n then BitVec.ofNat 8 ((s.X a).toNat / 256 ^ (x - off))
        else s.here.lm.read x)) ∧
  (∀ (s : State) (kind : FenceKind) (sc : Scope) (ca cb : PathClass), Lone s → s.here.wb = [] →
    (s.posted = false → s.me.hostLinks = [] → ∃ t : State, exec (.fence kind sc) s = .next t ∧ GoesOn s t ∧
      Retired (if kind = .rel then s else s.acquired sc) t [] {}) ∧
    ((ca = .lsu → s.posted = false ∧ s.me.hostLinks = []) → (ca = .copy → s.here.cq = []) →
      (ca = .matrix → s.here.mq = []) → (ca = .gather → s.here.gq = []) → (ca = .stream → s.me.streams = []) →
      (ca = .mcast → s.fab.sends = [] ∧ ∀ m ∈ s.net, isMcast m.body = false) →
      (∃ t : State, exec (.fencex ca cb sc) s = .next t ∧ GoesOn s t ∧ Retired (match cb with
        | .lsu => if sc = .slot ∨ sc = .core then s else s.modHere (fun k => { k with l1d := [] })
        | .stream => s.modMe (fun u => { u with streams := u.streams.map (fun r => (r.1, { r.2 with ahead := [] })) })
        | _ => s) t [] {})) ∧
    (∃ t : State, exec .l1wb s = .next t ∧ GoesOn s t ∧ Retired s t [] {}) ∧
    (∃ t : State, exec .l1inv s = .next t ∧ GoesOn s t ∧ Retired (s.modHere (fun k => { k with l1d := [] })) t [] {}) ∧
    (s.me.txn = none → s.posted = true → sc ≠ .slot → sc ≠ .core →
      ∀ i ∈ ([.fence .full sc, .fence .rel sc, .fencex .lsu cb sc] : List Instr),
        exec i s = .next (s.modMe (fun u => { u with wait := .stall }))) ∧
    (s.posted = true → exec (.fencex .lsu .host sc) s = .next (s.modMe (fun u => { u with wait := .stall }))) ∧
    (s.me.txn = none → s.posted = false → s.me.hostLinks ≠ [] →
      ∀ i ∈ ([.fence .rel .sys, .fence .full .sys, .fencex .lsu .host sc] : List Instr),
        exec i s = .next (({ s with fab := { s.fab with window := s.fab.window ++ s.me.hostLinks.map (fun l =>
          (l, if l ∈ s.fab.cxl then .rdCurr 0 0 else .memRead 0 0)) } } : State).modMe (fun u => { u with wait := .hostFence }))))

/-- AMO, CAS and TRED on own LM are one step (R286, R300, R371): the old value goes to the register, sign- or
zero-extended as Table 14.4 says, and the new value to exactly the bytes accessed; a CAS that does not match writes
nothing; the floating forms add lane by lane; with fn[0] the step also releases and acquires. -/
def Obligations.AtomicsOnOwnMemory : Prop :=
  ∀ (s : State) (dbl ar vec : Bool) (a b c d : Reg) (rop : RedOp) (ty : LaneType) (off : Nat), Lone s →
    let n := if dbl then 8 else 4
    let old := s.here.lm.num off n
    let v := (s.X c).toNat % 2 ^ (8 * n)
    let sgn := fun x => (BitVec.ofNat (8 * n) x).toInt
    let from_ := fun (t : State) => (if ar then s.modHere (fun k => { k with l1d := [] }) else s).withLmOf t
    let sets := fun (t : State) (bs : List Byte) => ∀ x, t.here.lm.read x =
      if off ≤ x ∧ x < off + bs.length then bs.getD (x - off) 0 else s.here.lm.read x
    spaceOf s.pkg (s.X b) = .lm off → (ar = true → s.here.wb = [] ∧ s.posted = false) →
    (s.here.lmBad off n = false → (s.X b).toNat % n = 0 → s.me.writesInto (.x d) → ∀ p ∈ ([(.add, (old + v) % 2 ^ (8 * n), true), (.and, old &&& v, true), (.or, old ||| v, true),
        (.xor, old ^^^ v, true), (.min, if sgn v < sgn old then v else old, true),
        (.max, if sgn old < sgn v then v else old, true), (.minn, min old v, false), (.maxn, max old v, false),
        (.swp, v, true), (.faddFp32, natOfBytes (reduceBytes .add .fp32 (bytesOfNat n old) (bytesOfNat n v)), false),
        (.faddFp16, natOfBytes (reduceBytes .add .fp16 (bytesOfNat n old) (bytesOfNat n v)), false),
        (.faddBf16, natOfBytes (reduceBytes .add .bf16 (bytesOfNat n old) (bytesOfNat n v)), false)] :
        List (AmoOp × Nat × Bool)),
      ∃ t : State, exec (.amo p.1 dbl ar d b c) s = .next t ∧ Retired (from_ t) t [.x d] {} ∧ GoesOn s t ∧
        sets t (bytesOfNat n p.2.1) ∧ t.me.settled (.x d) = xValue d (if p.2.2 then
          (BitVec.ofNat (8 * n) old).signExtend 64 else (BitVec.ofNat (8 * n) old).zeroExtend 64)) ∧
    (s.here.lmBad off n = false → (s.X b).toNat % n = 0 → s.me.writesInto (.x a) → ∃ t : State, exec (.cas dbl ar a b c) s = .next t ∧ Retired (from_ t) t [.x a] {} ∧ GoesOn s t ∧
      sets t (if old = (s.X a).toNat % 2 ^ (8 * n) then bytesOfNat n v else bytesOfNat n old) ∧
      t.me.settled (.x a) = xValue a ((BitVec.ofNat (8 * n) old).signExtend 64)) ∧
    (let w := if vec then 16 else laneWidth ty / 8
     let new := bytesOfNat w (if vec then (s.Vc c).toNat else (s.X c).toNat)
     ar = false → ty.isTred = true → (s.X b).toNat % w = 0 → ∃ t : State, exec (.tred vec rop ty b c) s = .next t ∧
       Retired (from_ t) t [] {} ∧ GoesOn s t ∧ sets t (reduceBytes rop ty (s.here.lm.bytes off w) new))

/-- SWSET on own LM sets the target, clears the count and the status, and keeps the generation; SWWAIT on a generation
that differs returns it and acquires, and on an equal one waits; WAITEV goes on when the doubleword is not zero and
waits when it is (R114, R116, R364, R365, R398). A raise at the port of a sync word (R114): the count grows by n
modulo 2^32; when it reaches a nonzero target, the target is taken off once, the generation grows by one modulo 2^32,
and an excess sets OVERSHOOT; nothing else of LM changes. BAR's arrival on a word of own LM sets the target to n and
raises by 1; the arrival that completes the generation goes on and acquires, any other one waits with the generation
it found; n = 0 traps ILLEGAL (R291, R292). -/
def Obligations.SyncWordsAndBarriers : Prop :=
  (∀ (s : State) (a b : Reg) (off : Nat), Lone s → s.me.txn = none →
    let gen := s.here.lm.num (off + 8) 4
    (spaceOf s.pkg (s.X b) = .lm off → (s.X b).toNat % 16 = 0 →
      (∃ t : State, exec (.swset a b) s = .next t ∧ GoesOn s t ∧
        Retired (s.withLmOf t) t [] {} ∧
        t.here.lm.num off 4 = (s.X a).toNat % 2 ^ 32 ∧ t.here.lm.num (off + 4) 4 = 0 ∧
        t.here.lm.num (off + 8) 4 = gen ∧ t.here.lm.num (off + 12) 4 = 0x1FF00000 ∧
        ∀ x, x < off ∨ off + 16 ≤ x → t.here.lm.read x = s.here.lm.read x) ∧
      (s.here.lmBad (off + 8) 4 = false → gen ≠ (s.X a).toNat % 2 ^ 32 → s.me.writesInto (.x a) → ∃ t : State, exec (.swwait a b) s = .next t ∧ GoesOn s t ∧
        Retired (s.acquired .domain) t [.x a] {} ∧ t.me.settled (.x a) = xValue a (BitVec.ofNat 64 gen)) ∧
      (s.here.lmBad (off + 8) 4 = false → gen = (s.X a).toNat % 2 ^ 32 → exec (.swwait a b) s =
        .next (s.modMe (fun u => { u.takePort s.cycle 1 with wait := .swwait a off (BitVec.ofNat 32 gen) })))) ∧
    (spaceOf s.pkg (s.X a) = .lm off → (s.X a).toNat % 8 = 0 →
      (s.here.lm.word off ≠ 0 → ∃ t : State, exec (.waitev a) s = .next t ∧ GoesOn s t ∧ Retired s t [] {}) ∧
      (s.here.lm.word off = 0 → exec (.waitev a) s =
        .next ((s.modHere (fun k => { k with evSeen := k.evSeen.filter (· != s.cur.2) })).modMe
          (fun u => { u.takePort s.cycle 1 with wait := .waitev off }))))) ∧
  (∀ (lm : Memory) (o n : Nat),
    let m := raiseLm lm o n
    let target := lm.num o 4
    let sum := (lm.num (o + 4) 4 + n) % 2 ^ 32
    let full := target ≠ 0 ∧ target ≤ sum
    m.num o 4 = target ∧ (full → m.num (o + 4) 4 = sum - target) ∧ (¬ full → m.num (o + 4) 4 = sum) ∧
    (full → m.num (o + 8) 4 = (lm.num (o + 8) 4 + 1) % 2 ^ 32) ∧ (¬ full → m.num (o + 8) 4 = lm.num (o + 8) 4) ∧
    ((m.read (o + 15)).getLsbD 7 = ((lm.read (o + 15)).getLsbD 7 || decide (full ∧ target < sum))) ∧
    (∀ x, x < o + 4 ∨ o + 12 ≤ x → x ≠ o + 15 → m.read x = lm.read x)) ∧
  (∀ (s : State) (sc : Scope) (a b : Reg) (off : Nat), Lone s → s.me.txn = none → s.me.barWait = false →
    s.here.wb = [] → s.posted = false → s.me.hostLinks = [] → s.here.barArrivals = [] →
    spaceOf s.pkg (s.X b) = .lm off → (s.X b).toNat % 16 = 0 →
    let n := (s.X a).toNat % 2 ^ 32
    let count := (s.here.lm.num (off + 4) 4 + 1) % 2 ^ 32
    let lm := raiseLm (s.here.lm.setNum off 4 n) off 1
    (n ≠ 0 → n ≤ count → ∃ t : State, exec (.bar sc a b) s = .next t ∧ t.here.lm = lm ∧ GoesOn s t ∧ t.me.barWait = false ∧
      t.me.wait = .none ∧ t.me.retired = s.me.retired + 1 ∧ (∀ r, t.me.settled r = s.me.settled r) ∧ t.mem = s.mem ∧
      t.here.l1d = if sc = .slot ∨ sc = .core then s.here.l1d else []) ∧
    (n ≠ 0 → count < n → ∃ t : State, exec (.bar sc a b) s = .next t ∧ t.here.lm = lm ∧ t.me.wait = .barrier sc ∧
      t.me.barWait = true ∧ t.me.barAddr = s.X b ∧ t.me.barGen = BitVec.ofNat 32 (s.here.lm.num (off + 8) 4) ∧
      t.me.retired = s.me.retired ∧ t.me.pc = s.me.pc) ∧
    (n = 0 → s.here.tvec ≠ 0 → ∃ t : State, exec (.bar sc a b) s = .next t ∧
      TrapTaken s t .illegal 0 s.me.bundle.here s.here.tvec))

/-! ### Memory: the global space, other cores, transactions -/

/-- Loads and stores of global memory homed in this package, where the leaf admits them and no transaction, poison or
host copy stands in the way (R117, R119, R121, R321, R359, R384, R396). An uncached load reads the home, a cached one
with an empty write buffer reads the home's bytes and leaves the line in the L1; neither changes memory. An uncached
store is performed at once on exactly its bytes; a cached one waits in the write buffer, and memory is still as it was.
An entry of the write buffer that nothing keeps back is performed at its home: the buffer loses the entry, and each
byte of device memory is the last one stored to it, or as it was (R117). An atomic on global memory homed here is one
step at the home: the old value goes to the register, the new value to exactly its bytes (R122, R286, R300). When a
buffered store drains is the model's choice (log 6). -/
def Obligations.GlobalMemory : Prop :=
  (∀ (s : State) (a b d : Reg) (imm : BitVec 11) (t : TlbEntry) (off n : Nat) (unc : Bool) (use : Use), Lone s →
    let va := s.X b + imm.signExtend 64
    let pa := t.phys va.toNat
    spaceOf s.pkg va = .global → s.leafFor use va = some t → use.allowed t = true → s.homeOf pa t.uncached = .own off unc →
    s.me.txn = none → s.txns = [] → s.contained s.cur.1 s.cur.2 = false → va.toNat % n = 0 → s.memBad off n = false →
    s.hostClear off = true →
    let ext := fun (sgn : Bool) => if sgn then (BitVec.ofNat (8 * n) (s.mem.num off n)).signExtend 64
      else (BitVec.ofNat (8 * n) (s.mem.num off n)).zeroExtend 64
    (use = .load → unc = true ∨ (s.here.l1d = [] ∧ s.here.wb = [] ∧ pa % 64 = va.toNat % 64) →
      ∀ p ∈ ([(.ldB d b imm, 1, .x d, xValue d (ext true)), (.ldH d b imm, 2, .x d, xValue d (ext true)),
        (.ldW d b imm, 4, .x d, xValue d (ext true)), (.ldD d b imm, 8, .x d, xValue d (ext false)),
        (.ldnB d b imm, 1, .x d, xValue d (ext false)), (.ldnH d b imm, 2, .x d, xValue d (ext false)),
        (.ldnW d b imm, 4, .x d, xValue d (ext false)), (.vld d b imm, 16, .v d, BitVec.ofNat 128 (s.mem.num off n))] :
        List (Instr × Nat × RegName × Vec)),
      n = p.2.1 → s.me.writesInto p.2.2.1 → ∃ u, exec p.1 s = .next u ∧ GoesOn s u ∧
        u.me.settled p.2.2.1 = p.2.2.2 ∧ (∀ r, r ≠ p.2.2.1 → u.me.settled r = s.me.settled r) ∧ u.mem = s.mem ∧
        u.hostMem = s.hostMem ∧ u.here.lm = s.here.lm ∧ u.me.system = s.me.system ∧
        (unc = false → u.here.l1d.any (fun l => l.covers (s.asidOf s.cur.1) va.toNat) = true)) ∧
    (∀ p ∈ ([(.stB a b imm, 1, .store, (s.X a).toNat), (.stH a b imm, 2, .store, (s.X a).toNat),
        (.stW a b imm, 4, .store, (s.X a).toNat), (.stD a b imm, 8, .queueStore, (s.X a).toNat),
        (.vst a b imm, 16, .queueStore, (s.Vc a).toNat)] : List (Instr × Nat × Use × Nat)), n = p.2.1 → use = p.2.2.1 →
      (unc = true → ∃ u, exec p.1 s = .next u ∧ GoesOn s u ∧ (∀ r, u.me.settled r = s.me.settled r) ∧
        u.hostMem = s.hostMem ∧ u.here.lm = s.here.lm ∧ ∀ x, u.mem.read x =
          if off ≤ x ∧ x < off + n then BitVec.ofNat 8 (p.2.2.2 / 256 ^ (x - off)) else s.mem.read x) ∧
      (unc = false → s.here.wb = [] → ∃ u, exec p.1 s = .next u ∧ GoesOn s u ∧
        (∀ r, u.me.settled r = s.me.settled r) ∧ u.me.system = s.me.system ∧ u.mem = s.mem ∧ u.hostMem = s.hostMem ∧
        u.here.lm = s.here.lm ∧ ∃ e, u.here.wb = [e] ∧ e.pa = pa / 64 * 64 ∧ e.asid = s.asidOf s.cur.1 ∧
          e.stores = (List.range n).map (fun k => (pa + k, BitVec.ofNat 8 (p.2.2.2 / 256 ^ k)))))) ∧
  ((∀ (s : State) (c k : Nat) (e : WbEntry), (s.core c).wb[k]? = some e → s.hostClear (e.pa % 2 ^ 42) = true → s.txns = [] →
    ∃ t : State, exec (.writeBufferDrain c k) s = .next t ∧ (t.core c).wb = (s.core c).wb.eraseIdx k ∧ t.hostMem = s.hostMem ∧
      ∀ x, t.mem.read x = (((e.stores.filter (fun p => p.1 % 2 ^ 42 == x)).getLast?).map Prod.snd).getD (s.mem.read x)) ∧
  (∀ (s : State) (dbl : Bool) (a b c d : Reg) (t : TlbEntry) (off : Nat) (unc : Bool), Lone s →
    let n := if dbl then 8 else 4
    let va := s.X b
    spaceOf s.pkg va = .global → s.leafFor .atomic va = some t → t.r = true → t.w = true → t.pa / 2 ^ 55 % 2 = 0 →
    s.homeOf (t.phys va.toNat) t.uncached = .own off unc → s.me.txn = none → s.txns = [] →
    s.contained s.cur.1 s.cur.2 = false → va.toNat % n = 0 → s.memBad off n = false → s.hostClear off = true →
    s.here.wb = [] →
    let old := s.mem.num off n
    let wr := fun (u : State) (v : Nat) => ∀ x, u.mem.read x =
      if off ≤ x ∧ x < off + n then BitVec.ofNat 8 (v / 256 ^ (x - off)) else s.mem.read x
    (s.me.writesInto (.x d) → ∀ p ∈ ([(.add, old + (s.X c).toNat), (.swp, (s.X c).toNat),
        (.and, old &&& (s.X c).toNat)] : List (AmoOp × Nat)),
      ∃ u, exec (.amo p.1 dbl false d b c) s = .next u ∧ GoesOn s u ∧ wr u p.2 ∧
        u.me.settled (.x d) = xValue d ((BitVec.ofNat (8 * n) old).signExtend 64) ∧
        (∀ r, r ≠ .x d → u.me.settled r = s.me.settled r)) ∧
    (s.me.writesInto (.x a) → ∃ u, exec (.cas dbl false a b c) s = .next u ∧ GoesOn s u ∧
      wr u (if old = (s.X a).toNat % 2 ^ (8 * n) then (s.X c).toNat else old) ∧
      u.me.settled (.x a) = xValue a ((BitVec.ofNat (8 * n) old).signExtend 64))))

/-- Another core's LM (R109, R111, R112): a load leaves as a message and the bundle waits; a store within the package is
posted; at the target's port the access waits while the port is busy with its core's own traffic (R9), and is then one step;
the answer's bytes come back into the register. -/
def Obligations.RemoteMemory : Prop :=
  (∀ (s : State) (a b d : Reg) (imm : BitVec 11) (r : RemoteAddr) (n : Nat), Lone s →
    let va := s.X b + imm.signExtend 64
    let msg := fun (op : RemoteOp) (w : Waiter) => s.msgFrom s.cur.1 s.cur.2 r.place (.access op r.off w)
    spaceOf s.pkg va = .remote r → s.remoteOk s.cur.1 va r true = true → s.me.txn = none → r.place.pkg = s.pkg →
    s.contained s.cur.1 s.cur.2 = false → va.toNat % 8 = 0 → s.siteOf (s.here.launch.getD 0) r.place.lcn = some n →
    n ≠ s.cur.1 → r.raise = false →
    (∃ t : State, exec (.ldD d b imm) s = .next t ∧
      t.net = s.net ++ [{ msg (.load 8) (.slot s.cur.2) with ring := dieOf s.cur.1, due := s.cycle + hopCycles s.cur.1 n }] ∧
      t.me.wait = .answer (.x d 8 false) va none ∧ t.me.pc = s.me.pc ∧ t.me.retired = s.me.retired) ∧
    (∃ t : State, exec (.stD a b imm) s = .next t ∧ GoesOn s t ∧ Retired { s with net := s.net ++
      [{ msg (.store (bytesOfNat 8 (s.X a).toNat) none []) .none with
        va, ring := dieOf s.cur.1, due := s.cycle + hopCycles s.cur.1 n }] } t [] {})) ∧
  (∀ (s : State) (k n off i : Nat) (m : Msg) (bs : List Byte), s.net[k]? = some m → s.inOrder k m = true → m.due ≤ s.cycle →
    s.launchFor m ≠ none → s.takerOf m = some n → m.src.pkg = s.pkg →
    (∀ op w, m.body = .access op off w → s.portBusy n = true → n ≠ m.site → exec (.remoteAccess k) s = .next s) ∧
    (s.portBusy n = false ∨ n = m.site →
    (m.body = .access (.store bs none []) off .none → ∃ t : State, exec (.remoteAccess k) s = .next t ∧
      t.net = s.net.eraseIdx k ∧ t.mem = s.mem ∧ (∀ c, c ≠ n → t.core c = s.core c) ∧
      ∀ x, (t.core n).lm.read x =
        if off ≤ x ∧ x < off + bs.length then bs.getD (x - off) 0 else (s.core n).lm.read x) ∧
    (m.body = .access (.load 8) off (.slot i) → (s.core n).lmBad off 8 = false →
      ∃ t m', exec (.remoteAccess k) s = .next t ∧ t.net = s.net.eraseIdx k ++ [m'] ∧ m'.dst = m.src ∧ m'.key = m.key ∧
        m'.body = .response (.slot i) ((s.core n).lm.bytes off 8) false false ∧
        t.agenda = .remoteResponse (s.net.length - 1) :: s.agenda.map (Instr.afterMsg k) ∧ (t.core n).lm = (s.core n).lm))) ∧
  (∀ (s : State) (k n i : Nat) (m : Msg) (d : Reg) (va : Word) (bs : List Byte), s.net[k]? = some m →
    s.inOrder k m = true → s.launchFor m ≠ none → s.takerOf m = some n →
    m.body = .response (.slot i) bs false false → (s.slot n i).wait = .answer (.x d 8 false) va none →
    (s.slot n i).bundle.popPorts = [] → (s.slot n i).bundle.popStreams = [] → (s.slot n i).bundle.stash = none →
    (s.slot n i).writesInto (.x d) → i < 4 →
    ∃ t : State, exec (.remoteResponse k) s = .next t ∧ t.net = s.net.eraseIdx k ∧ (t.slot n i).wait = .none ∧
      (t.slot n i).retired = (s.slot n i).retired + 1 ∧ (t.slot n i).pc = (s.slot n i).advance.pc ∧
      (t.slot n i).settled (.x d) = xValue d (BitVec.ofNat 64 (natOfBytes bs)) ∧
      (∀ r, r ≠ .x d → (t.slot n i).settled r = (s.slot n i).settled r) ∧ t.mem = s.mem)

/-- TBEGIN, TEND, TABORT and TSKIP (R168, R169, R175, R179, R180, R366, R367, R368, R372): the outermost TBEGIN keeps
the registers, their poison marks and the target and forms or keeps the age; nested ones count the depth; an abort restores the registers,
keeps the age and goes to the target; a commit writes exactly the bytes the transaction wrote and ends it; TSKIP of the
frontier advances it. COMMIT: a slot that waits in TEND with an ordered transaction whose turn has come writes its
bytes, ends it, and moves the launch's frontier on; one whose turn has not come keeps waiting (R179, R180). That the shadow
holds the landed writes is the model's reading (log 21). Inside a transaction, to memory of type 0 homed here: a load registers
its tile as read and returns the transaction's own bytes over memory's, and a store registers its tile as written; AMO and CAS
do both; none of them changes memory (R170, R171); a TRED is pending, or is applied at once to the bytes of a tile that the
transaction has written (R174, R178). A request that meets an older transaction aborts its own with CONFLICT; younger ones that
it meets abort, and a committing one is waited for (R174, R175). A plain access aborts what it meets with PLAINHIT and sees
memory as it was; it waits for a commit (R176). The operations of R172 abort the transaction with ILLEGAL. -/
def Obligations.Transactions : Prop :=
  (∀ (s : State) (a : Reg) (off : BitVec 11) (code : BitVec 8), Lone s →
    (s.me.txn = none → s.here.wb = [] → a = 0 ∨ s.X a ≠ 0 → ∃ t x, exec (.tbegin a off) s = .next t ∧ GoesOn s t ∧
      t.me.txn = some x ∧ x.target = s.me.bundle.here + 4 * off.signExtend 64 ∧ x.depth = 1 ∧
      x.stamp = (if a = 0 then none else some (s.X a)) ∧ (∀ r : Reg, x.shadowX.get r.toFin = s.me.landAll.x.get r.toFin) ∧
      (∀ r : Reg, x.shadowV.get r.toFin = s.me.landAll.v.get r.toFin) ∧ x.reads = [] ∧ x.writes = [] ∧ x.spec = [] ∧
      x.shadowPX = s.me.landAll.poisonX ∧ x.shadowPV = s.me.landAll.poisonV ∧
      t.me.tcode = 0 ∧ t.me.tabort = 0 ∧ t.me.tage ≠ none ∧ (s.me.tage ≠ none → t.me.tage = s.me.tage) ∧
      (∀ r, t.me.settled r = s.me.settled r) ∧ t.mem = s.mem ∧ t.here.l1d = []) ∧
    (s.me.txn = none → (∃ t : State, exec (.tabort code) s = .next t ∧ GoesOn s t ∧ Retired s t [] {}) ∧
      (s.here.tvec ≠ 0 → ∃ t : State, exec .tend s = .next t ∧
        TrapTaken s t .illegal (s.me.bundle.word.setWidth 64) s.me.bundle.here s.here.tvec)) ∧
    (∀ x, s.me.txn = some x →
      (x.depth < 7 → ∃ t : State, exec (.tbegin a off) s = .next t ∧ GoesOn s t ∧
        Retired (s.modMe (fun u => { u with txn := some { x with depth := x.depth + 1 } })) t [] {}) ∧
      (∃ t : State, exec (.tabort code) s = .next t ∧ TxnAborted s t x .explicit code.toNat) ∧
      (7 ≤ x.depth → ∃ t : State, exec (.tbegin a off) s = .next t ∧ TxnAborted s t x .nest 0) ∧
      (1 < x.depth → ∃ t : State, exec .tend s = .next t ∧ GoesOn s t ∧
        Retired (s.modMe (fun u => { u with txn := some { x with depth := x.depth - 1 } })) t [] {}) ∧
      (x.depth ≤ 1 → s.posted = false → s.here.wb = [] → x.stamp = none → x.pendRed = [] → x.held = [] → x.committing = false → s.txnClear x = true →
        ∃ t : State, exec .tend s = .next t ∧ GoesOn s t ∧ t.me.txn = none ∧ t.me.tage = none ∧ t.me.tabort = 0 ∧
          (∀ r, t.me.settled r = s.me.settled r) ∧ t.hostMem = s.hostMem ∧
          ∀ y, t.mem.read y = (((x.spec.filter (fun p => p.1 == y)).getLast?).map Prod.snd).getD (s.mem.read y))) ∧
    (∀ l x, s.here.launch = some l → find s.launches l = some x → x.skipped = [] → s.X a = x.front →
      ∃ t : State, exec (.tskip a) s = .next t ∧ GoesOn s t ∧ Retired { s with launches := t.launches } t [] {} ∧
        (find t.launches l).map Launch.front = some (x.front + 1)) ∧
    (∀ l x, s.here.launch = some l → find s.launches l = some x → (s.X a).toNat < x.front.toNat →
      ∃ t : State, exec (.tskip a) s = .next t ∧ GoesOn s t ∧ Retired s t [] {})) ∧
  (∀ (s : State) (c i l : Nat) (y : Launch) (x : Txn) (stamp : Word), i < 4 → (s.slot c i).wait = .tend →
    (s.slot c i).txn = some x → x.stamp = some stamp → (s.core c).launch = some l → find s.launches l = some y →
    x.committing = false →
    (stamp = y.front → s.postedBy c i = false → (s.core c).wb = [] → y.skipped = [] → x.pendRed = [] → x.held = [] → s.txnClear x = true →
      (s.slot c i).bundle.popPorts = [] → (s.slot c i).bundle.popStreams = [] → (s.slot c i).bundle.stash = none →
      ∃ t : State, exec (.commit c i) s = .next t ∧ (t.slot c i).txn = none ∧ (t.slot c i).wait = .none ∧
        (find t.launches l).map Launch.front = some (y.front + 1) ∧
        ∀ z, t.mem.read z = (((x.spec.filter (fun p => p.1 == z)).getLast?).map Prod.snd).getD (s.mem.read z)) ∧
    (y.front.toNat < stamp.toNat → ∃ t : State, exec (.commit c i) s = .next t ∧ (t.slot c i).wait = .tend ∧
      (t.slot c i).txn = some x ∧ t.mem = s.mem)) ∧
  (∀ (s : State) (a b c d : Reg) (imm : BitVec 11) (t : TlbEntry) (off n : Nat) (use : Use) (va : Word) (x : Txn), Lone s →
    spaceOf s.pkg va = .global → s.leafFor use va = some t → use.allowed t = true → t.uncached = false →
    s.homeOf (t.phys va.toNat) false = .own off false → s.me.txn = some x → s.contained s.cur.1 s.cur.2 = false →
    va.toNat % n = 0 → off % n = 0 → s.loadBad off n false = false →
    let tile := off / 512
    let seen := fun (k : Nat) => (find x.spec (off + k)).getD (s.mem.read (off + k))
    let got := natOfBytes ((List.range n).map seen)
    let me : Nat × Nat × Txn := (s.cur.1, s.cur.2, x)
    let fits := fun (u : State) => tile ∈ x.dirty ∨ (x.dirty.length < 256 ∧
      ((u.txns.map (fun y => (y.2.2.dirty.filter (fun u => tileDie u == tileDie tile)).length)).sum) < Config.versionedTiles)
    let wins := (s.hits tile .write (some s.cur)).foldl (fun s y => s.abortTxn y.1 y.2.1 .conflict 0) s
    let hasRead : Txn := { x with reads := if tile ∈ x.reads then x.reads else x.reads ++ [tile] }
    let writes := fun (u : State) (v : Nat) => ∃ y, u.me.txn = some y ∧ tile ∈ y.writes ∧ y.target = x.target ∧
      y.shadowX = x.shadowX ∧ y.held = x.held ∧ ∀ z, find y.spec z =
        if off ≤ z ∧ z < off + n then some (BitVec.ofNat 8 (v / 256 ^ (z - off))) else find x.spec z
    let still := fun (u : State) => GoesOn s u ∧ u.mem = s.mem ∧ u.hostMem = s.hostMem ∧ u.here.lm = s.here.lm ∧ u.here.wb = s.here.wb
    let ext := fun (sgn : Bool) => if sgn then (BitVec.ofNat (8 * n) got).signExtend 64 else (BitVec.ofNat (8 * n) got).zeroExtend 64
    let loads : List (Instr × Nat × RegName × Vec) := [(.ldB d b imm, 1, .x d, xValue d (ext true)),
      (.ldH d b imm, 2, .x d, xValue d (ext true)), (.ldW d b imm, 4, .x d, xValue d (ext true)),
      (.ldD d b imm, 8, .x d, xValue d (ext false)), (.ldnB d b imm, 1, .x d, xValue d (ext false)),
      (.ldnH d b imm, 2, .x d, xValue d (ext false)), (.ldnW d b imm, 4, .x d, xValue d (ext false)),
      (.vld d b imm, 16, .v d, BitVec.ofNat 128 got)]
    let stores : List (Instr × Nat × Use × Nat) := [(.stB a b imm, 1, .store, (s.X a).toNat),
      (.stH a b imm, 2, .store, (s.X a).toNat), (.stW a b imm, 4, .store, (s.X a).toNat),
      (.stD a b imm, 8, .queueStore, (s.X a).toNat), (.vst a b imm, 16, .queueStore, (s.Vc a).toNat)]
    (va = s.X b + imm.signExtend 64 → use = .load → (∀ r ∈ x.reds, r.1 ≠ tile) →
      (s.hits tile .read (some s.cur) = [] → tile ∈ x.reads ∨ x.reads.length < 1024 → ∀ p ∈ loads, n = p.2.1 →
        s.me.writesInto p.2.2.1 → ∃ u : State, exec p.1 s = .next u ∧ still u ∧ u.me.settled p.2.2.1 = p.2.2.2 ∧
          (∀ r, r ≠ p.2.2.1 → u.me.settled r = s.me.settled r) ∧
          u.me.txn = some hasRead) ∧
      (s.hits tile .read (some s.cur) = [] → tile ∉ x.reads → 1024 ≤ x.reads.length → ∀ p ∈ loads, n = p.2.1 →
        ∃ u : State, exec p.1 s = .next u ∧ u.me.txn = none ∧ u.me.tabort = 2 ∧ u.me.pc = x.target)) ∧
    (va = s.X b + imm.signExtend 64 → (∀ r ∈ x.reds, r.1 ≠ tile) → ∀ p ∈ stores, n = p.2.1 → use = p.2.2.1 →
      (s.hits tile .write (some s.cur) = [] → fits s → ∃ u : State, exec p.1 s = .next u ∧ still u ∧
        (∀ r, u.me.settled r = s.me.settled r) ∧ writes u p.2.2.2) ∧
      (tile ∉ x.writes → (∃ y ∈ s.hits tile .write (some s.cur), s.older y me = true) →
        ∃ u : State, exec p.1 s = .next u ∧ u.me.txn = none ∧ u.me.tabort = 1 ∧ u.me.tcode = 0 ∧ u.me.pc = x.target ∧
          u.me.x = x.shadowX ∧ u.mem = s.mem) ∧
      (tile ∉ x.writes → (∀ y ∈ s.hits tile .write (some s.cur), s.older y me = false) →
        (∃ y ∈ s.hits tile .write (some s.cur), y.2.2.committing = true) →
          ∃ u : State, exec p.1 s = .next u ∧ u.me.wait = .stall ∧ u.me.txn = some x ∧ u.mem = s.mem) ∧
      (tile ∉ x.writes → fits wins → (∀ y ∈ s.hits tile .write (some s.cur), s.older y me = false ∧ y.2.2.committing = false) →
        ∃ u : State, exec p.1 s = .next u ∧ still u ∧ writes u p.2.2.2 ∧ ∀ y ∈ s.hits tile .write (some s.cur),
          (s.slot y.1 y.2.1).txn = some y.2.2 → OtherAborted (u.slot y.1 y.2.1) y.2.2 .conflict)) ∧
    (∀ dbl : Bool, va = s.X b → use = .atomic → t.pa / 2 ^ 55 % 2 = 0 → n = (if dbl then 8 else 4) →
      (∀ r ∈ x.reds, r.1 ≠ tile) → s.hits tile .write (some s.cur) = [] → s.hits tile .read (some s.cur) = [] →
      fits (s.modMe (fun u => { u with txn := some hasRead })) → tile ∈ x.reads ∨ x.reads.length < 1024 →
      (s.me.writesInto (.x d) → ∃ u : State, exec (.amo .add dbl false d b c) s = .next u ∧ still u ∧
        writes u (got + (s.X c).toNat) ∧ u.me.settled (.x d) = xValue d (ext true)) ∧
      (s.me.writesInto (.x a) → got = (s.X a).toNat % 2 ^ (8 * n) → ∃ u : State, exec (.cas dbl false a b c) s = .next u ∧
        still u ∧ writes u (s.X c).toNat ∧ u.me.settled (.x a) = xValue a (ext true)) ∧
      (s.me.writesInto (.x a) → got ≠ (s.X a).toNat % 2 ^ (8 * n) → ∃ u : State, exec (.cas dbl false a b c) s = .next u ∧
        still u ∧ u.me.txn = some hasRead ∧
        u.me.settled (.x a) = xValue a (ext true))) ∧
    (∀ (vec : Bool) (op : RedOp) (ty : LaneType), va = s.X b → use = .atomic → t.pa / 2 ^ 55 % 2 = 0 → ty.isTred = true →
      n = (if vec then 16 else laneWidth ty / 8) → s.hits tile (.red op ty) (some s.cur) = [] →
      let v := bytesOfNat n (if vec then (s.Vc c).toNat else (s.X c).toNat)
      (tile ∉ x.writes → fits s → ∃ u : State, exec (.tred vec op ty b c) s = .next u ∧ still u ∧
        (∀ r, u.me.settled r = s.me.settled r) ∧ u.me.txn = some { x with
          reds := if (tile, op, ty) ∈ x.reds then x.reds else x.reds ++ [(tile, op, ty)]
          pendRed := x.pendRed ++ [{ pa := off, op, ty, bytes := v }] }) ∧
      (tile ∈ x.writes → ∃ u : State, exec (.tred vec op ty b c) s = .next u ∧ still u ∧
        writes u (natOfBytes (reduceBytes op ty ((List.range n).map seen) v))))) ∧
  (∀ (s : State) (a b d : Reg) (imm : BitVec 11) (t : TlbEntry) (off : Nat), Lone s → s.me.txn = none →
    let va := s.X b + imm.signExtend 64
    spaceOf s.pkg va = .global → s.homeOf (t.phys va.toNat) t.uncached = .own off true → s.contained s.cur.1 s.cur.2 = false →
    va.toNat % 8 = 0 → s.memBad off 8 = false → s.hostClear off = true →
    ∀ p ∈ ([(.ldD d b imm, .load, .plainRead), (.stD a b imm, .queueStore, .plainWrite)] : List (Instr × Use × Request)),
    s.leafFor p.2.1 va = some t → p.2.1.allowed t = true → s.me.writesInto (.x d) →
    let hit := s.hits (off / 512) p.2.2 none
    ((∀ y ∈ hit, y.2.2.committing = false) → ∃ u : State, exec p.1 s = .next u ∧ GoesOn s u ∧
      (∀ y ∈ hit, (s.slot y.1 y.2.1).txn = some y.2.2 → OtherAborted (u.slot y.1 y.2.1) y.2.2 .plainhit) ∧
      (p.2.1 = .load → u.mem = s.mem ∧ u.me.settled (.x d) = xValue d (s.mem.word off)) ∧
      (p.2.1 = .queueStore → ∀ x, u.mem.read x =
        if off ≤ x ∧ x < off + 8 then BitVec.ofNat 8 ((s.X a).toNat / 256 ^ (x - off)) else s.mem.read x)) ∧
    ((∃ y ∈ hit, y.2.2.committing = true) → ∃ u : State, exec p.1 s = .next u ∧ u.me.wait = .stall ∧ u.mem = s.mem ∧
      ∀ c i, (u.slot c i).txn = (s.slot c i).txn)) ∧
  (∀ (s : State) (a b c d : Reg) (count : BitVec 2) (ch : BitVec 6) (imm : BitVec 11) (sc : Scope) (ty : KeyType) (acc : Bool) (x : Txn),
    Lone s → s.me.txn = some x →
    (∀ i ∈ ([.send a b count ch, .spawn a b, .spawnq a b, .migrate a b, .callat a b ch, .reply a b, .chrd d ch, .bar sc a b,
        .swwait a b, .waitev a, .compose d b, .dlaunch a, .tksend a b c, .bksel ty d b, .mswap acc, .mwait, .endI, .eret,
        .asinv a] : List Instr), ∃ t : State, exec i s = .next t ∧ TxnAborted s t x .illegal 0) ∧
    (∀ r, spaceOf s.pkg (s.X b + imm.signExtend 64) = .remote r → ∀ i ∈ ([.ldD d b imm, .stD a b imm, .vld d b imm] : List Instr),
      ∃ t : State, exec i s = .next t ∧ TxnAborted s t x .illegal 0) ∧
    (∀ q o, spaceOf s.pkg (s.X b + imm.signExtend 64) = .queue q o → ∃ t : State, exec (.stD a b imm) s = .next t ∧
      TxnAborted s t x .illegal 0))

/-! ### Messages -/

/-- SEND, SPAWNQ, CALLAT, REPLY and MIGRATE put one message into the network, addressed and filled as R36, R37, R44 and
R45 say (R298, R334, R349, R353, R357): SPAWNQ counts a child, MIGRATE frees its slot, and the others go on with
nothing else changed. A place word that names no core of the launch traps PLACE with it (R12). A message whose turn it
is enters the queue of its destination that has room: SEND's words and a REPLY's word the channel's FIFO, in order
behind what it holds, SPAWN, MIGRATE and CALL the arrival queue (R36, R38, R39, R42). One without room goes to the oasis,
from which the oldest that fits moves out while none of its sender's to the same destination stands before it (R40, R41);
a full outbound buffer stalls its sender, behind the slots of its core that began to wait before (R48). From 960 entries on the oasis takes only MIGRATE, CALL and REPLY, from 1,024 on
nothing: what it cannot take stays in the sending NI, which offers it again (R40). A message to a context that is saved
or moves waits (R203). A packet to another die that has been blocked for 256 cycles
takes the escape channel (R223); a message that comes to a core whose context has moved is delivered at the new core
(R210, R211). The order in which messages are taken and what of the ring is shown are the model's reading (log 34). -/
def Obligations.MessagesOnTheirWay : Prop :=
  (∀ (s : State) (a b : Reg) (count : BitVec 2) (ch : BitVec 6) (p : Place), Lone s → s.me.txn = none →
    s.contained s.cur.1 s.cur.2 = false → s.here.wb = [] → s.posted = false → p.pkg = s.pkg →
    let xs := fun (from_ n : Nat) => (List.range n).map (fun k => s.X (BitVec.ofNat 5 (from_ + k)))
    let out := fun (body : MsgBody) => { s.msgFrom s.cur.1 s.cur.2 p body with ring := dieOf s.cur.1 }
    let sent := fun (body : MsgBody) => { s with net := s.net ++ [out body] }
    let quiet := fun (u : Slot) => { u with watch := 0, wdogFired := false }
    (s.placeTarget s.cur.1 (s.X a) = some p → s.niTurn s.cur.1 s.cur.2 p = false →
      ∀ i ∈ ([.send a b count ch, .spawnq a b, .callat a b ch] : List Instr), i = .send a b count ch ∨ (s.X b).toNat % 4 = 0 →
        ∃ t : State, exec i s = .next t ∧ t.me.wait = .full .ni ∧ t.me.pc = s.me.pc ∧ t.net = s.net) ∧
    (s.placeTarget s.cur.1 (s.X a) = some p → s.niTurn s.cur.1 s.cur.2 p = true →
      (∃ t : State, exec (.send a b count ch) s = .next t ∧ GoesOn s t ∧ Retired ((sent (.data ch.toNat
        ((xs b.toNat (count.toNat + 1)).map (fun w => ⟨w, false⟩)))).modMe quiet) t [] {}) ∧
      ((s.X b).toNat % 4 = 0 →
        (∃ t : State, exec (.spawnq a b) s = .next t ∧ GoesOn s t ∧
          Retired (((sent (.spawn (s.X b) (xs 10 4) s.me.wid true)).modMe quiet).modHere
            (fun k => { k with children := k.children + 1 })) t [] {}) ∧
        (∃ t : State, exec (.callat a b ch) s = .next t ∧ GoesOn s t ∧ Retired ((sent (.call (s.X b) (xs 10 4) s.me.wid
          (BitVec.ofNat 64 (s.pkg % 2 ^ 13 * 2 ^ 20 + s.here.origin % 2 ^ 14 * 2 ^ 6 + ch.toNat)))).modMe quiet) t [] {}) ∧
        (s.me.inlineDepth = 0 → s.me.cvsize ≤ 1 → s.me.heldMsgs = [] → s.me.parent = none →
          ∃ t : State, exec (.migrate a b) s = .next t ∧ t.me.active = false ∧ t.mem = s.mem ∧ t.here.lm = s.here.lm ∧
            t.net = s.net ++ [out (.migrate (s.X b) (xs 10 8) s.me.wid)]) ∧
        (0 < s.me.inlineDepth → s.me.cvsize ≤ 1 → (s.X 1).toNat % 4 = 0 → ∃ t : State, exec (.migrate a b) s = .next t ∧
          t.me.pc = s.X 1 ∧ Retired ((sent (.migrate (s.X b) (xs 10 8) s.me.wid)).modMe (fun u => { quiet u with
            inlineDepth := s.me.inlineDepth - 1 })) t [] {})) ∧
      ((s.X b).toNat % 4 ≠ 0 → s.here.tvec ≠ 0 → ∀ i ∈ ([.spawn a b, .spawnq a b, .callat a b ch, .migrate a b] : List Instr),
        ∃ t : State, exec i s = .next t ∧ TrapTaken s t .align (s.X b) s.me.bundle.here s.here.tvec)) ∧
    (s.tokenTarget (s.X a) = some p → s.niTurn s.cur.1 s.cur.2 p = true → ∃ t : State, exec (.reply a b) s = .next t ∧ GoesOn s t ∧
      Retired ((sent (.reply ((s.X a).toNat % 2 ^ 6) ⟨s.X b, false⟩)).modMe quiet) t [] {}) ∧
    (s.placeTarget s.cur.1 (s.X a) = none → s.here.tvec ≠ 0 →
      ∀ i ∈ ([.send a b count ch, .spawn a b, .spawnq a b, .callat a b ch, .migrate a b] : List Instr),
      ∃ t : State, exec i s = .next t ∧ TrapTaken s t .place (s.X a) s.me.bundle.here s.here.tvec)) ∧
  (∀ (s : State) (k n : Nat) (m : Msg), s.net[k]? = some m → s.inOrder k m = true → s.launchFor m ≠ none →
    s.takerOf m = some n →
    let into := fun (x : CoreSt) =>
      { s with net := s.net.eraseIdx k, agenda := s.agenda.map (Instr.afterMsg k) }.setCore n x
    let x := s.core n
    let stays : Host.Outcome State Fault Refusal :=
      .next { s with net := modifyNth s.net k (fun m => { m with retried := true }) }
    let arrives := fun (i : Instr) => (∃ ch ws, m.body = .data ch ws ∧ i = .dataMessage k) ∨
      (∃ pc xs wid, m.body = .spawn pc xs wid true ∧ i = .spawnMessage k)
    let urgent := fun (i : Instr) => (∃ ch w, m.body = .reply ch w ∧ i = .replyMessage k) ∨
      (∃ pc xs wid, m.body = .migrate pc xs wid ∧ i = .migrateMessage k) ∨
      (∃ pc xs wid tok, m.body = .call pc xs wid tok ∧ i = .callMessage k)
    (∀ i, (arrives i → 960 ≤ x.oasis.length → exec i s = stays) ∧ (urgent i → 1024 ≤ x.oasis.length → exec i s = stays) ∧
      (arrives i ∧ x.oasis.length < 960 ∨ urgent i ∧ x.oasis.length < 1024 → x.oasis ≠ [] →
        exec i s = .next (into ({ x with oasis := x.oasis ++ [{ msg := m }] } : CoreSt).settle)) ∧
      (arrives i ∨ urgent i → x.oasis = [] → x.hasRoom m.body = false →
        exec i s = .next (into { x with oasis := [{ msg := m }] }))) ∧
    (x.oasis = [] →
    let fifo := fun (ch : Nat) (ws : List PWord) => { x with
      fifos := put x.fifos ch (listOf x.fifos ch ++ ws.map (fun w => { word := w })) }
    (∀ ch ws, m.body = .data ch ws → ws.length ≤ x.fifoRoom ch →
      exec (.dataMessage k) s = .next (into (fifo ch ws)) ∧
      (m.retried = true → exec (.niRetry k) s = .next (into (fifo ch ws)))) ∧
    (∀ ch w, m.body = .reply ch w → 1 ≤ x.fifoRoom ch → exec (.replyMessage k) s = .next (into (fifo ch [w]))) ∧
    (x.arrivalUsed < 16 →
      (∀ pc xs wid, m.body = .spawn pc xs wid true →
        exec (.spawnMessage k) s = .next (into { x with arrival := x.arrival ++ [{ msg := m }] })) ∧
      (∀ pc xs wid, m.body = .migrate pc xs wid →
        exec (.migrateMessage k) s = .next (into { x with arrival := x.arrival ++ [{ msg := m }] })) ∧
      (∀ pc xs wid tok, m.body = .call pc xs wid tok →
        exec (.callMessage k) s = .next (into { x with arrival := x.arrival ++ [{ msg := m }] }))) ∧
    (∀ pc xs wid, m.body = .spawn pc xs wid false → exec (.spawnMessage k) s = .next (into { x with
      reserved := x.reserved - 1, arrival := x.arrival ++ [{ msg := m }] })))) ∧
  (∀ (x : CoreSt) (i : Nat) (q : Queue), i < 4 →
    let waits := fun j => j < 4 ∧ j ≠ i ∧ (x.slot j).active = true ∧ (x.slot j).wants = some q
    ((∀ j, waits j → (x.slot i).lastIssue < (x.slot j).lastIssue) → x.firstFor i q = true) ∧
    ∀ j, waits j → (x.slot j).lastIssue < (x.slot i).lastIssue → x.firstFor i q = false) ∧
  (∀ (s : State) (k : Nat) (m : Msg), s.net[k]? = some m → s.takerOf m = none → s.launchFor m ≠ none →
    ∀ i ∈ ([.dataMessage k, .spawnMessage k, .migrateMessage k, .callMessage k, .replyMessage k] : List Instr),
      exec i s = .next s) ∧
  (∀ (x : CoreSt) (a b : QMsg) (ch : Nat) (ws : List PWord), x.oasis = [a, b] → b.msg.body = .data ch ws →
    x.hasRoom a.msg.body = false → ws.length ≤ x.fifoRoom ch →
    x.settle = if a.msg.src = b.msg.src ∧ fifoOf a.msg.body = some ch then x
      else { x with oasis := [a], fifos := put x.fifos ch (listOf x.fifos ch ++ ws.map (fun w => { word := w })) }) ∧
  (∀ (s : State) (k : Nat) (m : Msg), s.net[k]? = some m →
    (s.arrived m = false → m.vc < 2 → 256 ≤ m.stuck → exec (.escapeChannelMove k) s =
      .next { s with net := modifyNth s.net k (fun m => { m with vc := 2, stuck := 0 }) }) ∧
    (m.stuck < 256 → exec (.escapeChannelMove k) s = .next s) ∧
    (s.forwarded m = true → (∃ ch ws, m.body = .data ch ws) →
      ∃ t : State, exec (.forwarding k) s = .next t ∧ exec (.dataMessage k) s = .next t) ∧
    (s.forwarded m = false → exec (.forwarding k) s = .next s))

/-- SPAWN asks its target for an entry while the children are fewer than SPLIM, and runs the child inline otherwise
(R42, R43, R46); at inline depth 15 it sends the child as SPAWNQ does, and one that the NI has no room for stalls. At the
target, also where its context is saved or moves, the question reserves a free entry or is declined (R358); an accepted
child leaves for it and counts, a declined one runs inline: x1 is the next bundle, the inline depth goes up by 1 and the
PC is the child's; the report of a child's end lowers the count. -/
def Obligations.SpawnProtocol : Prop :=
  (∀ (s : State) (a b : Reg) (p : Place), Lone s → s.me.txn = none → s.contained s.cur.1 s.cur.2 = false →
    s.here.wb = [] → s.posted = false → p.pkg = s.pkg →
    s.placeTarget s.cur.1 (s.X a) = some p → (s.X b).toNat % 4 = 0 →
    (s.me.inlineDepth = 15 → s.niTurn s.cur.1 s.cur.2 p = true → ∃ t : State, exec (.spawn a b) s = .next t ∧ GoesOn s t ∧
      Retired (({ s with net := s.net ++ [{ s.msgFrom s.cur.1 s.cur.2 p (.spawn (s.X b)
        ((List.range 4).map (fun k => s.X (BitVec.ofNat 5 (10 + k)))) s.me.wid true) with ring := dieOf s.cur.1 }] }.modMe
        (fun u => { u with watch := 0, wdogFired := false })).modHere (fun k => { k with children := k.children + 1 })) t [] {}) ∧
    (s.me.inlineDepth < 15 → s.here.children < s.here.splim → s.niTurn s.cur.1 s.cur.2 p = false →
      ∃ t : State, exec (.spawn a b) s = .next t ∧ t.me.wait = .full .ni ∧ t.me.pc = s.me.pc ∧ t.net = s.net) ∧
    (s.me.inlineDepth < 15 → s.here.children < s.here.splim → s.niTurn s.cur.1 s.cur.2 p = true → ∃ t : State, exec (.spawn a b) s = .next t ∧
      t.net = s.net ++ [{ s.msgFrom s.cur.1 s.cur.2 p (.ask s.cur.2) with ring := dieOf s.cur.1 }] ∧
      t.me.wait = .spawn (s.X b) ∧ t.me.pc = s.me.pc ∧
      t.here.children = s.here.children) ∧
    (s.me.inlineDepth < 15 → s.here.splim ≤ s.here.children → s.me.writesInto (.x 1) → ∃ t : State, exec (.spawn a b) s = .next t ∧ t.me.pc = s.X b ∧
      t.me.settled (.x 1) = s.me.bundle.next.setWidth 128 ∧
      Retired (s.modMe (fun u => { u with inlineDepth := s.me.inlineDepth + 1 })) t [.x 1] {})) ∧
  (∀ (s : State) (k n i l : Nat) (m : Msg) (x : Launch), s.net[k]? = some m → s.inOrder k m = true → m.src.pkg = s.pkg →
    m.key = l → find s.launches l = some x → m.body = .ask i →
    let answers := fun (t : State) (ok : Bool) => ∃ m', exec (.spawnAsk k) s = .next t ∧ t.net = s.net.eraseIdx k ++ [m'] ∧
      m'.dst = m.src ∧ m'.body = .answer i ok
    let takes := fun (y : CoreSt) => decide (y.arrivalUsed < 16 ∧ y.oasis = [])
    ((find x.places m.dst.lcn = some (.site n) ∨ find x.places m.dst.lcn = some (.leaving n) ∨
        find x.places m.dst.lcn = some (.transit n)) →
      ∃ t : State, answers t (takes (s.core n)) ∧ (t.core n).reserved = (s.core n).reserved + bit (takes (s.core n))) ∧
    (∀ img, find x.places m.dst.lcn = some (.image n) → find s.images n = some img → ∃ t img', answers t (takes img.core) ∧
      find t.images n = some img' ∧ img'.core.reserved = img.core.reserved + bit (takes img.core))) ∧
  (∀ (s : State) (k n i : Nat) (m : Msg), s.net[k]? = some m → s.inOrder k m = true → s.launchFor m ≠ none →
    s.takerOf m = some n → m.src.pkg = s.pkg →
    (m.body = .endReport → ∃ t : State, exec (.childEndReport k) s = .next t ∧ t.net = s.net.eraseIdx k ∧
      (t.core n).children = (s.core n).children - 1) ∧
    (∀ pc, m.body = .answer i true → (s.slot n i).wait = .spawn pc → s.niRoom n m.src = false →
      exec (.spawnAnswer k) s = .next s) ∧
    (∀ pc, i < 4 → m.body = .answer i false → (s.slot n i).wait = .spawn pc → (s.slot n i).writesInto (.x 1) →
      (s.slot n i).bundle.popPorts = [] → (s.slot n i).bundle.popStreams = [] → (s.slot n i).bundle.stash = none →
      let u := s.slot n i
      ∃ t : State, exec (.spawnAnswer k) s = .next t ∧ t.net = s.net.eraseIdx k ∧ (t.slot n i).pc = pc ∧
        (t.slot n i).settled (.x 1) = u.bundle.next.setWidth 128 ∧ (∀ r, r ≠ .x 1 → (t.slot n i).settled r = u.settled r) ∧
        (t.slot n i).inlineDepth = u.inlineDepth + 1 ∧ (t.slot n i).wait = .none ∧ (t.slot n i).retired = u.retired + 1 ∧
        (t.core n).children = (s.core n).children ∧ t.mem = s.mem) ∧
    (∀ pc, i < 4 → m.body = .answer i true → (s.slot n i).wait = .spawn pc → s.niRoom n m.src = true →
      (s.slot n i).bundle.popPorts = [] → (s.slot n i).bundle.popStreams = [] → (s.slot n i).bundle.stash = none →
      ∃ t m', exec (.spawnAnswer k) s = .next t ∧ t.net = s.net.eraseIdx k ++ [m'] ∧ m'.dst = m.src ∧
        m'.body = .spawn pc ((List.range 4).map (fun j => (s.slot n i).bundle.rdX.get (BitVec.ofNat 5 (10 + j)).toFin))
          (s.slot n i).wid false ∧
        (t.core n).children = (s.core n).children + 1 ∧ (t.slot n i).wait = .none ∧
        (t.slot n i).pc = (s.slot n i).advance.pc))

/-! ### Events of a core -/

/-- The ends of blocking waits (R116, R195, R291, R398): SWWAIT's slot goes on with the new generation once it has
moved and stays while it has not; WAITEV's goes on once the doubleword is not zero, or a write has left it so since; MWAIT's once every older entry has
left the matrix queue; a stalled bundle is executed anew; a wake answer ends a remote barrier's wait. CHRD pops the
oldest word of its channel for a slot that may take it and writes it to xd; with none, or with
slots that blocked before it, it blocks behind those; of the slots that wait for a channel the first that may pop is woken
and the others stay (R33, R301). -/
def Obligations.EndsOfWaits : Prop :=
  (∀ (s : State) (c i : Nat), i < 4 → s.coreRuns c = true → (s.slot c i).bundle.popPorts = [] →
    (s.slot c i).bundle.popStreams = [] → (s.slot c i).bundle.stash = none →
    let u := s.slot c i
    let ends := fun (t : State) => (t.slot c i).wait = .none ∧ (t.slot c i).pc = u.advance.pc ∧
      (t.slot c i).retired = u.retired + 1 ∧ t.mem = s.mem ∧ t.net = s.net
    (∀ a off g, u.wait = .swwait a off g → u.writesInto (.x a) → (s.core c).lmBad (off + 8) 4 = false →
      let now := (s.core c).lm.num (off + 8) 4
      (now ≠ g.toNat → ∃ t : State, exec (.swwaitReturn c i) s = .next t ∧ ends t ∧
        (t.slot c i).settled (.x a) = xValue a (BitVec.ofNat 64 now)) ∧
      (now = g.toNat → exec (.swwaitReturn c i) s = .next s)) ∧
    (∀ off, u.wait = .waitev off →
      ((s.core c).lm.word off ≠ 0 ∨ (s.core c).evSeen.contains i = true →
        ∃ t : State, exec (.waitevReturn c i) s = .next t ∧ ends t ∧ (t.core c).evSeen.contains i = false) ∧
      ((s.core c).lm.word off = 0 → (s.core c).evSeen.contains i = false → exec (.waitevReturn c i) s = .next s) ∧
      ∀ at_ bs, ((s.core c).lmWrite at_ bs).evSeen.contains i =
        ((s.core c).evSeen.contains i || ((s.core c).lmWrite at_ bs).lm.word off != 0)) ∧
    (∀ n, u.wait = .mwait n → (s.core c).doneUpTo n = true →
      ∃ t : State, exec (.stallRelease c i) s = .next t ∧ ends t) ∧
    (∀ h w q, u.wait = .stall ∨ u.wait = .full q ∨ u.wait = .leaving → decodeWord u.bundle.word = .ok (h, w) →
      exec (.stallRelease c i) s = .next { s with cur := (c, i), agenda := w :: s.agenda }) ∧
    (∀ k m sw g sc r, s.net[k]? = some m → s.inOrder k m = true → m.body = .wake i sw g → s.takerOf m = some c → u.wait = .barrier sc →
      spaceOf s.pkg u.barAddr = .remote r → r.place = m.src → r.off = sw → u.barWait = true → u.barGen = g →
      ∃ t : State, exec (.wakeAnswer k) s = .next t ∧ (t.slot c i).wait = .none ∧ (t.slot c i).barWait = false ∧
        (t.slot c i).retired = u.retired + 1 ∧ t.net = s.net.eraseIdx k)) ∧
  ((∀ (s : State) (d : Reg) (ch : BitVec 6), Lone s → s.me.txn = none → s.contained s.cur.1 s.cur.2 = false →
    s.here.oasis = [] →
    let claims := s.me.chan = ch.toNat ∧ 0 < s.me.claim
    let first := ∀ p ∈ s.here.chrdWaiters, p.2 ≠ ch.toNat
    (∀ w n r, listOf s.here.fifos ch.toNat = ⟨⟨w, false⟩, n, none⟩ :: r → s.me.writesInto (.x d) →
      claims ∨ (first ∧ s.here.otherClaims s.cur.2 ch.toNat = 0) → ∃ t : State, exec (.chrd d ch) s = .next t ∧ GoesOn s t ∧ t.me.settled (.x d) = xValue d w ∧
        listOf t.here.fifos ch.toNat = r ∧ (∀ c, c ≠ ch.toNat → listOf t.here.fifos c = listOf s.here.fifos c) ∧
        t.me.claim = (if s.me.chan = ch.toNat then s.me.claim - 1 else s.me.claim) ∧ t.me.watch = 0 ∧
        (∀ r, r ≠ .x d → t.me.settled r = s.me.settled r) ∧ t.mem = s.mem ∧ t.here.lm = s.here.lm) ∧
    (listOf s.here.fifos ch.toNat = [] ∨
        (¬ claims ∧ (¬ first ∨ (s.here.words ch.toNat).length ≤ s.here.otherClaims s.cur.2 ch.toNat)) →
      ∃ t : State, exec (.chrd d ch) s = .next t ∧ t.me.wait = .chrd d ch.toNat ∧
        t.here.chrdWaiters = s.here.chrdWaiters ++ [(s.cur.2, ch.toNat)] ∧ t.me.pc = s.me.pc ∧
        t.here.fifos = s.here.fifos)) ∧
  (∀ (s : State) (c i ch : Nat) (pre post : List (Nat × Nat)), (s.core c).chrdWaiters = pre ++ (i, ch) :: post →
    (∀ p ∈ pre, p.2 ≠ ch ∨ (s.core c).canPop p.1 ch = false) → (s.core c).words ch ≠ [] →
    (s.core c).otherClaims i ch = 0 → (s.core c).nextReader ch = some i ∧
    ∀ j d, j ≠ i → (s.slot c j).wait = .chrd d ch → exec (.chrdWake c j) s = .next s) ∧
  (∀ (s : State) (c i ch n : Nat) (d : Reg) (w : Word) (r : List FifoWord), (s.slot c i).wait = .chrd d ch → i < 4 →
    s.coreRuns c = true → s.contained c i = false → (s.core c).oasis = [] → (s.core c).nextReader ch = some i →
    listOf (s.core c).fifos ch = ⟨⟨w, false⟩, n, none⟩ :: r → (s.slot c i).bundle.popPorts = [] →
    (s.slot c i).bundle.popStreams = [] → (s.slot c i).bundle.stash = none → (s.slot c i).writesInto (.x d) →
    ∃ t : State, exec (.chrdWake c i) s = .next t ∧ (t.slot c i).wait = .none ∧ listOf (t.core c).fifos ch = r ∧
      (t.slot c i).settled (.x d) = xValue d w ∧ (t.core c).chrdWaiters.all (fun p => p.1 != i) = true))

/-- The source of the highest priority starts the next activation, the next in turn among equals (R28). The registers it
starts with (R29, R30, Table 3.12): zero but for the arguments from x10 on and the stack pointer; FPCTL, FFLAGS, loop,
traps and transaction cleared, CHKMODE 2. A work item has its number in x10 and the launch's argument in x11, and its PC
at the entry; a SPAWN child, a CALL, with the reply token in x14, and a migrated thread have the PC, the registers and the
work identifier that they bring, and leave the arrival queue unless they run contained; a channel's handler has the
channel, the argument and the unclaimed words, and claims its threshold (Table 2.6, R31, R37, R219). -/
def Obligations.FillingASlot : Prop :=
  (∀ (x : CoreSt) (o p : Origin), x.nextOrigin = some o → p ∈ origins → x.offers p = true →
    x.offers o = true ∧ x.originPrio p ≤ x.originPrio o ∧
    ∀ n, x.originPrio p = x.originPrio o → find x.rrFill (x.originPrio o) = some n → n < p.order →
      n < o.order ∧ o.order ≤ p.order) ∧
  (∀ (s : State) (c i : Nat) (l : Launch), s.mayFill c = true → s.launchOf c = some l → (s.core c).freeSlot = some i →
    (s.slot c i).streams = [] → (s.core c).unstarted i = false →
    let x := s.core c
    let fresh := fun (t : State) (chan : Nat) (pc : Word) (args : List Word) (wid : Word) (parent : Option Place) =>
      exec (.slotFill c) s = .next t ∧
      let u := t.slot c i
      u.active = true ∧ u.chan = chan ∧ u.pc = pc ∧ u.wid = wid ∧ u.parent = parent ∧
      (∀ r : Reg, u.x.get r.toFin = if r = 2 then BitVec.ofNat 64 (0xF000000000000000 + 0x1F000 - i * l.stack)
        else if 10 ≤ r.toNat then args.getD (r.toNat - 10) 0 else 0) ∧
      (∀ r : Reg, u.v.get r.toFin = 0) ∧ u.rm = 0 ∧ u.fz = false ∧ u.fflags = {} ∧ u.loop = none ∧ u.h = false ∧
      u.txn = none ∧ u.tcause = 0 ∧ u.lmb = 0 ∧ u.linkmap = 0 ∧ u.chkmode = 2 ∧ u.watch = 0 ∧ u.pend = [] ∧
      u.srseed = BitVec.ofNat 64 (x.origin * 4 + i) ∧ u.inlineDepth = 0 ∧ t.mem = s.mem ∧
      ∀ j, j < 4 → j ≠ i → t.slot c j = s.slot c j
    (∀ b rest, x.nextOrigin = some .batch → x.batches = b :: rest → 0 < b.left → b.back = [] → b.held = [] →
      ∃ t : State, fresh t 0 l.entry [BitVec.ofNat 64 b.first, l.args] (BitVec.ofNat 64 b.first) none ∧
        (t.core c).batches = (if x.containedAt 0 = true then
            { b with first := b.first + 1, left := b.left - 1, held := [b.first] } :: rest
          else if b.left ≤ 1 then rest else { b with first := b.first + 1, left := b.left - 1 } :: rest)) ∧
    (∀ q rest, x.nextOrigin = some .arrival → x.arrival = q :: rest → q.slot = none → q.bad = false → x.oasis = [] →
      let gone := fun (t : State) =>
        (t.core c).arrival = if x.containedAt 0 = true then { q with slot := some i } :: rest else rest
      (∀ pc xs wid queued, q.msg.body = .spawn pc xs wid queued → xs.length = 4 →
        ∃ t : State, fresh t 0 pc xs wid (some q.msg.src) ∧ gone t) ∧
      (∀ pc xs wid token, q.msg.body = .call pc xs wid token → xs.length = 4 →
        ∃ t : State, fresh t 0 pc (xs ++ [token]) wid none ∧ gone t) ∧
      (∀ pc xs wid, q.msg.body = .migrate pc xs wid → xs.length = 8 →
        ∃ t : State, fresh t 0 pc xs wid none ∧ gone t)) ∧
    (∀ n h, x.nextOrigin = some (.channel n) → x.handler n = some h →
      ∃ t : State, fresh t n (l.entry + h.offset.signExtend 64) [BitVec.ofNat 64 n, l.args, BitVec.ofNat 64 (x.unclaimed n)] 0
        none ∧ (t.slot c i).claim = h.threshold ∧ (t.core c).fifos = x.fifos))

/-- LOAD_LEVEL ships half the difference to the least loaded neighbour, at most eight, newest batches first (R47). An
uncorrectable error poisons what it strikes and leaves its bits as they are (R217). A word that would consume poison, in an
operand register, an M operand, or what it loads, traps ECC with the code or the address of what was struck and writes
nothing, and the event log has its record; inside a transaction it aborts with ECC (R217, R276). A contained work item that
consumes poison is rolled back: it returns to its batch with one redelivery more, what it consumed comes back, what it held
is discarded, and at the third redelivery the launch ends FAULT with cause 15 (R219, R220). A contained SEND is held in the
NI, the 33rd held message traps CONTAIN with its place word, and a store to global memory with its address (R35, R218). What
counts as one batch is the model's reading (log 29). -/
def Obligations.LevellingAndPoison : Prop :=
  (∀ (s : State) (c d : Nat), (s.core c).launch ≠ none → (s.core c).works = true → s.leastPeer (s.peers c) = some d → c ≠ d →
    (s.core d).load + 1 < (s.core c).load → (s.core c).oasis = [] → (s.core d).batches = [] →
    (∀ b ∈ (s.core c).batches, b.held = []) →
    let n := min 8 (((s.core c).load - (s.core d).load) / 2)
    n ≤ (s.core c).batches.length → n ≤ 4 →
    ∃ t : State, exec (.loadLevel c) s = .next t ∧
      (t.core c).batches = (s.core c).batches.take ((s.core c).batches.length - n) ∧
      (t.core d).batches = ((s.core c).batches.drop ((s.core c).batches.length - n)).reverse) ∧
  (∀ (s : State) (c i off : Nat) (r : Reg), i < 4 → r ≠ 0 →
    (∃ t : State, exec (.uncorrectableError (.device off)) s = .next t ∧ t.mem = s.mem ∧ t.memBad (off % 2 ^ 42) 1 = true) ∧
    (∃ t : State, exec (.uncorrectableError (.lm c off)) s = .next t ∧ (t.core c).lm = (s.core c).lm ∧
      (t.core c).lmBad off 1 = true) ∧
    (∃ t : State, exec (.uncorrectableError (.x c i r)) s = .next t ∧ (t.slot c i).x = (s.slot c i).x ∧
      r ∈ (t.slot c i).poisonX)) ∧
  ((∀ (s : State) (d a b : Reg) (imm : BitVec 11) (off v : Nat) (w : Word),
    let hit := fun (i : Instr) (v : Word) =>
      (s.me.txn = none → s.contained s.cur.1 s.cur.2 = false → s.here.tvec ≠ 0 → ∃ t r, exec i s = .next t ∧
        TrapTaken { s with tele := t.tele } t .ecc v s.me.bundle.here s.here.tvec ∧
        t.tele.log.getLast? = some r ∧ r.code = 3 ∧ r.core = s.cur.1 ∧ r.vals = [v.toNat]) ∧
      (∀ x, s.me.txn = some x → ∃ t : State, exec i s = .next t ∧ TxnAborted { s with tele := t.tele } t x .ecc 0)
    let at_ := s.X b + imm.signExtend 64
    let entry := (s.me.lmb.toNat + 8 * b.toNat) % 0x20000
    (s.me.bundle.mode = .lone → s.me.bundle.stash = none → s.me.bundle.popPorts = [] → s.me.bundle.popStreams = [] →
      s.me.bundle.bad = some w → hit (.addA d a b false) w) ∧
    (Lone s → s.here.lmBad entry 8 = true → hit (.addA d a b true) (BitVec.ofNat 64 (0xF000000000000000 + entry))) ∧
    (Lone s → spaceOf s.pkg at_ = .lm off → ∀ p ∈ ([(.ldB d b imm, 1), (.ldH d b imm, 2), (.ldW d b imm, 4), (.ldD d b imm, 8),
        (.ldnB d b imm, 1), (.ldnH d b imm, 2), (.ldnW d b imm, 4), (.vld d b imm, 16)] : List (Instr × Nat)),
      at_.toNat % p.2 = 0 → s.here.lmBad off p.2 = true → hit p.1 at_) ∧
    (s.here.lmBad off v = true ↔ ∃ g, off / 8 ≤ g ∧ 8 * g < off + v ∧ Poison.lm g ∈ s.here.poison)) ∧
  (∀ (s : State) (c i : Nat) (w : IWord) (f : Instr) (n : Option Nat) (r : Reg) (rest : List RegName), i < 4 →
    let u := s.slot c i
    (r ≠ 0 → u.port r = none → r ∈ u.poisonX →
      u.badField (.x r :: rest) = some (BitVec.ofNat 64 (0xE000000100000000 + r.toNat))) ∧
    (u.stream r = none → r ∈ u.poisonV →
      u.badField (.v r :: rest) = some (BitVec.ofNat 64 (0xE000000200000000 + r.toNat))) ∧
    (let fs := fieldsAt (u.renameOffset n) (.lone w f)
     bundleIllegal u n.isSome (.lone w f) fs = none → u.chkmode ≠ 1 → u.wordFault w fs.readC fs.writeC = none →
     ∀ v, u.badField fs.readC = some v → ∃ b t, b.here = u.pc ∧ s.issueWords c i (.lone w f) n = .done t ∧
       t = (s.modSlot c i (fun y => { y with bundle := b })).consumePoison c i v)) ∧
  (∀ (s : State) (d b : Reg) (imm : BitVec 11) (off id tries l : Nat) (x : Launch) (bt : Batch), Lone s →
    let at_ := s.X b + imm.signExtend 64
    spaceOf s.pkg at_ = .lm off → at_.toNat % 8 = 0 → s.here.lmBad off 8 = true → s.me.txn = none →
    s.contained s.cur.1 s.cur.2 = true → s.me.source = .item id tries → s.me.cvsize ≤ 1 → s.here.launch = some l →
    find s.launches l = some x → x.ending = none → s.here.batches = [bt] → bt.held = [id] → bt.back = [] →
    s.here.oasis = [] →
    ∃ t : State, exec (.ldD d b imm) s = .next t ∧ t.me.active = false ∧ t.me.heldMsgs = [] ∧ t.net = s.net ∧
      t.mem = s.mem ∧ t.here.lm = s.here.lm ∧ t.here.batches = [{ bt with held := [], back := [(id, tries + 1)] }] ∧
      (∀ ch, listOf t.here.fifos ch = (listOf s.here.fifos ch).map (fun w =>
        if w.slot = some s.cur.2 then { w with slot := none } else w)) ∧
      (find t.launches l).map Launch.ending = some (if 3 ≤ tries + 1 then some (.fault, 15) else none)) ∧
  (∀ (s : State) (a b : Reg) (count : BitVec 2) (ch : BitVec 6) (imm : BitVec 11) (p : Place) (lf : TlbEntry), Lone s →
    s.me.txn = none → s.contained s.cur.1 s.cur.2 = true →
    let at_ := s.X b + imm.signExtend 64
    (s.placeTarget s.cur.1 (s.X a) = some p →
      (s.me.heldMsgs.length < 32 → s.here.wb = [] → s.posted = false → p.pkg = s.pkg →
        ∃ t : State, exec (.send a b count ch) s = .next t ∧ GoesOn s t ∧ Retired (s.modMe (fun u => { u with
          heldMsgs := s.me.heldMsgs ++ [s.msgFrom s.cur.1 s.cur.2 p (.data ch.toNat
            ((List.range (count.toNat + 1)).map (fun k => ⟨s.X (b + BitVec.ofNat 5 k), false⟩)))] })) t [] {}) ∧
      (32 ≤ s.me.heldMsgs.length → s.here.tvec ≠ 0 → ∃ t : State, exec (.send a b count ch) s = .next t ∧
        TrapTaken s t .contain (s.X a) s.me.bundle.here s.here.tvec)) ∧
    (spaceOf s.pkg at_ = .global → s.leafFor .queueStore at_ = some lf → lf.w = true → at_.toNat % 8 = 0 →
      s.here.tvec ≠ 0 → ∃ t : State, exec (.stD a b imm) s = .next t ∧
        TrapTaken s t .contain at_ s.me.bundle.here s.here.tvec)))

/-! ### Engines, streams and selection -/

/-- COPY captures its operands at issue and enters the copy queue; one of length 0 is done at once, a full queue
stalls it behind the slots that began to wait before (R48), and the first check of R149 that fails traps COPYF with the offending value (R148, R149, R305). The events of
the copy engine: a delivery of up to 256 bytes inside own LM moves the bytes and advances the copy; a copy that has
delivered everything leaves the queue, and its flags accrue to the slot that pushed it, unless a fault stopped it (R148,
R149, R150). -/
def Obligations.Copies : Prop :=
  (∀ (s : State) (sat raise : Bool) (a b c : Reg), Lone s → s.me.txn = none → s.contained s.cur.1 s.cur.2 = false →
    let ctl := s.X c
    let i := Instr.copy sat raise a b c
    (s.copyFault (s.X a) (s.X b) ctl raise = none →
      (bits ctl 31 0 = 0 → ∃ t : State, exec i s = .next t ∧ GoesOn s t ∧ Retired s t [] {}) ∧
      (0 < bits ctl 31 0 → s.here.cq.length < 16 → s.here.firstFor s.cur.2 .copy = true → ∃ t o, exec i s = .next t ∧ GoesOn s t ∧
        Retired (s.modHere (fun k => { k with cq := k.cq ++ [o], nextOp := k.nextOp + 1 })) t [] {} ∧
        o.dst = s.X a ∧ o.src = s.X b ∧ o.length = bits ctl 31 0 ∧ o.srcTy = ctl.extractLsb' 56 4 ∧
        o.dstTy = ctl.extractLsb' 52 4 ∧ o.sat = sat ∧ o.sw = (if raise then some (bits ctl 47 32) else none) ∧
        o.rm = s.me.rm ∧ o.fz = s.me.fz ∧ o.done = 0 ∧ o.slot = s.cur.2 ∧ o.act = s.me.act) ∧
      (0 < bits ctl 31 0 → 16 ≤ s.here.cq.length ∨ s.here.firstFor s.cur.2 .copy = false →
        exec i s = .next (s.modMe (fun u => { u with wait := .full .copy })))) ∧
    (∀ v, s.copyFault (s.X a) (s.X b) ctl raise = some v → s.here.tvec ≠ 0 →
      ∃ t : State, exec i s = .next t ∧ TrapTaken s t .copyf v s.me.bundle.here s.here.tvec) ∧
    (bits ctl 63 60 ≠ 0 ∨ bits ctl 51 48 ≠ 0 → s.copyFault (s.X a) (s.X b) ctl raise = some ctl)) ∧
  (∀ (s : State) (c n : Nat) (o : CopyOp), (s.core c).cq[n]? = some o →
    (∀ src dst, (s.core c).works = true → o.srcTy = o.dstTy → (LaneType.ofCode o.srcTy).isSome = true → o.done = 0 →
      o.stopped = false → o.kept = none → ((s.core c).cq.take n).all CopyOp.started = true →
      0 < o.length → o.length ≤ 256 → o.sw = none → (s.core c).poison = [] →
      o.src = BitVec.ofNat 64 (0xF000000000000000 + src) → o.dst = BitVec.ofNat 64 (0xF000000000000000 + dst) →
      src % 65536 + o.length ≤ 65536 → dst % 65536 + o.length ≤ 65536 → src < 0x20000 → dst < 0x20000 →
      (src + o.length ≤ dst ∨ dst + o.length ≤ src) → ∃ t : State, exec (.copyDelivery c n) s = .next t ∧
        (∀ x, (t.core c).lm.read x = if dst ≤ x ∧ x < dst + o.length then (s.core c).lm.read (src + (x - dst))
          else (s.core c).lm.read x) ∧
        ((t.core c).cq[n]?).map CopyOp.done = some o.length ∧ t.mem = s.mem ∧ (t.core c).abuf = (s.core c).abuf ∧
        ∀ d, d ≠ c → t.core d = s.core d) ∧
    (o.complete = true → ∃ t : State, exec (.copyComplete c n) s = .next t ∧ (t.core c).cq = (s.core c).cq.eraseIdx n ∧
      (t.slot c o.slot).fflags = (if (s.slot c o.slot).active = true ∧ (s.slot c o.slot).act = o.act ∧ o.stopped = false
        then (s.slot c o.slot).fflags.or o.flags else (s.slot c o.slot).fflags) ∧
      t.mem = s.mem ∧ (t.core c).lm = (s.core c).lm) ∧
    (o.complete = false → exec (.copyComplete c n) s = .next s))

/-- GATHER and SCATTER take the operation that their descriptor in own LM describes, and stall while the engine holds as many
as it can; a descriptor that R152 refuses
traps COPYF with its address (R151, R152, R314, R315, R352). The elements of GATHER and SCATTER (R151, R152, R314,
R352): the next element goes to the rank that its index names, at base + (index modulo block) * size; a reply's bytes
land at their place in own LM, and a delivered store counts; an answer that refuses ends the operation once the elements
still on their way are there. Which cause a
descriptor's fault has is the model's reading where its entry names none (log 24). -/
def Obligations.GathersAndScatters : Prop :=
  (∀ (s : State) (a : Reg) (off : Nat), Lone s → s.me.txn = none → s.contained s.cur.1 s.cur.2 = false →
    (s.X a).toNat = 0xF000000000000000 + off → off % 32 = 0 → off < 0x20000 → s.here.lmBad off 32 = false →
    let w := fun n => s.here.lm.word (off + 8 * n)
    ∀ p ∈ ([(.gather a, false), (.scatter a, true)] : List (Instr × Bool)),
    (s.gatherDesc off p.2 ≠ none → s.here.gatherRoom = false ∨ s.here.firstFor s.cur.2 .gather = false →
      exec p.1 s = .next (s.modMe (fun u => { u with wait := .full .gather }))) ∧
    (s.gatherDesc off p.2 ≠ none → s.here.gatherRoom = true → s.here.firstFor s.cur.2 .gather = true → ∃ t o, exec p.1 s = .next t ∧ GoesOn s t ∧
      Retired (s.modHere (fun k => { k with gq := k.gq ++ [o], nextOp := k.nextOp + 1 })) t [] {} ∧
      o.isScatter = p.2 ∧ o.desc = s.X a ∧ o.count = bits (w 0) 31 0 ∧ o.sizeCode = bits (w 0) 35 32 ∧
      o.raise = (if bitAt (w 0) 47 then some (bits (w 0) 63 48) else none) ∧ o.toA = bitAt (w 1) 17 ∧
      o.local_ = bits (w 1) 16 0 ∧ o.index = bits (w 2) 16 0 ∧ o.base = bits (w 3) 16 0 ∧ o.block = bits (w 3) 47 32 ∧
      o.next = 0 ∧ o.slot = s.cur.2 ∧ o.act = s.me.act) ∧
    (bits (w 0) 31 0 = 0 ∨ bits (w 3) 47 32 = 0 ∨ 4 < bits (w 0) 35 32 → s.gatherDesc off p.2 = none) ∧
    (s.gatherDesc off p.2 = none → s.here.tvec ≠ 0 →
      ∃ t : State, exec p.1 s = .next t ∧ TrapTaken s t .copyf (s.X a) s.me.bundle.here s.here.tvec)) ∧
  ((∀ (s : State) (c n : Nat) (o : GatherOp) (r : Place), (s.core c).gq[n]? = some o → (s.core c).works = true →
    o.next < o.count → o.isScatter = false →
    let e := (s.core c).lm.num (o.index + 4 * o.next) 4
    let off := o.base + e % o.block * 2 ^ o.sizeCode
    s.rankPlace c (e / o.block) = some r → r.pkg = s.pkg → off + 2 ^ o.sizeCode ≤ 0x20000 →
    ∃ t m, exec (.gatherElementIssue c n) s = .next t ∧ t.net = s.net ++ [m] ∧ m.dst = r ∧
      m.body = .access (.load (2 ^ o.sizeCode)) off (.gather o.serial o.next) ∧
      ((t.core c).gq[n]?).map GatherOp.next = some (o.next + 1) ∧ t.mem = s.mem) ∧
  (∀ (s : State) (k n p op : Nat) (m : Msg) (o : GatherOp) (bs : List Byte), s.net[k]? = some m → s.inOrder k m = true →
    s.launchFor m ≠ none → s.takerOf m = some n → (s.core n).gq = [o] → o.serial = op → o.raise = none →
    (m.body = .response (.gather op p) bs false false → o.toA = false → ∃ t : State, exec (.gatherReply k) s = .next t ∧
      t.net = s.net.eraseIdx k ∧ (∀ x, (t.core n).lm.read x = let at_ := o.local_ + p * 2 ^ o.sizeCode
        if at_ ≤ x ∧ x < at_ + bs.length then bs.getD (x - at_) 0 else (s.core n).lm.read x) ∧
      (t.core n).gq = if o.count ≤ o.next ∧ o.outstanding ≤ 1 then []
        else [{ o with outstanding := o.outstanding - 1 }]) ∧
    (m.body = .response (.scatter op p) bs false false → ∃ t : State, exec (.scatterDelivery k) s = .next t ∧
      t.net = s.net.eraseIdx k ∧ (t.core n).lm = (s.core n).lm ∧
      (t.core n).gq = if o.count ≤ o.next ∧ o.outstanding ≤ 1 then []
        else [{ o with outstanding := o.outstanding - 1 }]) ∧
    (m.body = .response (.scatter op p) bs true false → (s.slot n o.slot).active = true →
      (s.slot n o.slot).act = o.act → ∃ t : State, exec (.scatterDelivery k) s = .next t ∧
        (t.core n).gq = (if o.outstanding ≤ 1 then []
          else [{ o with count := o.next, outstanding := o.outstanding - 1 }]) ∧
        (t.slot n o.slot).heldTraps = (s.slot n o.slot).heldTraps ++ [(.copyf, BitVec.ofNat 64 p)])))

/-- DLAUNCH puts the 64 bytes of its header into the core's device queue and stalls while four headers wait there
(R187, R308). MCST sends one packet with the bytes it captured, for the members that its group has then, and stalls while
the NI has no place for it; at its I/O die the packet takes the next number of its group's stream, and what was sent is
recorded (R239); a place word that is no multicast place traps PLACE (R329, R330). -/
def Obligations.LaunchesAndMulticasts : Prop :=
  (∀ (s : State) (m : Msg) (g off sw : Nat) (bs : List Byte) (bad : List Nat), s.net = [m] →
    m.body = .mcast g off bs sw bad → m.src.pkg = s.pkg → m.delivery = none → s.arrived m = true →
    s.fab.retryRoom (ioDie (dieOf m.site)) = true → let id := s.mcStream g
    ∃ p, s.sendOut.net = [] ∧ s.sendOut.fab.flight = s.fab.flight ++ [(.package s.pkg, none, p)] ∧ p.stream = id ∧
      p.seq = ((assoc s.fab.outs id).getD newOut).next ∧ p.body = m ∧ p.die = ioDie (dieOf m.site) ∧
      s.sendOut.fab.sends = s.fab.sends ++ [⟨g, p.seq, p.version, m.owner.getD 0, m.src.lcn, sw, m.members, m.slot⟩]) ∧
  ∀ (s : State) (a b c : Reg) (off : Nat), Lone s → s.me.txn = none → s.contained s.cur.1 s.cur.2 = false →
    s.here.wb = [] → s.posted = false →
    (s.checkMem (s.X a) 64 .header = .ok ⟨.lm off, none⟩ → s.here.lmBad off 64 = false →
      (s.here.devq.length < 4 → s.here.firstFor s.cur.2 .device = true → ∃ t h, exec (.dlaunch a) s = .next t ∧ GoesOn s t ∧
        Retired (({ s with serial := s.serial + 1 } : State).modHere (fun k => { k with devq := k.devq ++ [h] })) t [] {} ∧
        h.words = (List.range 8).map (fun n => s.here.lm.word (off + 8 * n)) ∧ h.parent = s.here.launch.getD 0 ∧ h.stamp = s.serial) ∧
      (4 ≤ s.here.devq.length ∨ s.here.firstFor s.cur.2 .device = false →
        exec (.dlaunch a) s = .next (s.modMe (fun u => { u with wait := .full .device })))) ∧
    (let ctl := s.X c
      let len := bits ctl 8 0
      let g := bits (s.X a) 11 0
      bits (s.X a) 63 62 = 2 → bits (s.X a) 61 12 = 0 → ∀ u ms,
      s.groupOf (ioDie (dieOf s.cur.1)) g = some (u, ms) → mcstFault (s.X b) ctl = none →
      u.checkMem (s.X b) 16 .mcast = .ok ⟨.lm off, none⟩ → s.here.lmBad off len = false →
      (s.mcTurn s.cur.1 s.cur.2 = true → ∃ t : State, exec (.mcst a b c) s = .next t ∧ GoesOn s t ∧
        Retired { s with
          fab := { s.fab with groups := t.fab.groups }
          net := s.net ++ [{ s.msgFrom s.cur.1 s.cur.2 (s.placeOf s.cur.1)
              (.mcast g (bits ctl 47 16) (s.here.lm.bytes off len) (bits ctl 60 48) []) with
            key := s.asidOf s.cur.1, owner := s.here.launch, ring := dieOf s.cur.1, members := ms.length }] } t [] {}) ∧
      (s.mcTurn s.cur.1 s.cur.2 = false → ∃ t : State, exec (.mcst a b c) s = .next t ∧ t.me.wait = .full .ni ∧
        t.me.pc = s.me.pc ∧ t.net = s.net)) ∧
    (bits (s.X a) 63 62 ≠ 2 → s.here.tvec ≠ 0 →
      ∃ t : State, exec (.mcst a b c) s = .next t ∧ TrapTaken s t .place (s.X a) s.me.bundle.here s.here.tvec)

/-- TKSEND captures the TOPK entries in own LM, merged as a list of one input, and sends them to the root of its tree for
the round that comes next for its tag and rectangle; with a full NI it keeps the list and waits; operands that R265
forbids trap ALIGN, SPACE or PLACE (R264, R265, R267, R269, R369). BKSEL selects, from the top bucket down, the keys of
the fewest buckets that hold k keys, or all that are no NaN; it returns how many they are, and writes its result record
and, when asked, the selection bitmap (R270 to R272, R297). The merge of lists (R263, R267, Table 12.4): as many entries as
the shortest list has, in descending score and equal scores by id, the ids distinct, each the best of its id, none passed
over for a lower one, padding behind them; NaN scores dropped and counted, contributors added up. A round whose top unit
holds every list writes its result at the root, raises the root's sync word and closes (R266, R268). That a round keeps
the result address and the sync word of the root's own TKSEND is the model's reading (log 28). -/
def Obligations.SelectionAndMerging : Prop :=
  (∀ (s : State) (b c d : Reg) (off : Nat), Lone s → s.me.txn = none → s.contained s.cur.1 s.cur.2 = false →
    let w := s.X c
    let k := s.here.topk
    let rect := (bits w 6 0, bits w 14 8, bits w 22 16 + 1, bits w 30 24 + 1)
    let root : Place := ⟨s.pkg, coreAt (bits w 6 0) (bits w 14 8)⟩
    let captured := mergeLists [{ k, entries := (List.range k).map (fun n => s.here.lm.word (off + 8 * n)), nans := 0
                                  contributors := 1 }]
    let body := fun (n : Nat) =>
      MsgBody.list (bits w 39 32) rect (bits w 56 40) (16 * bits (s.X d) 12 0) captured n
    (spaceOf s.pkg (s.X b) = .lm off → (s.X b).toNat % 8 = 0 → off + 8 * k ≤ 0x20000 →
      (s.badTree w (s.X d) k = false → s.here.lmBad off (8 * k) = false →
        (s.niTurn s.cur.1 s.cur.2 root = true → ∃ t m n, exec (.tksend b c d) s = .next t ∧ GoesOn s t ∧
          Retired (({ s with net := s.net ++ [m], launches := t.launches } : State).modMe (fun u =>
            { u with watch := 0, wdogFired := false })) t [] {} ∧ m.dst = root ∧ m.body = body n ∧
          ∀ l x, s.here.launch = some l → find s.launches l = some x →
            (x.lists.find? (fun e => e.names (bits w 39 32) rect s.here.origin) = none → n = 0) ∧
            (∀ e, x.lists.find? (fun e => e.names (bits w 39 32) rect s.here.origin) = some e → e.free = [] →
              n = e.next)) ∧
        (s.niTurn s.cur.1 s.cur.2 root = false → ∃ t m n, exec (.tksend b c d) s = .next t ∧ t.me.wait = .list m ∧
          m.body = body n ∧ t.net = s.net ∧ t.me.pc = s.me.pc ∧ t.me.retired = s.me.retired)) ∧
      (s.badTree w (s.X d) k = true → s.here.tvec ≠ 0 →
        ∃ t : State, exec (.tksend b c d) s = .next t ∧ TrapTaken s t .place w s.me.bundle.here s.here.tvec)) ∧
    ((s.X b).toNat % 8 ≠ 0 → s.here.tvec ≠ 0 →
      ∃ t : State, exec (.tksend b c d) s = .next t ∧ TrapTaken s t .align (s.X b) s.me.bundle.here s.here.tvec) ∧
    (spaceOf s.pkg (s.X b) = .lm off → (s.X b).toNat % 8 = 0 → 0x20000 < off + 8 * k → s.here.tvec ≠ 0 →
      ∃ t : State, exec (.tksend b c d) s = .next t ∧ TrapTaken s t .space (s.X b) s.me.bundle.here s.here.tvec)) ∧
  (∀ (s : State) (ty : KeyType) (a b : Reg) (off : Nat), Lone s → s.me.txn = none → spaceOf s.pkg (s.X b) = .lm off →
    (s.X b).toNat % 32 = 0 →
    let t' := KeyType.lane ty
    let size := laneWidth t' / 8
    (∀ x, s.here.bkDesc off t' = some x → s.here.bkBad off size x = none → s.me.writesInto (.x a) →
      let map := (x.bitmap.getD 0, if x.bitmap.isSome then (x.count + 7) / 8 else 0)
      (map.1 + map.2 ≤ x.result ∨ x.result + 32 ≤ map.1) →
      let key := fun (i : Nat) => s.here.lm.num (x.keys + size * i) size
      let item := fun (i : Nat) => (x.values.map (fun v => s.here.lm.num (v + 4 * i) 4)).getD (key i)
      let from_ := fun (b i : Nat) => ((keyOrder t' (key i)).map (fun u => decide (b ≤ u / 2 ^ 24))).getD false
      let these := fun (p : Nat → Bool) => (List.range x.count).filter p
      let sum := fun (p : Nat → Bool) => bkSum t' x.values.isNone ((these p).map item)
      ∃ t bucket n, exec (.bksel ty a b) s = .next t ∧ GoesOn s t ∧
        Retired ((s.withLmOf t).modMe (fun u =>
          { u with notBefore := max u.notBefore (s.cycle + 8 + 2 * ((x.count + 15) / 16)) })) t [.x a] {} ∧
        t.me.settled (.x a) = xValue a (BitVec.ofNat 64 n) ∧ bucket ≤ 255 ∧
        n = (these (from_ bucket)).length ∧ (these (from_ (bucket + 1))).length < x.k ∧ (x.k ≤ n ∨ bucket = 0) ∧
        t.here.lm.word x.result =
          BitVec.ofNat 64 ((these (fun i => (keyOrder t' (key i)).isNone)).length * 2 ^ 32 + n) ∧
        t.here.lm.word (x.result + 8) = BitVec.ofNat 64 (256 * bit (decide (n < x.k)) + bucket) ∧
        t.here.lm.word (x.result + 16) = sum (from_ bucket) ∧
        t.here.lm.word (x.result + 24) = sum (fun i => (keyOrder t' (key i)).isSome && !from_ bucket i) ∧
        (∀ i, i < 8 * map.2 →
          (t.here.lm.read (map.1 + i / 8)).getLsbD (i % 8) = (decide (i < x.count) && from_ bucket i)) ∧
        ∀ y, y < x.result ∨ x.result + 32 ≤ y → y < map.1 ∨ map.1 + map.2 ≤ y →
          t.here.lm.read y = s.here.lm.read y) ∧
    (s.here.bkDesc off t' = none → s.here.tvec ≠ 0 →
      ∃ t : State, exec (.bksel ty a b) s = .next t ∧ TrapTaken s t .illegal (s.X b) s.me.bundle.here s.here.tvec)) ∧
  (∀ ls : List MergeList, let m := mergeLists ls
    let all := ls.flatMap MergeList.entries
    let counts := fun (w : Word) => entryId w ≠ 0xFFFF ∧ (entryScore w).isNaN = false
    let higher := fun (v w : Word) => ltF true (entryScore w) (entryScore v) = true
    m.k = (ls.map MergeList.k).foldl min 16 ∧ m.entries.length = m.k ∧ m.contributors = (ls.map MergeList.contributors).sum ∧
    m.nans = (ls.map MergeList.nans).sum +
      (all.filter (fun w => entryId w != 0xFFFF && (entryScore w).isNaN)).length ∧
    ∃ best n, m.entries = best ++ List.replicate n padding ∧ (∀ w ∈ best, w ∈ all ∧ counts w) ∧
      best.Pairwise (fun v w => entryId v ≠ entryId w ∧ (higher v w ∨ (¬ higher w v ∧ entryId v < entryId w))) ∧
      ∀ w ∈ all, counts w → (∃ v ∈ best, entryId v = entryId w ∧ ¬ higher w v) ∨
        (n = 0 ∧ ∀ v ∈ best, entryId v ≠ entryId w ∧ ¬ higher w v)) ∧
  (∀ (s : State) (n site unit : Nat) (x : Round), (∀ m ∈ s.net, ∀ tag r res sw l num, m.body ≠ .list tag r res sw l num) →
    s.mergesReady[n]? = some (x, topLevel x.rect, unit) →
    s.siteOf x.launch (coreAt x.rect.1 x.rect.2.1) = some site →
    let l := mergeLists (inPortOrder (x.at (topLevel x.rect) unit))
    ∃ t : State, exec (.listMerge n) s = .next t ∧ t.rounds = s.rounds.filter (· != x) ∧
      (t.core site).lm = raiseLm ((s.core site).lm.writeBytes x.result
        ((resultHeader x.tag l :: l.entries).flatMap (fun w => bytesOfNat 8 w.toNat))) x.sw 1 ∧ t.mem = s.mem)

/-! ### The matrix engine and caravans -/

/-- MSWAP puts a marker into the matrix queue, stalling while that is full, and waits for it; MWAIT waits for every entry before it (R137, R340, R342).
The marker at the queue's head exchanges the two banks of its accumulator, statuses and all (R101), and the MSWAP that
still waits goes on. -/
def Obligations.MatrixQueueWords : Prop :=
  (∀ (s : State) (n : Bool), Lone s → s.me.txn = none →
    (s.me.mswapPending = false → s.here.mq.length < 16 → s.here.firstFor s.cur.2 .matrix = true → ∃ t e, exec (.mswap n) s = .next t ∧
      t = (s.modHere (fun k => { k with mq := k.mq ++ [e], nextOp := k.nextOp + 1 })).modMe
        (fun u => { u with mswapPending := true, wait := .mswap n }) ∧
      e.marker = some n ∧ e.slot = s.cur.2 ∧ e.act = s.me.act ∧ e.run = none) ∧
    (s.me.mswapPending = false → 16 ≤ s.here.mq.length ∨ s.here.firstFor s.cur.2 .matrix = false →
      exec (.mswap n) s = .next (s.modMe (fun u => { u with wait := .full .matrix }))) ∧
    (s.me.mswapPending = true → s.here.markerWaits s.cur.2 s.me.act = false → ∃ t : State, exec (.mswap n) s = .next t ∧
      GoesOn s t ∧ Retired (s.modMe (fun u => { u with mswapPending := false })) t [] {}) ∧
    (s.here.doneUpTo s.here.nextOp = true → ∃ t : State, exec .mwait s = .next t ∧ GoesOn s t ∧ Retired s t [] {}) ∧
    (s.here.doneUpTo s.here.nextOp = false →
      exec .mwait s = .next (s.modMe (fun u => { u with wait := .mwait s.here.nextOp })))) ∧
  (∀ (s : State) (c : Nat) (e : MEntry) (rest : List MEntry) (n : Bool), (s.core c).mq = e :: rest → e.marker = some n →
    ∃ t : State, exec (.mswapMarker c) s = .next t ∧ (t.core c).mq = rest ∧
      (t.core c).acc0w = (if n then (s.core c).acc0w else (s.core c).acc0v) ∧
      (t.core c).acc0v = (if n then (s.core c).acc0v else (s.core c).acc0w) ∧
      (t.core c).acc1w = (if n then (s.core c).acc1v else (s.core c).acc1w) ∧
      (t.core c).acc1v = (if n then (s.core c).acc1w else (s.core c).acc1v) ∧
      ((s.slot c e.slot).active = true → (s.slot c e.slot).act = e.act → (s.slot c e.slot).wait = .mswap n →
        (t.slot c e.slot).wait = .none ∧ (t.slot c e.slot).retired = (s.slot c e.slot).retired + 1))

/-- The seven commands at the queue's head (R135, R136, R139, R143, R144, R326, R332, R336 to R339, R343): one whose
record and operands pass its checks starts with the registers sampled from its slot and the time of its command, and
touches no other core and no device memory; one that fails them is discarded, and its slot has MATRIX to take with word
0; one whose operand is poisoned is discarded, and its slot has ECC to take with the address (R217). The time is that of
Table 6.5. A record fails with an unknown code, a reserved or an unused field that is not zero, a sync word outside LM or
one that raises nothing, an origin or an operand outside its window (R139), a format that is not assigned (R141), operands
of two rate classes, a scale that their class has not, or a bank of another kind (R142), and a macro that is not loaded
(R144). That a command runs in one step is the model's reading (log 27). -/
def Obligations.MatrixCommandsStart : Prop :=
  (∀ (s : State) (c : Nat) (e : MEntry) (rest : List MEntry), (s.core c).mq = e :: rest → (s.core c).works = true →
    e.marker = none → e.run = none → e.bad = false →
    let u := s.slot c e.slot
    ∀ p ∈ ([(.mzero c, 0x01), (.mldw c, 0x02), (.mma c, 0x10), (.mmas c, 0x11), (.mmab c, 0x12), (.madp c, 0x13),
        (.mdrain c, 0x20)] : List (Instr × Nat)), bits (e.words.getD 0 0) 7 0 = p.2 →
      (∀ cycles, (s.core c).startOf e u.sample = .ok cycles → ∃ t run, exec p.1 s = .next t ∧
        (t.core c).mq = { e with run := some run } :: rest ∧ run.sample.rm = u.rm ∧ run.sample.fz = u.fz ∧
        run.sample.fmtA = u.mfmta ∧ run.sample.fmtB = u.mfmtb ∧ run.sample.fmtC = u.mfmtc ∧ run.sample.sclA = u.mscla ∧
        run.sample.sclB = u.msclb ∧ run.due = s.cycle + cycles ∧ t.mem = s.mem ∧ (∀ d, d ≠ c → t.core d = s.core d) ∧
        (p.2 ≠ 0x20 → (t.core c).lm = (s.core c).lm ∧ (t.core c).abuf = (s.core c).abuf) ∧
        (p.2 ≠ 0x02 → (t.core c).wbuf = (s.core c).wbuf) ∧ (t.core c).slots = (s.core c).slots) ∧
      ((s.core c).startOf e u.sample = .fault → u.active = true → u.act = e.act → ∃ t : State, exec p.1 s = .next t ∧
        (t.core c).mq = rest ∧ (t.slot c e.slot).heldTraps = u.heldTraps ++ [(.matrix, e.words.getD 0 0)] ∧
        (t.core c).lm = (s.core c).lm) ∧
      (∀ v, (s.core c).startOf e u.sample = .poison v → u.active = true → u.act = e.act → s.contained c e.slot = false →
        ∃ t : State, exec p.1 s = .next t ∧ (t.core c).mq = rest ∧
          (t.slot c e.slot).heldTraps = u.heldTraps ++ [(.ecc, v)] ∧ (t.core c).lm = (s.core c).lm)) ∧
  ∀ (k : CoreSt) (e : MEntry) (s : MSample),
    let w := fun n => e.words.getD n 0
    let code := bits (w 0) 7 0
    let depth := bits (w 0) 47 32
    let up := fun (a b : Nat) => (a + b - 1) / b
    let ofA := LaneType.ofCode (s.fmtA.extractLsb' 0 4)
    let ofB := LaneType.ofCode (s.fmtB.extractLsb' 0 4)
    let scaleA := (s.fmtA.extractLsb' 8 4).toNat
    let scaleB := (s.fmtB.extractLsb' 8 4).toNat
    let digital := code = 0x10 ∨ code = 0x11
    let faults := k.startOf e s = .fault
    e.rows = (if bits (w 0) 23 16 = 0 then 64 else bits (w 0) 23 16) ∧
    e.cols = (if bits (w 0) 31 24 = 0 then 64 else bits (w 0) 31 24) ∧
    (code ∉ [0x01, 0x02, 0x10, 0x11, 0x12, 0x13, 0x20] → faults) ∧
    (bits (w 0) 15 11 ≠ 0 ∨ w 7 ≠ 0 ∨ (code = 0x01 ∧ ∃ n, 1 ≤ n ∧ n ≤ 7 ∧ w n ≠ 0) → faults) ∧
    ((bitAt (w 0) 10 = false ∧ bits (w 0) 63 48 ≠ 0) ∨ (bitAt (w 0) 10 = true ∧ 0x20000 ≤ 16 * bits (w 0) 63 48) → faults) ∧
    (digital ∨ code = 0x12 ∨ code = 0x13 →
      64 < bits (w 4) 5 0 + e.rows ∨ 64 < bits (w 4) 13 8 + e.cols ∨ depth = 0 → faults) ∧
    (digital → ofA = none ∨ ofB = none ∨ 2 < scaleA ∨ 2 < scaleB → faults) ∧
    (code = 0x20 → LaneType.ofCode s.fmtC = none → faults) ∧
    (∀ ta tb, ofA = some ta → ofB = some tb →
      (digital ∨ code = 0x13 → rateClass ta ≠ rateClass tb → faults) ∧
      (digital → scaleA ≠ 0 → ta ∉ [LaneType.e4m3, .e5m2, .e2m1] → faults) ∧
      (digital → bitAt (w 0) 9 = false → (k.working (bitAt (w 0) 8)).kind ∉
        [BankKind.any, if ta = .fp64 then .fp64 else if ta = .i8 ∨ ta = .n8 then .i32 else .fp32] → faults) ∧
      (digital → bits (w 1) 17 17 = 0 →
        0x10000 < bits (w 1) 16 0 + (e.rows - 1) * bits (w 1) 47 32 + (depth * laneWidth ta + 7) / 8 → faults) ∧
      ∀ n, k.startOf e s = .ok n → ∀ q ∈ [(LaneType.fp64, 4, 1), (.fp32, 4, 4), (.fp16, 8, 8), (.bf16, 8, 8), (.e4m3, 8, 16),
        (.e5m2, 8, 16), (.i8, 8, 16), (.n8, 8, 16), (.e2m1, 8, 32)], ta = q.1 →
        let live := ((List.range depth).filter (fun x => (k.lm.read (bits (w 3) 16 0 + x / 8)).getLsbD (x % 8))).length
        let rank := bits (w 5) 19 16 + 1
        (code = 0x10 → n = 12 + e.rows * up e.cols q.2.1 * up depth q.2.2) ∧
        (code = 0x11 → bitAt (w 3) 17 = false → n = 12 + up depth 512 + e.rows * up e.cols q.2.1 * up live q.2.2) ∧
        (code = 0x13 → n = 12 + e.rows * (up depth q.2.2 * up rank q.2.1 + up rank q.2.2 * up e.cols q.2.1 + 1))) ∧
    (code = 0x12 → ((∃ t, t ≤ bits (w 2) 7 4 ∧ k.cimLoaded.getLsbD (bits (w 2) 3 0 + t) = false) ∨
      64 * (bits (w 2) 7 4 + 1) < depth ∨ ofA ≠ none → faults) ∧
      ∀ n, k.startOf e s = .ok n → n = 8 + e.rows * (s.fmtA.extractLsb' 4 4).toNat * (bits (w 2) 7 4 + 1)) ∧
    (∀ n, k.startOf e s = .ok n → (code = 0x01 → n = 4) ∧
      (code = 0x02 → n = 8 + up (if bitAt (w 4) 0 then depth * e.cols + 2 * e.cols else depth * bits (w 4) 31 16) 64) ∧
      (code = 0x20 → n = 8 + e.rows * up e.cols 16)) ∧
    (e.words = [1, 0, 0, 0, 0, 0, 0, 0] ∨ e.words = [0x101, 0, 0, 0, 0, 0, 0, 0] → k.startOf e s = .ok 4)

/-- What the commands leave (R95 to R99, R139, R144, R145, R147, R327, R332, R336 to R339, R343): MZERO an accumulator of
zeros; MLDW one row of the W buffer; MMA over one integer group the sum of products added to each element and clamped to
the I32 range, MMAS the same over the k whose bitmap bit is 1; MMA over one floating-point group the group sum of R96, or one
link of the FP64 chain; MMAB over one block the block's value; MADP a row's two products at rank 1, and nothing in a row that
names no adapter; MDRAIN the converted elements, an I32 bank's after bias and ReLU. A group sum whose terms all lie inside
its window is the exact sum rounded once (R96). A finished
command leaves the queue when its time is over, its events enter the accumulator's status, and it raises its sync word
(R101, R115, R135). That a command runs in one step is the model's reading (log 27). -/
def Obligations.MatrixResults : Prop :=
  (∀ (s : State) (c : Nat) (e : MEntry) (rest : List MEntry) (cycles : Nat), (s.core c).mq = e :: rest →
    (s.core c).works = true → e.marker = none → e.run = none → e.bad = false →
    (s.core c).startOf e (s.slot c e.slot).sample = .ok cycles →
    let w := fun n => e.words.getD n 0
    let k := s.core c
    (bits (w 0) 7 0 = 0x01 → ∃ t : State, exec (.mzero c) s = .next t ∧ ((t.core c).working (bitAt (w 0) 8)).kind = .any ∧
      (∀ x, ((t.core c).working (bitAt (w 0) 8)).data.read x = 0) ∧
      (t.core c).working (!bitAt (w 0) 8) = k.working (!bitAt (w 0) 8) ∧ (t.core c).acc0v = k.acc0v ∧
      (t.core c).acc1v = k.acc1v) ∧
    (bits (w 0) 7 0 = 0x02 → bitAt (w 4) 0 = false → bits (w 0) 47 32 = 1 → ∃ t : State, exec (.mldw c) s = .next t ∧
      ∀ x, (t.core c).wbuf.read x =
        let dst := bits (w 2) 15 0
        if dst ≤ x ∧ x < dst + bits (w 4) 31 16
          then (if bitAt (w 1) 17 then k.lm else k.abuf).read (bits (w 1) 16 0 + (x - dst)) else k.wbuf.read x) ∧
    (∀ p, bits (w 0) 7 0 = 0x10 → pairing (s.slot c e.slot).mfmta (s.slot c e.slot).mfmtb = some p → p.cls.id = 4 →
      bits (w 0) 47 32 ≤ 8 → ∃ t : State, exec (.mma c) s = .next t ∧ ∀ i j, i < e.rows → j < e.cols →
        let at_ := 256 * (bits (w 4) 5 0 + i) + 4 * (bits (w 4) 13 8 + j)
        let old := if bitAt (w 0) 9 then 0 else (k.working (bitAt (w 0) 8)).data.num at_ 4
        let sum : Int := (BitVec.ofNat 32 old).toInt + ((List.range (bits (w 0) 47 32)).map (k.intProduct e p i j)).sum
        ((t.core c).working (bitAt (w 0) 8)).data.num at_ 4 =
          (BitVec.ofInt 32 (max (-2 ^ 31) (min (2 ^ 31 - 1) sum))).toNat)) ∧
  (∀ (s : State) (c : Nat) (e : MEntry) (rest : List MEntry) (cycles : Nat), (s.core c).mq = e :: rest →
    (s.core c).works = true → e.marker = none → e.run = none → e.bad = false →
    let sm := (s.slot c e.slot).sample
    (s.core c).startOf e sm = .ok cycles →
    let w := fun n => e.words.getD n 0
    let k := s.core c
    let acc := bitAt (w 0) 8
    let depth := bits (w 0) 47 32
    let place := fun i j => 256 * (bits (w 4) 5 0 + i) + 4 * (bits (w 4) 13 8 + j)
    let old := fun i j => if bitAt (w 0) 9 then 0 else (k.working acc).data.num (place i j) 4
    let now := fun (t : State) i j => ((t.core c).working acc).data.num (place i j) 4
    let r : Rounding := { rm := sm.rm, fz := sm.fz }
    let as32 := fun b => operandF .fp32 sm.fz b
    (∀ p, bits (w 0) 7 0 = 0x11 → pairing sm.fmtA sm.fmtB = some p → p.cls.id = 4 → depth ≤ 8 → bitAt (w 3) 17 = false →
      ∃ t : State, exec (.mmas c) s = .next t ∧ ∀ i j, i < e.rows → j < e.cols →
        let live := (List.range depth).filter (fun x => (k.lm.read (bits (w 3) 16 0 + x / 8)).getLsbD (x % 8))
        let sum : Int := (BitVec.ofNat 32 (old i j)).toInt + (live.map (k.intProduct e p i j)).sum
        now t i j = (BitVec.ofInt 32 (max (-2 ^ 31) (min (2 ^ 31 - 1) sum))).toNat) ∧
    (∀ p, bits (w 0) 7 0 = 0x10 → pairing sm.fmtA sm.fmtB = some p →
      (p.cls.id ≠ 0 → p.cls.id ≠ 4 → depth ≤ p.cls.group → ∃ t : State, exec (.mma c) s = .next t ∧
        ∀ i j, i < e.rows → j < e.cols → now t i j = (groupSum r (if p.cls.id = 1 then 64 else 48) (as32 (old i j))
          ((List.range depth).map (k.product e sm p i j))).bits % 2 ^ 32) ∧
      (p.cls.id = 0 → depth = 1 → ∃ t : State, exec (.mma c) s = .next t ∧ ∀ i j, i < e.rows → j < e.cols →
        let at_ := 512 * (bits (w 4) 5 0 + i) + 8 * (bits (w 4) 13 8 + j)
        let was := if bitAt (w 0) 9 then 0 else (k.working acc).data.num at_ 8
        ((t.core c).working acc).data.num at_ 8 =
          (roundVal .fp64 { rm := 0, fz := false } (sumF 0 [decodeF .fp64 was, k.product e sm p i j 0])).1 % 2 ^ 64)) ∧
    (bits (w 0) 7 0 = 0x12 → depth ≤ 32 → ∃ t : State, exec (.mmab c) s = .next t ∧ ∀ i j, i < e.rows → j < e.cols →
      let m := (sm.fmtA.extractLsb' 4 4).toNat
      let tile := bits (w 2) 3 0
      let mant := (if bits (w 1) 17 17 = 1 then k.lm else k.abuf).num (bits (w 1) 16 0 + i * bits (w 1) 47 32) (4 * m)
      let ea := (k.lm.read (bits (w 5) 16 0 + i * bits (w 5) 47 32)).toNat
      let eb := (((find k.cimExp tile).getD []).read j).toNat
      let sum : Int := ((List.range depth).map (fun q => (BitVec.ofNat m (mant / 2 ^ (m * q))).toInt *
        (k.wbuf.read (4096 * tile + 64 * q + j)).toInt)).sum
      now t i j = if ea = 255 ∨ eb = 255 then canonNaN .fp32 else if ea = 0 ∨ eb = 0 then old i j
        else (roundVal .fp32 r (sumF r.rm [as32 (old i j),
          .num (decide (sum < 0)) sum.natAbs ((ea : Int) - 127 - (m - 2) + ((eb : Int) - 127 - 6))])).1 % 2 ^ 32) ∧
    (bits (w 0) 7 0 = 0x13 → ∃ t : State, exec (.madp c) s = .next t ∧ ∀ i j, i < e.rows → j < e.cols →
      let names := k.lm.num (bits (w 3) 16 0 + 2 * i) 2
      (names = 0xFFFF → now t i j = old i j) ∧
      ∀ ta tb d u, names ≠ 0xFFFF → fmtOf sm.fmtA = some (ta, 0) → fmtOf sm.fmtB = some (tb, 0) → depth = 1 →
        bits (w 5) 19 16 = 0 → k.adapterSpans e tb names = some (d, u) →
        let win := if ta = .fp32 ∧ tb = .fp32 then 64 else 48
        let el := fun (ty : LaneType) (x : Span) (row n : Nat) =>
          operandF ty sm.fz (element (k.space x.space) ty (x.off + row * x.stride) n)
        let h := (groupSum r win (as32 0) [mulF (el ta (e.spanA ta) i 0) (el tb d 0 0)]).bits
        let v := (roundVal .fp32 r (mulF (as32 (bits (w 5) 63 32)) (as32 h))).1
        now t i j = (groupSum r win (as32 (old i j)) [mulF (as32 v) (el tb u 0 j)]).bits % 2 ^ 32) ∧
    (bits (w 0) 7 0 = 0x20 → bitAt (w 4) 19 = false → bits (w 3) 17 17 = 0 → ∀ ty, LaneType.ofCode sm.fmtC = some ty →
      let bank := k.visible acc
      let value := fun i j => bank.data.num (256 * i + 4 * j) 4
      let first := bits (w 3) 16 0
      let stride := bits (w 3) 47 32
      let width := laneWidth ty / 8
      e.cols * width ≤ stride ∨ e.rows = 1 → ∃ t : State, exec (.mdrain c) s = .next t ∧ (t.core c).acc0v = k.acc0v ∧
        (t.core c).acc1v = k.acc1v ∧
        (8 ≤ laneWidth ty → ∀ x, x < first ∨ first + (e.rows - 1) * stride + e.cols * width ≤ x →
          (t.core c).lm.read x = k.lm.read x) ∧
        ∀ i j, i < e.rows → j < e.cols → let out := (t.core c).lm.num (first + i * stride + j * width) width
          (bank.kind = .i32 → ty = .i32 →
            let sum := (BitVec.ofNat 32 (value i j)).toInt + if bitAt (w 4) 17
              then (BitVec.ofNat 32 (k.lm.num (bits (w 4) 16 0 + 4 * j) 4)).toInt else 0
            let v : Int := max (-2 ^ 31) (min (2 ^ 31 - 1) sum)
            out = (BitVec.ofInt 32 (if bitAt (w 4) 18 then max 0 v else v)).toNat) ∧
          (bank.kind = .fp32 → ty ∈ [LaneType.fp32, .fp16, .bf16, .e4m3, .e5m2] → bitAt (w 4) 17 = false →
            bitAt (w 4) 18 = false →
            out = (convertLane .fp32 ty { r with sat := bitAt (w 4) 21 } (value i j)).1 % 2 ^ laneWidth ty))) ∧
  (∀ (r : Rounding) (win : Nat) (acc : FVal) (ps : List FVal),
    (∀ t ∈ acc :: ps, ∃ n m e, t = .num n m e ∧ m ≠ 0 ∧ ∀ n' m' e', .num n' m' e' ∈ acc :: ps →
      (Nat.log2 m' : Int) + e' - win ≤ e) →
    (groupSum r win acc ps).bits = (roundVal .fp32 r (sumF r.rm (acc :: ps))).1) ∧
  (∀ (s : State) (c : Nat) (e : MEntry) (rest : List MEntry) (r : MRun), (s.core c).mq = e :: rest → e.run = some r →
    (r.finished = true → r.due ≤ s.cycle → ∃ t : State, exec (.matrixCommandComplete c) s = .next t ∧ (t.core c).mq = rest ∧
      (t.core c).lm = (if bitAt (e.words.getD 0 0) 10 then raiseLm (s.core c).lm (16 * bits (e.words.getD 0 0) 63 48) 1
        else (s.core c).lm) ∧ t.mem = s.mem ∧
      (bits (e.words.getD 0 0) 7 0 = 0x10 → ((t.core c).working (bitAt (e.words.getD 0 0) 8)).nv =
        (((s.core c).working (bitAt (e.words.getD 0 0) 8)).nv || r.nv))) ∧
    (r.finished = false ∨ s.cycle < r.due → exec (.matrixCommandComplete c) s = .next s))

/-- COMPOSE checks its mask and waits for its grant (R248, R304). The grant comes after the issue: the anchor core and
the members granted join the caravan, and 40 cycles later, or 4 for a grant of one core, COMPOSE retires with the size
in its register, CVSIZE and CVMASK set for more than one (R249, R250). A hand-back keeps the members until it is over; then
they are free and the registers are as last written (R259, Table 11.5). A pre-empted COMPOSE, which this leaves aside,
is log 30. -/
def Obligations.Caravans : Prop :=
  (∀ (s : State) (d b : Reg), Lone s → s.me.txn = none →
    let m := s.X b
    let bad := bits m 63 16 ≠ 0 ∨ bitAt m (groupPos s.cur.1) = true ∨ 7 < ((List.range 16).filter (bitAt m)).length
    (¬ bad → s.me.cvsize ≤ 1 → exec (.compose d b) s = .next (s.modMe (fun u => { u with wait := .compose d m.toNat none }))) ∧
    (bad → s.here.tvec ≠ 0 → ∃ t : State, exec (.compose d b) s = .next t ∧ TrapTaken s t .illegal m s.me.bundle.here s.here.tvec) ∧
    (¬ bad → 1 < s.me.cvsize → s.here.tvec ≠ 0 → ∃ t : State, exec (.compose d b) s = .next t ∧
      TrapTaken s t .caravan (s.me.bundle.word.setWidth 64) s.me.bundle.here s.here.tvec)) ∧
  (∀ (s : State) (c i : Nat) (d : Reg) (m : Nat), i < 4 → s.coreRuns c = true →
    let u := s.slot c i
    let members := s.cvGrant c i m
    (u.wait = .compose d m none → u.lastIssue < s.cycle → ∃ t : State, exec (.stallRelease c i) s = .next t ∧
      (t.slot c i).wait = .compose d m (some (members.length + 1, s.cycle + (if members = [] then 4 else 40))) ∧
      (∀ n, (t.core n).caravan = if members ≠ [] ∧ (n = c ∨ n ∈ members) then some ⟨c, i⟩ else (s.core n).caravan) ∧
      (∀ n, (t.core n).lm = (s.core n).lm) ∧ t.mem = s.mem) ∧
    (∀ n ∈ members, n ≠ c → ((s.core n).launch = (s.core c).launch ∧ (s.core n).caravan = none ∧
      (s.core n).slots.toList.all (fun t => !t.active) = true ∧ (s.core n).works = true ∧ s.mayFill n = false)) ∧
    (∀ size due, u.wait = .compose d m (some (size, due)) → due ≤ s.cycle → u.bundle.popPorts = [] →
      u.bundle.popStreams = [] → u.bundle.stash = none → u.writesInto (.x d) →
      ∃ t : State, exec (.stallRelease c i) s = .next t ∧ (t.slot c i).wait = .none ∧
        (t.slot c i).settled (.x d) = xValue d (BitVec.ofNat 64 size) ∧ (t.slot c i).pc = u.advance.pc ∧
        (t.slot c i).cvsize = (if 1 < size then size else u.cvsize) ∧ t.mem = s.mem) ∧
    (∀ due, u.wait = .handBack due ∨ u.wait = .parted due → s.cycle < due → exec (.stallRelease c i) s = .next s) ∧
    (∀ due, u.wait = .parted due → due ≤ s.cycle → ∃ t : State, exec (.stallRelease c i) s = .next t ∧
      (t.slot c i).wait = .none ∧ (t.slot c i).cvsize = 1 ∧ (t.slot c i).pc = u.pc ∧
      (∀ n, (t.core n).caravan = if (s.core n).caravan = some ⟨c, i⟩ then none else (s.core n).caravan) ∧
      (∀ r, (t.slot c i).settled r = u.settled r) ∧ t.mem = s.mem))

/-! ### Turns, pre-emption and migration -/

/-- A core whose class's turn is over begins the next class's turn, of at most the quantum, and of the whole quantum for
a class alone with no deficit (R192). A launch of the only class that may have a turn, with no launch of the class of higher
effective priority, need not yield (R190, R192). A request for pre-emption is made only for a running core that must yield,
while the save pool has room and the core's NI can forward what comes for the context (R190, R192, R204, R211). -/
def Obligations.TurnsAndRequests : Prop :=
  ∀ (s : State) (c : Nat),
    let k := s.core c
    (s.turnOver c = false → exec (.classTurnEnd c) s = .next s) ∧
    (s.turnOver c = true → ∃ t : State, exec (.classTurnEnd c) s = .next t ∧
      (t.core c).lastClass = some (nextClass k.lastClass (s.turnClasses c)) ∧ (t.core c).turnUsed = 0 ∧
      (t.core c).turnLeft ≤ 65536 ∧
      (∀ cls, s.turnClasses c = [cls] → k.lastClass = none → k.deficits = [] → 0 < s.disp.weight cls →
        (t.core c).lastClass = some cls ∧ (t.core c).turnLeft = 65536) ∧
      t.mem = s.mem ∧ (t.core c).slots = k.slots ∧ ∀ d, d ≠ c → t.core d = s.core d) ∧
    (∀ l cls, k.launch = some l → k.lastClass = some cls → s.turnClasses c = [cls] →
      (∀ m ∈ s.rivals c cls, s.prioOf m ≤ s.prioOf l) → exec (.preemptionRequest c) s = .next s) ∧
    (∀ l m cls, k.launch = some l → k.lastClass = some cls → m ∈ s.rivals c cls → s.prioOf l < s.prioOf m →
      k.stage = .running → s.imageFree = true → k.forwards.length < 64 →
      exec (.preemptionRequest c) s = .next (s.modCore c (fun k => { k with stage := .requested s.cycle }))) ∧
    (k.stage = .running → s.mustYield c = true → s.imageFree = true → k.forwards.length < 64 →
      exec (.preemptionRequest c) s = .next (s.modCore c (fun k => { k with stage := .requested s.cycle }))) ∧
    (k.stage ≠ .running ∨ s.mustYield c = false ∨ s.imageFree = false ∨ 64 ≤ k.forwards.length →
      exec (.preemptionRequest c) s = .next s)

/-- A request that the engine takes stops the core. A stopping core whose slots stand still becomes an image: every register with all its writes landed, every PC, no
wait; its LM holds the tails, x1 to x31 and v0 to v31 and the PC of each slot at their places; the core is free when the
engine has streamed the image to its place in the save pool, LM first (R14, R59, R202, R204, R206). The write waits while
the host holds a line of that place or a commit has a tile of it (R176, R246). At which step the context leaves its core is
the model's reading (log 30). -/
def Obligations.SavingAContext : Prop :=
  (∀ (s : State) (c l since : Nat) (x : Launch), (s.core c).stage = .stopping none since → (s.core c).launch = some l →
    find s.launches l = some x → (s.core c).wb = [] → (s.core c).still s.cycle = true → (s.core c).caravan = none →
    (s.core c).devq = [] → (∀ e ∈ (s.core c).mq.drop 1, e.run = none) →
    (∀ i, i < 4 → (s.slot c i).txn = none ∧ (s.slot c i).streams = [] ∧ (s.slot c i).cvsize ≤ 1) →
    ∃ t img, exec (.preemption c) s = .next t ∧ find t.images s.serial = some img ∧ img.launch = l ∧
      img.origin = (s.core c).origin ∧ img.site = c ∧ img.written = false ∧ (t.core c).launch = none ∧
      (t.core c).stage = .saving (s.cycle + 4858) ∧
      (find t.launches l).bind (fun y => find y.places (s.core c).origin) = some (.image s.serial) ∧
      ∀ i, i < 4 → (img.core.slot i).pc = (s.slot c i).pc ∧ (img.core.slot i).active = (s.slot c i).active ∧
        (img.core.slot i).wait = .none ∧ (img.core.slot i).pend = [] ∧
        (∀ r, (img.core.slot i).reg r = (s.slot c i).settled r) ∧
        let tail := 0x1F000 + 1024 * i
        (∀ r : Reg, r ≠ 0 → (img.core.lm.word (tail + 8 * r.toNat)).setWidth 128 = (s.slot c i).settled (.x r)) ∧
        (∀ r : Reg, BitVec.ofNat 128 (img.core.lm.num (tail + 0x100 + 16 * r.toNat) 16) = (s.slot c i).settled (.v r)) ∧
        img.core.lm.word (tail + 0x300) = (s.slot c i).pc) ∧
  (∀ (s : State) (c since : Nat), (s.core c).stage = .requested since →
    (s.mustYield c = false → exec (.preemption c) s = .next (s.modCore c (fun k => { k with stage := .running }))) ∧
    (s.mustYield c = true → s.engineNext c = false → exec (.preemption c) s = .next s) ∧
    (s.mustYield c = true → s.engineNext c = true → exec (.preemption c) s =
      exec (.preemption c) (s.modCore c (fun k => { k with stage := .stopping none since })))) ∧
  (∀ (s : State) (c due : Nat), (s.core c).stage = .saving due →
    (∀ n img pa size, due ≤ s.cycle →
      s.images.find? (fun (p : Nat × Image) => p.2.site == c && !p.2.written) = some (n, img) →
      s.disp.savepool = some (pa, size) →
      let base := pa % 2 ^ 42 + 0x5C000 * img.slot
      (s.rangeClear base 0x5C000 = false → ∃ t : State, exec (.imageSaveDone c) s = .next t ∧ t.mem = s.mem ∧
        (t.core c).stage = .saving due) ∧
      (s.rangeClear base 0x5C000 = true → (s.touchTiles true (tilesOf base 0x5C000)).isSome = true → ∃ t : State, exec (.imageSaveDone c) s = .next t ∧ (t.core c).stage = .running ∧
        (find t.images n).map Image.written = some true ∧
        (∀ j, j < 0x20000 → t.mem.read (base + j) = img.core.lm.read j) ∧
        ∀ y, y < base ∨ base + 0x5C000 ≤ y → t.mem.read y = s.mem.read y)) ∧
    (s.cycle < due → exec (.imageSaveDone c) s = .next s))

/-- The cores of a restore are kept for its images, all of a block at once, and each image is loaded when the engine of the
sector serves its request, which waits its turn (R192, R207, R208). A restored context stands on its core with the LM of its
image in the save pool and the registers, PC, handler flag and loop that the tails there hold, and issues once the engine has
loaded it (R14, R209). A live migration raises the launch's generation, then stops the core
(R210); the context moves to the other core with its registers, and leaves a forwarding entry that goes when every core of
the launch has acknowledged (R210). Which core a restore may take is the model's reading (log 31). -/
def Obligations.RestoreAndMigration : Prop :=
  (∀ (s : State) (n c : Nat) (img : Image) (x : Launch), find s.images n = some img →
    find s.launches img.launch = some x →
    (∀ pa size since, (s.core c).stage = .loading n since → s.engineNext c = true → s.disp.savepool = some (pa, size) →
      let base := pa % 2 ^ 42 + 0x5C000 * img.slot
      ∃ t : State, exec (.restore n c) s = .next t ∧ find t.images n = none ∧
        (t.core c).launch = img.core.launch ∧ (t.core c).stage = .restoring (s.cycle + 4858) ∧
        (find t.launches img.launch).bind (fun y => find y.places img.origin) = some (.transit c) ∧
        (∀ j, j < 0x20000 → (t.core c).lm.read j = s.mem.read (base + j)) ∧ t.mem = s.mem ∧ ∀ i, i < 4 →
          let tail := base + 0x1F000 + 1024 * i
          (∀ r : Reg, r ≠ 0 → (t.slot c i).reg (.x r) = (s.mem.word (tail + 8 * r.toNat)).setWidth 128) ∧
          (∀ r : Reg, (t.slot c i).reg (.v r) = BitVec.ofNat 128 (s.mem.num (tail + 0x100 + 16 * r.toNat) 16)) ∧
          (t.slot c i).pc = s.mem.word (tail + 0x300) ∧ (t.slot c i).active = bitAt (s.mem.word (tail + 0x308)) 63 ∧
          (t.slot c i).h = bitAt (s.mem.word (tail + 0x308)) 62 ∧
          (t.slot c i).loop = loopOf (s.mem.word (tail + 0x388)) (s.mem.word (tail + 0x390))) ∧
    (∀ m since, (s.core c).stage = .loading m since → m ≠ n ∨ s.engineNext c = false → exec (.restore n c) s = .next s) ∧
    ((∀ m since, (s.core c).stage ≠ .loading m since) → (s.restorable n c img = false → exec (.restore n c) s = .next s) ∧
      (s.restorable n c img = true → exec (.restore n c) s = .next ((s.restoredWith c img).foldl (fun (u : State) p =>
        u.modCore p.2.2 (fun k => { k with stage := .loading p.1 s.cycle })) s)))) ∧
  (∀ (s : State) (n c since : Nat), find s.images n = none → (s.core c).stage = .loading n since →
    exec (.restore n c) s = .next (s.modCore c (fun k => { k with stage := .running }))) ∧
  (∀ (s : State) (c d l : Nat) (x : Launch), c ≠ d → (s.core c).stage = .running → (s.core c).launch = some l →
    find s.launches l = some x → (s.core d).stage ≠ .promised c → s.disp.savepool.isSome = true → s.mayMove l (s.core c).origin d = true →
    (s.leaveWith l (s.core c).origin d).isSome = true → ∃ t : State, exec (.liveMigration c d) s = .next t ∧
      (find t.launches l).map Launch.gen = some (x.gen + 1)) ∧
  (∀ (s : State) (c d l since : Nat) (x : Launch), c ≠ d → (s.core c).stage = .stopping (some d) since → (s.core c).launch = some l →
    find s.launches l = some x → (s.core c).wb = [] → (s.core c).still s.cycle = true → (s.core c).caravan = none →
    (s.core c).devq = [] → (∀ e ∈ (s.core c).mq.drop 1, e.run = none) → s.engineNext c = true →
    (∀ i, i < 4 → (s.slot c i).txn = none ∧ (s.slot c i).streams = [] ∧ (s.slot c i).cvsize ≤ 1 ∧
      ∀ d m g, (s.slot c i).wait ≠ .compose d m g) →
    ∃ t : State, exec (.liveMigration c d) s = .next t ∧ (t.core c).launch = none ∧
      (t.core c).forwards = (s.core c).forwards ++ [(l, (s.core c).origin, d)] ∧ (t.core d).launch = some l ∧
      (t.core d).origin = (s.core c).origin ∧ (t.core d).stage = .restoring (s.cycle + 4858) ∧
      (find t.launches l).bind (fun y => find y.places (s.core c).origin) = some (.transit d) ∧
      ∀ i, i < 4 → (t.slot d i).pc = (s.slot c i).pc ∧ ∀ r, (t.slot d i).reg r = (s.slot c i).settled r) ∧
  (∀ (s : State) (l c : Nat) (x : Launch), find s.launches l = some x → c ∈ x.sites →
    let acks := if x.acks.contains c then x.acks else x.acks ++ [c]
    (x.sites.all acks.contains = true → ∃ t : State, exec (.newGenerationAck l c) s = .next t ∧
      ∀ d, (t.core d).forwards = (s.core d).forwards.filter (fun f => f.1 != l)) ∧
    (x.sites.all acks.contains = false → ∃ t : State, exec (.newGenerationAck l c) s = .next t ∧
      (find t.launches l).map Launch.acks = some acks ∧ ∀ d, (t.core d).forwards = (s.core d).forwards))

/-! ### Launches -/

/-- LAUNCH_ACCEPT takes the next header of the round-robin: one that passes the checks enters the launch table waiting,
one that fails them gets BADHDR in its completion word and is not run (R21, R25, R183, R184); a completion word whose
writing has to wait is kept, and no header waits for it (R176, R183, R246). A device header goes to the sub-dispatcher of its
die with the ASID, class and priority of its launcher, in arrival order (R187). -/
def Obligations.AcceptingLaunches : Prop :=
  (∀ (s : State) (q : Nat) (w : List Word) (rest : List (List Word)), s.disp.words = [] → s.stopped = false →
    s.launches.length < 4096 → s.nextSource = some q → q < 16 → (s.disp.queue q).recs = w :: rest →
    let asid := bits (w.getD 0 0) 47 32
    let x := s.disp.queue q
    let taken : State := { s with disp := { s.disp with
      rr := some q, queues := put s.disp.queues q { x with recs := rest } } }
    let u := taken.dispAsk asid (taken.headerRanges w)
    let agrees := asid == x.asid && bits (w.getD 0 0) 15 12 == x.cls
    (∀ hs ranks, u.checkHeader w agrees = .ok hs ranks → ∃ l, exec .launchAccept s =
        .next { u with launches := put s.launches s.serial l, serial := s.serial + 1 } ∧ l.hdr = w ∧ l.state = .waiting ∧
      l.handlers = hs ∧ l.ranks = ranks ∧ l.prio = bits (w.getD 0 0) 10 8 ∧ l.parent = none ∧ l.undealt = 0 ∧
      l.places = [] ∧ l.ending = none) ∧
    (∀ off un, u.checkHeader w agrees = .bad → completionVa w % 8 = 0 → s.wordFree off →
      u.dispByte asid (completionVa w) true = some (.own off un) → ∃ t : State, exec .launchAccept s = .next t ∧
      t.launches = s.launches ∧ t.mem.num off 8 = bits (w.getD 2 0) 63 48 * 2 ^ 16 + 4 ∧ t.disp.words = []) ∧
    (u.checkHeader w agrees = .bad → u.heldWords none [(asid, w)] ≠ [] → ∃ t : State, exec .launchAccept s = .next t ∧
      t.launches = s.launches ∧ t.disp.words = [(asid, w, .badhdr, 0)] ∧ t.mem = s.mem ∧ t.cores = s.cores) ∧
    (agrees = false ∨ bits (w.getD 0 0) 7 0 ≠ 1 → u.checkHeader w agrees = .bad)) ∧
  (∀ (s : State) (die c : Nat) (h : DevHeader) (l : Launch), s.oldestHeader die = some (c, h) →
    find s.launches h.parent = some l → ∃ t x, exec (.subDispatch die) s = .next t ∧
      (t.core c).devq = (s.core c).devq.erase h ∧
      (∀ y, y ∈ listOf t.disp.subq (dieOf c) ↔ y = x ∨ y ∈ listOf s.disp.subq (dieOf c)) ∧
      ((∀ y ∈ listOf s.disp.subq (dieOf c), y.stamp ≤ h.stamp) →
        listOf t.disp.subq (dieOf c) = listOf s.disp.subq (dieOf c) ++ [x]) ∧
      (∀ y r, listOf s.disp.subq (dieOf c) = y :: r → h.stamp < y.stamp →
        listOf t.disp.subq (dieOf c) = x :: y :: r) ∧ x.words = h.words ∧ x.parent = h.parent ∧
      x.asid = l.asid ∧ x.cls = l.cls ∧ x.prio = l.prio ∧ x.stamp = h.stamp ∧ t.launches = s.launches)

/-- A waiting launch whose dependences are met is ready, or ends DONE at once when it has no work item (R21, R184); the
wait counter's line is watched from the first read, and zero ends the wait (R186); a launch starts on a free core that
it should hold with the batches dealt to it, empty queues, caches and A zero map, clear ACCST and idle slots, as an acquire
(R25, R26, R27, R53, R146, R164, R409); a batch goes to the next core of the round, wherever its context is (R27). That LM stays as it is at a start is the model's reading (log 32). -/
def Obligations.StartingLaunches : Prop :=
  ∀ (s : State) (l c : Nat) (x : Launch), find s.launches l = some x →
    (x.met = false → exec (.launchReady l) s = .next s) ∧
    (x.met = true → x.countList = false → x.undealt < x.count → ∃ t : State, exec (.launchReady l) s = .next t ∧
      (find t.launches l).map Launch.state = some .ready ∧ t.mem = s.mem ∧ t.cores = s.cores) ∧
    (∀ off un, x.met = true → x.countList = false → x.count ≤ x.undealt → x.places = [] → x.watching = none →
      s.wordFree off → (∀ d, (s.core d).launch ≠ some l) → completionVa x.hdr % 8 = 0 →
      s.dispByte x.asid (completionVa x.hdr) true = some (.own off un) → ∃ t : State, exec (.launchReady l) s = .next t ∧
      find t.launches l = none ∧ t.mem.num off 8 = x.id * 2 ^ 16 + 1) ∧
    (∀ off, x.state = .waiting → x.preds = [] → x.waits = true → x.cleared = false → x.ending = none →
      s.counterAt x = some off → ∃ t : State, exec (.waitCounterRead l) s = .next t ∧ (t.dirOf off).watched = true ∧
      (find t.launches l).map (fun y => (y.watching, y.cleared)) = some (some off, decide (s.mem.num off 8 = 0)) ∧
      t.mem = s.mem) ∧
    (x.live = true → find x.places c = none → (s.core c).free = true → s.chosen c = some l →
      (x.started = true ∨ x.captured = false) → ∃ t : State, exec (.launchStart l c) s = .next t ∧ (t.core c).launch = some l ∧
      (t.core c).origin = c ∧ (t.core c).table = x.handlers ∧ (t.core c).l1d = [] ∧ (t.core c).l1i = [] ∧ (t.core c).zmap = [] ∧ (t.core c).batches = listOf x.ahead c ∧
      (∀ b ∈ [(t.core c).acc0w, (t.core c).acc0v, (t.core c).acc1w, (t.core c).acc1v],
        b.nv = false ∧ b.of = false ∧ b.sat = false ∧ b.empty = false) ∧
      (t.core c).arrival = [] ∧ (t.core c).oasis = [] ∧ (t.core c).tvec = 0 ∧ (t.core c).splim = 64 ∧
      (t.core c).topk = 1 ∧ (t.core c).slots.toList.all (fun u => !u.active) = true ∧ (t.core c).lm = (s.core c).lm ∧
      (find t.launches l).map (fun y => (y.state, find y.places c)) = some (.running, some (.site c)) ∧ t.mem = s.mem) ∧
    (s.chosen c ≠ some l → exec (.launchStart l c) s = .next s) ∧
    (∀ d, s.nextDealt x = some d → d ∈ x.cores s.pkg ∧ (s.batchesOf x d).length < 4) ∧
    (∀ u, x.nextId x.undealt = some u → s.nextDealt x = some c → x.live = true →
      ∃ t b, exec (.batchDeal l c) s = .next t ∧ b.first = u ∧
      (∀ n, s.standsAt l c = some n → (t.core n).batches = (s.core n).batches ++ [b]) ∧
      (s.standsAt l c = none → (find t.launches l).map (fun y => listOf y.ahead c) = some (listOf x.ahead c ++ [b])) ∧
      b.num = u / 2 ^ fieldAt (x.word 3) x.deal ∧
      (x.countList = false → b.left = min ((b.num + 1) * 2 ^ fieldAt (x.word 3) x.deal) x.count - u) ∧
      (find t.launches l).map Launch.undealt = some (u + b.left) ∧ t.mem = s.mem)

/-- A complete launch leaves its cores and the launch table, and its completion word says DONE (R22, R23); an ending
launch is torn down core by core, and when no core holds it any more its completion word gives its status and cause
(R22, R188), which the host or a commit may hold up (R176, R246); a write to LKILL marks the launches it names KILLED, and
BUSY clears once none of them is left (R194).
That LM stays as it is at the end is the model's reading (log 32). -/
def Obligations.EndingLaunches : Prop :=
  (∀ (s : State) (l : Nat) (x : Launch), find s.launches l = some x →
    (s.complete l x = false → exec (.launchComplete l) s = .next s) ∧
    (∀ off un, s.complete l x = true → (∀ c ∈ x.sites, (s.core c).wb = [] ∧ (s.core c).devq = [] ∧
        ∀ i, i < 4 → (s.slot c i).streams = []) → s.wordFree off → completionVa x.hdr % 8 = 0 →
      s.dispByte x.asid (completionVa x.hdr) true = some (.own off un) → ∃ t : State, exec (.launchComplete l) s = .next t ∧
      find t.launches l = none ∧ (∀ c ∈ x.sites, (t.core c).launch = none) ∧ t.mem.num off 8 = x.id * 2 ^ 16 + 1) ∧
    (∀ st cause c, x.ending = some (st, cause) →
      (∀ off un, x.places = [] → (s.core c).launch ≠ some l → (∀ p ∈ s.launches, l ∉ p.2.preds) → s.wordFree off → completionVa x.hdr % 8 = 0 → cause < 2 ^ 32 →
        s.dispByte x.asid (completionVa x.hdr) true = some (.own off un) → ∃ t : State, exec (.teardown l c) s = .next t ∧
        find t.launches l = none ∧ t.mem.num off 8 = cause * 2 ^ 32 + x.id * 2 ^ 16 + st.code) ∧
      (∀ n o, n ≠ c → o ≠ (s.core c).origin → find x.places o = some (.site n) → (s.core n).launch = some l →
        (s.core c).launch = some l → (s.core c).wb = [] → (s.core c).devq = [] →
        (s.core c).slots.toList.all (fun u => !u.active) = true → ∃ t : State, exec (.teardown l c) s = .next t ∧
        (t.core c).launch = none ∧ (t.core c).lm = (s.core c).lm ∧ (t.core n).launch = some l ∧
        (find t.launches l).map (fun y => find y.places (s.core c).origin) = some none ∧ t.mem = s.mem))) ∧
  (∀ (s : State) (v : Word), s.linksUp = true → s.disp.lkillBusy = false →
    (bits v 15 0 ≠ 0 → ∃ t : State, exec (.lkillLaunch v) s = .next t ∧ t.disp.lkillBusy = true ∧ t.mem = s.mem ∧
      ∀ l x, find s.launches l = some x → (find t.launches l).map Launch.ending = some (
        if (x.asid = bits v 47 32 ∧ x.id = bits v 15 0) ∧ x.ending = none then some (.killed, 0) else x.ending)) ∧
    (bits v 15 0 = 0 → ∃ t : State, exec (.lkillAsid v) s = .next t ∧ t.disp.lkillBusy = true ∧ t.mem = s.mem ∧
      ∀ l x, find s.launches l = some x → (find t.launches l).map Launch.ending = some (
        if x.asid = bits v 47 32 ∧ x.ending = none then some (.killed, 0) else x.ending))) ∧
  (∀ (s : State), s.disp.lkillBusy = true →
    let gone := ∀ l x, find s.launches l = some x → x.asid = bits s.disp.lkill 47 32 →
      (bits s.disp.lkill 15 0 = 0 ∨ x.id = bits s.disp.lkill 15 0) → x.ending = none
    (gone → exec .lkillComplete s = .next { s with disp := { s.disp with lkillBusy := false } }) ∧
    (¬ gone → exec .lkillComplete s = .next s))

/-! ### Management -/

/-- The mailbox that is served ends its command with a status and does what Table 13.2 gives: a cap that may hold from 1 ms
after the return of OK on, the sensor records, log records, firmware writes into the inactive bank alone, whose written
image no reset boots before it is activated, a verified bank for the next reset, the pools. An argument out of range has no effect but BADARG, an unknown command gives BADCMD; one command at a
time is served, in the order of GO (R273, R274, R275, R276, R279, R412). The layout of the arguments of SETCAP, READLOG
and FWWRITE and the bytes of a log record are the model's (log 17). -/
def Obligations.MailboxCommands : Prop :=
  (∀ (s : State) (box : Nat) (rest : List Nat), s.tele.order = box :: rest → (s.tele.mbox box).busy = true →
    (s.tele.mbox box).done = false →
    let m := s.tele.mbox box
    let ends := fun (t : State) (st : Nat) => (t.tele.mbox box).done = true ∧ (t.tele.mbox box).status = st ∧
      (t.tele.mbox box).busy = true ∧ t.tele.order = s.tele.order ∧ t.mem = s.mem ∧ t.cores = s.cores ∧
      t.launches = s.launches
    let n := (m.dword 0).toNat
    (m.len ≤ 32512 →
      (m.code = 1 → 1200 ≤ n ∧ n ≤ 2800 → ∃ t : State, exec (.setcap box) s = .next t ∧ ends t 0 ∧
        t.tele.capNext = s.tele.capNext ++ [(n, none)] ∧ t.tele.cap = s.tele.cap) ∧
      (m.code = 1 → n < 1200 ∨ 2800 < n → ∃ t : State, exec (.setcap box) s = .next t ∧ ends t 2 ∧
        t.tele.capNext = s.tele.capNext) ∧
      (m.code = 2 → ∃ t : State, exec (.sensors box) s = .next t ∧ ends t 0 ∧ ∀ j r, s.tele.sensors[j]? = some r → j < 2032 →
        (t.tele.mbox box).data.num (0x8100 + 16 * j) 8 = r.value.toNat ∧
        (t.tele.mbox box).data.num (0x8108 + 16 * j) 4 = r.status.toNat ∧
        (t.tele.mbox box).data.num (0x810C + 16 * j) 4 = r.id.toNat) ∧
      (m.code = 3 → n < 16384 → ∃ t : State, exec (.readlog box) s = .next t ∧ ends t 0 ∧ ∀ j r, s.tele.log[n + j]? = some r →
        j < 508 → ∀ k, k < 64 → (t.tele.mbox box).data.read (0x8100 + 64 * j + k) =
          Config.recordByte r.cycle r.code r.phys r.core r.vals k) ∧
      (m.code = 3 → 16384 ≤ n → ∃ t : State, exec (.readlog box) s = .next t ∧ ends t 2 ∧
        (t.tele.mbox box).data = m.data) ∧
      (m.code = 0x10 → 8 ≤ m.len → ∃ t : State, exec (.fwwrite box) s = .next t ∧ ends t 0 ∧
        (∀ k, k < m.len - 8 → (t.tele.bank s.tele.inactive)[n + k]? = some (m.data.read (0x8108 + k))) ∧
        (∀ k b, k < n ∨ n + (m.len - 8) ≤ k → (s.tele.bank s.tele.inactive)[k]? = some b →
          (t.tele.bank s.tele.inactive)[k]? = some b) ∧
        t.tele.bank s.tele.activeBank = s.tele.bank s.tele.activeBank ∧ t.tele.nextBank = s.tele.activeBank) ∧
      (m.code = 0x10 → m.len < 8 → ∃ t : State, exec (.fwwrite box) s = .next t ∧ ends t 2 ∧ t.tele.banks = s.tele.banks) ∧
      (m.code = 0x11 → accepted (s.tele.bank s.tele.inactive) = true → ∃ t : State, exec (.fwactivate box) s = .next t ∧
        ends t 0 ∧ t.tele.nextBank = s.tele.inactive ∧ t.tele.activeBank = s.tele.activeBank) ∧
      (m.code = 0x11 → accepted (s.tele.bank s.tele.inactive) = false → ∃ t : State, exec (.fwactivate box) s = .next t ∧
        ends t 3 ∧ t.tele.nextBank = s.tele.nextBank ∧ t.tele.activeBank = s.tele.activeBank) ∧
      (let size := (m.dword 1).toNat
        let range := fun (bytes : Nat) => 16 ≤ m.len ∧ 0 < bytes ∧ n % 4096 = 0 ∧ n / 2 ^ 42 = s.pkg ∧
          n % 2 ^ 42 + bytes ≤ 768 * 2 ^ 30 - 2 ^ 31
        let clear := fun (bytes : Nat) (other : Option (Nat × Nat)) => ∀ pa k, other = some (pa, k) →
          n % 2 ^ 42 + bytes ≤ pa % 2 ^ 42 ∨ pa % 2 ^ 42 + k ≤ n % 2 ^ 42
        let images := s.disp.savepool.map (fun p => (p.1, p.2 * 0x5C000))
        (m.code = 0x20 → range (size * 0x5C000) → clear (size * 0x5C000) s.disp.cappool →
          ∃ t : State, exec (.savepool box) s = .next t ∧ ends t 0 ∧ t.disp.savepool = some (n, size)) ∧
        (m.code = 0x20 → ¬ (range (size * 0x5C000) ∧ clear (size * 0x5C000) s.disp.cappool) → ∃ t : State, exec (.savepool box) s = .next t ∧ ends t 2 ∧
          t.disp.savepool = s.disp.savepool) ∧
        (m.code = 0x21 → range size → size % 4096 = 0 → clear size images →
          ∃ t : State, exec (.cappool box) s = .next t ∧ ends t 0 ∧ t.disp.cappool = some (n, size) ∧ t.disp.capUsed = 0) ∧
        (m.code = 0x21 → ¬ (range size ∧ size % 4096 = 0 ∧ clear size images) → ∃ t : State, exec (.cappool box) s = .next t ∧ ends t 2 ∧
          t.disp.cappool = s.disp.cappool))) ∧
    (m.code ∉ [1, 2, 3, 0x10, 0x11, 0x20, 0x21] → ∃ t : State, exec (.mailboxUnknownCmd box) s = .next t ∧ ends t 1) ∧
    (32512 < m.len → m.code = 1 → ∃ t : State, exec (.setcap box) s = .next t ∧ ends t 2 ∧ t.tele.capNext = s.tele.capNext)) ∧
  (∀ (s : State) (box : Nat) (rest : List Nat), s.tele.order = box :: rest → (s.tele.mbox box).done = true →
    ∃ t : State, exec (.mailboxDone box) s = .next t ∧ t.tele.order = rest ∧ (t.tele.mbox box).busy = false ∧
      (t.tele.mbox box).done = false ∧ (t.tele.mbox box).status = (s.tele.mbox box).status ∧
      (t.tele.mbox box).data = (s.tele.mbox box).data ∧ t.cores = s.cores ∧ t.mem = s.mem ∧
      t.tele.capNext = s.tele.capNext.map (fun p => (p.1, some (p.2.getD (s.cycle + 3300000))))) ∧
  (∀ (s : State) (box other : Nat) (rest : List Nat), s.tele.order = other :: rest → box ≠ other →
    exec (.mailboxDone box) s = .next s ∧ exec (.setcap box) s = .next s ∧ exec (.sensors box) s = .next s ∧
    exec (.readlog box) s = .next s ∧ exec (.fwwrite box) s = .next s ∧ exec (.fwactivate box) s = .next s ∧
    exec (.savepool box) s = .next s ∧ exec (.cappool box) s = .next s ∧ exec (.mailboxUnknownCmd box) s = .next s)

/-- A sample gives each sensor that it names by its id a new record, and lowers the effective cap by 100 W for every whole degree above 105;
above 115 degrees the part stops, every launch ending FAULT with cause 0, and once they have ended no step follows but a
power-good (R274, R275). A power window
takes each new cap once 1 ms has passed since its OK and paces the engines while the mean lies above the cap (R18, R275). Power-good clears
everything volatile and brings the part up to step 5, or fails at step 3 on a die with too few good cores; the bank for
the next reset boots, or the other one if it is not accepted (R277, R279). GET_MEASUREMENTS answers from step 1 on
(R280). A mismatch that the second execution does not repeat is logged and changes nothing; one that persists brings a
spare, or ends the launch with FAULT and cause 14 when there is none (R215, R216). That memory reads as zero after
power-good, which sensors count, and what a persistent mismatch stops are the model's (logs 2, 14, 38). -/
def Obligations.PowerSensorsAndBringUp : Prop :=
  ((∀ (s : State) (recs : List SensorRec),
    let all := s.tele.sensors.map (fun old => (recs.find? (fun r => r.id == old.id)).getD old)
    let eff := s.tele.cap - 100 * ((hottest all - 105000).toNat / 1000)
    ∃ t : State, exec (.sensorSample recs) s = .next t ∧ (hottest all ≤ 115000 → t.tele.sensors = all ∧ t.tele.capEff = eff ∧
      t.stopped = s.stopped ∧ t.launches = s.launches ∧ t.cores = s.cores ∧ t.mem = s.mem) ∧
      (115000 < hottest all → t.stopped = true ∧ t.tele.sensors = all ∧ t.cores = s.cores ∧ t.mem = s.mem ∧
        (∀ l x, find s.launches l = some x →
          (find t.launches l).map Launch.ending = some (some (x.ending.getD (.fault, 0)))) ∧
        (s.launches = [] → powerCycle s.agenda = none → step t = .fault .partStopped))) ∧
  (∀ (s : State) (mean : Nat), ∃ t : State, exec (.powerWindow mean) s = .next t ∧
    (let due := fun (p : Nat × Option Nat) => p.2.any (fun d => decide (d ≤ s.cycle));
      ((∀ p ∈ s.tele.capNext, due p = false) → t.tele.cap = s.tele.cap) ∧
      (∀ p, (s.tele.capNext.filter due).getLast? = some p → t.tele.cap = p.1) ∧
      t.tele.capNext = s.tele.capNext.filter (fun p => !due p)) ∧
    t.tele.capEff = t.tele.cap - 100 * ((hottest s.tele.sensors - 105000).toNat / 1000) ∧
    t.tele.throttle = decide (t.tele.capEff < mean) ∧ t.cores = s.cores ∧ t.mem = s.mem ∧ t.launches = s.launches)) ∧
  ((∀ (s : State) (inp : BringupInput), ∃ t : State, exec (.powerGood inp) s = .next t ∧ t.mem = [] ∧ t.cores = [] ∧
    t.launches = [] ∧ t.images = [] ∧ t.net = [] ∧ t.cycle = 0 ∧ t.stopped = false ∧ t.hostMem = s.hostMem ∧
    t.tele.banks = s.tele.banks ∧ t.tele.retired = s.tele.retired ∧ t.tele.cap = 2800 ∧ t.disp.queues = [] ∧
    t.disp.savepool = none ∧
    (let next := if s.tele.writing then s.tele.activeBank else s.tele.nextBank;
      (accepted (s.tele.bank next) = true → t.tele.activeBank = next) ∧
      (accepted (s.tele.bank next) = false → t.tele.activeBank = 1 - next)) ∧ t.fab.cxl = inp.cxl ∧
    (∀ p, p ∈ t.tele.excluded ↔ p ∈ s.tele.retired ∨ ∃ b ∈ inp.badCores, p = b.1 * 2112 + b.2) ∧
    (t.tele.failed = true ↔ ∃ d, d < 8 ∧ ((List.range 2112).filter (fun k => !t.tele.excluded.contains (d * 2112 + k))).length < 2048) ∧
    t.tele.bringup = (if t.tele.failed then 3 else 5)) ∧
  (∀ (s : State) (nonce : List Byte),
    let a := Config.sha256 (s.tele.bank 0)
    let b := Config.sha256 (s.tele.bank 1)
    let n := s.tele.retired.length
    (s.tele.bringup = 0 → exec (.getMeasurements nonce) s = .next s) ∧
    (s.tele.bringup ≠ 0 → exec (.getMeasurements nonce) s = .next { s with answers := s.answers ++
      [.measurements a b Config.fusedMinimum n (Config.identitySign nonce a b Config.fusedMinimum n)] })) ∧
  (∀ (s : State) (c i : Nat) (matrix : Bool), ∃ t : State, exec (.checkerMismatch c i false matrix) s = .next t ∧
    (∃ r, t.tele.log.getLast? = some r ∧ r.cycle = s.cycle ∧ r.code = evCorrected ∧ r.core = c) ∧ t.cores = s.cores ∧
    t.launches = s.launches ∧ t.mem = s.mem) ∧
  (∀ (s : State) (c i : Nat), (s.core c).caravan = none → (s.slot c i).active = false →
    (∀ p, s.tele.nextSpare (dieOf c) = some p → (s.core c).launch = none →
      ∃ t : State, exec (.checkerMismatch c i true false) s = .next t ∧
      t.tele.retired = s.tele.retired ++ [s.tele.physical c] ∧ t.tele.physical c = p ∧ t.mem = s.mem) ∧
    (∀ l x, s.tele.nextSpare (dieOf c) = none → (s.core c).launch = some l → find s.launches l = some x → x.ending = none →
      ∃ t : State, exec (.checkerMismatch c i true false) s = .next t ∧
      (find t.launches l).map Launch.ending = some (some (.fault, 14)) ∧ t.mem = s.mem ∧ t.cores = s.cores)))

/-! ### The Zynong fabric -/

/-- A packet of a stream that is no multicast's (R228, R229): a duplicate is discarded and acknowledged again, one more
than 2^15 ahead is discarded, one ahead waits once in the reorder buffer, if that has room, and the expected one is delivered, with
those behind it, in sequence order and acknowledged by the highest number delivered. An acknowledgement frees what it
covers. A stream whose oldest packet has waited for ZRTO since it was last sent is sent again, whole, in order, with the current version, and
every fourth timeout in a row is logged (R230). A switch forwards only its own version, to one port of the spray set,
and a newer packet of its shadow's version makes the shadow current first; any other packet is discarded (R231, R232).
A packet for another package leaves the model (log 11). -/
def Obligations.PacketsBetweenPackages : Prop :=
  ((∀ (s : State) (p : Packet), p.stream.cls ≠ 2 →
    let plain := fun (q : Packet) => ∀ v, q.body.body ≠ .activate v
    let x : InStream := s.fab.inStream p.stream
    let d : Nat := (p.seq - x.expected).toNat
    (p.stream.dst ≠ s.pkg → exec (.zynongPacketReceive p) s = .next s) ∧
    (p.stream.dst = s.pkg →
      (2 ^ 31 ≤ d → exec (.zynongPacketReceive p) s =
        .next { s with fab := { s.fab with acked := s.fab.acked ++ [(p.stream, x.expected - 1)] } }) ∧
      (2 ^ 15 < d → d < 2 ^ 31 → exec (.zynongPacketReceive p) s = .next s) ∧
      (0 < d → d ≤ 2 ^ 15 → (∃ q ∈ x.held, q.seq = p.seq) → exec (.zynongPacketReceive p) s = .next s) ∧
      (0 < d → d ≤ 2 ^ 15 → (∀ q ∈ x.held, q.seq ≠ p.seq) → s.fab.reorderRoom p = true →
        ∃ t : State, exec (.zynongPacketReceive p) s = .next t ∧ t.fab.inStream p.stream = ⟨x.expected, x.held ++ [p]⟩ ∧
          t.net = s.net ∧ t.fab.acked = s.fab.acked ∧ t.cores = s.cores) ∧
      (0 < d → d ≤ 2 ^ 15 → s.fab.reorderRoom p = false → exec (.zynongPacketReceive p) s = .next s) ∧
      (d = 0 → (∀ q ∈ x.held, q.seq ≠ p.seq + 1) → plain p → ∃ (t : State) (m : Msg), exec (.zynongPacketReceive p) s = .next t ∧
        t.fab.inStream p.stream = ⟨p.seq + 1, x.held⟩ ∧ t.net = s.net ++ [m] ∧ m.body = p.body.body ∧
        m.src = p.body.src ∧ m.dst = p.body.dst ∧ m.key = p.body.key ∧
        t.fab.acked = s.fab.acked ++ [(p.stream, p.seq)] ∧ t.cores = s.cores) ∧
      (∀ v, d = 0 → x.held = [] → p.body.body = .activate v → ∃ t : State, exec (.zynongPacketReceive p) s = .next t ∧
        t.agenda = s.agenda ++ [.versionActivation v] ∧ t.net = s.net ∧ t.fab.acked = s.fab.acked ++ [(p.stream, p.seq)]) ∧
      (∀ (q : Packet), d = 0 → x.held = [q] → q.seq = p.seq + 1 → plain p → plain q → ∃ (t : State) (m n : Msg), exec (.zynongPacketReceive p) s = .next t ∧
        t.fab.inStream p.stream = ⟨p.seq + 2, []⟩ ∧ t.net = s.net ++ [m, n] ∧ m.body = p.body.body ∧
        n.body = q.body.body ∧ t.fab.acked = s.fab.acked ++ [(p.stream, p.seq + 1)] ∧ t.cores = s.cores))) ∧
  (∀ (s : State) (id : StreamId) (seq : BitVec 32) (o : OutStream), id.cls ≠ 2 → assoc s.fab.outs id = some o →
    ∃ (t : State) (u : OutStream), exec (.acknowledgement id seq) s = .next t ∧ assoc t.fab.outs id = some u ∧
      u.unacked = o.unacked.filter (fun p => decide (2 ^ 31 ≤ (seq - p.seq).toNat)) ∧ u.next = o.next ∧
      (u.unacked.length < o.unacked.length → u.timeouts = 0) ∧
      (u.unacked.length = o.unacked.length → u = o) ∧ t.cores = s.cores ∧ t.net = s.net)) ∧
  ((∀ (s : State) (id : StreamId) (o : OutStream), assoc s.fab.outs id = some o →
    (o.unacked = [] → exec (.retryTimeout id) s = .next s) ∧
    (∀ p r, o.unacked = p :: r → s.cycle < p.sent + s.fab.timeout p.die → exec (.retryTimeout id) s = .next s) ∧
    (∀ p r, o.unacked = p :: r → p.sent + s.fab.timeout p.die ≤ s.cycle →
      let ps := o.unacked.map (fun p => { p with version := (s.fab.table p.die).version, sent := s.cycle })
      ∃ t : State, exec (.retryTimeout id) s = .next t ∧ assoc t.fab.outs id = some ⟨o.next, ps, o.timeouts + 1⟩ ∧
        t.fab.flight = s.fab.flight ++ ps.map (fun p => (.package s.pkg, none, p)) ∧
        ((o.timeouts + 1) % 4 ≠ 0 → t.tele = s.tele) ∧
        ((o.timeouts + 1) % 4 = 0 → ∃ r, t.tele.log.getLast? = some r ∧ r.code = evFabric ∧ r.cycle = s.cycle) ∧
        t.cores = s.cores ∧ t.net = s.net)) ∧
  (∀ (s : State) (k : Nat) (at_ : Node) (on : Option Node) (p : Packet), s.fab.flight[k]? = some (at_, on, p) →
    let rest := s.fab.flight.eraseIdx k
    (∀ n, on = some (.switch n) → exec (.switchForward k) s =
      .next { s with fab := { s.fab with flight := rest ++ [(.switch n, none, p)] } }) ∧
    (∀ q, on = some (.package q) → ∃ t : State, exec (.switchForward k) s = .next t ∧ t.fab.flight = rest ∧
      t.agenda = (if q = s.pkg then s.agenda ++ [.zynongPacketReceive p] else s.agenda) ∧ t.cores = s.cores) ∧
    (∀ n w, on = none → at_ = .switch n → find s.fab.switches n = some w →
      (w.shadow = none → p.version ≠ w.cur.version → exec (.switchForward k) s =
        .next { s with fab := { s.fab with flight := rest } }) ∧
      (p.version = w.cur.version → p.stream.cls ≠ 2 → listOf w.cur.routes p.stream.dst ≠ [] →
        (∀ m ∈ listOf w.cur.routes p.stream.dst, linked at_ m = true ∧ s.fab.broken at_ m = false) →
        ∃ t, ∃ m ∈ listOf w.cur.routes p.stream.dst, exec (.switchForward k) s = .next t ∧
          t.fab.flight = rest ++ [(at_, some m, p)] ∧ find t.fab.switches n = some w ∧ t.cores = s.cores) ∧
      (∀ u, w.shadow = some u → p.version ≠ w.cur.version →
        ((newer p.version w.cur.version = true ∧ u.version = p.version) → p.stream.cls ≠ 2 →
          listOf u.routes p.stream.dst ≠ [] →
          (∀ m ∈ listOf u.routes p.stream.dst, linked at_ m = true ∧ s.fab.broken at_ m = false) →
          ∃ t, ∃ m ∈ listOf u.routes p.stream.dst, exec (.switchForward k) s = .next t ∧
            t.fab.flight = rest ++ [(at_, some m, p)] ∧ find t.fab.switches n = some ⟨u, none⟩) ∧
        (newer p.version w.cur.version = false ∨ u.version ≠ p.version → exec (.switchForward k) s =
          .next { s with fab := { s.fab with flight := rest } })))) ∧
  (∀ (a b : BitVec 16), newer a b = true ↔ 1 ≤ (a - b).toNat ∧ (a - b).toNat < 2 ^ 15))

/-- A failed link loses what is on it, and leaves every spray set of its ends within 2 us (R231). A node keeps one shadow table,
and the activation of its version makes it current, sends every unacknowledged packet again with it, and takes a
package without a route out of the domain: packets to it are discarded, and a launch whose posted traffic is discarded
ends FAULT with cause 5 (R232, R233, R236). Whose traffic a discarded packet was is the model's reading (log 35). -/
def Obligations.RoutesAndVersions : Prop :=
  (∀ (s : State) (p q : Node), ∃ t : State, exec (.linkFailure p q) s = .next t ∧ t.fab.broken p q = true ∧
    (∀ f ∈ t.fab.flight, f ∈ s.fab.flight ∧ ¬ (f.1 = p ∧ f.2.1 = some q) ∧ ¬ (f.1 = q ∧ f.2.1 = some p)) ∧
    (∀ a b, t.fab.broken a b = true → s.fab.broken a b = true ∨ (a = p ∧ b = q) ∨ (a = q ∧ b = p)) ∧
    t.fab.removing = s.fab.removing ++ [(p, q, s.cycle + 6600)] ∧ t.cores = s.cores) ∧
  (∀ (s : State) (n : Nat) (w : Switch) (q : Node), find s.fab.switches n = some w → q ≠ .switch n →
    (s.fab.broken (.switch n) q = false → exec (.spraySetRemove (.switch n) q) s = .next s) ∧
    (s.fab.broken (.switch n) q = true → ∃ t : State, exec (.spraySetRemove (.switch n) q) s = .next t ∧
      (∀ u, find t.fab.switches n = some u → ∀ r ∈ u.cur.routes, q ∉ r.2) ∧
      ((∀ e ∈ s.fab.switches, ∀ r ∈ e.2.cur.routes, ∃ m ∈ r.2, m ≠ q ∧ m ≠ .switch n) →
        (find t.fab.switches n).map (fun (u : Switch) => u.cur.routes) =
          some (w.cur.routes.map (fun r => (r.1, r.2.filter (fun m => m != q))))) ∧
      (find t.fab.switches n).map (fun (u : Switch) => u.shadow.map RouteTable.routes) =
        some (w.shadow.map (fun t => t.routes.map (fun r => (r.1, r.2.filter (fun m => m != q))))) ∧
      (∀ e ∈ t.fab.removing, e.1 ≠ .switch n ∨ e.2.1 ≠ q) ∧
      t.fab.flight = s.fab.flight ∧ t.cores = s.cores)) ∧
  (∀ (s : State) (tbl : RouteTable),
    (∀ n w, find s.fab.switches n = some w → ∀ die, ∃ t : State, exec (.shadowInstall (.switch n) die tbl) s = .next t ∧
      find t.fab.switches n = some ⟨w.cur, some tbl⟩ ∧ t.fab.cur = s.fab.cur) ∧
    (∀ die, die < 2 → ∃ t : State, exec (.shadowInstall (.package s.pkg) die tbl) s = .next t ∧
      find t.fab.shadow die = some tbl ∧ t.fab.cur = s.fab.cur ∧ t.fab.outs = s.fab.outs)) ∧
  (∀ (s : State) (v : BitVec 16), ∃ t : State, exec (.versionActivation v) s = .next t ∧
    (∀ n w tbl, find s.fab.switches n = some w → w.shadow = some tbl → tbl.version = v →
      find t.fab.switches n = some ⟨tbl, none⟩) ∧
    (∀ n w, find s.fab.switches n = some w → w.shadow.map RouteTable.version ≠ some v →
      find t.fab.switches n = some w) ∧
    (∀ die tbl, die < 2 → find s.fab.shadow die = some tbl →
      (tbl.version = v → find t.fab.cur die = some tbl ∧ find t.fab.shadow die = none ∧
        ∀ id o, assoc t.fab.outs id = some o → ∀ p ∈ o.unacked, p.die = die → p.version = v) ∧
      (tbl.version ≠ v → find t.fab.shadow die = some tbl)) ∧
    (∀ q, (∃ e ∈ s.fab.cur, q ∈ e.2.members) → t.inDomain q = false →
      (∀ m ∈ t.fab.awaiting, m.dst.pkg ≠ q) ∧
      ∀ id o, id.cls ≠ 2 → id.dst = q → assoc s.fab.outs id = some o →
        (assoc t.fab.outs id).map OutStream.unacked = some [] ∧
        ∀ p ∈ o.unacked, isPosted p.body.body = true → ∀ l x, p.body.owner = some l → find s.launches l = some x → x.ending = none →
          (find t.launches l).map Launch.ending = some (some (.fault, 5))))

/-- A multicast's packet brings its line into the package in its stream's order, and the line, come to its home, is written in
its turn and answered 0, or answered NOMAP or RANGE with nothing written; a duplicate is answered from the record, or handled
as a first delivery once its record is gone (R166, R238, R239, R406). A switch merges the answers of every child: counts add, the lowest
negative member keeps its cause (R240). The source takes only an aggregate of the latest transmission's version that
covers every member, and raises the sync word once by it (R115, R240). Which number a member has is the model's reading
(log 19), and so is when a merge of one sequence number is forgotten (log 35). -/
def Obligations.MulticastAnswers : Prop :=
  (∀ (s : State) (p : Packet) (g off sw : Nat) (bs : List Byte) (bad : List Nat), p.stream.cls = 2 → p.body.body = .mcast g off bs sw bad →
    (∀ m ∈ s.net, isLine p.stream p.seq m = false) →
    let x : InStream := s.fab.inStream p.stream
    let comes := fun (t : State) => ∃ m : Msg, t.net = s.net ++ [m] ∧ m.body = p.body.body ∧
      m.delivery = some (p.seq, p.version) ∧ m.src = p.body.src ∧ m.dst.pkg = s.pkg ∧
      t.fab.answered = s.fab.answered ∧ t.mem = s.mem ∧ t.cores = s.cores
    (∀ (a : McAnswer), 2 ^ 31 ≤ (p.seq - x.expected).toNat → s.recorded p.stream p.seq = some a →
      ∃ t : State, exec (.mcstDelivery p) s = .next t ∧
        t.fab.answered = s.fab.answered ++ [(.package s.pkg, p.stream, p.seq, a)] ∧ t.mem = s.mem ∧
        t.fab.inStream p.stream = x ∧ t.cores = s.cores) ∧
    (2 ^ 31 ≤ (p.seq - x.expected).toNat → s.recorded p.stream p.seq = none → ∃ t : State,
      exec (.mcstDelivery p) s = .next t ∧ comes t ∧ t.fab.inStream p.stream = x) ∧
    (p.seq = x.expected → x.held = [] → ∃ t : State, exec (.mcstDelivery p) s = .next t ∧ comes t ∧
      t.fab.inStream p.stream = ⟨p.seq + 1, []⟩)) ∧
  (∀ (s : State) (p : Packet) (k g off sw : Nat) (bs : List Byte) (bad : List Nat) (m : Msg), p.stream.cls = 2 → p.stream.die = 0 →
    s.net.findIdx? (isLine p.stream p.seq) = some k → s.net[k]? = some m → m.body = .mcast g off bs sw bad →
    let u : Msg := { m with delivery := some (p.seq, p.version) }
    let v : State := { s with net := s.net.set k u }
    let e : Word := s.mapEntry g
    let base : Nat := bits e 55 8 * 256
    let line : Nat := base % 2 ^ 42 + off
    let answers := fun (t : State) (a : McAnswer) => t.net = s.net.eraseIdx k ∧
      t.fab.answered = s.fab.answered ++ [(.package s.pkg, p.stream, p.seq, a)] ∧
      (s.recorded p.stream p.seq = none → t.recorded p.stream p.seq = some a)
    (v.inOrder k u = false ∨ v.peerTurn k u = false → exec (.mcstDelivery p) s = .next v) ∧
    (v.inOrder k u = true → v.peerTurn k u = true →
      (bitAt e 63 = false → ∃ (t : State) (a : McAnswer), exec (.mcstDelivery p) s = .next t ∧ answers t a ∧ a.pos = 0 ∧ a.neg = 1 ∧
        a.cause = 1 ∧ a.low = s.memberIndex g s.pkg ∧ t.mem = s.mem) ∧
      (bitAt e 63 = true → (bits e 7 0 + 1) * 256 < off + bs.length ∨ base / 2 ^ 42 ≠ s.pkg ∨
          768 * 2 ^ 30 < line + bs.length → ∃ (t : State) (a : McAnswer), exec (.mcstDelivery p) s = .next t ∧ answers t a ∧ a.pos = 0 ∧
        a.neg = 1 ∧ a.cause = 2 ∧ a.low = s.memberIndex g s.pkg ∧ t.mem = s.mem) ∧
      (bitAt e 63 = true → off + bs.length ≤ (bits e 7 0 + 1) * 256 → base / 2 ^ 42 = s.pkg →
        line + bs.length ≤ 768 * 2 ^ 30 → s.rangeClear line bs.length = true → s.txns = [] →
        ∃ t : State, exec (.mcstDelivery p) s = .next t ∧ answers t ⟨1, 0, 511, 0⟩ ∧
          (∀ k, k < bs.length → t.mem.read (line + k) = bs.getD k 0) ∧
          (∀ y, y < line ∨ line + bs.length ≤ y → t.mem.read y = s.mem.read y)))) ∧
  (∀ (s : State) (sw : Nat) (child : Node) (id : StreamId) (seq : BitVec 32) (ver : BitVec 16) (n : Nat) (a : McAnswer),
    let merge : Option McMerge := s.fab.merges.find? (fun (m : McMerge) => m.sw == sw && m.id == id && m.seq == seq && m.version == ver)
    (∀ w, find s.fab.switches sw = some w → w.cur.version ≠ ver →
      exec (.answerMerge sw child id seq ver n a) s = .next s) ∧
    ((∀ w, find s.fab.switches sw = some w → w.cur.version = ver) →
      (∀ (m : McMerge), merge = some m → m.got.length + 1 < n → (∀ e ∈ m.got, e.1 ≠ child) →
        ∃ t : State, exec (.answerMerge sw child id seq ver n a) s = .next t ∧ t.fab.answered = s.fab.answered ∧
          ⟨sw, id, seq, ver, m.got ++ [(child, a)]⟩ ∈ t.fab.merges) ∧
      (∀ (m : McMerge) (first : Node) (b : McAnswer), merge = some m → m.got = [(first, b)] → first ≠ child → n = 2 →
        ∃ (t : State) (r : McAnswer), exec (.answerMerge sw child id seq ver n a) s = .next t ∧
          t.fab.answered = s.fab.answered ++ [(.switch sw, id, seq, r)] ∧ r.pos = a.pos + b.pos ∧
          r.neg = a.neg + b.neg ∧ (a.neg ≠ 0 → b.neg ≠ 0 → a.low < b.low → r.low = a.low ∧ r.cause = a.cause) ∧
          (a.neg ≠ 0 → b.neg ≠ 0 → b.low < a.low → r.low = b.low ∧ r.cause = b.cause) ∧
          (a.neg ≠ 0 → b.neg = 0 → r.low = a.low ∧ r.cause = a.cause) ∧
          (a.neg = 0 → b.neg ≠ 0 → r.low = b.low ∧ r.cause = b.cause) ∧
          (a.neg = 0 → b.neg = 0 → r.low = 511 ∧ r.cause = 0) ∧ t.cores = s.cores))) ∧
  (∀ (s : State) (group : Nat) (seq : BitVec 32) (ver : BitVec 16) (a : McAnswer) (m : McSent),
    s.fab.sends.find? (fun (m : McSent) => m.group == group && m.seq == seq) = some m →
    s.fab.pendingAgg.find? (fun (e : McSent × McAnswer) => e.1 == m) = none →
    (m.version ≠ ver ∨ a.pos + a.neg ≠ m.members → exec (.multicastAggregate group seq ver a) s = .next s) ∧
    (∀ (c : Nat) (l : Launch), m.version = ver → a.pos + a.neg = m.members → find s.launches m.launch = some l →
      s.siteOf m.launch m.origin = some c → (s.core c).stage = .running → (s.core c).barArrivals = [] →
      let lm : Memory := (s.core c).lm
      let o : Nat := 16 * m.sw
      let st : Nat := lm.num (o + 12) 4
      let count : Nat := lm.num (o + 4) 4 + (a.pos + a.neg)
      count < 2 ^ 32 → (lm.num o 4 = 0 ∨ count ≤ lm.num o 4) →
      ∃ t : State, exec (.multicastAggregate group seq ver a) s = .next t ∧ m ∉ t.fab.sends ∧
        let lm' : Memory := (t.core c).lm
        let st' : Nat := lm'.num (o + 12) 4
        st' / 2 ^ 10 % 2 ^ 10 = (st / 2 ^ 10 + a.pos) % 2 ^ 10 ∧ st' % 2 ^ 10 = (st + a.neg) % 2 ^ 10 ∧
        (0 < a.neg ∧ a.low < 512 ∧ a.cause < 4 ∧ (st % 2 ^ 10 = 0 ∨ a.low < st / 2 ^ 20 % 2 ^ 9) →
          st' / 2 ^ 20 % 2 ^ 9 = a.low ∧ st' / 2 ^ 29 % 4 = a.cause) ∧
        (a.neg = 0 → st' / 2 ^ 20 = st / 2 ^ 20) ∧
        (lm.num o 4 = 0 ∨ count < lm.num o 4 → lm'.num (o + 4) 4 = count ∧ lm'.num (o + 8) 4 = lm.num (o + 8) 4) ∧
        (count = lm.num o 4 → 0 < count → lm'.num (o + 4) 4 = 0 ∧
          lm'.num (o + 8) 4 = (lm.num (o + 8) 4 + 1) % 2 ^ 32) ∧
        ∀ y, y < o ∨ o + 16 ≤ y → lm'.read y = lm.read y))

/-! ### The host -/

/-- A record enters an enabled queue of fewer than 64 records and is answered Successful Completion; a full queue
answers Retry; another write, or one before bring-up has done step 5, answers Unsupported Request and changes
nothing (R182, R277). What a doubleword written through BAR0 does (Tables 8.1 to 8.3, 10.10, 13.1): the fields a
register has are kept, read-only registers and values out of range are ignored, a mailbox takes a command only while it
is not busy, and an unused offset or a record window written so answers Unsupported Request (R182, R241, R242, R273).
Before the links have trained no write arrives (R277). That the low bits of MCTBASE and MCMAPBASE read as zero is the
model's (log 16). That queues take records once bring-up has done step 5 is its reading too (log 37). -/
def Obligations.QueueRecordsAndRegisterWrites : Prop :=
  (∀ (s : State) (q : Nat) (deferrable : Bool) (ws : List Word),
    let x := s.disp.queue q
    let takes := deferrable = true ∧ ws.length = 8 ∧ x.en = true ∧ q < 16 ∧ 5 ≤ s.tele.bringup
    (takes → x.recs.length < 64 → ∃ t : State, exec (.qrecWrite q deferrable ws) s = .next t ∧
      t.disp.queue q = { x with recs := x.recs ++ [ws] } ∧ (∀ p, p ≠ q → t.disp.queue p = s.disp.queue p) ∧
      t.answers = s.answers ++ [.success] ∧ t.mem = s.mem ∧ t.launches = s.launches ∧ t.cores = s.cores) ∧
    (takes → 64 ≤ x.recs.length →
      exec (.qrecWrite q deferrable ws) s = .next { s with answers := s.answers ++ [.retryStatus] }) ∧
    (¬ takes → exec (.qrecWrite q deferrable ws) s = .next { s with answers := s.answers ++ [.unsupported] })) ∧
  (∀ (s : State) (die off : Nat) (v : Word), s.tele.bringup < 5 → exec (.registerWrite die off v) s = .next s) ∧
  (∀ (s : State) (die : Nat) (v : Word), 5 ≤ s.tele.bringup → die < 2 →
    exec (.registerWrite die 0x000 v) s = .next { s with disp := { s.disp with tinvva := v } } ∧
    (∀ c, c < 16 → ∃ t : State, exec (.registerWrite die (0x100 + 8 * c) v) s = .next t ∧
      find t.disp.clsw c = some (bits v 7 0) ∧ (∀ e, e ≠ c → find t.disp.clsw e = find s.disp.clsw e) ∧
      t.disp.queues = s.disp.queues ∧ t.cores = s.cores ∧ t.answers = s.answers) ∧
    (∀ q, q < 16 → ∃ t : State, exec (.registerWrite die (0x200 + 8 * q) v) s = .next t ∧
      t.disp.queue q = ⟨bitAt v 63, bits v 51 48, bits v 47 32, (s.disp.queue q).recs⟩ ∧
      (∀ p, p ≠ q → t.disp.queue p = s.disp.queue p) ∧ t.cores = s.cores ∧ t.answers = s.answers) ∧
    exec (.registerWrite die 0x4000 v) s = .next s ∧ exec (.registerWrite die 0x8008 v) s = .next s ∧
    (let n := bits v 15 0;
      (10 ≤ n ∧ n ≤ 10000 → ∃ t : State, exec (.registerWrite die 0x4008 v) s = .next t ∧ find t.fab.zrto die = some n ∧
        (∀ e, e ≠ die → find t.fab.zrto e = find s.fab.zrto e) ∧ t.cores = s.cores) ∧
      (n < 10 ∨ 10000 < n → exec (.registerWrite die 0x4008 v) s = .next s)) ∧
    (∃ t : State, exec (.registerWrite die 0x4010 v) s = .next t ∧ t.fab.mctbase = v / 2048 * 2048 ∧
      t.fab.mcmapbase = s.fab.mcmapbase ∧ t.fab.groups = s.fab.groups) ∧
    (∃ t : State, exec (.registerWrite die 0x4018 v) s = .next t ∧ t.fab.mcmapbase = v / 8192 * 8192 ∧
      t.fab.mctbase = s.fab.mctbase ∧ t.fab.inmap = s.fab.inmap) ∧
    exec (.registerWrite die 0x4028 v) s = .next { s with fab := { s.fab with hwsel := bits v 1 0 } } ∧
    ((s.tele.mbox die).busy = true → exec (.registerWrite die 0x8000 v) s = .next s) ∧
    ((s.tele.mbox die).busy = false → ∃ t : State, exec (.registerWrite die 0x8000 v) s = .next t ∧
      (t.tele.mbox die).busy = bitAt v 63 ∧ (t.tele.mbox die).code = bits v 7 0 ∧
      (t.tele.mbox die).len = bits v 47 32 ∧ (t.tele.mbox die).done = false ∧
      (t.tele.mbox die).data = (s.tele.mbox die).data ∧
      t.tele.order = (if bitAt v 63 then s.tele.order ++ [die] else s.tele.order) ∧ t.cores = s.cores) ∧
    (∀ off, 0x8100 ≤ off → off + 8 ≤ 0x10000 → ∃ t : State, exec (.registerWrite die off v) s = .next t ∧
      (t.tele.mbox die).data.num off 8 = v.toNat ∧ (t.tele.mbox die).busy = (s.tele.mbox die).busy ∧
      t.tele.order = s.tele.order ∧ t.cores = s.cores) ∧
    (∀ off, (0x018 ≤ off ∧ off < 0x100) ∨ (0x180 ≤ off ∧ off < 0x200) ∨ (0x280 ≤ off ∧ off < 0x4000) ∨
        (0x4030 ≤ off ∧ off < 0x8000) ∨ (0x8010 ≤ off ∧ off < 0x8100) ∨ 0x10000 ≤ off →
      exec (.registerWrite die off v) s = .next { s with answers := s.answers ++ [.unsupported] }))

/-- A write to TINVCTL with BUSY = 0 removes the ASID's translation leaves, all of them or those that overlap the range
from TINVVA on, and with L1 set that ASID's L1 lines in every core; BUSY clears once no access translated under the ASID
is open; a write while BUSY is ignored (R127, R128). MCINV drops a cached group entry, or reloads an inbound map entry
(R237, R238, R241). ASINV does the same for the running slot's caches and the package's leaves (R127, R290). -/
def Obligations.Invalidations : Prop :=
  (∀ (s : State) (v : Word),
    let asid := bits v 15 0
    let lo := s.disp.tinvva.toNat / 65536 * 65536
    let hi := lo + (bits v 47 32 + 1) * 65536
    let drops := fun (s : State) => { s with cores := s.cores.map (fun (p : Nat × CoreSt) => (p.1, { p.2 with
      l1d := p.2.l1d.filter (fun l => l.asid != asid), l1i := p.2.l1i.filter (fun e => e.1 != asid) })) }
    let left := fun (u : State) (gone : TlbEntry → Bool) => { u with
      tlb := s.tlb.filter (fun t => !gone t)
      disp := { s.disp with tinvctl := v &&& 0x0000FFFF0003FFFF, tinvBusy := true } }
    s.linksUp = true → (s.disp.tinvBusy = true → exec (.tinvctlRange v) s = .next s ∧ exec (.tinvctlAll v) s = .next s) ∧
    (s.disp.tinvBusy = false → ((∀ p ∈ s.cores, p.2.wb = []) ∧ s.txns = []) ∨ bitAt v 17 = false →
      (bitAt v 16 = false → exec (.tinvctlRange v) s = .next (left (if bitAt v 17 then drops s else s)
        (fun t => decide (t.asid = asid ∧ t.va < hi ∧ lo < t.va + t.size)))) ∧
      (bitAt v 16 = true → exec (.tinvctlAll v) s = .next (left (if bitAt v 17 then drops s else s)
        (fun t => decide (t.asid = asid)))))) ∧
  (∀ (s : State), (s.disp.tinvBusy = false → exec .tinvComplete s = .next s) ∧
    (s.disp.tinvBusy = true → (∀ p ∈ s.cores, p.2.wb = []) →
      (s.translatedOpen (bits s.disp.tinvctl 15 0) = true → exec .tinvComplete s = .next s) ∧
      (s.translatedOpen (bits s.disp.tinvctl 15 0) = false →
        exec .tinvComplete s = .next { s with disp := { s.disp with tinvBusy := false } }))) ∧
  (∀ (s : State) (v : Word),
    let g := bits v 11 0
    (s.linksUp = true → s.fab.mcinvBusy = true → exec (.mcinvGroup v) s = .next s ∧ exec (.mcinvMap v) s = .next s) ∧
    (s.linksUp = true → s.fab.mcinvBusy = false →
      (bitAt v 16 = true → ∃ t : State, exec (.mcinvGroup v) s = .next t ∧ t.fab.mcinvBusy = true ∧
        t.fab.groups = s.fab.groups.filter (fun e => e.2.1 != g) ∧ t.mem = s.mem ∧ t.cores = s.cores) ∧
      (bitAt v 17 = true → ∃ t : State, exec (.mcinvMap v) s = .next t ∧ t.fab.mcinvBusy = true ∧
        find t.fab.inmap g = some (s.tableWord (s.fab.mcmapbase.toNat + 8 * g)) ∧
        (∀ e, e ≠ g → find t.fab.inmap e = find s.fab.inmap e) ∧ t.mem = s.mem ∧ t.cores = s.cores)) ∧
    exec .mcinvComplete s = .next { s with fab := { s.fab with mcinvBusy := false } }) ∧
  (∀ (s : State) (a : Reg), Lone s → s.txns = [] → s.me.txn = none → (∀ p ∈ s.cores, p.2.wb = []) → s.here.wb = [] →
    let asid := bits (s.X a) 15 0
    s.translatedOpen asid = false → ∃ t : State, exec (.asinv a) s = .next t ∧ GoesOn s t ∧
      (∀ r, t.me.settled r = s.me.settled r) ∧ t.me.system = s.me.system ∧
      t.tlb = s.tlb.filter (fun e => e.asid != asid) ∧
      t.here.l1d = s.here.l1d.filter (fun l => l.asid != asid) ∧
      t.here.l1i = s.here.l1i.filter (fun e => e.1 != asid) ∧ t.here.lm = s.here.lm ∧
      (∀ c, c ≠ s.cur.1 → t.core c = s.core c) ∧ t.mem = s.mem)

/-- The host reads and writes device memory at the home, in the order received, behind a commit that stands in the way;
beyond the device memory that it may reach the answer is Unsupported Request (R120, R176, R242, R243). A CXL.mem read
makes the host a sharer of the line until it answers the back-invalidate snoop (R246). Before the links have trained, and
for CXL requests over links that trained as PCIe, nothing arrives (R245, R277). A read of the host window ends with the
bytes the host gives, for a slot or for a copy, and the zero-length reads of a SYSTEM release, one for each link that
the slot's stores took, let its bundle go on after the last, but not on a core that stops (R202, R244, R313). That a read
of the host window finds the bytes the host gives, which the part then holds, is the model's reading (log 36). -/
def Obligations.HostMemoryAccess : Prop :=
  let reach := 768 * 2 ^ 30 - 2 ^ 31
  (∀ (s : State) (off size : Nat) (bs : List Byte),
    let replies := fun (a : Answer) => { s with answers := s.answers ++ [a] }
    let base := off / 64 * 64
    let cxl := s.linksUp = true ∧ s.fab.cxl ≠ []
    (s.linksUp = false → exec (.bar2Read off size) s = .next s ∧ exec (.bar2Write off bs) s = .next s) ∧
    (¬ cxl → exec (.hostWriteBack off bs) s = .next s ∧ exec (.cxlMemRead off) s = .next s ∧
      exec (.backInvalidateAnswer off) s = .next s) ∧
    (s.linksUp = true → reach < off + size → exec (.bar2Read off size) s = .next (replies .unsupported)) ∧
    (reach < off + bs.length → (s.linksUp = true → exec (.bar2Write off bs) s = .next (replies .unsupported)) ∧
      (cxl → exec (.hostWriteBack off bs) s = .next (replies .unsupported))) ∧
    (cxl → reach < base + 64 → exec (.cxlMemRead off) s = .next (replies .unsupported)) ∧
    (s.fab.inbound = [] → s.txns = [] → s.linksUp = true →
      (off + size ≤ reach → ∃ t : State, exec (.bar2Read off size) s = .next t ∧
        t.answers = s.answers ++ [.data (s.mem.bytes off size)] ∧ t.mem = s.mem ∧ t.cores = s.cores ∧
        t.fab.inbound = [] ∧
        ∀ x, off ≤ x → x < off + size → ∀ e ∈ (t.dirOf x).l2, e.2 ≠ .m ∧ e.2 ≠ .o ∧ e.2 ≠ .e) ∧
      (off + bs.length ≤ reach → ∃ t : State, exec (.bar2Write off bs) s = .next t ∧
        (s.fab.cxl ≠ [] → exec (.hostWriteBack off bs) s = .next t) ∧
        t.answers = s.answers ∧ t.fab.inbound = [] ∧
        ∀ x, t.mem.read x = if off ≤ x ∧ x < off + bs.length then bs.getD (x - off) 0 else s.mem.read x) ∧
      (s.fab.cxl ≠ [] → base + 64 ≤ reach → ∃ t : State, exec (.cxlMemRead off) s = .next t ∧
        t.answers = s.answers ++ [.data (s.mem.bytes base 64)] ∧ t.mem = s.mem ∧ t.cores = s.cores ∧
        (t.dirOf base).hostShares = true)) ∧
    (∀ q r, s.linksUp = true → s.fab.inbound = q :: r → off + bs.length ≤ reach →
      let waiting := { s with fab := { s.fab with inbound := s.fab.inbound ++ [.write off bs] } }
      waiting.hostRequest q = none → exec (.bar2Write off bs) s = .next waiting)) ∧
  (∀ (s : State) (off : Nat), s.linksUp = true → s.fab.cxl ≠ [] → ((s.dirOf off).snooping = false → exec (.backInvalidateAnswer off) s = .next s) ∧
    ((s.dirOf off).snooping = true → ∃ t : State, exec (.backInvalidateAnswer off) s = .next t ∧
      (t.dirOf off).hostShares = false ∧ (t.dirOf off).snooping = false ∧ (t.dirOf off).l2 = (s.dirOf off).l2 ∧
      t.mem = s.mem ∧ t.cores = s.cores)) ∧
  (∀ (s : State) (c i : Nat), i < 4 →
    let u := s.actAs c i
    (∀ d size signed a tr h bs link, Lone u → u.me.writesInto (.x d) →
      (s.slot c i).wait = .hostRead (.x d size signed) a none link → s.translate c (s.asidOf c) a.toNat = some tr →
      s.homeOf (tr.phys a.toNat) tr.uncached = .host h → ∃ t : State, exec (.hostWindowReadCompletion c i bs) s = .next t ∧
      GoesOn u t ∧ t.me.wait = .none ∧ t.me.settled (.x d) = xValue d (extendLoad size signed bs) ∧
      (∀ r, r ≠ .x d → t.me.settled r = u.me.settled r) ∧
      (∀ x, t.hostMem.read x = if h ≤ x ∧ x < h + bs.length then bs.getD (x - h) 0 else s.hostMem.read x) ∧
      t.mem = s.mem) ∧
    (∀ bs, (s.slot c i).wait = .hostFence → (s.slot c i).hostLinks.tail ≠ [] →
      exec (.hostWindowReadCompletion c i bs) s =
        .next (s.modSlot c i (fun v => { v with hostLinks := v.hostLinks.tail }))) ∧
    (∀ bs n o pos rest, (s.core c).cq[n]? = some o → o.window = pos :: rest → ∃ t : State,
      exec (.hostWindowReadCompletion c (4 + n) bs) s = .next t ∧ (t.core c).cq[n]? = some { o with
        window := rest, parts := o.parts ++ [(pos, bs, false)], outstanding := o.outstanding - 1 } ∧
      (t.core c).slots = (s.core c).slots ∧ (∀ d, d ≠ c → t.core d = s.core d) ∧ t.mem = s.mem) ∧
    (∀ bs, (s.slot c i).wait = .hostFence → (s.slot c i).hostLinks.tail = [] → s.coreRuns c = false →
      exec (.hostWindowReadCompletion c i bs) s = .next (s.modSlot c i (fun v => { v with hostLinks := [] }))) ∧
    (∀ bs h w, (s.slot c i).wait = .hostFence → (s.slot c i).hostLinks.tail = [] → s.coreRuns c = true → decodeWord (s.slot c i).bundle.word = .ok (h, w) →
      exec (.hostWindowReadCompletion c i bs) s = .next { s.modSlot c i (fun v => { v with
        hostLinks := [], wait := .stall }) with cur := (c, i), agenda := w :: s.agenda }) ∧
    (∀ bs, (s.slot c i).wait = .none → exec (.hostWindowReadCompletion c i bs) s = .next s))

/-! ### The step, the words and the memory -/

/-- A step runs what is due: the first event of the agenda; else the word, or the pair, at the PC of the slot that issues
next, with the operands as they stand; else the cycle ends (R49, R50, R52, R54, R195). A stopped part waits for the next
power-good (R275, R277). The order of events is the model's (log 1). The clauses on words are for code of the own package
that no stale copy shadows, outside a loop's body and a caravan, in a slot without links, streams, poison and pending
writes. -/
def Obligations.StepRunsTheDecodedInstruction : Prop :=
  ∀ (s : State),
    let off := s.stopped = true ∧ s.launches = []
    (off → powerCycle s.agenda = none → step s = .fault .partStopped) ∧
    (∀ inp r, off → powerCycle s.agenda = some (inp, r) →
      step s = exec (.powerGood inp) { s with agenda := r }) ∧
    (∀ e r, ¬ off → s.agenda = e :: r → step s = exec e { s with agenda := r }) ∧
    (¬ off → s.agenda = [] → s.nextCore = none → step s = .next s.endCycle) ∧
    ∀ c i tr off unc, s.stopped = false → s.agenda = [] → s.nextCore = some (c, i) → i < 4 →
      let u := s.slot c i
      let pc := u.pc
      let asid := s.asidOf c
      spaceOf s.pkg pc = .global → s.translateFor c asid pc.toNat TlbEntry.x = some tr → tr.x = true →
      s.homeOf (tr.phys pc.toNat) tr.uncached = .own off unc → s.memBad off 4 = false →
      (∀ e ∈ (s.core c).l1i, e.1 = asid → e.2.1 / 8 ≠ pc.toNat / 8) →
      u.loop = none → u.linkmap = 0 → u.streams = [] → u.pend = [] → u.poisonX = [] → u.poisonV = [] →
      u.resetPending = false → u.cvsize ≤ 1 →
      let w : IWord := BitVec.ofNat 32 (s.mem.num off 4)
      let ready := fun (v : State) (size : Nat) => v.cur = (c, i) ∧ v.me.bundle.stash = none ∧ v.me.bundle.bad = none ∧
        v.me.bundle.popPorts = [] ∧ v.me.bundle.popStreams = [] ∧ v.me.bundle.rdX = u.x ∧ v.me.bundle.rdV = u.v ∧
        v.me.bundle.here = pc ∧ v.me.bundle.next = pc + BitVec.ofNat 64 size ∧ v.me.bundle.word = w ∧ v.me.x = u.x ∧
        v.me.v = u.v ∧ v.me.pc = pc ∧ v.me.fflags = u.fflags ∧ v.mem = s.mem ∧ v.hostMem = s.hostMem ∧
        v.here.lm = (s.core c).lm ∧ v.launches = s.launches ∧ v.net = s.net ∧ v.agenda = [] ∧
        ∀ d, d ≠ c → v.core d = s.core d
      (∀ h ins, decodeWord w = .ok (h, ins) → h.lone = true →
        ∃ v : State, step s = exec ins v ∧ ready v 4 ∧ v.me.bundle.mode = .lone ∧ v.me.bundle.stall = h.stall.toNat) ∧
      (∀ e, w.getLsbD 31 = true → decodeWord w = .error e → ∃ v : State, step s = exec (.illegalEncoding w) v ∧
        v.cur = (c, i) ∧ v.me.bundle.here = pc ∧ v.me.x = u.x ∧ v.mem = s.mem) ∧
      (∀ tr2 unc2 h hA cw aw, s.translateFor c asid (pc + 4).toNat TlbEntry.x = some tr2 → tr2.x = true →
        spaceOf s.pkg (pc + 4) = .global → s.homeOf (tr2.phys (pc + 4).toNat) tr2.uncached = .own (off + 4) unc2 →
        s.memBad (off + 4) 4 = false → pc.toNat % 8 = 0 →
        let w2 : IWord := BitVec.ofNat 32 (s.mem.num (off + 4) 4)
        decodeWord w = .ok (h, cw) → h.lone = false → w.getLsbD 27 = false → isRpt cw = false →
        decodeWord w2 = .ok (hA, aw) → w2.extractLsb' 27 5 = 1 →
        (∀ r ∈ writesOf cw, isX0 r = true ∨ r ∉ writesOf aw) →
        ∃ v : State, step s = runPair v cw aw ∧ ready v 8 ∧ v.me.bundle.mode = .second)

/-- Words written out from the encoding tables and the examples of the spec decode to the instructions they stand for,
one or more for each family of words (R49, R60 to R66, Tables 3.1 and 3.6 to 3.10); a word of an unassigned opcode, with
an unassigned type, or with a field that must be zero is none (R65). -/
def Obligations.WordsDecode : Prop :=
  decodeTableWord 32 0x80050008 = some (.asinv 5) ∧
  decodeTableWord 32 0x8000000D = some .alive ∧
  decodeTableWord 32 0x882530C1 = some (.addA 5 6 3 true) ∧
  decodeTableWord 32 0x8A0110E4 = some (.vadd false .fp32 1 2 3 false) ∧
  decodeTableWord 32 0x8A0110C2 = some (.vadd true .i8 1 2 3 false) ∧
  decodeTableWord 32 0x8B04282A = some (.vneg .fp16 4 5) ∧
  decodeTableWord 32 0x85A53007 = some (.st4 5 6 3 true) ∧
  decodeTableWord 32 0x86B83000 = some (.swwait 24 6) ∧
  decodeTableWord 32 0x80C00005 = some (.hmask 5) ∧
  decodeTableWord 32 0x83E00005 = some (.tabort 5) ∧
  decodeTableWord 32 0x85E6480B = some (.stl true .pkg 6 9) ∧
  decodeTableWord 32 0x86863800 = some (.swset 6 7) ∧
  decodeTableWord 32 0x86C63805 = some (.bar .pkg 6 7) ∧
  decodeTableWord 32 0x87C7A218 = some (.mcst 7 20 8) ∧
  decodeTableWord 32 0x00000000 = some .nopC ∧
  decodeTableWord 32 0x8A01103C = none ∧ decodeTableWord 32 0x87FFFFFF = none ∧ decodeTableWord 32 0x80050048 = none

/-- Decoding an encoded instruction gives it back, with its header: every well-formed instruction that has a word, with
every operand at every value its fields admit (R49, R60 to R66). -/
def Obligations.EncodedInstructionsDecode : Prop :=
  ∀ (h : Header) (i : Instr) (w : IWord), i.wellFormed = true → encode h i = some w → decodeWord w = .ok (h, i)

/-- Every word that decodes is the encoding of what it decodes to: no two words stand for one instruction, and no bit of
a word is ignored (R65). -/
def Obligations.DecodedWordsEncode : Prop :=
  ∀ (h : Header) (i : Instr) (w : IWord), decodeWord w = .ok (h, i) → i.wellFormed = true ∧ encode h i = some w

/-- Every step keeps device memory and the host's memory in their canonical form: addresses strictly rising, and no
byte listed that an unlisted address reads as. What an unlisted address reads as is the model's choice (log 2). -/
def Obligations.StepKeepsMemoryCanonical : Prop :=
  ∀ (s t : State), s.memOk → step s = .next t → t.memOk

/-- After reset both memories are canonical, nothing is launched, no queue is enabled, both timeouts are 200 us, the
cap is 2,800 W, and every slot is idle with the start values of Table 3.12 (R66, R182, R230, R241, R273, R275). The
values of registers that the spec gives only at an activation's start are the model's at reset (log 3). -/
def Obligations.AfterReset : Prop :=
  State.reset.memOk ∧ State.reset.launches = [] ∧ (∀ q, (State.reset.disp.queue q).en = false) ∧
  find State.reset.fab.zrto 0 = some 200 ∧ find State.reset.fab.zrto 1 = some 200 ∧ State.reset.fab.mctbase = 0 ∧
  State.reset.fab.hwsel = 0 ∧ State.reset.tele.cap = 2800 ∧ (∀ b, (State.reset.tele.mbox b).busy = false) ∧
  State.reset.disp.lkillBusy = false ∧ State.reset.disp.tinvBusy = false ∧ State.reset.fab.mcinvBusy = false ∧
  (∀ c i, (State.reset.slot c i).active = false ∧ (State.reset.slot c i).chkmode = 2 ∧
    (State.reset.slot c i).fflags = {} ∧ (State.reset.slot c i).rm = 0 ∧ (State.reset.slot c i).linkmap = 0 ∧
    (State.reset.slot c i).cvsize = 1 ∧ (State.reset.slot c i).gen = 0x9E3779B97F4A7C15 ∧
    (State.reset.slot c i).h = false ∧ (State.reset.slot c i).txn = none) ∧
  (∀ c, (State.reset.core c).splim = 64 ∧ (State.reset.core c).tvec = 0 ∧ (State.reset.core c).topk = 1) ∧
  State.reset.nextCore = none ∧ step State.reset = .next State.reset.endCycle

/-- What a doubleword read through BAR0 gives: the queue registers with EN, class, ASID and the number of records that wait,
a class's weight, TINVCTL and LKILL with BUSY (R128, R182, R192, R194); the route versions of the I/O die with SHADOW, ZRTO,
MCTBASE, MCMAPBASE, MCINV with BUSY and HWSEL (R230, R241); the mailbox's command, whose GO reads as BUSY, its status and
its data (R273). A record window and an unused offset answer Unsupported Request (R182, R242). That BAR0 reads are no step of the part, but a function of its state, is the model's form (log 44). -/
def Obligations.RegisterReads : Prop :=
  ∀ (s : State) (die : Nat),
    let reads := fun (off top high mid : Nat) (v : Nat) =>
      s.barRead die off = some (BitVec.ofNat 64 (top * 2 ^ 63 + high * 2 ^ 48 + mid * 2 ^ 32 + v))
    let d := s.disp
    let f := s.fab
    let m := s.tele.mbox die
    s.barRead die 0x000 = some d.tinvva ∧
    (∀ v, v.getLsbD 63 = false → d.tinvctl = v → s.barRead die 0x008 = some (if d.tinvBusy then v + 2 ^ 63 else v)) ∧
    (∀ v, v.getLsbD 63 = false → d.lkill = v → s.barRead die 0x010 = some (if d.lkillBusy then v + 2 ^ 63 else v)) ∧
    (∀ c, c < 16 → reads (0x100 + 8 * c) 0 0 0 (d.weight c)) ∧
    (∀ q, q < 16 → (d.queue q).cls < 16 → (d.queue q).asid < 2 ^ 16 → (d.queue q).recs.length ≤ 64 →
      reads (0x200 + 8 * q) (bit (d.queue q).en) (d.queue q).cls (d.queue q).asid (d.queue q).recs.length) ∧
    (find f.shadow die = none → reads 0x4000 0 0 0 (f.table die).version.toNat) ∧
    (∀ t, find f.shadow die = some t → reads 0x4000 0 0 1 (t.version.toNat * 2 ^ 16 + (f.table die).version.toNat)) ∧
    (∀ n, find f.zrto die = some n → reads 0x4008 0 0 0 n) ∧ s.barRead die 0x4010 = some f.mctbase ∧
    s.barRead die 0x4018 = some f.mcmapbase ∧ reads 0x4028 0 0 0 f.hwsel ∧
    (∀ v, v.getLsbD 63 = false → f.mcinv = v → s.barRead die 0x4020 = some (if f.mcinvBusy then v + 2 ^ 63 else v)) ∧
    (∀ v, v.getLsbD 63 = false → m.cmd = v → s.barRead die 0x8000 = some (if m.busy then v + 2 ^ 63 else v)) ∧
    (∀ n, m.status = n → n < 4 → reads 0x8008 (bit m.busy) 0 0 n) ∧
    (∀ off, 0x8100 ≤ off → off + 8 ≤ 0x10000 → s.barRead die off = some (BitVec.ofNat 64 (m.data.num off 8))) ∧
    (∀ off, (0x018 ≤ off ∧ off < 0x100) ∨ (0x180 ≤ off ∧ off < 0x200) ∨ (0x280 ≤ off ∧ off < 0x4000) ∨
        (0x4030 ≤ off ∧ off < 0x8000) ∨ (0x8010 ≤ off ∧ off < 0x8100) ∨ 0x10000 ≤ off → s.barRead die off = none)
end

