-- ==== Sys2Proof/Laws/Memory.lean ====
section
/-!
SUPPORT. The laws of the byte memories: a byte written reads back and every other byte stays, whatever the list looks
like; and every operation keeps the canonical form.
-/
namespace Sys2Proof.Machine.Memory

open Sys2Proof

/-! ### Reading what was written -/

theorem read_without (m : Memory) (a x : Nat) : (m.without a).read x = if x = a then unlisted else m.read x := by
  induction m with
  | nil => simp [without, read]
  | cons c r ih =>
    obtain ⟨k, v⟩ := c
    simp only [without, List.filter_cons] at ih ⊢
    by_cases hk : k = a
    · subst hk; simp only [bne_self_eq_false, Bool.false_eq_true, if_false, ih, read]
      by_cases hx : x = k <;> simp [hx]
    · have : (k != a) = true := by simpa using hk
      simp only [this, if_true, read]
      by_cases hx : x = k
      · subst hx; simp [hk]
      · simp only [hx, if_false]; exact ih

theorem read_listed (m : Memory) (a x : Nat) (b : Byte) (h : m.read a = unlisted) :
    (listed a b m).read x = if x = a then b else m.read x := by
  unfold listed
  by_cases hb : b = unlisted
  · rw [if_pos hb]; by_cases hx : x = a <;> simp [hx, h, hb]
  · simp [hb, read]

/-- A byte written reads back, and every other byte is as before. -/
theorem read_write (m : Memory) (a x : Nat) (b : Byte) :
    (m.write a b).read x = if x = a then b else m.read x := by
  induction m with
  | nil => rw [write, read_listed _ _ _ _ rfl]
  | cons c r ih =>
    obtain ⟨k, v⟩ := c
    rw [write]
    split
    · have hk : a ≠ k := by omega
      rw [read_listed _ _ _ _ (by simp [read, hk, read_without])]
      by_cases hx : x = a
      · simp [hx]
      · simp [hx, read, read_without]
    · split
      · next _ hk =>
        subst hk
        rw [read_listed _ _ _ _ (by simp [read_without]), read_without]
        by_cases hx : x = a <;> simp [hx, read]
      · next hk =>
        simp only [read, ih]
        by_cases hx : x = k
        · subst hx; simp [Ne.symm hk]
        · simp [hx]

/-- Bytes written in a row read back, and every other byte is as before. -/
theorem read_writeBytes (bs : List Byte) (m : Memory) (a x : Nat) :
    (m.writeBytes a bs).read x = if a ≤ x ∧ x < a + bs.length then bs.getD (x - a) 0 else m.read x := by
  induction bs generalizing m a with
  | nil => simp [writeBytes]
  | cons b r ih =>
    rw [writeBytes, ih, read_write, List.length_cons]
    rcases Nat.lt_trichotomy x a with h | h | h
    · have h1 : ¬ (a + 1 ≤ x ∧ x < a + 1 + r.length) := by omega
      have h2 : ¬ (a ≤ x ∧ x < a + (r.length + 1)) := by omega
      simp only [h1, h2, if_false, show x ≠ a by omega]
    · subst h
      have h1 : ¬ (x + 1 ≤ x ∧ x < x + 1 + r.length) := by omega
      have h2 : x ≤ x ∧ x < x + (r.length + 1) := by omega
      rw [if_neg h1, if_pos h2]; simp
    · obtain ⟨d, rfl⟩ : ∃ d, x = a + 1 + d := ⟨x - a - 1, by omega⟩
      have e : a + 1 + d - a = d + 1 := by omega
      simp only [show a + 1 + d ≠ a by omega, if_false, e, Nat.add_sub_cancel_left, List.getD_cons_succ]
      by_cases hd : d < r.length
      · simp [hd]; omega
      · have h1 : ¬ (a + 1 ≤ a + 1 + d ∧ a + 1 + d < a + 1 + r.length) := by omega
        have h2 : ¬ (a ≤ a + 1 + d ∧ a + 1 + d < a + (r.length + 1)) := by omega
        rw [if_neg h1, if_neg h2]

@[simp] theorem length_bytes (m : Memory) (a n : Nat) : (m.bytes a n).length = n := by simp [bytes]

theorem getD_bytes (m : Memory) (a n k : Nat) (h : k < n) : (m.bytes a n).getD k 0 = m.read (a + k) := by
  simp [bytes, List.getD, h]

/-- A range that a write does not touch reads as before. -/
theorem bytes_writeBytes_of_disjoint (m : Memory) (a x n : Nat) (bs : List Byte)
    (h : x + n ≤ a ∨ a + bs.length ≤ x) : (m.writeBytes a bs).bytes x n = m.bytes x n := by
  simp only [bytes, read_writeBytes]
  apply List.map_congr_left
  intro i hi
  have := List.mem_range.mp hi
  rw [if_neg (by omega)]

/-- The range that was written reads back whole. -/
theorem bytes_writeBytes (m : Memory) (a : Nat) (bs : List Byte) : (m.writeBytes a bs).bytes a bs.length = bs := by
  apply List.ext_getElem (by simp)
  intro k h1 h2
  simp only [bytes, List.getElem_map, List.getElem_range, read_writeBytes]
  rw [if_pos (by omega)]
  simp [List.getD, h2]

/-! ### Numbers -/

@[simp] theorem length_bytesOfNat (n v : Nat) : (bytesOfNat n v).length = n := by
  induction n generalizing v with
  | zero => rfl
  | succ n ih => simp [bytesOfNat, ih]

theorem getD_bytesOfNat (n v k : Nat) (h : k < n) : (bytesOfNat n v).getD k 0 = BitVec.ofNat 8 (v / 256 ^ k) := by
  induction n generalizing v k with
  | zero => omega
  | succ n ih =>
    cases k with
    | zero => simp [bytesOfNat]
    | succ k =>
      simp only [bytesOfNat, List.getD_cons_succ]
      rw [ih _ _ (by omega), Nat.div_div_eq_div_mul, Nat.pow_succ, Nat.mul_comm]

theorem natOfBytes_lt (bs : List Byte) : natOfBytes bs < 256 ^ bs.length := by
  induction bs with
  | nil => simp [natOfBytes]
  | cons b r ih =>
    simp only [natOfBytes, List.length_cons, Nat.pow_succ]
    have := b.isLt
    omega

/-- The bytes of a number make the number again. -/
theorem natOfBytes_bytesOfNat (n v : Nat) : natOfBytes (bytesOfNat n v) = v % 256 ^ n := by
  induction n generalizing v with
  | zero => simp [bytesOfNat, natOfBytes, Nat.mod_one]
  | succ n ih =>
    simp only [bytesOfNat, natOfBytes, ih, BitVec.toNat_ofNat]
    rw [show 256 ^ (n + 1) = 256 * 256 ^ n by rw [Nat.pow_succ, Nat.mul_comm], Nat.mod_mul]

theorem num_lt (m : Memory) (a n : Nat) : m.num a n < 256 ^ n := by
  simpa [num] using natOfBytes_lt (m.bytes a n)

/-- A number written reads back. -/
theorem num_setNum (m : Memory) (a n v : Nat) : (m.setNum a n v).num a n = v % 256 ^ n := by
  have h := bytes_writeBytes m a (bytesOfNat n v)
  rw [length_bytesOfNat] at h
  rw [num, setNum, h, natOfBytes_bytesOfNat]

/-- A number beside the one written is as before. -/
theorem num_setNum_of_disjoint (m : Memory) (a n v x k : Nat) (h : x + k ≤ a ∨ a + n ≤ x) :
    (m.setNum a n v).num x k = m.num x k := by
  rw [num, setNum, bytes_writeBytes_of_disjoint _ _ _ _ _ (by simpa using h), num]

theorem read_setNum (m : Memory) (a n v x : Nat) :
    (m.setNum a n v).read x = if a ≤ x ∧ x < a + n then BitVec.ofNat 8 (v / 256 ^ (x - a)) else m.read x := by
  rw [setNum, read_writeBytes, length_bytesOfNat]
  split
  · exact getD_bytesOfNat _ _ _ (by omega)
  · rfl

/-! ### The canonical form -/

theorem wfFrom_mono {lo lo' : Nat} {m : Memory} (h : wfFrom lo m = true) (hl : lo' ≤ lo) : wfFrom lo' m = true := by
  cases m with
  | nil => rfl
  | cons c r =>
    obtain ⟨k, v⟩ := c
    simp only [wfFrom, Bool.and_eq_true, decide_eq_true_eq] at h ⊢
    exact ⟨⟨by omega, h.1.2⟩, h.2⟩

theorem without_of_wfFrom {lo : Nat} {m : Memory} (h : wfFrom lo m = true) {a : Nat} (ha : a < lo) : m.without a = m := by
  induction m generalizing lo with
  | nil => rfl
  | cons c r ih =>
    obtain ⟨k, v⟩ := c
    simp only [wfFrom, Bool.and_eq_true, decide_eq_true_eq] at h
    have hk : (k != a) = true := by simp; omega
    have := ih h.2 (by omega)
    simp only [without] at this
    simp [without, hk, this]

theorem wfFrom_listed {lo a : Nat} {m : Memory} {b : Byte} (h : wfFrom (a + 1) m = true) (hl : lo ≤ a) :
    wfFrom lo (listed a b m) = true := by
  unfold listed
  split
  · exact wfFrom_mono h (by omega)
  · next hb => simp [wfFrom, hl, h, hb]

theorem wfFrom_write {lo : Nat} {m : Memory} (h : wfFrom lo m = true) (a : Nat) (b : Byte) (hl : lo ≤ a) :
    wfFrom lo (m.write a b) = true := by
  induction m generalizing lo with
  | nil => exact wfFrom_listed rfl hl
  | cons c r ih =>
    obtain ⟨k, v⟩ := c
    simp only [wfFrom, Bool.and_eq_true, decide_eq_true_eq] at h
    rw [write]
    split
    · rw [without_of_wfFrom h.2 (by omega)]
      exact wfFrom_listed (by simp [wfFrom, h.1.2, h.2]; omega) hl
    · split
      · next _ hk =>
        subst hk
        rw [without_of_wfFrom h.2 (by omega)]
        exact wfFrom_listed h.2 hl
      · simp only [wfFrom, Bool.and_eq_true, decide_eq_true_eq]
        exact ⟨h.1, ih h.2 (by omega)⟩

/-- A write keeps the canonical form. -/
theorem wf_write {m : Memory} (h : m.wf = true) (a : Nat) (b : Byte) : (m.write a b).wf = true :=
  wfFrom_write h a b (Nat.zero_le _)

/-- Writes in a row keep the canonical form. -/
theorem wf_writeBytes {m : Memory} (h : m.wf = true) (a : Nat) (bs : List Byte) : (m.writeBytes a bs).wf = true := by
  induction bs generalizing m a with
  | nil => exact h
  | cons b r ih => exact ih (wf_write h a b) _

/-- Writing a number keeps the canonical form. -/
theorem wf_setNum {m : Memory} (h : m.wf = true) (a n v : Nat) : (m.setNum a n v).wf = true := wf_writeBytes h a _

/-- The memory of the reset state has the canonical form. -/
theorem wf_reset : (State.reset.mem).wf = true ∧ (State.reset.hostMem).wf = true := ⟨rfl, rfl⟩

end Sys2Proof.Machine.Memory
end

