-- ==== Sys2Proof/Laws/PerInstr.lean ====
section
/-!
SUPPORT. The per-instruction family Encoding: what decoding makes of an instruction's own encoding, one lemma for each
constructor; an operation without a word meets it because it has no encoding. The statement that instruction words decode
to what they encode goes through these (R49, R60 to R66).
-/
set_option linter.unusedSimpArgs false

namespace Sys2Proof.Laws.Encoding
open Sys2Proof

/-- The fields of a well-formed instruction's encoding decode to it. -/
def Statement (i : Instr) : Prop := i.wellFormed = true → ∀ f, encodeFields i = some f → decodeFields f = .ok i

/-! ### Fields put together and cut again -/

theorem ofCode_fnT (t : LaneType) (q m : Bool) : LaneType.ofCode ((fnT t q m).extractLsb' 2 4) = some t := by
  cases t <;> cases q <;> cases m <;> decide

theorem bit1_fnT (t : LaneType) (q m : Bool) : (fnT t q m).getLsbD 1 = q := by
  cases t <;> cases q <;> cases m <;> decide

theorem bit0_fnT (t : LaneType) (q m : Bool) : (fnT t q m).getLsbD 0 = m := by
  cases t <;> cases q <;> cases m <;> decide

@[simp] theorem lane_fnT (k : Bool) (op : BitVec 6) (a b c : Reg) (t : LaneType) (q m : Bool) :
    (Fields.mk k op a b c (fnT t q m)).lane = .ok t := by simp [Fields.lane, Fields.ty, ofCode_fnT, field]

@[simp] theorem q_fnT (k : Bool) (op : BitVec 6) (a b c : Reg) (t : LaneType) (q m : Bool) :
    (Fields.mk k op a b c (fnT t q m)).q = q := bit1_fnT t q m

@[simp] theorem m_fnT (k : Bool) (op : BitVec 6) (a b c : Reg) (t : LaneType) (q m : Bool) :
    (Fields.mk k op a b c (fnT t q m)).m = m := bit0_fnT t q m

/-- Two neighbouring cuts of a value, put together, are the one cut. -/
theorem join {w : Nat} (v : BitVec w) (l m n : Nat) :
    v.extractLsb' (l + n) m ++ v.extractLsb' l n = v.extractLsb' l (m + n) := by
  apply BitVec.eq_of_getLsbD_eq
  intro k h
  simp only [BitVec.getLsbD_append, BitVec.getLsbD_extractLsb']
  rcases Nat.lt_or_ge k n with hk | hk
  · simp [hk, h]
  · simp [Nat.not_lt.2 hk, h, show k - n < m by omega, show l + n + (k - n) = l + k by omega]

/-- The cut of every bit is the value. -/
theorem whole {w : Nat} (v : BitVec w) : v.extractLsb' 0 w = v := by
  apply BitVec.eq_of_getLsbD_eq
  intro k h
  simp [h]

theorem join11 (v : BitVec 11) : v.extractLsb' 6 5 ++ v.extractLsb' 0 6 = v := (join v 0 5 6).trans (whole v)

theorem join16 (v : BitVec 16) : v.extractLsb' 11 5 ++ v.extractLsb' 6 5 ++ v.extractLsb' 0 6 = v := by
  rw [show v.extractLsb' 11 5 ++ v.extractLsb' 6 5 = v.extractLsb' 6 10 from join v 6 5 5]
  exact (join v 0 10 6).trans (whole v)

theorem join21 (v : BitVec 21) :
    v.extractLsb' 16 5 ++ v.extractLsb' 11 5 ++ v.extractLsb' 6 5 ++ v.extractLsb' 0 6 = v := by
  rw [show v.extractLsb' 16 5 ++ v.extractLsb' 11 5 = v.extractLsb' 11 10 from join v 11 5 5,
    show v.extractLsb' 11 10 ++ v.extractLsb' 6 5 = v.extractLsb' 6 15 from join v 6 10 5]
  exact (join v 0 15 6).trans (whole v)

theorem joinBit (b : BitVec 6) (o : BitVec 10) :
    (b.extractLsb' 5 1 ++ o.extractLsb' 6 4).extractLsb' 4 1 ++ b.extractLsb' 0 5 = b := by
  rw [show (b.extractLsb' 5 1 ++ o.extractLsb' 6 4).extractLsb' 4 1 = b.extractLsb' 5 1 by
    apply BitVec.eq_of_getLsbD_eq
    intro k h
    simp only [BitVec.getLsbD_append, BitVec.getLsbD_extractLsb']
    simp [show k = 0 by omega]]
  exact (join b 0 1 5).trans (whole b)

theorem joinOff (b : BitVec 6) (o : BitVec 10) :
    (b.extractLsb' 5 1 ++ o.extractLsb' 6 4).extractLsb' 0 4 ++ o.extractLsb' 0 6 = o := by
  rw [show (b.extractLsb' 5 1 ++ o.extractLsb' 6 4).extractLsb' 0 4 = o.extractLsb' 6 4 by
    apply BitVec.eq_of_getLsbD_eq
    intro k h
    simp only [BitVec.getLsbD_append, BitVec.getLsbD_extractLsb']
    simp [h]]
  exact (join o 0 4 6).trans (whole o)

theorem code_low (t : LaneType) (x : BitVec 2) : (t.code ++ x).extractLsb' 0 2 = x := by
  cases t <;> revert x <;> decide

theorem code_high (t : LaneType) (x : BitVec 2) : LaneType.ofCode ((t.code ++ x).extractLsb' 2 4) = some t := by
  cases t <;> revert x <;> decide

theorem code_in5 (t : LaneType) : LaneType.ofCode ((0#1 ++ t.code).extractLsb' 0 4) = some t := by
  cases t <;> decide

theorem top_in5 (t : LaneType) : (0#1 ++ t.code)[4] = false := by cases t <;> decide

theorem sub_fnS (v : BitVec 5) (m : Bool) : (fnS v m).extractLsb' 1 5 = v := by revert v; cases m <;> decide

theorem bit0_fnS (v : BitVec 5) (m : Bool) : (fnS v m)[0] = m := by revert v; cases m <;> decide

theorem high4 (v : BitVec 4) (q m : Bool) : (v ++ BitVec.ofBool q ++ BitVec.ofBool m).extractLsb' 2 4 = v := by
  revert v; cases q <;> cases m <;> decide

theorem bit1_4 (v : BitVec 4) (q m : Bool) : (v ++ BitVec.ofBool q ++ BitVec.ofBool m).getLsbD 1 = q := by
  revert v; cases q <;> cases m <;> decide

theorem bit0_4 (v : BitVec 4) (q m : Bool) : (v ++ BitVec.ofBool q ++ BitVec.ofBool m).getLsbD 0 = m := by
  revert v; cases q <;> cases m <;> decide

theorem high32 (u : BitVec 3) (v : BitVec 2) : (u ++ v).extractLsb' 2 3 = u := by revert u v; decide

theorem low32 (u : BitVec 3) (v : BitVec 2) : (u ++ v).extractLsb' 0 2 = v := by revert u v; decide

theorem high24 (u : BitVec 2) (v : BitVec 4) : (u ++ v).extractLsb' 4 2 = u := by revert u v; decide

theorem low24 (u : BitVec 2) (v : BitVec 4) : (u ++ v).extractLsb' 0 4 = v := by revert u v; decide

theorem join4 (v : BitVec 4) : v.extractLsb' 2 2 ++ v.extractLsb' 0 2 = v := (join v 0 2 2).trans (whole v)

theorem join8 (v : BitVec 8) : v.extractLsb' 6 2 ++ v.extractLsb' 0 6 = v := (join v 0 2 6).trans (whole v)

theorem join10 (v : BitVec 10) : v.extractLsb' 5 5 ++ v.extractLsb' 0 5 = v := (join v 0 5 5).trans (whole v)

/-- The fields of a C-class word that decodes to a well-formed instruction. -/
theorem ofC {f : Fields} {i : Instr} (hk : f.k = false) (h : decodeC f = .ok i) (hw : i.wellFormed = true) :
    decodeFields f = .ok i := by simp [decodeFields, hk, h, bind, Except.bind, hw]

/-! ### The constructors -/

theorem addA (d : Reg) (a : Reg) (b : Reg) (m : Bool) : Statement (.addA d a b m) := by
  intro hw f hf; cases hf
  cases m <;> with_unfolding_all rfl

theorem subA (d : Reg) (a : Reg) (b : Reg) (m : Bool) : Statement (.subA d a b m) := by
  intro hw f hf; cases hf
  cases m <;> with_unfolding_all rfl

theorem andA (d : Reg) (a : Reg) (b : Reg) (m : Bool) : Statement (.andA d a b m) := by
  intro hw f hf; cases hf
  cases m <;> with_unfolding_all rfl

theorem orA (d : Reg) (a : Reg) (b : Reg) (m : Bool) : Statement (.orA d a b m) := by
  intro hw f hf; cases hf
  cases m <;> with_unfolding_all rfl

theorem xorA (d : Reg) (a : Reg) (b : Reg) (m : Bool) : Statement (.xorA d a b m) := by
  intro hw f hf; cases hf
  cases m <;> with_unfolding_all rfl

theorem shlA (d : Reg) (a : Reg) (b : Reg) (m : Bool) : Statement (.shlA d a b m) := by
  intro hw f hf; cases hf
  cases m <;> with_unfolding_all rfl

theorem shrA (d : Reg) (a : Reg) (b : Reg) (m : Bool) : Statement (.shrA d a b m) := by
  intro hw f hf; cases hf
  cases m <;> with_unfolding_all rfl

theorem sraA (d : Reg) (a : Reg) (b : Reg) (m : Bool) : Statement (.sraA d a b m) := by
  intro hw f hf; cases hf
  cases m <;> with_unfolding_all rfl

theorem sltA (d : Reg) (a : Reg) (b : Reg) (m : Bool) : Statement (.sltA d a b m) := by
  intro hw f hf; cases hf
  simp [decodeFields, decodeA, decodeIaluA, fA, Fields.sub, Fields.m, sub_fnS, bit0_fnS, need, bind, Except.bind, hw]

theorem sltnA (d : Reg) (a : Reg) (b : Reg) (m : Bool) : Statement (.sltnA d a b m) := by
  intro hw f hf; cases hf
  simp [decodeFields, decodeA, decodeIaluA, fA, Fields.sub, Fields.m, sub_fnS, bit0_fnS, need, bind, Except.bind, hw]

theorem minA (d : Reg) (a : Reg) (b : Reg) (m : Bool) : Statement (.minA d a b m) := by
  intro hw f hf; cases hf
  simp [decodeFields, decodeA, decodeIaluA, fA, Fields.sub, Fields.m, sub_fnS, bit0_fnS, need, bind, Except.bind, hw]

theorem maxA (d : Reg) (a : Reg) (b : Reg) (m : Bool) : Statement (.maxA d a b m) := by
  intro hw f hf; cases hf
  simp [decodeFields, decodeA, decodeIaluA, fA, Fields.sub, Fields.m, sub_fnS, bit0_fnS, need, bind, Except.bind, hw]

theorem minnA (d : Reg) (a : Reg) (b : Reg) (m : Bool) : Statement (.minnA d a b m) := by
  intro hw f hf; cases hf
  simp [decodeFields, decodeA, decodeIaluA, fA, Fields.sub, Fields.m, sub_fnS, bit0_fnS, need, bind, Except.bind, hw]

theorem maxnA (d : Reg) (a : Reg) (b : Reg) (m : Bool) : Statement (.maxnA d a b m) := by
  intro hw f hf; cases hf
  simp [decodeFields, decodeA, decodeIaluA, fA, Fields.sub, Fields.m, sub_fnS, bit0_fnS, need, bind, Except.bind, hw]

theorem mul (d : Reg) (a : Reg) (b : Reg) (m : Bool) : Statement (.mul d a b m) := by
  intro hw f hf; cases hf
  simp [decodeFields, decodeA, decodeIaluA, fA, Fields.sub, Fields.m, sub_fnS, bit0_fnS, need, bind, Except.bind, hw]

theorem mulh (d : Reg) (a : Reg) (b : Reg) (m : Bool) : Statement (.mulh d a b m) := by
  intro hw f hf; cases hf
  simp [decodeFields, decodeA, decodeIaluA, fA, Fields.sub, Fields.m, sub_fnS, bit0_fnS, need, bind, Except.bind, hw]

theorem mulhn (d : Reg) (a : Reg) (b : Reg) (m : Bool) : Statement (.mulhn d a b m) := by
  intro hw f hf; cases hf
  simp [decodeFields, decodeA, decodeIaluA, fA, Fields.sub, Fields.m, sub_fnS, bit0_fnS, need, bind, Except.bind, hw]

theorem div (d : Reg) (a : Reg) (b : Reg) (m : Bool) : Statement (.div d a b m) := by
  intro hw f hf; cases hf
  simp [decodeFields, decodeA, decodeIaluA, fA, Fields.sub, Fields.m, sub_fnS, bit0_fnS, need, bind, Except.bind, hw]

theorem divn (d : Reg) (a : Reg) (b : Reg) (m : Bool) : Statement (.divn d a b m) := by
  intro hw f hf; cases hf
  simp [decodeFields, decodeA, decodeIaluA, fA, Fields.sub, Fields.m, sub_fnS, bit0_fnS, need, bind, Except.bind, hw]

theorem rem (d : Reg) (a : Reg) (b : Reg) (m : Bool) : Statement (.rem d a b m) := by
  intro hw f hf; cases hf
  simp [decodeFields, decodeA, decodeIaluA, fA, Fields.sub, Fields.m, sub_fnS, bit0_fnS, need, bind, Except.bind, hw]

theorem remn (d : Reg) (a : Reg) (b : Reg) (m : Bool) : Statement (.remn d a b m) := by
  intro hw f hf; cases hf
  simp [decodeFields, decodeA, decodeIaluA, fA, Fields.sub, Fields.m, sub_fnS, bit0_fnS, need, bind, Except.bind, hw]

theorem popc (d : Reg) (a : Reg) : Statement (.popc d a) := by
  intro hw f hf; cases hf
  simp [decodeFields, decodeA, decodeIaluA, fA, Fields.sub, Fields.m, sub_fnS, bit0_fnS, need, bind, Except.bind, hw]

theorem clz (d : Reg) (a : Reg) : Statement (.clz d a) := by
  intro hw f hf; cases hf
  simp [decodeFields, decodeA, decodeIaluA, fA, Fields.sub, Fields.m, sub_fnS, bit0_fnS, need, bind, Except.bind, hw]

theorem ctz (d : Reg) (a : Reg) : Statement (.ctz d a) := by
  intro hw f hf; cases hf
  simp [decodeFields, decodeA, decodeIaluA, fA, Fields.sub, Fields.m, sub_fnS, bit0_fnS, need, bind, Except.bind, hw]

theorem addC (d : Reg) (a : Reg) (b : Reg) : Statement (.addC d a b) := by
  intro hw f hf; cases hf
  with_unfolding_all rfl

theorem subC (d : Reg) (a : Reg) (b : Reg) : Statement (.subC d a b) := by
  intro hw f hf; cases hf
  with_unfolding_all rfl

theorem andC (d : Reg) (a : Reg) (b : Reg) : Statement (.andC d a b) := by
  intro hw f hf; cases hf
  with_unfolding_all rfl

theorem orC (d : Reg) (a : Reg) (b : Reg) : Statement (.orC d a b) := by
  intro hw f hf; cases hf
  with_unfolding_all rfl

theorem xorC (d : Reg) (a : Reg) (b : Reg) : Statement (.xorC d a b) := by
  intro hw f hf; cases hf
  with_unfolding_all rfl

theorem shlC (d : Reg) (a : Reg) (b : Reg) : Statement (.shlC d a b) := by
  intro hw f hf; cases hf
  with_unfolding_all rfl

theorem shrC (d : Reg) (a : Reg) (b : Reg) : Statement (.shrC d a b) := by
  intro hw f hf; cases hf
  with_unfolding_all rfl

theorem sraC (d : Reg) (a : Reg) (b : Reg) : Statement (.sraC d a b) := by
  intro hw f hf; cases hf
  with_unfolding_all rfl

theorem sltC (d : Reg) (a : Reg) (b : Reg) : Statement (.sltC d a b) := by
  intro hw f hf; cases hf
  with_unfolding_all rfl

theorem sltnC (d : Reg) (a : Reg) (b : Reg) : Statement (.sltnC d a b) := by
  intro hw f hf; cases hf
  with_unfolding_all rfl

theorem minC (d : Reg) (a : Reg) (b : Reg) : Statement (.minC d a b) := by
  intro hw f hf; cases hf
  simp [decodeFields, decodeC, decodeIaluC, fC, Fields.sub, Fields.m, sub_fnS, bit0_fnS, need, bind, Except.bind, hw]

theorem maxC (d : Reg) (a : Reg) (b : Reg) : Statement (.maxC d a b) := by
  intro hw f hf; cases hf
  simp [decodeFields, decodeC, decodeIaluC, fC, Fields.sub, Fields.m, sub_fnS, bit0_fnS, need, bind, Except.bind, hw]

theorem minnC (d : Reg) (a : Reg) (b : Reg) : Statement (.minnC d a b) := by
  intro hw f hf; cases hf
  simp [decodeFields, decodeC, decodeIaluC, fC, Fields.sub, Fields.m, sub_fnS, bit0_fnS, need, bind, Except.bind, hw]

theorem maxnC (d : Reg) (a : Reg) (b : Reg) : Statement (.maxnC d a b) := by
  intro hw f hf; cases hf
  simp [decodeFields, decodeC, decodeIaluC, fC, Fields.sub, Fields.m, sub_fnS, bit0_fnS, need, bind, Except.bind, hw]

theorem addiA (d : Reg) (a : Reg) (imm : BitVec 11) : Statement (.addiA d a imm) := by
  intro hw f hf; cases hf
  exact congrArg (fun z => Except.ok (ε := Illegal) (Instr.addiA d a z)) (join11 imm)

theorem addiC (d : Reg) (a : Reg) (imm : BitVec 11) : Statement (.addiC d a imm) := by
  intro hw f hf; cases hf
  exact congrArg (fun z => Except.ok (ε := Illegal) (Instr.addiC d a z)) (join11 imm)

theorem andiA (d : Reg) (a : Reg) (imm : BitVec 11) : Statement (.andiA d a imm) := by
  intro hw f hf; cases hf
  exact congrArg (fun z => Except.ok (ε := Illegal) (Instr.andiA d a z)) (join11 imm)

theorem andiC (d : Reg) (a : Reg) (imm : BitVec 11) : Statement (.andiC d a imm) := by
  intro hw f hf; cases hf
  exact congrArg (fun z => Except.ok (ε := Illegal) (Instr.andiC d a z)) (join11 imm)

theorem oriA (d : Reg) (a : Reg) (imm : BitVec 11) : Statement (.oriA d a imm) := by
  intro hw f hf; cases hf
  exact congrArg (fun z => Except.ok (ε := Illegal) (Instr.oriA d a z)) (join11 imm)

theorem oriC (d : Reg) (a : Reg) (imm : BitVec 11) : Statement (.oriC d a imm) := by
  intro hw f hf; cases hf
  exact congrArg (fun z => Except.ok (ε := Illegal) (Instr.oriC d a z)) (join11 imm)

theorem xoriA (d : Reg) (a : Reg) (imm : BitVec 11) : Statement (.xoriA d a imm) := by
  intro hw f hf; cases hf
  exact congrArg (fun z => Except.ok (ε := Illegal) (Instr.xoriA d a z)) (join11 imm)

theorem xoriC (d : Reg) (a : Reg) (imm : BitVec 11) : Statement (.xoriC d a imm) := by
  intro hw f hf; cases hf
  exact congrArg (fun z => Except.ok (ε := Illegal) (Instr.xoriC d a z)) (join11 imm)

theorem sltiA (d : Reg) (a : Reg) (imm : BitVec 11) : Statement (.sltiA d a imm) := by
  intro hw f hf; cases hf
  exact congrArg (fun z => Except.ok (ε := Illegal) (Instr.sltiA d a z)) (join11 imm)

theorem sltiC (d : Reg) (a : Reg) (imm : BitVec 11) : Statement (.sltiC d a imm) := by
  intro hw f hf; cases hf
  exact congrArg (fun z => Except.ok (ε := Illegal) (Instr.sltiC d a z)) (join11 imm)

theorem shlImmA (d : Reg) (a : Reg) (amount : BitVec 6) : Statement (.shlImmA d a amount) := by
  intro hw f hf; cases hf
  with_unfolding_all rfl

theorem shlImmC (d : Reg) (a : Reg) (amount : BitVec 6) : Statement (.shlImmC d a amount) := by
  intro hw f hf; cases hf
  with_unfolding_all rfl

theorem shrImmA (d : Reg) (a : Reg) (amount : BitVec 6) : Statement (.shrImmA d a amount) := by
  intro hw f hf; cases hf
  with_unfolding_all rfl

theorem shrImmC (d : Reg) (a : Reg) (amount : BitVec 6) : Statement (.shrImmC d a amount) := by
  intro hw f hf; cases hf
  with_unfolding_all rfl

theorem sraImmA (d : Reg) (a : Reg) (amount : BitVec 6) : Statement (.sraImmA d a amount) := by
  intro hw f hf; cases hf
  with_unfolding_all rfl

theorem sraImmC (d : Reg) (a : Reg) (amount : BitVec 6) : Statement (.sraImmC d a amount) := by
  intro hw f hf; cases hf
  with_unfolding_all rfl

theorem extr (d : Reg) (a : Reg) (len : BitVec 5) (pos : BitVec 6) : Statement (.extr d a len pos) := by
  intro hw f hf; cases hf
  with_unfolding_all rfl

theorem ins (d : Reg) (a : Reg) (len : BitVec 5) (pos : BitVec 6) : Statement (.ins d a len pos) := by
  intro hw f hf; cases hf
  with_unfolding_all rfl

theorem widf (d : Reg) (n : BitVec 3) : Statement (.widf d n) := by
  intro hw f hf; cases hf
  have h : ∀ v : BitVec 3, (0#3 ++ v).extractLsb' 3 3 = 0 ∧ (0#3 ++ v).extractLsb' 0 3 = v := by decide
  simp [decodeFields, decodeA, fA, need, h, bind, Except.bind, hw]

theorem vadd (sat : Bool) (t : LaneType) (d : Reg) (a : Reg) (b : Reg) (m : Bool) : Statement (.vadd sat t d a b m) := by
  intro hw f hf; cases hf
  simp [decodeFields, decodeA, decodeSpecial, decodeVshl, decodeVshr, fA, need, bind, Except.bind, hw]

theorem vsub (sat : Bool) (t : LaneType) (d : Reg) (a : Reg) (b : Reg) (m : Bool) : Statement (.vsub sat t d a b m) := by
  intro hw f hf; cases hf
  simp [decodeFields, decodeA, decodeSpecial, decodeVshl, decodeVshr, fA, need, bind, Except.bind, hw]

theorem vmul (t : LaneType) (d : Reg) (a : Reg) (b : Reg) (m : Bool) : Statement (.vmul t d a b m) := by
  intro hw f hf; cases hf
  simp [decodeFields, decodeA, decodeSpecial, decodeVshl, decodeVshr, fA, need, bind, Except.bind, hw]

theorem vmin (t : LaneType) (d : Reg) (a : Reg) (b : Reg) (m : Bool) : Statement (.vmin t d a b m) := by
  intro hw f hf; cases hf
  simp [decodeFields, decodeA, decodeSpecial, decodeVshl, decodeVshr, fA, need, bind, Except.bind, hw]

theorem vmax (t : LaneType) (d : Reg) (a : Reg) (b : Reg) (m : Bool) : Statement (.vmax t d a b m) := by
  intro hw f hf; cases hf
  simp [decodeFields, decodeA, decodeSpecial, decodeVshl, decodeVshr, fA, need, bind, Except.bind, hw]

theorem vminn (t : LaneType) (d : Reg) (a : Reg) (b : Reg) (m : Bool) : Statement (.vminn t d a b m) := by
  intro hw f hf; cases hf
  simp [decodeFields, decodeA, decodeSpecial, decodeVshl, decodeVshr, fA, need, bind, Except.bind, hw]

theorem vmaxn (t : LaneType) (d : Reg) (a : Reg) (b : Reg) (m : Bool) : Statement (.vmaxn t d a b m) := by
  intro hw f hf; cases hf
  simp [decodeFields, decodeA, decodeSpecial, decodeVshl, decodeVshr, fA, need, bind, Except.bind, hw]

theorem vdot (t : LaneType) (d : Reg) (a : Reg) (b : Reg) (m : Bool) : Statement (.vdot t d a b m) := by
  intro hw f hf; cases hf
  simp [decodeFields, decodeA, decodeSpecial, decodeVshl, decodeVshr, fA, need, bind, Except.bind, hw]

theorem vshlVector (t : LaneType) (d : Reg) (a : Reg) (b : Reg) (m : Bool) : Statement (.vshlVector t d a b m) := by
  intro hw f hf; cases hf
  simp [decodeFields, decodeA, decodeSpecial, decodeVshl, decodeVshr, fA, need, bind, Except.bind, hw]

theorem vshrVector (t : LaneType) (d : Reg) (a : Reg) (b : Reg) (m : Bool) : Statement (.vshrVector t d a b m) := by
  intro hw f hf; cases hf
  have h : t.isSigned = false := by cases t <;> first | rfl | cases hw
  simp [decodeFields, decodeA, decodeVshr, fA, bind, Except.bind, hw, h]

theorem vsraVector (t : LaneType) (d : Reg) (a : Reg) (b : Reg) (m : Bool) : Statement (.vsraVector t d a b m) := by
  intro hw f hf; cases hf
  have h : t.isSigned = true := hw
  simp [decodeFields, decodeA, decodeVshr, fA, bind, Except.bind, hw, h]

theorem vfma (neg : Bool) (t : LaneType) (d : Reg) (a : Reg) (b : Reg) (m : Bool) : Statement (.vfma neg t d a b m) := by
  intro hw f hf; cases hf
  simp [decodeFields, decodeA, decodeSpecial, decodeVshl, decodeVshr, fA, need, bind, Except.bind, hw]

theorem vabs (t : LaneType) (d : Reg) (a : Reg) : Statement (.vabs t d a) := by
  intro hw f hf; cases hf
  simp [decodeFields, decodeA, fA, need, bind, Except.bind, hw]

theorem vneg (t : LaneType) (d : Reg) (a : Reg) : Statement (.vneg t d a) := by
  intro hw f hf; cases hf
  simp [decodeFields, decodeA, fA, need, bind, Except.bind, hw]

theorem vredsum (t : LaneType) (d : Reg) (a : Reg) : Statement (.vredsum t d a) := by
  intro hw f hf; cases hf
  simp [decodeFields, decodeA, decodeSpecial, decodeVshl, decodeVshr, fA, need, bind, Except.bind, hw]

theorem vredmax (t : LaneType) (d : Reg) (a : Reg) : Statement (.vredmax t d a) := by
  intro hw f hf; cases hf
  simp [decodeFields, decodeA, decodeSpecial, decodeVshl, decodeVshr, fA, need, bind, Except.bind, hw]

theorem vredmin (t : LaneType) (d : Reg) (a : Reg) : Statement (.vredmin t d a) := by
  intro hw f hf; cases hf
  simp [decodeFields, decodeA, decodeSpecial, decodeVshl, decodeVshr, fA, need, bind, Except.bind, hw]

theorem vrcp (t : LaneType) (d : Reg) (a : Reg) : Statement (.vrcp t d a) := by
  intro hw f hf; cases hf
  simp [decodeFields, decodeA, decodeSpecial, decodeVshl, decodeVshr, fA, need, bind, Except.bind, hw]

theorem vrsq (t : LaneType) (d : Reg) (a : Reg) : Statement (.vrsq t d a) := by
  intro hw f hf; cases hf
  simp [decodeFields, decodeA, decodeSpecial, decodeVshl, decodeVshr, fA, need, bind, Except.bind, hw]

theorem vexp2 (t : LaneType) (d : Reg) (a : Reg) : Statement (.vexp2 t d a) := by
  intro hw f hf; cases hf
  simp [decodeFields, decodeA, decodeSpecial, decodeVshl, decodeVshr, fA, need, bind, Except.bind, hw]

theorem vlog2 (t : LaneType) (d : Reg) (a : Reg) : Statement (.vlog2 t d a) := by
  intro hw f hf; cases hf
  simp [decodeFields, decodeA, decodeSpecial, decodeVshl, decodeVshr, fA, need, bind, Except.bind, hw]

theorem vtanh (t : LaneType) (d : Reg) (a : Reg) : Statement (.vtanh t d a) := by
  intro hw f hf; cases hf
  simp [decodeFields, decodeA, decodeSpecial, decodeVshl, decodeVshr, fA, need, bind, Except.bind, hw]

theorem vsplat (t : LaneType) (d : Reg) (a : Reg) : Statement (.vsplat t d a) := by
  intro hw f hf; cases hf
  simp [decodeFields, decodeA, decodeSpecial, decodeVshl, decodeVshr, fA, need, bind, Except.bind, hw]

theorem vzmask (t : LaneType) (d : Reg) (a : Reg) : Statement (.vzmask t d a) := by
  intro hw f hf; cases hf
  simp [decodeFields, decodeA, decodeSpecial, decodeVshl, decodeVshr, fA, need, bind, Except.bind, hw]

theorem vand (d : Reg) (a : Reg) (b : Reg) (m : Bool) : Statement (.vand d a b m) := by
  intro hw f hf; cases hf
  cases m <;> with_unfolding_all rfl

theorem vor (d : Reg) (a : Reg) (b : Reg) (m : Bool) : Statement (.vor d a b m) := by
  intro hw f hf; cases hf
  cases m <;> with_unfolding_all rfl

theorem vxor (d : Reg) (a : Reg) (b : Reg) (m : Bool) : Statement (.vxor d a b m) := by
  intro hw f hf; cases hf
  cases m <;> with_unfolding_all rfl

theorem vandn (d : Reg) (a : Reg) (b : Reg) (m : Bool) : Statement (.vandn d a b m) := by
  intro hw f hf; cases hf
  cases m <;> with_unfolding_all rfl

theorem vperm (d : Reg) (a : Reg) (b : Reg) (m : Bool) : Statement (.vperm d a b m) := by
  intro hw f hf; cases hf
  cases m <;> with_unfolding_all rfl

theorem vshlScalar (t : LaneType) (d : Reg) (a : Reg) (b : Reg) : Statement (.vshlScalar t d a b) := by
  intro hw f hf; cases hf
  simp [decodeFields, decodeA, decodeSpecial, decodeVshl, decodeVshr, fA, need, bind, Except.bind, hw]

theorem vshrScalar (t : LaneType) (d : Reg) (a : Reg) (b : Reg) : Statement (.vshrScalar t d a b) := by
  intro hw f hf; cases hf
  have h : t.isSigned = false := by cases t <;> first | rfl | cases hw
  simp [decodeFields, decodeA, decodeVshr, fA, need, bind, Except.bind, hw, h]

theorem vsraScalar (t : LaneType) (d : Reg) (a : Reg) (b : Reg) : Statement (.vsraScalar t d a b) := by
  intro hw f hf; cases hf
  have h : t.isSigned = true := hw
  simp [decodeFields, decodeA, decodeVshr, fA, need, bind, Except.bind, hw, h]

theorem vext (t : LaneType) (d : Reg) (a : Reg) (b : Reg) : Statement (.vext t d a b) := by
  intro hw f hf; cases hf
  simp [decodeFields, decodeA, decodeSpecial, decodeVshl, decodeVshr, fA, need, bind, Except.bind, hw]

theorem vins (t : LaneType) (d : Reg) (a : Reg) (b : Reg) : Statement (.vins t d a b) := by
  intro hw f hf; cases hf
  simp [decodeFields, decodeA, decodeSpecial, decodeVshl, decodeVshr, fA, need, bind, Except.bind, hw]

theorem vcmprs (t : LaneType) (d : Reg) (a : Reg) (b : Reg) : Statement (.vcmprs t d a b) := by
  intro hw f hf; cases hf
  simp [decodeFields, decodeA, decodeSpecial, decodeVshl, decodeVshr, fA, need, bind, Except.bind, hw]

theorem vexpnd (t : LaneType) (d : Reg) (a : Reg) (b : Reg) : Statement (.vexpnd t d a b) := by
  intro hw f hf; cases hf
  simp [decodeFields, decodeA, decodeSpecial, decodeVshl, decodeVshr, fA, need, bind, Except.bind, hw]

theorem vcmp (cond : VCond) (t : LaneType) (d : Reg) (a : Reg) (b : Reg) : Statement (.vcmp cond t d a b) := by
  intro hw f hf; cases hf
  cases cond <;>
    simp [decodeFields, decodeA, fA, Fields.lane, Fields.ty, field, VCond.code, VCond.ofCode, code_high, code_low, bind,
      Except.bind, hw]

theorem vsel (t : LaneType) (d : Reg) (a : Reg) (mask : Reg) : Statement (.vsel t d a mask) := by
  intro hw f hf; cases hf
  simp [decodeFields, decodeA, fA, field, Fields.sub, Fields.m, sub_fnS, bit0_fnS, code_in5, top_in5, need, bind,
    Except.bind, hw]

theorem vcvt (dst : LaneType) (src : LaneType) (sat : Bool) (sr : Bool) (d : Reg) (a : Reg) : Statement (.vcvt dst src sat sr d a) := by
  intro hw f hf; cases hf
  cases src <;> simp [decodeFields, decodeA, fA, need, field, bind, Except.bind, LaneType.ofCode, LaneType.code, hw]

theorem vmov (d : Reg) (a : Reg) : Statement (.vmov d a) := by
  intro hw f hf; cases hf
  with_unfolding_all rfl

theorem waitev (a : Reg) : Statement (.waitev a) := by
  intro hw f hf; cases hf
  with_unfolding_all rfl

theorem asinv (a : Reg) : Statement (.asinv a) := by
  intro hw f hf; cases hf
  with_unfolding_all rfl

theorem mswap (n : Bool) : Statement (.mswap n) := by
  intro hw f hf; cases hf
  cases n <;> with_unfolding_all rfl

theorem trap (code : BitVec 11) : Statement (.trap code) := by
  intro hw f hf; cases hf
  exact congrArg (fun z => Except.ok (ε := Illegal) (Instr.trap z)) (join11 code)

theorem crr (d : Reg) (num : BitVec 11) : Statement (.crr d num) := by
  intro hw f hf; cases hf
  exact congrArg (fun z => Except.ok (ε := Illegal) (Instr.crr d z)) (join11 num)

theorem crw (a : Reg) (d : Reg) (num : BitVec 11) : Statement (.crw a d num) := by
  intro hw f hf; cases hf
  exact congrArg (fun z => Except.ok (ε := Illegal) (Instr.crw a d z)) (join11 num)

theorem crs (a : Reg) (d : Reg) (num : BitVec 11) : Statement (.crs a d num) := by
  intro hw f hf; cases hf
  exact congrArg (fun z => Except.ok (ε := Illegal) (Instr.crs a d z)) (join11 num)

theorem crc (a : Reg) (d : Reg) (num : BitVec 11) : Statement (.crc a d num) := by
  intro hw f hf; cases hf
  exact congrArg (fun z => Except.ok (ε := Illegal) (Instr.crc a d z)) (join11 num)

theorem hmask (ch : BitVec 6) : Statement (.hmask ch) := by
  intro hw f hf; cases hf
  with_unfolding_all rfl

theorem hunmask (ch : BitVec 6) : Statement (.hunmask ch) := by
  intro hw f hf; cases hf
  with_unfolding_all rfl

theorem lih (d : Reg) (imm : BitVec 16) : Statement (.lih d imm) := by
  intro hw f hf; cases hf
  exact congrArg (fun z => Except.ok (ε := Illegal) (Instr.lih d z)) (join16 imm)

theorem liq (d : Reg) (imm : BitVec 16) : Statement (.liq d imm) := by
  intro hw f hf; cases hf
  exact congrArg (fun z => Except.ok (ε := Illegal) (Instr.liq d z)) (join16 imm)

theorem liw (d : Reg) (imm : BitVec 16) : Statement (.liw d imm) := by
  intro hw f hf; cases hf
  exact congrArg (fun z => Except.ok (ε := Illegal) (Instr.liw d z)) (join16 imm)

theorem beq (a : Reg) (b : Reg) (off : BitVec 11) : Statement (.beq a b off) := by
  intro hw f hf; cases hf
  exact congrArg (fun z => Except.ok (ε := Illegal) (Instr.beq a b z)) (join11 off)

theorem bne (a : Reg) (b : Reg) (off : BitVec 11) : Statement (.bne a b off) := by
  intro hw f hf; cases hf
  exact congrArg (fun z => Except.ok (ε := Illegal) (Instr.bne a b z)) (join11 off)

theorem blt (a : Reg) (b : Reg) (off : BitVec 11) : Statement (.blt a b off) := by
  intro hw f hf; cases hf
  exact congrArg (fun z => Except.ok (ε := Illegal) (Instr.blt a b z)) (join11 off)

theorem bge (a : Reg) (b : Reg) (off : BitVec 11) : Statement (.bge a b off) := by
  intro hw f hf; cases hf
  exact congrArg (fun z => Except.ok (ε := Illegal) (Instr.bge a b z)) (join11 off)

theorem bltn (a : Reg) (b : Reg) (off : BitVec 11) : Statement (.bltn a b off) := by
  intro hw f hf; cases hf
  exact congrArg (fun z => Except.ok (ε := Illegal) (Instr.bltn a b z)) (join11 off)

theorem bgen (a : Reg) (b : Reg) (off : BitVec 11) : Statement (.bgen a b off) := by
  intro hw f hf; cases hf
  exact congrArg (fun z => Except.ok (ε := Illegal) (Instr.bgen a b z)) (join11 off)

theorem bbs (a : Reg) (bit : BitVec 6) (off : BitVec 10) : Statement (.bbs a bit off) := by
  intro hw f hf; cases hf
  exact congrArg₂ (fun y z => Except.ok (ε := Illegal) (Instr.bbs a y z)) (joinBit bit off) (joinOff bit off)

theorem bbc (a : Reg) (bit : BitVec 6) (off : BitVec 10) : Statement (.bbc a bit off) := by
  intro hw f hf; cases hf
  exact congrArg₂ (fun y z => Except.ok (ε := Illegal) (Instr.bbc a y z)) (joinBit bit off) (joinOff bit off)

theorem j (off : BitVec 21) : Statement (.j off) := by
  intro hw f hf; cases hf
  exact congrArg (fun z => Except.ok (ε := Illegal) (Instr.j z)) (join21 off)

theorem jal (off : BitVec 21) : Statement (.jal off) := by
  intro hw f hf; cases hf
  exact congrArg (fun z => Except.ok (ε := Illegal) (Instr.jal z)) (join21 off)

theorem jalr (d : Reg) (b : Reg) (imm : BitVec 11) : Statement (.jalr d b imm) := by
  intro hw f hf; cases hf
  exact congrArg (fun z => Except.ok (ε := Illegal) (Instr.jalr d b z)) (join11 imm)

theorem rpt (a : Reg) (len : BitVec 3) (stride : BitVec 4) : Statement (.rpt a len stride) := by
  intro hw f hf; cases hf
  simp [decodeFields, decodeC, fC, need, high32, low32, high24, low24, join4, bind, Except.bind, hw]

theorem tbegin (a : Reg) (off : BitVec 11) : Statement (.tbegin a off) := by
  intro hw f hf; cases hf
  exact congrArg (fun z => Except.ok (ε := Illegal) (Instr.tbegin a z)) (join11 off)

theorem tabort (code : BitVec 8) : Statement (.tabort code) := by
  intro hw f hf; cases hf
  simp [decodeFields, decodeC, fC, need, high32, low32, join8, bind, Except.bind, hw]

theorem ldB (d : Reg) (b : Reg) (imm : BitVec 11) : Statement (.ldB d b imm) := by
  intro hw f hf; cases hf
  exact congrArg (fun z => Except.ok (ε := Illegal) (Instr.ldB d b z)) (join11 imm)

theorem ldH (d : Reg) (b : Reg) (imm : BitVec 11) : Statement (.ldH d b imm) := by
  intro hw f hf; cases hf
  exact congrArg (fun z => Except.ok (ε := Illegal) (Instr.ldH d b z)) (join11 imm)

theorem ldW (d : Reg) (b : Reg) (imm : BitVec 11) : Statement (.ldW d b imm) := by
  intro hw f hf; cases hf
  exact congrArg (fun z => Except.ok (ε := Illegal) (Instr.ldW d b z)) (join11 imm)

theorem ldD (d : Reg) (b : Reg) (imm : BitVec 11) : Statement (.ldD d b imm) := by
  intro hw f hf; cases hf
  exact congrArg (fun z => Except.ok (ε := Illegal) (Instr.ldD d b z)) (join11 imm)

theorem ldnB (d : Reg) (b : Reg) (imm : BitVec 11) : Statement (.ldnB d b imm) := by
  intro hw f hf; cases hf
  exact congrArg (fun z => Except.ok (ε := Illegal) (Instr.ldnB d b z)) (join11 imm)

theorem ldnH (d : Reg) (b : Reg) (imm : BitVec 11) : Statement (.ldnH d b imm) := by
  intro hw f hf; cases hf
  exact congrArg (fun z => Except.ok (ε := Illegal) (Instr.ldnH d b z)) (join11 imm)

theorem ldnW (d : Reg) (b : Reg) (imm : BitVec 11) : Statement (.ldnW d b imm) := by
  intro hw f hf; cases hf
  exact congrArg (fun z => Except.ok (ε := Illegal) (Instr.ldnW d b z)) (join11 imm)

theorem vld (d : Reg) (b : Reg) (imm : BitVec 11) : Statement (.vld d b imm) := by
  intro hw f hf; cases hf
  exact congrArg (fun z => Except.ok (ε := Illegal) (Instr.vld d b z)) (join11 imm)

theorem stB (a : Reg) (b : Reg) (imm : BitVec 11) : Statement (.stB a b imm) := by
  intro hw f hf; cases hf
  exact congrArg (fun z => Except.ok (ε := Illegal) (Instr.stB a b z)) (join11 imm)

theorem stH (a : Reg) (b : Reg) (imm : BitVec 11) : Statement (.stH a b imm) := by
  intro hw f hf; cases hf
  exact congrArg (fun z => Except.ok (ε := Illegal) (Instr.stH a b z)) (join11 imm)

theorem stW (a : Reg) (b : Reg) (imm : BitVec 11) : Statement (.stW a b imm) := by
  intro hw f hf; cases hf
  exact congrArg (fun z => Except.ok (ε := Illegal) (Instr.stW a b z)) (join11 imm)

theorem stD (a : Reg) (b : Reg) (imm : BitVec 11) : Statement (.stD a b imm) := by
  intro hw f hf; cases hf
  exact congrArg (fun z => Except.ok (ε := Illegal) (Instr.stD a b z)) (join11 imm)

theorem vst (a : Reg) (b : Reg) (imm : BitVec 11) : Statement (.vst a b imm) := by
  intro hw f hf; cases hf
  exact congrArg (fun z => Except.ok (ε := Illegal) (Instr.vst a b z)) (join11 imm)

theorem st4 (a : Reg) (b : Reg) (off : BitVec 10) (hi : Bool) : Statement (.st4 a b off hi) := by
  intro hw f hf; cases hf
  have h := sub_fnS (off.extractLsb' 0 5) hi
  have h' := bit0_fnS (off.extractLsb' 0 5) hi
  simp only [fnS] at h h'
  simp [decodeFields, decodeC, fC, h, h', Fields.m, join10, bind, Except.bind, hw]

theorem lda (dbl : Bool) (scope : Scope) (d : Reg) (b : Reg) : Statement (.lda dbl scope d b) := by
  intro hw f hf; cases hf
  cases dbl <;> cases scope <;> with_unfolding_all rfl

theorem stl (dbl : Bool) (scope : Scope) (a : Reg) (b : Reg) : Statement (.stl dbl scope a b) := by
  intro hw f hf; cases hf
  cases dbl <;> cases scope <;> with_unfolding_all rfl

theorem amo (op : AmoOp) (dbl : Bool) (ar : Bool) (d : Reg) (b : Reg) (c : Reg) : Statement (.amo op dbl ar d b c) := by
  intro hw f hf; cases hf
  refine ofC rfl ?_ hw
  have h : (do .ok (.amo (← field .selector (AmoOp.ofCode ((op.code ++ BitVec.ofBool dbl ++ BitVec.ofBool ar).extractLsb' 2 4)))
      ((op.code ++ BitVec.ofBool dbl ++ BitVec.ofBool ar).getLsbD 1)
      ((op.code ++ BitVec.ofBool dbl ++ BitVec.ofBool ar).getLsbD 0) d b c) : Except Illegal Instr) = .ok (.amo op dbl ar d b c) := by
    rw [high4, bit1_4, bit0_4]
    cases op <;> rfl
  exact h

theorem cas (dbl : Bool) (ar : Bool) (a : Reg) (b : Reg) (c : Reg) : Statement (.cas dbl ar a b c) := by
  intro hw f hf; cases hf
  cases dbl <;> cases ar <;> with_unfolding_all rfl

theorem fence (kind : FenceKind) (scope : Scope) : Statement (.fence kind scope) := by
  intro hw f hf; cases hf
  cases kind <;> cases scope <;> with_unfolding_all rfl

theorem fencex (ca : PathClass) (cb : PathClass) (scope : Scope) : Statement (.fencex ca cb scope) := by
  intro hw f hf; cases hf
  cases ca <;> cases cb <;> cases scope <;> with_unfolding_all rfl

theorem swset (a : Reg) (b : Reg) : Statement (.swset a b) := by
  intro hw f hf; cases hf
  with_unfolding_all rfl

theorem swwait (a : Reg) (b : Reg) : Statement (.swwait a b) := by
  intro hw f hf; cases hf
  with_unfolding_all rfl

theorem bar (scope : Scope) (a : Reg) (b : Reg) : Statement (.bar scope a b) := by
  intro hw f hf; cases hf
  cases scope <;> with_unfolding_all rfl

theorem tred (vec : Bool) (op : RedOp) (t : LaneType) (b : Reg) (c : Reg) : Statement (.tred vec op t b c) := by
  intro hw f hf; cases hf
  refine ofC rfl ?_ hw
  cases vec <;> cases op <;>
    simp [decodeC, fC, field, Fields.lane, Fields.ty, code_low, code_high, bind, Except.bind, RedOp.code, RedOp.ofCode]

theorem send (a : Reg) (b : Reg) (count : BitVec 2) (ch : BitVec 6) : Statement (.send a b count ch) := by
  intro hw f hf; cases hf
  have h : ∀ v : BitVec 2, (v ++ 0#3).extractLsb' 0 3 = 0 ∧ (v ++ 0#3).extractLsb' 3 2 = v := by decide
  simp [decodeFields, decodeC, fC, need, h, bind, Except.bind, hw]

theorem spawn (a : Reg) (b : Reg) : Statement (.spawn a b) := by
  intro hw f hf; cases hf
  with_unfolding_all rfl

theorem spawnq (a : Reg) (b : Reg) : Statement (.spawnq a b) := by
  intro hw f hf; cases hf
  with_unfolding_all rfl

theorem migrate (a : Reg) (b : Reg) : Statement (.migrate a b) := by
  intro hw f hf; cases hf
  with_unfolding_all rfl

theorem callat (a : Reg) (b : Reg) (ch : BitVec 6) : Statement (.callat a b ch) := by
  intro hw f hf; cases hf
  with_unfolding_all rfl

theorem reply (a : Reg) (b : Reg) : Statement (.reply a b) := by
  intro hw f hf; cases hf
  with_unfolding_all rfl

theorem chrd (d : Reg) (ch : BitVec 6) : Statement (.chrd d ch) := by
  intro hw f hf; cases hf
  with_unfolding_all rfl

theorem copy (sat : Bool) (raise : Bool) (a : Reg) (b : Reg) (c : Reg) : Statement (.copy sat raise a b c) := by
  intro hw f hf; cases hf
  cases sat <;> cases raise <;> with_unfolding_all rfl

theorem gather (a : Reg) : Statement (.gather a) := by
  intro hw f hf; cases hf
  with_unfolding_all rfl

theorem scatter (a : Reg) : Statement (.scatter a) := by
  intro hw f hf; cases hf
  simp [decodeFields, decodeC, decodeEngine, fC, need, bind, Except.bind, hw]

theorem dlaunch (a : Reg) : Statement (.dlaunch a) := by
  intro hw f hf; cases hf
  simp [decodeFields, decodeC, decodeEngine, fC, need, bind, Except.bind, hw]

theorem tskip (a : Reg) : Statement (.tskip a) := by
  intro hw f hf; cases hf
  with_unfolding_all rfl

theorem mcst (a : Reg) (b : Reg) (c : Reg) : Statement (.mcst a b c) := by
  intro hw f hf; cases hf
  simp [decodeFields, decodeC, decodeEngine, fC, need, bind, Except.bind, hw]

theorem tksend (a : Reg) (b : Reg) (c : Reg) : Statement (.tksend a b c) := by
  intro hw f hf; cases hf
  simp [decodeFields, decodeC, decodeEngine, fC, need, bind, Except.bind, hw]

theorem bksel (ty : KeyType) (d : Reg) (b : Reg) : Statement (.bksel ty d b) := by
  intro hw f hf; cases hf
  cases ty <;> simp [decodeFields, decodeC, decodeEngine, fC, field, KeyType.code, KeyType.ofCode, need, bind, Except.bind, hw]

theorem sbind (a : Reg) (b : Reg) : Statement (.sbind a b) := by
  intro hw f hf; cases hf
  with_unfolding_all rfl

theorem compose (a : Reg) (b : Reg) : Statement (.compose a b) := by
  intro hw f hf; cases hf
  with_unfolding_all rfl

theorem mzero (c : Nat) : Statement (.mzero c) := by
  intro _ f hf; cases hf

theorem mldw (c : Nat) : Statement (.mldw c) := by
  intro _ f hf; cases hf

theorem mma (c : Nat) : Statement (.mma c) := by
  intro _ f hf; cases hf

theorem mmas (c : Nat) : Statement (.mmas c) := by
  intro _ f hf; cases hf

theorem mmab (c : Nat) : Statement (.mmab c) := by
  intro _ f hf; cases hf

theorem madp (c : Nat) : Statement (.madp c) := by
  intro _ f hf; cases hf

theorem mdrain (c : Nat) : Statement (.mdrain c) := by
  intro _ f hf; cases hf

theorem matrixCommandComplete (c : Nat) : Statement (.matrixCommandComplete c) := by
  intro _ f hf; cases hf

theorem mswapMarker (c : Nat) : Statement (.mswapMarker c) := by
  intro _ f hf; cases hf

theorem slotFill (c : Nat) : Statement (.slotFill c) := by
  intro _ f hf; cases hf

theorem loadLevel (c : Nat) : Statement (.loadLevel c) := by
  intro _ f hf; cases hf

theorem classTurnEnd (c : Nat) : Statement (.classTurnEnd c) := by
  intro _ f hf; cases hf

theorem preemptionRequest (c : Nat) : Statement (.preemptionRequest c) := by
  intro _ f hf; cases hf

theorem preemption (c : Nat) : Statement (.preemption c) := by
  intro _ f hf; cases hf

theorem imageSaveDone (c : Nat) : Statement (.imageSaveDone c) := by
  intro _ f hf; cases hf

theorem takeTrap (c : Nat) (i : Nat) : Statement (.takeTrap c i) := by
  intro _ f hf; cases hf

theorem watchdogFire (c : Nat) (i : Nat) : Statement (.watchdogFire c i) := by
  intro _ f hf; cases hf

theorem swwaitReturn (c : Nat) (i : Nat) : Statement (.swwaitReturn c i) := by
  intro _ f hf; cases hf

theorem waitevReturn (c : Nat) (i : Nat) : Statement (.waitevReturn c i) := by
  intro _ f hf; cases hf

theorem chrdWake (c : Nat) (i : Nat) : Statement (.chrdWake c i) := by
  intro _ f hf; cases hf

theorem stallRelease (c : Nat) (i : Nat) : Statement (.stallRelease c i) := by
  intro _ f hf; cases hf

theorem commit (c : Nat) (i : Nat) : Statement (.commit c i) := by
  intro _ f hf; cases hf

theorem streamPrefetch (c : Nat) (i : Nat) (r : Reg) : Statement (.streamPrefetch c i r) := by
  intro _ f hf; cases hf

theorem streamWrite (c : Nat) (i : Nat) (r : Reg) : Statement (.streamWrite c i r) := by
  intro _ f hf; cases hf

theorem copyDelivery (c : Nat) (n : Nat) : Statement (.copyDelivery c n) := by
  intro _ f hf; cases hf

theorem copyComplete (c : Nat) (n : Nat) : Statement (.copyComplete c n) := by
  intro _ f hf; cases hf

theorem gatherElementIssue (c : Nat) (n : Nat) : Statement (.gatherElementIssue c n) := by
  intro _ f hf; cases hf

theorem writeBufferDrain (c : Nat) (n : Nat) : Statement (.writeBufferDrain c n) := by
  intro _ f hf; cases hf

theorem illegalEncoding (w : IWord) : Statement (.illegalEncoding w) := by
  intro _ f hf; cases hf

theorem dataMessage (k : Nat) : Statement (.dataMessage k) := by
  intro _ f hf; cases hf

theorem spawnMessage (k : Nat) : Statement (.spawnMessage k) := by
  intro _ f hf; cases hf

theorem migrateMessage (k : Nat) : Statement (.migrateMessage k) := by
  intro _ f hf; cases hf

theorem callMessage (k : Nat) : Statement (.callMessage k) := by
  intro _ f hf; cases hf

theorem replyMessage (k : Nat) : Statement (.replyMessage k) := by
  intro _ f hf; cases hf

theorem niRetry (k : Nat) : Statement (.niRetry k) := by
  intro _ f hf; cases hf

theorem spawnAsk (k : Nat) : Statement (.spawnAsk k) := by
  intro _ f hf; cases hf

theorem spawnAnswer (k : Nat) : Statement (.spawnAnswer k) := by
  intro _ f hf; cases hf

theorem childEndReport (k : Nat) : Statement (.childEndReport k) := by
  intro _ f hf; cases hf

theorem remoteAccess (k : Nat) : Statement (.remoteAccess k) := by
  intro _ f hf; cases hf

theorem remoteResponse (k : Nat) : Statement (.remoteResponse k) := by
  intro _ f hf; cases hf

theorem gatherReply (k : Nat) : Statement (.gatherReply k) := by
  intro _ f hf; cases hf

theorem scatterDelivery (k : Nat) : Statement (.scatterDelivery k) := by
  intro _ f hf; cases hf

theorem wakeAnswer (k : Nat) : Statement (.wakeAnswer k) := by
  intro _ f hf; cases hf

theorem escapeChannelMove (k : Nat) : Statement (.escapeChannelMove k) := by
  intro _ f hf; cases hf

theorem forwarding (k : Nat) : Statement (.forwarding k) := by
  intro _ f hf; cases hf

theorem listMerge (n : Nat) : Statement (.listMerge n) := by
  intro _ f hf; cases hf

theorem launchReady (l : Nat) : Statement (.launchReady l) := by
  intro _ f hf; cases hf

theorem waitCounterRead (l : Nat) : Statement (.waitCounterRead l) := by
  intro _ f hf; cases hf

theorem launchComplete (l : Nat) : Statement (.launchComplete l) := by
  intro _ f hf; cases hf

theorem batchDeal (l : Nat) (c : Nat) : Statement (.batchDeal l c) := by
  intro _ f hf; cases hf

theorem launchStart (l : Nat) (c : Nat) : Statement (.launchStart l c) := by
  intro _ f hf; cases hf

theorem teardown (l : Nat) (c : Nat) : Statement (.teardown l c) := by
  intro _ f hf; cases hf

theorem newGenerationAck (l : Nat) (c : Nat) : Statement (.newGenerationAck l c) := by
  intro _ f hf; cases hf

theorem subDispatch (die : Nat) : Statement (.subDispatch die) := by
  intro _ f hf; cases hf

theorem restore (img : Nat) (c : Nat) : Statement (.restore img c) := by
  intro _ f hf; cases hf

theorem liveMigration (c : Nat) (d : Nat) : Statement (.liveMigration c d) := by
  intro _ f hf; cases hf

theorem setcap (box : Nat) : Statement (.setcap box) := by
  intro _ f hf; cases hf

theorem sensors (box : Nat) : Statement (.sensors box) := by
  intro _ f hf; cases hf

theorem readlog (box : Nat) : Statement (.readlog box) := by
  intro _ f hf; cases hf

theorem fwwrite (box : Nat) : Statement (.fwwrite box) := by
  intro _ f hf; cases hf

theorem fwactivate (box : Nat) : Statement (.fwactivate box) := by
  intro _ f hf; cases hf

theorem savepool (box : Nat) : Statement (.savepool box) := by
  intro _ f hf; cases hf

theorem cappool (box : Nat) : Statement (.cappool box) := by
  intro _ f hf; cases hf

theorem mailboxUnknownCmd (box : Nat) : Statement (.mailboxUnknownCmd box) := by
  intro _ f hf; cases hf

theorem mailboxDone (box : Nat) : Statement (.mailboxDone box) := by
  intro _ f hf; cases hf

theorem zynongPacketReceive (p : Packet) : Statement (.zynongPacketReceive p) := by
  intro _ f hf; cases hf

theorem retryTimeout (id : StreamId) : Statement (.retryTimeout id) := by
  intro _ f hf; cases hf

theorem switchForward (k : Nat) : Statement (.switchForward k) := by
  intro _ f hf; cases hf

theorem answerMerge (sw : Nat) (child : Node) (id : StreamId) (seq : BitVec 32) (ver : BitVec 16) (children : Nat) (ans : McAnswer) : Statement (.answerMerge sw child id seq ver children ans) := by
  intro _ f hf; cases hf

theorem multicastAggregate (group : Nat) (seq : BitVec 32) (ver : BitVec 16) (ans : McAnswer) : Statement (.multicastAggregate group seq ver ans) := by
  intro _ f hf; cases hf

theorem yield : Statement (.yield) := by
  intro hw f hf; cases hf
  with_unfolding_all rfl

theorem endI : Statement (.endI) := by
  intro hw f hf; cases hf
  with_unfolding_all rfl

theorem eret : Statement (.eret) := by
  intro hw f hf; cases hf
  with_unfolding_all rfl

theorem bkpt : Statement (.bkpt) := by
  intro hw f hf; cases hf
  with_unfolding_all rfl

theorem l1wb : Statement (.l1wb) := by
  intro hw f hf; cases hf
  with_unfolding_all rfl

theorem l1inv : Statement (.l1inv) := by
  intro hw f hf; cases hf
  with_unfolding_all rfl

theorem mwait : Statement (.mwait) := by
  intro hw f hf; cases hf
  with_unfolding_all rfl

theorem release : Statement (.release) := by
  intro hw f hf; cases hf
  with_unfolding_all rfl

theorem tend : Statement (.tend) := by
  intro hw f hf; cases hf
  with_unfolding_all rfl

theorem alive : Statement (.alive) := by
  intro hw f hf; cases hf
  with_unfolding_all rfl

theorem nopA : Statement (.nopA) := by
  intro hw f hf; cases hf
  with_unfolding_all rfl

theorem nopC : Statement (.nopC) := by
  intro hw f hf; cases hf
  with_unfolding_all rfl

theorem launchAccept : Statement (.launchAccept) := by
  intro _ f hf; cases hf

theorem tinvComplete : Statement (.tinvComplete) := by
  intro _ f hf; cases hf

theorem lkillComplete : Statement (.lkillComplete) := by
  intro _ f hf; cases hf

theorem mcinvComplete : Statement (.mcinvComplete) := by
  intro _ f hf; cases hf

theorem instructionFetchFault : Statement (.instructionFetchFault) := by
  intro _ f hf; cases hf

theorem qrecWrite (q : Nat) (deferrable : Bool) (rec : List Word) : Statement (.qrecWrite q deferrable rec) := by
  intro _ f hf; cases hf

theorem tinvctlRange (v : Word) : Statement (.tinvctlRange v) := by
  intro _ f hf; cases hf

theorem tinvctlAll (v : Word) : Statement (.tinvctlAll v) := by
  intro _ f hf; cases hf

theorem lkillLaunch (v : Word) : Statement (.lkillLaunch v) := by
  intro _ f hf; cases hf

theorem lkillAsid (v : Word) : Statement (.lkillAsid v) := by
  intro _ f hf; cases hf

theorem mcinvGroup (v : Word) : Statement (.mcinvGroup v) := by
  intro _ f hf; cases hf

theorem mcinvMap (v : Word) : Statement (.mcinvMap v) := by
  intro _ f hf; cases hf

theorem registerWrite (die : Nat) (off : Nat) (v : Word) : Statement (.registerWrite die off v) := by
  intro _ f hf; cases hf

theorem checkerMismatch (c : Nat) (i : Nat) (persists : Bool) (matrix : Bool) : Statement (.checkerMismatch c i persists matrix) := by
  intro _ f hf; cases hf

theorem uncorrectableError (u : Upset) : Statement (.uncorrectableError u) := by
  intro _ f hf; cases hf

theorem sensorSample (recs : List SensorRec) : Statement (.sensorSample recs) := by
  intro _ f hf; cases hf

theorem powerWindow (mean : Nat) : Statement (.powerWindow mean) := by
  intro _ f hf; cases hf

theorem powerGood (inp : BringupInput) : Statement (.powerGood inp) := by
  intro _ f hf; cases hf

theorem getMeasurements (nonce : List Byte) : Statement (.getMeasurements nonce) := by
  intro _ f hf; cases hf

theorem acknowledgement (id : StreamId) (seq : BitVec 32) : Statement (.acknowledgement id seq) := by
  intro _ f hf; cases hf

theorem linkFailure (p : Node) (q : Node) : Statement (.linkFailure p q) := by
  intro _ f hf; cases hf

theorem spraySetRemove (p : Node) (q : Node) : Statement (.spraySetRemove p q) := by
  intro _ f hf; cases hf

theorem shadowInstall (n : Node) (die : Nat) (t : RouteTable) : Statement (.shadowInstall n die t) := by
  intro _ f hf; cases hf

theorem versionActivation (v : BitVec 16) : Statement (.versionActivation v) := by
  intro _ f hf; cases hf

theorem mcstDelivery (p : Packet) : Statement (.mcstDelivery p) := by
  intro _ f hf; cases hf

theorem bar2Read (off : Nat) (size : Nat) : Statement (.bar2Read off size) := by
  intro _ f hf; cases hf

theorem bar2Write (off : Nat) (bytes : List Byte) : Statement (.bar2Write off bytes) := by
  intro _ f hf; cases hf

theorem hostWriteBack (off : Nat) (bytes : List Byte) : Statement (.hostWriteBack off bytes) := by
  intro _ f hf; cases hf

theorem backInvalidateAnswer (off : Nat) : Statement (.backInvalidateAnswer off) := by
  intro _ f hf; cases hf

theorem cxlMemRead (off : Nat) : Statement (.cxlMemRead off) := by
  intro _ f hf; cases hf

theorem hostWindowReadCompletion (c : Nat) (i : Nat) (bytes : List Byte) : Statement (.hostWindowReadCompletion c i bytes) := by
  intro _ f hf; cases hf

end Sys2Proof.Laws.Encoding
end

