-- ==== Sys2Proof/Laws/State.lean ====
section
/-!
SUPPORT. What each update of the state leaves as it was, field by field, and reading a part back after it was replaced.
-/
namespace Sys2Proof.Machine

/-! ### Tables -/

@[simp] theorem find_put_self {α : Type} (l : List (Nat × α)) (n : Nat) (x : α) : find (put l n x) n = some x := by
  induction l with
  | nil => simp [put, find]
  | cons p r ih =>
    obtain ⟨k, v⟩ := p
    simp only [put]
    split
    · simp [find]
    · split
      · simp [find]
      · rename_i h1 h2
        simp only [find, if_neg (Ne.symm h2)]
        exact ih

theorem find_put_ne {α : Type} (l : List (Nat × α)) {n m : Nat} (x : α) (h : n ≠ m) :
    find (put l n x) m = find l m := by
  induction l with
  | nil => simp [put, find, h]
  | cons p r ih =>
    obtain ⟨k, v⟩ := p
    simp only [put]
    split
    · simp [find, h]
    · split
      · rename_i h1 h2
        subst h2
        simp [find, h]
      · simp only [find, ih]

@[simp] theorem put_put {α : Type} (l : List (Nat × α)) (n : Nat) (x y : α) : put (put l n x) n y = put l n y := by
  induction l with
  | nil => simp [put]
  | cons p r ih =>
    obtain ⟨k, v⟩ := p
    simp only [put]
    split
    · simp [put]
    · split
      · rename_i h1 h2
        simp [put]
      · rename_i h1 h2
        simp only [put, if_neg h1, if_neg h2, ih]

/-! ### Fields that an update leaves -/

@[simp] theorem cycle_setCore (s : State) (c : Nat) (k : CoreSt) : (s.setCore c k).cycle = s.cycle := rfl
@[simp] theorem launches_setCore (s : State) (c : Nat) (k : CoreSt) : (s.setCore c k).launches = s.launches := rfl
@[simp] theorem disp_setCore (s : State) (c : Nat) (k : CoreSt) : (s.setCore c k).disp = s.disp := rfl
@[simp] theorem mem_setCore (s : State) (c : Nat) (k : CoreSt) : (s.setCore c k).mem = s.mem := rfl
@[simp] theorem hostMem_setCore (s : State) (c : Nat) (k : CoreSt) : (s.setCore c k).hostMem = s.hostMem := rfl
@[simp] theorem memPoison_setCore (s : State) (c : Nat) (k : CoreSt) : (s.setCore c k).memPoison = s.memPoison := rfl
@[simp] theorem dir_setCore (s : State) (c : Nat) (k : CoreSt) : (s.setCore c k).dir = s.dir := rfl
@[simp] theorem asidBase_setCore (s : State) (c : Nat) (k : CoreSt) : (s.setCore c k).asidBase = s.asidBase := rfl
@[simp] theorem tlb_setCore (s : State) (c : Nat) (k : CoreSt) : (s.setCore c k).tlb = s.tlb := rfl
@[simp] theorem pkg_setCore (s : State) (c : Nat) (k : CoreSt) : (s.setCore c k).pkg = s.pkg := rfl
@[simp] theorem net_setCore (s : State) (c : Nat) (k : CoreSt) : (s.setCore c k).net = s.net := rfl
@[simp] theorem rounds_setCore (s : State) (c : Nat) (k : CoreSt) : (s.setCore c k).rounds = s.rounds := rfl
@[simp] theorem fab_setCore (s : State) (c : Nat) (k : CoreSt) : (s.setCore c k).fab = s.fab := rfl
@[simp] theorem tele_setCore (s : State) (c : Nat) (k : CoreSt) : (s.setCore c k).tele = s.tele := rfl
@[simp] theorem images_setCore (s : State) (c : Nat) (k : CoreSt) : (s.setCore c k).images = s.images := rfl
@[simp] theorem answers_setCore (s : State) (c : Nat) (k : CoreSt) : (s.setCore c k).answers = s.answers := rfl
@[simp] theorem stopped_setCore (s : State) (c : Nat) (k : CoreSt) : (s.setCore c k).stopped = s.stopped := rfl
@[simp] theorem agenda_setCore (s : State) (c : Nat) (k : CoreSt) : (s.setCore c k).agenda = s.agenda := rfl
@[simp] theorem turn_setCore (s : State) (c : Nat) (k : CoreSt) : (s.setCore c k).turn = s.turn := rfl
@[simp] theorem cur_setCore (s : State) (c : Nat) (k : CoreSt) : (s.setCore c k).cur = s.cur := rfl
@[simp] theorem fresh_setCore (s : State) (c : Nat) (k : CoreSt) : (s.setCore c k).fresh = s.fresh := rfl
@[simp] theorem serial_setCore (s : State) (c : Nat) (k : CoreSt) : (s.setCore c k).serial = s.serial := rfl

@[simp] theorem cycle_modCore (s : State) (c : Nat) (f : CoreSt → CoreSt) : (s.modCore c f).cycle = s.cycle := rfl
@[simp] theorem launches_modCore (s : State) (c : Nat) (f : CoreSt → CoreSt) : (s.modCore c f).launches = s.launches := rfl
@[simp] theorem disp_modCore (s : State) (c : Nat) (f : CoreSt → CoreSt) : (s.modCore c f).disp = s.disp := rfl
@[simp] theorem mem_modCore (s : State) (c : Nat) (f : CoreSt → CoreSt) : (s.modCore c f).mem = s.mem := rfl
@[simp] theorem hostMem_modCore (s : State) (c : Nat) (f : CoreSt → CoreSt) : (s.modCore c f).hostMem = s.hostMem := rfl
@[simp] theorem memPoison_modCore (s : State) (c : Nat) (f : CoreSt → CoreSt) : (s.modCore c f).memPoison = s.memPoison := rfl
@[simp] theorem dir_modCore (s : State) (c : Nat) (f : CoreSt → CoreSt) : (s.modCore c f).dir = s.dir := rfl
@[simp] theorem asidBase_modCore (s : State) (c : Nat) (f : CoreSt → CoreSt) : (s.modCore c f).asidBase = s.asidBase := rfl
@[simp] theorem tlb_modCore (s : State) (c : Nat) (f : CoreSt → CoreSt) : (s.modCore c f).tlb = s.tlb := rfl
@[simp] theorem pkg_modCore (s : State) (c : Nat) (f : CoreSt → CoreSt) : (s.modCore c f).pkg = s.pkg := rfl
@[simp] theorem net_modCore (s : State) (c : Nat) (f : CoreSt → CoreSt) : (s.modCore c f).net = s.net := rfl
@[simp] theorem rounds_modCore (s : State) (c : Nat) (f : CoreSt → CoreSt) : (s.modCore c f).rounds = s.rounds := rfl
@[simp] theorem fab_modCore (s : State) (c : Nat) (f : CoreSt → CoreSt) : (s.modCore c f).fab = s.fab := rfl
@[simp] theorem tele_modCore (s : State) (c : Nat) (f : CoreSt → CoreSt) : (s.modCore c f).tele = s.tele := rfl
@[simp] theorem images_modCore (s : State) (c : Nat) (f : CoreSt → CoreSt) : (s.modCore c f).images = s.images := rfl
@[simp] theorem answers_modCore (s : State) (c : Nat) (f : CoreSt → CoreSt) : (s.modCore c f).answers = s.answers := rfl
@[simp] theorem stopped_modCore (s : State) (c : Nat) (f : CoreSt → CoreSt) : (s.modCore c f).stopped = s.stopped := rfl
@[simp] theorem agenda_modCore (s : State) (c : Nat) (f : CoreSt → CoreSt) : (s.modCore c f).agenda = s.agenda := rfl
@[simp] theorem turn_modCore (s : State) (c : Nat) (f : CoreSt → CoreSt) : (s.modCore c f).turn = s.turn := rfl
@[simp] theorem cur_modCore (s : State) (c : Nat) (f : CoreSt → CoreSt) : (s.modCore c f).cur = s.cur := rfl
@[simp] theorem fresh_modCore (s : State) (c : Nat) (f : CoreSt → CoreSt) : (s.modCore c f).fresh = s.fresh := rfl
@[simp] theorem serial_modCore (s : State) (c : Nat) (f : CoreSt → CoreSt) : (s.modCore c f).serial = s.serial := rfl

@[simp] theorem cycle_setSlot (s : State) (c i : Nat) (t : Slot) : (s.setSlot c i t).cycle = s.cycle := rfl
@[simp] theorem launches_setSlot (s : State) (c i : Nat) (t : Slot) : (s.setSlot c i t).launches = s.launches := rfl
@[simp] theorem disp_setSlot (s : State) (c i : Nat) (t : Slot) : (s.setSlot c i t).disp = s.disp := rfl
@[simp] theorem mem_setSlot (s : State) (c i : Nat) (t : Slot) : (s.setSlot c i t).mem = s.mem := rfl
@[simp] theorem hostMem_setSlot (s : State) (c i : Nat) (t : Slot) : (s.setSlot c i t).hostMem = s.hostMem := rfl
@[simp] theorem memPoison_setSlot (s : State) (c i : Nat) (t : Slot) : (s.setSlot c i t).memPoison = s.memPoison := rfl
@[simp] theorem dir_setSlot (s : State) (c i : Nat) (t : Slot) : (s.setSlot c i t).dir = s.dir := rfl
@[simp] theorem asidBase_setSlot (s : State) (c i : Nat) (t : Slot) : (s.setSlot c i t).asidBase = s.asidBase := rfl
@[simp] theorem tlb_setSlot (s : State) (c i : Nat) (t : Slot) : (s.setSlot c i t).tlb = s.tlb := rfl
@[simp] theorem pkg_setSlot (s : State) (c i : Nat) (t : Slot) : (s.setSlot c i t).pkg = s.pkg := rfl
@[simp] theorem net_setSlot (s : State) (c i : Nat) (t : Slot) : (s.setSlot c i t).net = s.net := rfl
@[simp] theorem rounds_setSlot (s : State) (c i : Nat) (t : Slot) : (s.setSlot c i t).rounds = s.rounds := rfl
@[simp] theorem fab_setSlot (s : State) (c i : Nat) (t : Slot) : (s.setSlot c i t).fab = s.fab := rfl
@[simp] theorem tele_setSlot (s : State) (c i : Nat) (t : Slot) : (s.setSlot c i t).tele = s.tele := rfl
@[simp] theorem images_setSlot (s : State) (c i : Nat) (t : Slot) : (s.setSlot c i t).images = s.images := rfl
@[simp] theorem answers_setSlot (s : State) (c i : Nat) (t : Slot) : (s.setSlot c i t).answers = s.answers := rfl
@[simp] theorem stopped_setSlot (s : State) (c i : Nat) (t : Slot) : (s.setSlot c i t).stopped = s.stopped := rfl
@[simp] theorem agenda_setSlot (s : State) (c i : Nat) (t : Slot) : (s.setSlot c i t).agenda = s.agenda := rfl
@[simp] theorem turn_setSlot (s : State) (c i : Nat) (t : Slot) : (s.setSlot c i t).turn = s.turn := rfl
@[simp] theorem cur_setSlot (s : State) (c i : Nat) (t : Slot) : (s.setSlot c i t).cur = s.cur := rfl
@[simp] theorem fresh_setSlot (s : State) (c i : Nat) (t : Slot) : (s.setSlot c i t).fresh = s.fresh := rfl
@[simp] theorem serial_setSlot (s : State) (c i : Nat) (t : Slot) : (s.setSlot c i t).serial = s.serial := rfl

@[simp] theorem cycle_modSlot (s : State) (c i : Nat) (f : Slot → Slot) : (s.modSlot c i f).cycle = s.cycle := rfl
@[simp] theorem launches_modSlot (s : State) (c i : Nat) (f : Slot → Slot) : (s.modSlot c i f).launches = s.launches := rfl
@[simp] theorem disp_modSlot (s : State) (c i : Nat) (f : Slot → Slot) : (s.modSlot c i f).disp = s.disp := rfl
@[simp] theorem mem_modSlot (s : State) (c i : Nat) (f : Slot → Slot) : (s.modSlot c i f).mem = s.mem := rfl
@[simp] theorem hostMem_modSlot (s : State) (c i : Nat) (f : Slot → Slot) : (s.modSlot c i f).hostMem = s.hostMem := rfl
@[simp] theorem memPoison_modSlot (s : State) (c i : Nat) (f : Slot → Slot) : (s.modSlot c i f).memPoison = s.memPoison := rfl
@[simp] theorem dir_modSlot (s : State) (c i : Nat) (f : Slot → Slot) : (s.modSlot c i f).dir = s.dir := rfl
@[simp] theorem asidBase_modSlot (s : State) (c i : Nat) (f : Slot → Slot) : (s.modSlot c i f).asidBase = s.asidBase := rfl
@[simp] theorem tlb_modSlot (s : State) (c i : Nat) (f : Slot → Slot) : (s.modSlot c i f).tlb = s.tlb := rfl
@[simp] theorem pkg_modSlot (s : State) (c i : Nat) (f : Slot → Slot) : (s.modSlot c i f).pkg = s.pkg := rfl
@[simp] theorem net_modSlot (s : State) (c i : Nat) (f : Slot → Slot) : (s.modSlot c i f).net = s.net := rfl
@[simp] theorem rounds_modSlot (s : State) (c i : Nat) (f : Slot → Slot) : (s.modSlot c i f).rounds = s.rounds := rfl
@[simp] theorem fab_modSlot (s : State) (c i : Nat) (f : Slot → Slot) : (s.modSlot c i f).fab = s.fab := rfl
@[simp] theorem tele_modSlot (s : State) (c i : Nat) (f : Slot → Slot) : (s.modSlot c i f).tele = s.tele := rfl
@[simp] theorem images_modSlot (s : State) (c i : Nat) (f : Slot → Slot) : (s.modSlot c i f).images = s.images := rfl
@[simp] theorem answers_modSlot (s : State) (c i : Nat) (f : Slot → Slot) : (s.modSlot c i f).answers = s.answers := rfl
@[simp] theorem stopped_modSlot (s : State) (c i : Nat) (f : Slot → Slot) : (s.modSlot c i f).stopped = s.stopped := rfl
@[simp] theorem agenda_modSlot (s : State) (c i : Nat) (f : Slot → Slot) : (s.modSlot c i f).agenda = s.agenda := rfl
@[simp] theorem turn_modSlot (s : State) (c i : Nat) (f : Slot → Slot) : (s.modSlot c i f).turn = s.turn := rfl
@[simp] theorem cur_modSlot (s : State) (c i : Nat) (f : Slot → Slot) : (s.modSlot c i f).cur = s.cur := rfl
@[simp] theorem fresh_modSlot (s : State) (c i : Nat) (f : Slot → Slot) : (s.modSlot c i f).fresh = s.fresh := rfl
@[simp] theorem serial_modSlot (s : State) (c i : Nat) (f : Slot → Slot) : (s.modSlot c i f).serial = s.serial := rfl

@[simp] theorem cycle_modMe (s : State) (f : Slot → Slot) : (s.modMe f).cycle = s.cycle := rfl
@[simp] theorem launches_modMe (s : State) (f : Slot → Slot) : (s.modMe f).launches = s.launches := rfl
@[simp] theorem disp_modMe (s : State) (f : Slot → Slot) : (s.modMe f).disp = s.disp := rfl
@[simp] theorem mem_modMe (s : State) (f : Slot → Slot) : (s.modMe f).mem = s.mem := rfl
@[simp] theorem hostMem_modMe (s : State) (f : Slot → Slot) : (s.modMe f).hostMem = s.hostMem := rfl
@[simp] theorem memPoison_modMe (s : State) (f : Slot → Slot) : (s.modMe f).memPoison = s.memPoison := rfl
@[simp] theorem dir_modMe (s : State) (f : Slot → Slot) : (s.modMe f).dir = s.dir := rfl
@[simp] theorem asidBase_modMe (s : State) (f : Slot → Slot) : (s.modMe f).asidBase = s.asidBase := rfl
@[simp] theorem tlb_modMe (s : State) (f : Slot → Slot) : (s.modMe f).tlb = s.tlb := rfl
@[simp] theorem pkg_modMe (s : State) (f : Slot → Slot) : (s.modMe f).pkg = s.pkg := rfl
@[simp] theorem net_modMe (s : State) (f : Slot → Slot) : (s.modMe f).net = s.net := rfl
@[simp] theorem rounds_modMe (s : State) (f : Slot → Slot) : (s.modMe f).rounds = s.rounds := rfl
@[simp] theorem fab_modMe (s : State) (f : Slot → Slot) : (s.modMe f).fab = s.fab := rfl
@[simp] theorem tele_modMe (s : State) (f : Slot → Slot) : (s.modMe f).tele = s.tele := rfl
@[simp] theorem images_modMe (s : State) (f : Slot → Slot) : (s.modMe f).images = s.images := rfl
@[simp] theorem answers_modMe (s : State) (f : Slot → Slot) : (s.modMe f).answers = s.answers := rfl
@[simp] theorem stopped_modMe (s : State) (f : Slot → Slot) : (s.modMe f).stopped = s.stopped := rfl
@[simp] theorem agenda_modMe (s : State) (f : Slot → Slot) : (s.modMe f).agenda = s.agenda := rfl
@[simp] theorem turn_modMe (s : State) (f : Slot → Slot) : (s.modMe f).turn = s.turn := rfl
@[simp] theorem cur_modMe (s : State) (f : Slot → Slot) : (s.modMe f).cur = s.cur := rfl
@[simp] theorem fresh_modMe (s : State) (f : Slot → Slot) : (s.modMe f).fresh = s.fresh := rfl
@[simp] theorem serial_modMe (s : State) (f : Slot → Slot) : (s.modMe f).serial = s.serial := rfl

@[simp] theorem cycle_modHere (s : State) (f : CoreSt → CoreSt) : (s.modHere f).cycle = s.cycle := rfl
@[simp] theorem launches_modHere (s : State) (f : CoreSt → CoreSt) : (s.modHere f).launches = s.launches := rfl
@[simp] theorem disp_modHere (s : State) (f : CoreSt → CoreSt) : (s.modHere f).disp = s.disp := rfl
@[simp] theorem mem_modHere (s : State) (f : CoreSt → CoreSt) : (s.modHere f).mem = s.mem := rfl
@[simp] theorem hostMem_modHere (s : State) (f : CoreSt → CoreSt) : (s.modHere f).hostMem = s.hostMem := rfl
@[simp] theorem memPoison_modHere (s : State) (f : CoreSt → CoreSt) : (s.modHere f).memPoison = s.memPoison := rfl
@[simp] theorem dir_modHere (s : State) (f : CoreSt → CoreSt) : (s.modHere f).dir = s.dir := rfl
@[simp] theorem asidBase_modHere (s : State) (f : CoreSt → CoreSt) : (s.modHere f).asidBase = s.asidBase := rfl
@[simp] theorem tlb_modHere (s : State) (f : CoreSt → CoreSt) : (s.modHere f).tlb = s.tlb := rfl
@[simp] theorem pkg_modHere (s : State) (f : CoreSt → CoreSt) : (s.modHere f).pkg = s.pkg := rfl
@[simp] theorem net_modHere (s : State) (f : CoreSt → CoreSt) : (s.modHere f).net = s.net := rfl
@[simp] theorem rounds_modHere (s : State) (f : CoreSt → CoreSt) : (s.modHere f).rounds = s.rounds := rfl
@[simp] theorem fab_modHere (s : State) (f : CoreSt → CoreSt) : (s.modHere f).fab = s.fab := rfl
@[simp] theorem tele_modHere (s : State) (f : CoreSt → CoreSt) : (s.modHere f).tele = s.tele := rfl
@[simp] theorem images_modHere (s : State) (f : CoreSt → CoreSt) : (s.modHere f).images = s.images := rfl
@[simp] theorem answers_modHere (s : State) (f : CoreSt → CoreSt) : (s.modHere f).answers = s.answers := rfl
@[simp] theorem stopped_modHere (s : State) (f : CoreSt → CoreSt) : (s.modHere f).stopped = s.stopped := rfl
@[simp] theorem agenda_modHere (s : State) (f : CoreSt → CoreSt) : (s.modHere f).agenda = s.agenda := rfl
@[simp] theorem turn_modHere (s : State) (f : CoreSt → CoreSt) : (s.modHere f).turn = s.turn := rfl
@[simp] theorem cur_modHere (s : State) (f : CoreSt → CoreSt) : (s.modHere f).cur = s.cur := rfl
@[simp] theorem fresh_modHere (s : State) (f : CoreSt → CoreSt) : (s.modHere f).fresh = s.fresh := rfl
@[simp] theorem serial_modHere (s : State) (f : CoreSt → CoreSt) : (s.modHere f).serial = s.serial := rfl

@[simp] theorem cycle_log (s : State) (e c : Nat) (vs : List Nat) : (s.log e c vs).cycle = s.cycle := rfl
@[simp] theorem cores_log (s : State) (e c : Nat) (vs : List Nat) : (s.log e c vs).cores = s.cores := rfl
@[simp] theorem launches_log (s : State) (e c : Nat) (vs : List Nat) : (s.log e c vs).launches = s.launches := rfl
@[simp] theorem disp_log (s : State) (e c : Nat) (vs : List Nat) : (s.log e c vs).disp = s.disp := rfl
@[simp] theorem mem_log (s : State) (e c : Nat) (vs : List Nat) : (s.log e c vs).mem = s.mem := rfl
@[simp] theorem hostMem_log (s : State) (e c : Nat) (vs : List Nat) : (s.log e c vs).hostMem = s.hostMem := rfl
@[simp] theorem memPoison_log (s : State) (e c : Nat) (vs : List Nat) : (s.log e c vs).memPoison = s.memPoison := rfl
@[simp] theorem dir_log (s : State) (e c : Nat) (vs : List Nat) : (s.log e c vs).dir = s.dir := rfl
@[simp] theorem asidBase_log (s : State) (e c : Nat) (vs : List Nat) : (s.log e c vs).asidBase = s.asidBase := rfl
@[simp] theorem tlb_log (s : State) (e c : Nat) (vs : List Nat) : (s.log e c vs).tlb = s.tlb := rfl
@[simp] theorem pkg_log (s : State) (e c : Nat) (vs : List Nat) : (s.log e c vs).pkg = s.pkg := rfl
@[simp] theorem net_log (s : State) (e c : Nat) (vs : List Nat) : (s.log e c vs).net = s.net := rfl
@[simp] theorem rounds_log (s : State) (e c : Nat) (vs : List Nat) : (s.log e c vs).rounds = s.rounds := rfl
@[simp] theorem fab_log (s : State) (e c : Nat) (vs : List Nat) : (s.log e c vs).fab = s.fab := rfl
@[simp] theorem images_log (s : State) (e c : Nat) (vs : List Nat) : (s.log e c vs).images = s.images := rfl
@[simp] theorem answers_log (s : State) (e c : Nat) (vs : List Nat) : (s.log e c vs).answers = s.answers := rfl
@[simp] theorem stopped_log (s : State) (e c : Nat) (vs : List Nat) : (s.log e c vs).stopped = s.stopped := rfl
@[simp] theorem agenda_log (s : State) (e c : Nat) (vs : List Nat) : (s.log e c vs).agenda = s.agenda := rfl
@[simp] theorem turn_log (s : State) (e c : Nat) (vs : List Nat) : (s.log e c vs).turn = s.turn := rfl
@[simp] theorem cur_log (s : State) (e c : Nat) (vs : List Nat) : (s.log e c vs).cur = s.cur := rfl
@[simp] theorem fresh_log (s : State) (e c : Nat) (vs : List Nat) : (s.log e c vs).fresh = s.fresh := rfl
@[simp] theorem serial_log (s : State) (e c : Nat) (vs : List Nat) : (s.log e c vs).serial = s.serial := rfl

/-! ### Reading a part back -/

@[simp] theorem core_setCore_self (s : State) (c : Nat) (k : CoreSt) : (s.setCore c k).core c = k := by
  simp [State.core, State.setCore]

theorem core_setCore_ne (s : State) {c d : Nat} (k : CoreSt) (h : c ≠ d) : (s.setCore c k).core d = s.core d := by
  simp [State.core, State.setCore, find_put_ne _ _ h]

@[simp] theorem setCore_setCore (s : State) (c : Nat) (k l : CoreSt) :
    (s.setCore c k).setCore c l = s.setCore c l := by simp [State.setCore]

@[simp] theorem slot_core_setSlot (k : CoreSt) (i : Nat) (t : Slot) : (k.setSlot i t).slot i = t := by
  simp only [CoreSt.slot, CoreSt.setSlot, Vector.get_eq_getElem, Vector.getElem_set_self]

@[simp] theorem core_setSlot_setSlot (k : CoreSt) (i : Nat) (t u : Slot) :
    (k.setSlot i t).setSlot i u = k.setSlot i u := by simp [CoreSt.setSlot]

@[simp] theorem core_setSlot_slot (k : CoreSt) (i : Nat) : k.setSlot i (k.slot i) = k := by
  simp only [CoreSt.slot, CoreSt.setSlot, Vector.get_eq_getElem, Vector.set_getElem_self]

@[simp] theorem slot_setSlot_self (s : State) (c i : Nat) (t : Slot) : (s.setSlot c i t).slot c i = t := by
  simp [State.slot, State.setSlot]

@[simp] theorem setSlot_setSlot (s : State) (c i : Nat) (t u : Slot) :
    (s.setSlot c i t).setSlot c i u = s.setSlot c i u := by simp [State.setSlot]

@[simp] theorem core_setSlot (s : State) (c i : Nat) (t : Slot) :
    (s.setSlot c i t).core c = (s.core c).setSlot i t := by simp [State.setSlot]

@[simp] theorem modSlot_setSlot (s : State) (c i : Nat) (t : Slot) (f : Slot → Slot) :
    (s.setSlot c i t).modSlot c i f = s.setSlot c i (f t) := by simp [State.modSlot]

theorem modSlot_eq (s : State) (c i : Nat) (f : Slot → Slot) : s.modSlot c i f = s.setSlot c i (f (s.slot c i)) := rfl

theorem modMe_eq (s : State) (f : Slot → Slot) : s.modMe f = s.setSlot s.cur.1 s.cur.2 (f s.me) := rfl

@[simp] theorem me_setSlot (s : State) (t : Slot) : (s.setSlot s.cur.1 s.cur.2 t).me = t := by
  simp [State.me]

theorem me_eq (s : State) : s.slot s.cur.1 s.cur.2 = s.me := rfl

end Sys2Proof.Machine
end

