-- ==== Sys2Proof/Laws/Slot.lean ====
section
/-!
SUPPORT. Registers of a slot: what a write leaves in the register it names and in every other, before and after
pending writes land.
-/
namespace Sys2Proof.Machine

/-- The value that a write of `v` leaves in a register. -/
def RegName.holds : RegName → Vec → Vec
  | .x d, val => xValue d (val.setWidth 64)
  | .v _, val => val

@[simp] theorem isX0_iff (d : Reg) : isX0 (.x d) = (d == 0) := rfl

theorem reg_setReg_self (t : Slot) (r : RegName) (v : Vec) : (t.setReg r v).reg r = r.holds v := by
  cases r with
  | x d =>
    by_cases h : d = 0
    · simp only [Slot.setReg, Slot.reg, RegName.holds, xValue, if_pos h]
    · simp only [Slot.setReg, Slot.reg, RegName.holds, xValue, if_neg h, Vector.get_eq_getElem, Vector.getElem_set_self]
  | v d => simp only [Slot.setReg, Slot.reg, RegName.holds, Vector.get_eq_getElem, Vector.getElem_set_self]

theorem reg_setReg_ne (t : Slot) {r q : RegName} (v : Vec) (h : r ≠ q) : (t.setReg r v).reg q = t.reg q := by
  cases r with
  | x d =>
    by_cases hd : d = 0
    · simp only [Slot.setReg, if_pos hd]
    · cases q with
      | x e =>
        have : d.toFin.val ≠ e.toFin.val := fun he => h (by rw [BitVec.eq_of_toFin_eq (Fin.ext he)])
        simp only [Slot.setReg, Slot.reg, if_neg hd, Vector.get_eq_getElem, Vector.getElem_set_ne _ _ this]
      | v e => simp only [Slot.setReg, Slot.reg, if_neg hd]
  | v d =>
    cases q with
    | x e => simp only [Slot.setReg, Slot.reg]
    | v e =>
      have : d.toFin.val ≠ e.toFin.val := fun he => h (by rw [BitVec.eq_of_toFin_eq (Fin.ext he)])
      simp only [Slot.setReg, Slot.reg, Vector.get_eq_getElem, Vector.getElem_set_ne _ _ this]

/-- The registers after pending writes landed in order. -/
def landList (t : Slot) (ps : List Pending) : Slot := ps.foldl (fun u p => u.setReg p.reg p.val) t

theorem settled_eq (t : Slot) (r : RegName) : t.settled r = (landList t t.pend).reg r := by
  cases r <;> rfl

theorem reg_landList_congr (ps : List Pending) {t u : Slot} {q : RegName} (h : t.reg q = u.reg q) :
    (landList t ps).reg q = (landList u ps).reg q := by
  induction ps generalizing t u with
  | nil => exact h
  | cons p r ih =>
    refine ih ?_
    by_cases hq : p.reg = q
    · subst hq
      rw [reg_setReg_self, reg_setReg_self]
    · rw [reg_setReg_ne _ _ hq, reg_setReg_ne _ _ hq, h]

/-- What registers settle to depends on the registers and the pending writes alone. -/
theorem settled_congr {t u : Slot} (hx : t.x = u.x) (hv : t.v = u.v) (hp : t.pend = u.pend) (r : RegName) :
    t.settled r = u.settled r := by
  rw [settled_eq, settled_eq, hp]
  exact reg_landList_congr _ (by cases r <;> simp only [Slot.reg, hx, hv])

theorem reg_landList_filter (ps : List Pending) (t : Slot) {r q : RegName} (h : r ≠ q) :
    (landList t (ps.filter (fun p => p.reg != r))).reg q = (landList t ps).reg q := by
  induction ps generalizing t with
  | nil => rfl
  | cons p ps ih =>
    by_cases hp : p.reg = r
    · simp only [hp, bne_self_eq_false, Bool.false_eq_true, not_false_eq_true, List.filter_cons_of_neg]
      rw [ih]
      exact reg_landList_congr ps (reg_setReg_ne t p.val (hp ▸ h)).symm
    · rw [List.filter_cons_of_pos (by simpa using hp)]
      exact ih _

theorem reg_landList_absent (ps : List Pending) (t : Slot) (r : RegName) :
    (landList t (ps.filter (fun p => p.reg != r))).reg r = t.reg r := by
  induction ps generalizing t with
  | nil => rfl
  | cons p ps ih =>
    by_cases hp : p.reg = r
    · simp only [hp, bne_self_eq_false, Bool.false_eq_true, not_false_eq_true, List.filter_cons_of_neg]
      exact ih t
    · rw [List.filter_cons_of_pos (by simpa using hp)]
      exact (ih _).trans (reg_setReg_ne _ _ hp)

theorem landList_append (t : Slot) (ps : List Pending) (p : Pending) :
    landList t (ps ++ [p]) = (landList t ps).setReg p.reg p.val := by simp [landList]

@[simp] theorem pend_setReg (t : Slot) (r : RegName) (v : Vec) : (t.setReg r v).pend = t.pend := by
  cases r
  · simp only [Slot.setReg]
    split <;> rfl
  · rfl

theorem reg_setPend (t : Slot) (ps : List Pending) (r : RegName) : Slot.reg { t with pend := ps } r = t.reg r := by
  cases r <;> rfl

theorem settled_writeReg_self (t : Slot) (now : Nat) (w : RegWrite) :
    (t.writeReg now w).settled w.reg = if isX0 w.reg then 0 else w.reg.holds w.val := by
  unfold Slot.writeReg
  split
  · rename_i h
    cases hw : w.reg with
    | x d =>
      rw [hw] at h
      simp only [isX0_iff, beq_iff_eq] at h
      rw [settled_eq, h]
      simp [Slot.reg]
    | v d => rw [hw] at h; simp [isX0] at h
  · split
    · rw [settled_eq, reg_landList_absent, reg_setPend, reg_setReg_self]
    · rw [settled_eq, landList_append, reg_setReg_self]

theorem settled_writeReg_ne (t : Slot) (now : Nat) (w : RegWrite) {q : RegName} (h : w.reg ≠ q) :
    (t.writeReg now w).settled q = t.settled q := by
  unfold Slot.writeReg
  split
  · rfl
  · split
    · rw [settled_eq, settled_eq, reg_landList_filter _ _ h]
      exact reg_landList_congr _ (by rw [reg_setPend, reg_setReg_ne _ _ h])
    · rw [settled_eq, settled_eq, landList_append, reg_setReg_ne _ _ h]
      exact reg_landList_congr _ (reg_setPend ..)

@[simp] theorem system_setReg (t : Slot) (r : RegName) (v : Vec) : (t.setReg r v).system = t.system := by
  cases r
  · simp only [Slot.setReg]
    split <;> rfl
  · rfl

@[simp] theorem system_writeReg (t : Slot) (now : Nat) (w : RegWrite) : (t.writeReg now w).system = t.system := by
  unfold Slot.writeReg
  split
  · rfl
  · split
    · exact system_setReg t w.reg w.val
    · rfl

/-- What a write of a bundle leaves in the register it names, once everything has landed. -/
theorem settled_place_self (t : Slot) (c now : Nat) (w : RegWrite) :
    (t.place c now w).settled w.reg = if isX0 w.reg then 0 else w.reg.holds w.val := by
  unfold Slot.place
  split
  · exact settled_writeReg_self ..
  · unfold Slot.writeMember
    by_cases h : isX0 w.reg
    · have := settled_writeReg_self t now w
      simpa only [Slot.writeReg, h, if_true] using this
    · simp only [h, Bool.false_eq_true, if_false]
      rw [settled_eq, landList_append, reg_setReg_self]

/-- A write of a bundle changes no other register. -/
theorem settled_place_ne (t : Slot) (c now : Nat) (w : RegWrite) {q : RegName} (h : w.reg ≠ q) :
    (t.place c now w).settled q = t.settled q := by
  unfold Slot.place
  split
  · exact settled_writeReg_ne _ _ _ h
  · simp only [Slot.writeMember]
    split
    · rfl
    · rw [settled_eq, settled_eq, landList_append, reg_setReg_ne _ _ h]
      exact reg_landList_congr _ (reg_setPend ..)

@[simp] theorem system_place (t : Slot) (c now : Nat) (w : RegWrite) : (t.place c now w).system = t.system := by
  unfold Slot.place
  split
  · exact system_writeReg ..
  · simp only [Slot.writeMember]
    split <;> rfl

end Sys2Proof.Machine
end

