-- ==== Sys2Proof/Laws/Retire.lean ====
section
/-!
SUPPORT. What the end of a lone bundle leaves: the register it writes, its flags, and nothing else.
-/
namespace Sys2Proof.Machine

/-- A slot whose lone bundle has retired after some change of the slot. -/
def Slot.finished (t : Slot) (now : Nat) : Slot := (t.retireCount now).advance

theorem advance_cases (t : Slot) : ∃ l pc, t.advance = { t with loop := l, pc := pc } := by
  unfold Slot.advance
  split
  · split
    · split
      · exact ⟨_, _, rfl⟩
      · exact ⟨_, _, rfl⟩
    · exact ⟨t.loop, _, rfl⟩
  · exact ⟨t.loop, _, rfl⟩

@[simp] theorem settled_advance (t : Slot) (r : RegName) : t.advance.settled r = t.settled r := by
  obtain ⟨l, pc, h⟩ := advance_cases t
  rw [h]
  apply settled_congr <;> rfl

/-- The counters of a retirement leave the rest of the slot, but for the use of the LM port. -/
theorem retireCount_shape (t : Slot) (now : Nat) : ∃ f g n, t.retireCount now =
    { t with retired := t.retired + 1, wait := .none, notBefore := n, portFrom := f, portTo := g } := by
  unfold Slot.retireCount
  simp only
  split <;> exact ⟨_, _, _, rfl⟩

theorem notBefore_retireCount (t : Slot) (now : Nat) : (t.retireCount now).notBefore = max t.notBefore
    (if t.cvsize ≤ 1 then max (now + 1) (t.lastIssue + t.bundle.stall + 1) else if t.lastIssue = now then now else now + 1) := by
  unfold Slot.retireCount
  simp only
  split <;> rfl

@[simp] theorem settled_retireCount (t : Slot) (now : Nat) (r : RegName) : (t.retireCount now).settled r = t.settled r := by
  obtain ⟨f, g, n, h⟩ := retireCount_shape t now
  rw [h]
  apply settled_congr <;> rfl

@[simp] theorem settled_finished (t : Slot) (now : Nat) (r : RegName) : (t.finished now).settled r = t.settled r := by
  simp [Slot.finished]

@[simp] theorem system_finished (t : Slot) (now : Nat) : (t.finished now).system = t.system := by
  obtain ⟨l, pc, h⟩ := advance_cases (t.retireCount now)
  obtain ⟨f, g, n, k⟩ := retireCount_shape t now
  rw [Slot.finished, h, k]
  rfl

@[simp] theorem fflags_finished (t : Slot) (now : Nat) : (t.finished now).fflags = t.fflags := by
  obtain ⟨l, pc, h⟩ := advance_cases (t.retireCount now)
  obtain ⟨f, g, n, k⟩ := retireCount_shape t now
  rw [Slot.finished, h, k]

@[simp] theorem retired_finished (t : Slot) (now : Nat) : (t.finished now).retired = t.retired + 1 := by
  obtain ⟨l, pc, h⟩ := advance_cases (t.retireCount now)
  obtain ⟨f, g, n, k⟩ := retireCount_shape t now
  rw [Slot.finished, h, k]

@[simp] theorem wait_finished (t : Slot) (now : Nat) : (t.finished now).wait = .none := by
  obtain ⟨l, pc, h⟩ := advance_cases (t.retireCount now)
  obtain ⟨f, g, n, k⟩ := retireCount_shape t now
  rw [Slot.finished, h, k]

@[simp] theorem notBefore_finished (t : Slot) (now : Nat) :
    (t.finished now).notBefore = (t.retireCount now).notBefore := by
  obtain ⟨l, pc, h⟩ := advance_cases (t.retireCount now)
  rw [Slot.finished, h]

/-- PC and loop after a slot moves on depend on the loop, the bundle and nothing else. -/
theorem advance_congr {t u : Slot} (hl : t.loop = u.loop) (hb : t.bundle.bodyLast = u.bundle.bodyLast)
    (hn : t.bundle.next = u.bundle.next) : t.advance.pc = u.advance.pc ∧ t.advance.loop = u.advance.loop := by
  unfold Slot.advance
  rw [hl, hb, hn]
  split
  · split
    · split <;> exact ⟨rfl, rfl⟩
    · exact ⟨rfl, rfl⟩
  · exact ⟨rfl, rfl⟩

/-- A slot that moved on from a change of registers, flags and stash alone: what `Retired` and `GoesOn` ask. -/
theorem retired_of {s : State} {u : Slot} {ds : List RegName} {fl : Flags}
    (hr : ∀ r, r ∉ ds → u.settled r = s.me.settled r) (hf : u.fflags = s.me.fflags.or fl)
    (hs : u.system = s.me.system) (hc : u.retired = s.me.retired) (hn : u.notBefore = s.me.notBefore)
    (hi : u.lastIssue = s.me.lastIssue) (hst : u.bundle.stall = s.me.bundle.stall) :
    Retired s (s.setSlot s.cur.1 s.cur.2 (u.finished s.cycle)) ds fl := by
  have hcv : u.cvsize = s.me.cvsize := by simpa [Slot.system] using congrArg Slot.cvsize hs
  refine ⟨by simp, fun r h => by simpa using hr r h, by simpa using hf, by simpa using hs, by simp [hc], by simp, ?_⟩
  simp [notBefore_retireCount, hcv, hn, hi, hst]

theorem goesOn_of {s : State} {u : Slot} (hl : u.loop = s.me.loop) (hb : u.bundle.bodyLast = s.me.bundle.bodyLast)
    (hn : u.bundle.next = s.me.bundle.next) : GoesOn s (s.setSlot s.cur.1 s.cur.2 (u.finished s.cycle)) := by
  obtain ⟨f, g, n, h⟩ := retireCount_shape u s.cycle
  have := advance_congr (t := u.retireCount s.cycle) (u := s.me) (by rw [h]; exact hl) (by rw [h]; exact hb) (by rw [h]; exact hn)
  simpa [GoesOn, Slot.finished] using this

/-- The slot with the effects of an A-word that is its whole bundle. -/
def Slot.withEff (t : Slot) (c now : Nat) (e : AEff) : Slot :=
  let u := e.writes.foldl (fun u w => u.place c now w) { t with bundle := { t.bundle with stash := some e } }
  { u with fflags := u.fflags.or e.flags, gen := e.gen.getD u.gen }

/-- An A-word's effects with its v register renamed (R69). -/
def AEff.renamed (e : AEff) (n : Nat) : AEff :=
  { e with poison := e.poison, writes := e.writes.map (fun w => match w.reg with
      | .v r => { w with reg := .v (rename r n) }
      | .x _ => w) }

@[simp] theorem lastIssue_setReg (t : Slot) (r : RegName) (v : Vec) : (t.setReg r v).lastIssue = t.lastIssue := by
  cases r
  · simp only [Slot.setReg]
    split <;> rfl
  · rfl

/-- A register write leaves every field but the registers, their marks and their pending writes. -/
theorem writeReg_shape (t : Slot) (now : Nat) (w : RegWrite) : ∃ x v p px pv,
    t.writeReg now w = { t with x := x, v := v, pend := p, poisonX := px, poisonV := pv } := by
  unfold Slot.writeReg
  split
  · exact ⟨_, _, _, _, _, rfl⟩
  · split
    · cases hw : w.reg with
      | x d =>
        simp only [Slot.setReg]
        split
        · exact ⟨_, _, _, _, _, rfl⟩
        · exact ⟨_, _, _, _, _, rfl⟩
      | v d => exact ⟨_, _, _, _, _, rfl⟩
    · exact ⟨_, _, _, _, _, rfl⟩

/-- The same of a write of a bundle, alone or in a caravan. -/
theorem place_shape (t : Slot) (c now : Nat) (w : RegWrite) : ∃ x v p px pv,
    t.place c now w = { t with x := x, v := v, pend := p, poisonX := px, poisonV := pv } := by
  unfold Slot.place
  split
  · exact writeReg_shape ..
  · simp only [Slot.writeMember]
    split <;> exact ⟨_, _, _, _, _, rfl⟩

theorem writeReg_of {s : State} {c i : Nat} {w : RegWrite} (h : (s.slot c i).writesInto w.reg) :
    s.writeReg c i w = s.setSlot c i ((s.slot c i).place c s.cycle w) := by
  unfold State.writeReg
  cases hw : w.reg with
  | x d =>
    have : portOf (s.slot c i).bundle.links d = none := by simpa [hw, Slot.writesInto] using h
    simp only [this]
  | v d =>
    have : (s.slot c i).stream d = none := by simpa [hw, Slot.writesInto] using h
    simp only [this]

@[simp] theorem cur_writeReg_of (s : State) (c i : Nat) (t : Slot) : (s.setSlot c i t).cur = s.cur := rfl

theorem applyPops_none {s : State} {c i : Nat} (hp : (s.slot c i).bundle.popPorts = [])
    (hs : (s.slot c i).bundle.popStreams = []) : s.applyPops c i = s := by simp [State.applyPops, hp, hs]

/-- A lone A-word of at most one write ends. -/
theorem finishA_lone {s : State} (h : Lone s) {e : AEff} (hp : e.poison = none) (hlen : e.writes.length ≤ 1)
    (hw : ∀ w ∈ (e.renamed s.me.bundle.rename).writes, s.me.writesInto w.reg) :
    s.finishA e = s.setSlot s.cur.1 s.cur.2
      ((s.me.withEff s.cur.1 s.cycle (e.renamed s.me.bundle.rename)).finished s.cycle) := by
  obtain ⟨hm, hs, hb, hpp, hps⟩ := h
  have key : ∀ e' : AEff, e'.poison = none → e'.writes.length ≤ 1 → (∀ w ∈ e'.writes, s.me.writesInto w.reg) →
      (s.modMe (fun t => { t with bundle := { t.bundle with stash := some e' } })).retire s.cur.1 s.cur.2 none =
      s.setSlot s.cur.1 s.cur.2 ((s.me.withEff s.cur.1 s.cycle e').finished s.cycle) := by
    intro e' _ hl hw'
    have hpops : (s.setSlot s.cur.1 s.cur.2 { s.me with bundle := { s.me.bundle with stash := some e' } }).applyPops
        s.cur.1 s.cur.2 = s.setSlot s.cur.1 s.cur.2 { s.me with bundle := { s.me.bundle with stash := some e' } } :=
      applyPops_none (by rw [slot_setSlot_self]; exact hpp) (by rw [slot_setSlot_self]; exact hps)
    unfold State.retire
    rw [modMe_eq, hpops]
    unfold State.applyA Slot.withEff
    match hwr : e'.writes, hl, hw' with
    | [], _, _ => simp [hwr, Slot.finished]
    | [w], _, hw' =>
      have hin : ((s.setSlot s.cur.1 s.cur.2 { s.me with bundle := { s.me.bundle with stash := some e' } }).slot
          s.cur.1 s.cur.2).writesInto w.reg := by
        rw [slot_setSlot_self]
        have := hw' w (by simp)
        cases hr : w.reg <;> rw [hr] at this <;> exact this
      simp only [slot_setSlot_self, hwr, List.foldl_cons, List.foldl_nil]
      rw [writeReg_of hin]
      simp [Slot.finished]
  have hren : (e.renamed s.me.bundle.rename) =
      { e with poison := match s.me.bundle.bad with | some v => some v | none => e.poison
               writes := (e.renamed s.me.bundle.rename).writes } := by
    simp [AEff.renamed, hb]
  unfold State.finishA
  simp only [hm, reduceCtorEq, if_false]
  have := key (e.renamed s.me.bundle.rename) (by simpa [AEff.renamed] using hp) (by simpa [AEff.renamed] using hlen) hw
  simp only [hb, hp]
  rw [← this]
  simp only [AEff.renamed, hp]
  all_goals rfl

theorem or_empty (f : Flags) : f.or {} = f := by cases f; simp [Flags.or]

/-- What a lone A-word with one write leaves. -/
theorem finishA_one {s : State} (h : Lone s) {w : RegWrite} {f : Flags} (e : AEff) (hp : e.poison = none) (hg : e.gen = none)
    (hf : e.flags = f) (he : (e.renamed s.me.bundle.rename).writes = [w]) (hl : e.writes.length ≤ 1)
    (hw : s.me.writesInto w.reg) :
    Retired s (s.finishA e) [w.reg] f ∧ GoesOn s (s.finishA e) ∧
      (s.finishA e).me.settled w.reg = if isX0 w.reg then 0 else w.reg.holds w.val := by
  rw [finishA_lone h hp hl (by rw [he]; simpa using hw)]
  have hwe : s.me.withEff s.cur.1 s.cycle (e.renamed s.me.bundle.rename) =
      { (({ s.me with bundle := { s.me.bundle with stash := some (e.renamed s.me.bundle.rename) } } : Slot).place s.cur.1 s.cycle w) with fflags := s.me.fflags.or f } := by
    unfold Slot.withEff
    rw [he]
    obtain ⟨x, v, p, px, pv, hs⟩ := place_shape
      { s.me with bundle := { s.me.bundle with stash := some (e.renamed s.me.bundle.rename) } } s.cur.1 s.cycle w
    simp only [List.foldl_cons, List.foldl_nil, hs]
    simp [AEff.renamed, hg, hf]
  rw [hwe]
  generalize hu : ({ s.me with bundle := { s.me.bundle with stash := some (e.renamed s.me.bundle.rename) } } : Slot) = u
  have h0 : ∀ r, u.settled r = s.me.settled r := fun r => by subst hu; apply settled_congr <;> rfl
  obtain ⟨x, v, p, px, pv, hs⟩ := place_shape u s.cur.1 s.cycle w
  have hself := settled_place_self u s.cur.1 s.cycle w
  have hne := fun q (hq : w.reg ≠ q) => settled_place_ne u s.cur.1 s.cycle w hq
  rw [hs] at hself hne ⊢
  have hfl : ∀ r, Slot.settled { u with x := x, v := v, pend := p, poisonX := px, poisonV := pv, fflags := s.me.fflags.or f } r
      = Slot.settled { u with x := x, v := v, pend := p, poisonX := px, poisonV := pv } r := fun r => by
    apply settled_congr <;> rfl
  refine ⟨retired_of ?_ rfl ?_ ?_ ?_ ?_ ?_, goesOn_of ?_ ?_ ?_, ?_⟩
  · intro r hr
    rw [hfl, hne r (fun h => hr (by simp [h])), h0]
  all_goals first
    | (subst hu; rfl)
    | (rw [me_setSlot, settled_finished, hfl, hself])

/-- A lone A-word that writes an x register. -/
theorem finishA_x {s : State} (h : Lone s) {d : Reg} (hd : s.me.writesInto (.x d)) (v : Word) (lat : Nat)
    {p : Option Word} (hp : p = none) :
    Retired s (s.finishA ((effX d v lat).withPoison p)) [.x d] {} ∧
      GoesOn s (s.finishA ((effX d v lat).withPoison p)) ∧
      (s.finishA ((effX d v lat).withPoison p)).me.settled (.x d) = xValue d v := by
  subst hp
  have := finishA_one h (w := { reg := .x d, val := v.setWidth 128, latency := lat }) (f := {})
    ((effX d v lat).withPoison none) rfl rfl rfl rfl (by simp [effX, AEff.withPoison]) hd
  refine ⟨this.1, this.2.1, this.2.2.trans ?_⟩
  by_cases h0 : d = 0
  · simp only [isX0_iff, h0, beq_self_eq_true, if_true, xValue]
  · simp only [isX0_iff, beq_iff_eq, h0, if_false, xValue, RegName.holds]
    congr 1
    exact BitVec.setWidth_setWidth_of_le v (by decide) |>.trans (by simp)

/-- A lone A-word that writes a v register, under the name that an RPT body gives it (R69). -/
theorem finishA_v {s : State} (h : Lone s) {d : Reg} (hd : s.me.writesInto (.v (s.vName d))) (v : Vec) (lat : Nat)
    (f : Flags) {p : Option Word} (hp : p = none) :
    Retired s (s.finishA ((effV d v lat f).withPoison p)) [.v (s.vName d)] f ∧
      GoesOn s (s.finishA ((effV d v lat f).withPoison p)) ∧
      (s.finishA ((effV d v lat f).withPoison p)).me.settled (.v (s.vName d)) = v := by
  subst hp
  exact finishA_one h (w := { reg := .v (s.vName d), val := v, latency := lat }) (f := f)
    ((effV d v lat f).withPoison none) rfl rfl rfl rfl (by simp [effV, AEff.withPoison]) hd

/-- A lone bundle whose slot was changed, but not its bundle, retires. -/
theorem retire_setSlot {s : State} (h : Lone s) {u : Slot} (hb : u.bundle = s.me.bundle) :
    (s.setSlot s.cur.1 s.cur.2 u).retire s.cur.1 s.cur.2 none = s.setSlot s.cur.1 s.cur.2 (u.finished s.cycle) := by
  obtain ⟨hm, hs, -, hpp, hps⟩ := h
  unfold State.retire
  rw [applyPops_none (by rw [slot_setSlot_self, hb, hpp]) (by rw [slot_setSlot_self, hb, hps])]
  simp [hb, hs, Slot.finished]

theorem setSlot_me (s : State) : s.setSlot s.cur.1 s.cur.2 s.me =
    { s with cores := put s.cores s.cur.1 (s.core s.cur.1) } := by
  simp [State.setSlot, State.setCore, State.me, State.slot]

/-- A lone bundle that changed nothing retires. -/
theorem retire_lone {s : State} (h : Lone s) :
    s.retire s.cur.1 s.cur.2 none = s.setSlot s.cur.1 s.cur.2 (s.me.finished s.cycle) := by
  obtain ⟨hm, hs, -, hpp, hps⟩ := h
  unfold State.retire
  rw [applyPops_none hpp hps]
  simp [me_eq, hs, Slot.finished, modSlot_eq]

/-- A lone C-word that goes on. -/
theorem finishC_go {s : State} (h : Lone s) (t : State) : s.finishC (.ok (.go t)) = t.retire s.cur.1 s.cur.2 none := by
  have : (s.slot s.cur.1 s.cur.2).bundle.stash = none := h.stash
  simp [State.finishC, State.aStops, this]

theorem writeReg_system (t : Slot) (c now : Nat) (w : RegWrite) : (t.place c now w).bundle = t.bundle ∧
    (t.place c now w).fflags = t.fflags ∧ (t.place c now w).retired = t.retired ∧
    (t.place c now w).notBefore = t.notBefore ∧ (t.place c now w).lastIssue = t.lastIssue ∧
    (t.place c now w).loop = t.loop := by
  obtain ⟨x, v, p, px, pv, hs⟩ := place_shape t c now w
  rw [hs]
  exact ⟨rfl, rfl, rfl, rfl, rfl, rfl⟩

/-- A lone C-word that writes an x register and goes on. -/
theorem finishC_x {s : State} (h : Lone s) {d : Reg} (hd : s.me.writesInto (.x d)) (v : Word) :
    Retired s (s.finishC (go (s.setX d v))) [.x d] {} ∧ GoesOn s (s.finishC (go (s.setX d v))) ∧
      (s.finishC (go (s.setX d v))).me.settled (.x d) = xValue d v := by
  have hw : s.setX d v = s.setSlot s.cur.1 s.cur.2 (s.me.place s.cur.1 s.cycle
      { reg := .x d, val := v.setWidth 128, latency := 1 }) := writeReg_of (by exact hd)
  obtain ⟨hb, hf, hr, hn, hi, hl⟩ := writeReg_system s.me s.cur.1 s.cycle { reg := .x d, val := v.setWidth 128, latency := 1 }
  rw [go, finishC_go h, hw, retire_setSlot h hb]
  refine ⟨retired_of ?_ ?_ ?_ hr hn hi (by rw [hb]), goesOn_of hl (by rw [hb]) (by rw [hb]), ?_⟩
  · intro r hr
    exact settled_place_ne _ _ _ _ (fun h => hr (by simp [← h]))
  · rw [hf, or_empty]
  · rw [system_place]
  · rw [me_setSlot, settled_finished, settled_place_self s.me s.cur.1 s.cycle { reg := .x d, val := v.setWidth 128, latency := 1 }]
    by_cases h0 : d = 0
    · simp only [isX0_iff, h0, beq_self_eq_true, if_true, xValue]
    · simp only [isX0_iff, beq_iff_eq, h0, if_false, xValue, RegName.holds]
      congr 1
      exact BitVec.setWidth_setWidth_of_le v (by decide) |>.trans (by simp)

/-- A lone word that changes nothing. -/
theorem retired_self {s : State} (h : Lone s) :
    Retired s (s.retire s.cur.1 s.cur.2 none) [] {} ∧ GoesOn s (s.retire s.cur.1 s.cur.2 none) := by
  rw [retire_lone h]
  exact ⟨retired_of (fun _ _ => rfl) (or_empty _).symm rfl rfl rfl rfl rfl, goesOn_of rfl rfl rfl⟩

end Sys2Proof.Machine
end

