-- ==== Sys2Proof/Laws/Shared.lean ====
section
/-!
SUPPORT. What the shared operations can do, one lemma each: requests for the host window, snoops, launches' entries, held
completion words, aborts, and the cores of a restore.
-/
namespace Sys2Proof.Machine

/-! ### Cores and slots behind an update elsewhere -/

@[simp] theorem core_fab (s : State) (f : Fab) (c : Nat) : ({ s with fab := f } : State).core c = s.core c := rfl
@[simp] theorem core_dir (s : State) (d : List (Nat × DirEntry)) (c : Nat) : ({ s with dir := d } : State).core c = s.core c := rfl
@[simp] theorem core_disp (s : State) (d : Disp) (c : Nat) : ({ s with disp := d } : State).core c = s.core c := rfl
@[simp] theorem core_net (s : State) (n : List Msg) (c : Nat) : ({ s with net := n } : State).core c = s.core c := rfl
@[simp] theorem core_launches (s : State) (l : List (Nat × Launch)) (c : Nat) :
    ({ s with launches := l } : State).core c = s.core c := rfl
@[simp] theorem core_images (s : State) (l : List (Nat × Image)) (c : Nat) :
    ({ s with images := l } : State).core c = s.core c := rfl
@[simp] theorem core_tele (s : State) (t : Tele) (c : Nat) : ({ s with tele := t } : State).core c = s.core c := rfl
@[simp] theorem slot_fab (s : State) (f : Fab) (c i : Nat) : ({ s with fab := f } : State).slot c i = s.slot c i := rfl
@[simp] theorem slot_dir (s : State) (d : List (Nat × DirEntry)) (c i : Nat) :
    ({ s with dir := d } : State).slot c i = s.slot c i := rfl
@[simp] theorem slot_launches (s : State) (l : List (Nat × Launch)) (c i : Nat) :
    ({ s with launches := l } : State).slot c i = s.slot c i := rfl
@[simp] theorem slot_net (s : State) (n : List Msg) (c i : Nat) : ({ s with net := n } : State).slot c i = s.slot c i := rfl

/-! ### Requests for the host window (R244) -/

theorem onLink_eq (s : State) (link : Nat) (write : Bool) (addr n : Nat) : s.onLink link write addr n =
    { s with fab := { s.fab with window := s.fab.window ++ [(link, windowReq (s.fab.cxl.contains link) write addr n)] } } := rfl

/-- A fold of steps that only add requests for the host window only adds such requests. -/
theorem window_foldl {α : Type} (f : State → α → State)
    (step : ∀ s x, ∃ w, f s x = { s with fab := { s.fab with window := s.fab.window ++ w } }) (l : List α) (s : State) :
    ∃ w, l.foldl f s = { s with fab := { s.fab with window := s.fab.window ++ w } } := by
  induction l generalizing s with
  | nil => exact ⟨[], by simp⟩
  | cons x r ih =>
    obtain ⟨w, hw⟩ := step s x
    obtain ⟨v, hv⟩ := ih (f s x)
    refine ⟨w ++ v, ?_⟩
    rw [List.foldl_cons, hv, hw]
    simp [List.append_assoc]

/-- What the dispatcher asks of the host: requests for its window, and nothing else (R19, R25). -/
theorem dispAsk_eq (s : State) (asid : Nat) (ranges : List (Nat × Nat)) :
    ∃ w, s.dispAsk asid ranges = { s with fab := { s.fab with window := s.fab.window ++ w } } := by
  refine window_foldl _ (fun s r => window_foldl _ (fun s k => ?_) _ s) ranges s
  dsimp only
  split
  · exact ⟨_, onLink_eq ..⟩
  · exact ⟨[], by simp⟩

/-! ### Snoops (R246) -/

/-- Snoops change the directory, and nothing else. -/
theorem snoopRange_eq (s : State) (off n : Nat) : ∃ d, s.snoopRange off n = { s with dir := d } := by
  unfold State.snoopRange
  generalize linesOf off n = l
  induction l generalizing s with
  | nil => exact ⟨s.dir, rfl⟩
  | cons x r ih =>
    rw [List.foldl_cons]
    split
    · exact ih s
    · obtain ⟨d, hd⟩ := ih (s.snoop x)
      exact ⟨d, hd⟩

/-! ### Launches -/

/-- EndLaunch changes the launch table, and nothing else (R22). -/
theorem endLaunch_eq (s : State) (l : Nat) (st : Status) (cause : Nat) :
    ∃ ls, s.endLaunch l st cause = { s with launches := ls } := by
  unfold State.endLaunch State.modLaunch
  split
  · exact ⟨_, rfl⟩
  · exact ⟨s.launches, rfl⟩

/-- A slot that keeps no list gives no round back (R269). -/
theorem unissued_of_not_list {s : State} {c i : Nat} (h : ∀ m, (s.slot c i).wait ≠ .list m) : s.unissued c i = s := by
  unfold State.unissued
  split
  · rename_i m l hw hl
    exact absurd hw (h m)
  · rfl

theorem retryWords_nil {s : State} (h : s.disp.words = []) : s.retryWords = s := by simp [State.retryWords, h]

theorem turnFor_same {s : State} {c l cls : Nat} (hl : (find s.launches l).map Launch.cls = some cls)
    (hc : (s.core c).lastClass = some cls) : s.turnFor c l = s := by simp [State.turnFor, hl, hc]

/-! ### Transactions -/

/-- An abort changes its slot, and nothing else (R169). -/
theorem abortTxn_eq (s : State) (c i : Nat) (why : Abort) (code : Nat) :
    s.abortTxn c i why code = s.setSlot c i ((s.abortTxn c i why code).slot c i) := by
  unfold State.abortTxn State.modSlot
  rw [slot_setSlot_self]

/-- What an abort leaves in its slot (R169). -/
theorem slot_abortTxn (s : State) (c i : Nat) (why : Abort) (code : Nat) (x : Txn) (h : (s.slot c i).txn = some x) :
    (s.abortTxn c i why code).slot c i = { s.slot c i with
      x := x.shadowX, v := x.shadowV, poisonX := x.shadowPX, poisonV := x.shadowPV, pend := [], txn := none, pc := x.target
      loop := none, wait := .none, tabort := BitVec.ofNat 8 why.code, tcode := BitVec.ofNat 8 code
      notBefore := max (s.slot c i).notBefore (s.cycle + 1) } := by
  unfold State.abortTxn State.modSlot
  rw [slot_setSlot_self]
  dsimp only
  rw [h]

/-! ### The cores of a restore (R207) -/

@[simp] theorem slot_keepFor (s : State) (n c i : Nat) : (s.keepFor n c).slot c i = s.slot c i := by
  simp [State.keepFor, State.slot, State.modCore, CoreSt.slot]

@[simp] theorem stage_keepFor (s : State) (n c : Nat) : ((s.keepFor n c).core c).stage = .loading n s.cycle := by
  simp [State.keepFor, State.modCore]

theorem core_keepFor_ne (s : State) {n c d : Nat} (h : c ≠ d) : (s.keepFor n c).core d = s.core d :=
  core_setCore_ne s _ h

@[simp] theorem net_keepFor (s : State) (n c : Nat) : (s.keepFor n c).net = s.net := rfl
@[simp] theorem mem_keepFor (s : State) (n c : Nat) : (s.keepFor n c).mem = s.mem := rfl
@[simp] theorem images_keepFor (s : State) (n c : Nat) : (s.keepFor n c).images = s.images := rfl

end Sys2Proof.Machine
end

