-- ==== Sys2Proof/Tests/Slice0.lean ====
section
/-!
SUPPORT. Tests: words of the spec and what they decode to, terms that WellFormed refuses, results that the spec's examples
and tables give (each names its rule), and for each statement with hypotheses a state and operands that meet them.
-/
open Sys2Proof Sys2Proof.Machine

namespace Sys2Proof.Tests

set_option Elab.async false

/-! ### Words (03_encoding, and the examples of the reference entries) -/

theorem test_decode_add_entry : decodeTableWord 32 0x882530C1 = some (.addA 5 6 3 true) := by decide
theorem test_decode_sub : decodeTableWord 32 0x810531C2 = some (.subC 5 6 7) := by decide
theorem test_decode_mul : decodeTableWord 32 0x882531DC = some (.mul 5 6 7 false) := by decide
theorem test_decode_shl_immediate : decodeTableWord 32 0x88C53003 = some (.shlImmA 5 6 3) := by decide
theorem test_decode_xori : decodeTableWord 32 0x818537FF = some (.xoriC 5 6 0x7FF) := by decide
theorem test_decode_slti : decodeTableWord 32 0x88E537FF = some (.sltiA 5 6 0x7FF) := by decide
theorem test_decode_li : decodeTableWord 32 0x81E5789A = some (.lih 5 0x789A) := by decide
theorem test_decode_ins : decodeTableWord 32 0x892531CC = some (.ins 5 6 7 12) := by decide
theorem test_decode_widf : decodeTableWord 32 0x89450001 = some (.widf 5 1) := by decide
theorem test_decode_nops : decodeTableWord 32 0x80000000 = some .nopC ∧ decodeTableWord 32 0x88000000 = some .nopA := by
  decide
theorem test_decode_vadd : decodeTableWord 32 0x8A0110C2 = some (.vadd true .i8 1 2 3 false) := by decide
theorem test_decode_vfma : decodeTableWord 32 0x8A7008A4 = some (.vfma false .fp32 16 1 2 false) := by decide
theorem test_decode_vshr : decodeTableWord 32 0x8B4111CA = some (.vshlScalar .i32 1 2 7) := by decide
theorem test_decode_vcvt : decodeTableWord 32 0x8BE11272 = some (.vcvt .e4m3 .fp32 true false 1 2) := by decide
theorem test_decode_vdot : decodeTableWord 32 0x8C0810EC = some (.vdot .bf16 8 2 3 false) := by decide
theorem test_decode_vrsq : decodeTableWord 32 0x8C611064 = some (.vrsq .fp32 1 2) := by decide
theorem test_decode_branch : decodeTableWord 32 0x8285300A = some (.blt 5 6 10) := by decide
theorem test_decode_bbs : decodeTableWord 32 0x83052FFC = some (.bbs 5 37 0x3FC) := by decide
theorem test_decode_jumps : decodeTableWord 32 0x83400004 = some (.j 4) ∧ decodeTableWord 32 0x83600040 = some (.jal 64) ∧
    decodeTableWord 32 0x83800800 = some (.jalr 0 1 0) := by decide
theorem test_decode_rpt : decodeTableWord 32 0x83A60210 = some (.rpt 6 2 1) := by decide
theorem test_decode_system : decodeTableWord 32 0x80090005 = some (.waitev 9) ∧
    decodeTableWord 32 0x80010009 = some (.mswap true) ∧ decodeTableWord 32 0x80200002 = some (.trap 2) ∧
    decodeTableWord 32 0x80C00045 = some (.hunmask 5) := by decide
theorem test_decode_control_registers : decodeTableWord 32 0x80450060 = some (.crr 5 0x60) ∧
    decodeTableWord 32 0x80653800 = some (.crw 5 7 0) := by decide
theorem test_decode_memory : decodeTableWord 32 0x84651810 = some (.ldD 5 3 16) ∧
    decodeTableWord 32 0x85651808 = some (.stD 5 3 8) ∧ decodeTableWord 32 0x84E03800 = some (.vld 0 7 0) ∧
    decodeTableWord 32 0x85803030 = some (.vst 0 6 48) := by decide
theorem test_decode_atomics : decodeTableWord 32 0x860549AE = some (.amo .faddBf16 true false 5 9 6) ∧
    decodeTableWord 32 0x86E149A4 = some (.tred true .add .fp32 9 6) ∧
    decodeTableWord 32 0x85C5480B = some (.lda true .pkg 5 9) := by decide
theorem test_decode_fences : decodeTableWord 32 0x86400005 = some (.fence .full .pkg) ∧
    decodeTableWord 32 0x8640000F = some (.fence .acq .sys) ∧
    decodeTableWord 32 0x86600110 = some (.fencex .lsu .copy .core) := by decide
theorem test_decode_messages : decodeTableWord 32 0x87145203 = some (.send 20 10 1 3) ∧
    decodeTableWord 32 0x87274001 = some (.spawnq 7 8) ∧ decodeTableWord 32 0x8774A809 = some (.callat 20 21 9) ∧
    decodeTableWord 32 0x87A50007 = some (.chrd 5 7) := by decide
theorem test_decode_engines : decodeTableWord 32 0x87C63A01 = some (.copy false true 6 7 8) ∧
    decodeTableWord 32 0x87C90010 = some (.scatter 9) ∧ decodeTableWord 32 0x87C54820 = some (.bksel .fp32 5 9) ∧
    decodeTableWord 32 0x87EA5801 = some (.compose 10 11) := by decide

/-- Type code 15, fn[1] = 1 where a form has none, a nonzero reserved field, an unassigned opcode, and fewer bits than a
word are no instruction (R63, R65). -/
theorem test_decode_refuses : decodeTableWord 32 0x8A01103C = none ∧ decodeTableWord 32 0x8A4110E6 = none ∧
    decodeTableWord 32 0x80050048 = none ∧ decodeTableWord 32 0x80E00000 = none ∧ decodeTableWord 16 0 = none := by decide

/-! ### Terms that WellFormed refuses, one for each of its checks -/

theorem test_refuses_saturation : (Instr.vadd true .fp32 1 2 3 false).wellFormed = false ∧
    (Instr.vsub true .bf16 1 2 3 false).wellFormed = false ∧ (Instr.vadd false .e4m3 1 2 3 false).wellFormed = false := by
  decide
theorem test_refuses_arithmetic_types : (Instr.vmul .e5m2 1 2 3 false).wellFormed = false ∧
    (Instr.vmin .e2m1 1 2 3 false).wellFormed = false ∧ (Instr.vredsum .e4m3 1 2).wellFormed = false ∧
    (Instr.vfma false .i32 1 2 3 false).wellFormed = false ∧ (Instr.vdot .fp64 1 2 3 false).wellFormed = false ∧
    (Instr.vrcp .i8 1 2).wellFormed = false := by decide
theorem test_refuses_shift_types : (Instr.vshlVector .fp16 1 2 3 false).wellFormed = false ∧
    (Instr.vshrScalar .i32 1 2 3).wellFormed = false ∧ (Instr.vsraVector .n32 1 2 3 false).wellFormed = false := by decide
theorem test_refuses_stochastic : (Instr.vcvt .fp32 .fp64 false true 1 2).wellFormed = false := by decide
theorem test_refuses_tred_type : (Instr.tred false .add .i8 1 2).wellFormed = false := by decide
theorem test_refuses_send_count : (Instr.send 1 30 2 0).wellFormed = false := by decide
theorem test_refuses_agents : (Instr.mma 16384).wellFormed = false ∧ (Instr.slotFill 16384).wellFormed = false ∧
    (Instr.commit 0 4).wellFormed = false ∧ (Instr.checkerMismatch 16384 0 true true).wellFormed = false ∧
    (Instr.streamPrefetch 0 0 23).wellFormed = false ∧ (Instr.copyDelivery 16384 0).wellFormed = false ∧
    (Instr.teardown 0 16384).wellFormed = false ∧ (Instr.liveMigration 0 16384).wellFormed = false ∧
    (Instr.subDispatch 8).wellFormed = false ∧ (Instr.qrecWrite 16 true []).wellFormed = false ∧
    (Instr.hostWindowReadCompletion 0 20 []).wellFormed = false ∧ (Instr.hostWindowReadCompletion 0 19 []).wellFormed = true ∧
    (Instr.setcap 2).wellFormed = false ∧ (Instr.sensorSample (List.replicate 95 ⟨0, 0, 0⟩)).wellFormed = false := by decide

/-! ### Small states -/

/-- A register file with some registers set. -/
def file {w : Nat} (xs : List (Nat × BitVec w)) : Vector (BitVec w) 32 :=
  xs.foldl (fun v p => v.set (p.1 % 32) p.2 (Nat.mod_lt _ (by decide))) (Vector.replicate 32 0)

/-- A launch of one core runs; slot 0 of core 0 has issued a lone word at 0x1000 with these registers. -/
def lone (xs : List (Nat × Word)) (vs : List (Nat × Vec) := []) : State :=
  State.reset.placeProgram.modMe (fun t => { t with
    x := file xs, v := file vs, bundle := { emptyBundle with here := 0x1000, next := 0x1004, rdX := file xs, rdV := file vs } })

/-- The next state; the state after reset where there is none. -/
def after : Host.Outcome State Fault Refusal → State
  | .next t => t
  | _ => State.reset

/-- An x register once every write has landed. -/
def xAfter (s : State) (i : Instr) (d : Reg) : Word := ((after (exec i s)).me.settled (.x d)).setWidth 64

/-- A v register once every write has landed. -/
def vAfter (s : State) (i : Instr) (d : Reg) : Vec := (after (exec i s)).me.settled (.v d)

theorem lone_reset (xs : List (Nat × Word)) (vs : List (Nat × Vec)) : Lone (lone xs vs) := ⟨rfl, rfl, rfl, rfl, rfl⟩

/-! ### Results that the spec gives -/

/-- The entry of ADD: with LMB = 0x0400 the word reads the doubleword at LM offset 0x0418 (R284). -/
theorem test_add_entry : xAfter ((lone [(6, 5)]).modMe (fun t => { t with lmb := 0x400 }) |>.modHere (fun k =>
    { k with lm := k.lm.setNum 0x418 8 37 })) (.addA 5 6 3 true) 5 = 42 := by decide
theorem test_add_x0 : xAfter (lone [(6, 5), (7, 6)]) (.addC 0 6 7) 0 = 0 := by decide
theorem test_max : xAfter (lone [(6, BitVec.allOnes 64), (7, 1)]) (.maxA 5 6 7 false) 5 = 1 := by decide
theorem test_maxn : xAfter (lone [(6, BitVec.allOnes 64), (7, 1)]) (.maxnA 5 6 7 false) 5 = BitVec.allOnes 64 := by decide
theorem test_mul : xAfter (lone [(6, BitVec.allOnes 64), (7, BitVec.allOnes 64)]) (.mul 5 6 7 false) 5 = 1 := by decide
theorem test_mulhn : xAfter (lone [(6, BitVec.allOnes 64), (7, BitVec.allOnes 64)]) (.mulhn 5 6 7 false) 5 =
    0xFFFFFFFFFFFFFFFE := by decide
theorem test_mulh : xAfter (lone [(6, BitVec.allOnes 64), (7, BitVec.allOnes 64)]) (.mulh 5 6 7 false) 5 = 0 := by decide
theorem test_rem : xAfter (lone [(6, -7), (7, 2)]) (.rem 5 6 7 false) 5 = -1 := by decide
theorem test_div : xAfter (lone [(6, -7), (7, 2)]) (.div 5 6 7 false) 5 = -3 := by decide
theorem test_div_by_zero : xAfter (lone [(6, -7)]) (.div 5 6 7 false) 5 = BitVec.allOnes 64 := by decide
theorem test_shl_by_67 : xAfter (lone [(6, 1), (7, 67)]) (.shlA 5 6 7 false) 5 = 8 := by decide
theorem test_extr : xAfter (lone [(6, 0xABC123)]) (.extr 5 6 7 12) 5 = 0xBC := by decide
theorem test_ins : xAfter (lone [(5, BitVec.allOnes 64), (6, 0x5A)]) (.ins 5 6 7 12) 5 = 0xFFFFFFFFFFF5AFFF := by decide
theorem test_lih : xAfter (lone []) (.lih 5 0x789A) 5 = 0x789A0000 := by decide
theorem test_liq : xAfter (lone [(5, 0x789A0000)]) (.liq 5 0x3456) 5 = 0x3456789A0000 := by decide
theorem test_liw : xAfter (lone [(5, 0x3456789A0000)]) (.liw 5 0x0012) 5 = 0x00123456789A0000 := by decide
theorem test_popc : xAfter (lone [(6, BitVec.allOnes 64)]) (.popc 5 6) 5 = 64 := by decide
theorem test_clz_zero : xAfter (lone []) (.clz 5 6) 5 = 64 := by decide
theorem test_slti : xAfter (lone [(6, -2)]) (.sltiA 5 6 0x7FF) 5 = 1 := by decide

/-- 100 + 100 in I8: 127 and SAT with .sat, -56 and no flag without (R376). -/
theorem test_vadd_saturates : let s := lone [] [(2, 100), (3, 100)]
    vAfter s (.vadd true .i8 1 2 3 false) 1 = 127 ∧ (after (exec (.vadd true .i8 1 2 3 false) s)).me.fflags.sat = true ∧
    vAfter s (.vadd false .i8 1 2 3 false) 1 = 200 ∧ (after (exec (.vadd false .i8 1 2 3 false) s)).me.fflags.sat = false := by
  decide +kernel

/-- 2^24 + 1.25, rounded once, is 2^24 + 2 and inexact (R380). -/
theorem test_vdot : let s := lone [] [(8, 0x4B800000), (2, 0x3F003F40), (3, 0x3F803F80)]
    vAfter s (.vdot .bf16 8 2 3 false) 8 = 0x4B800001 ∧ (after (exec (.vdot .bf16 8 2 3 false) s)).me.fflags.nx = true := by
  decide +kernel

/-- On I types VABS and VNEG map -2^(w-1) to itself (R375). -/
theorem test_vneg_least : vAfter (lone [] [(5, 0x80)]) (.vneg .i8 4 5) 4 = 0x80 := by decide +kernel

/-- VNEG inverts the sign bit of every lane, a NaN's too (R375). -/
theorem test_vneg_nan : vAfter (lone [] [(5, 0x7E00)]) (.vneg .fp16 4 5) 4 = 0x80008000800080008000800080008000 ^^^ 0x7E00 := by
  decide +kernel

/-- Work identifier 0x21 of the count-list launch of R189 gives fields 1 and 2 (R399). -/
theorem test_widf : let s := { (lone []).modMe (fun t => { t with wid := 0x21 }) with
      launches := [(0, { placeLaunch with hdr := placeLaunch.hdr.set 3 (BitVec.ofNat 64 (2 ^ 37 + 4 + 4 * 64)) })] }
    xAfter s (.widf 5 0) 5 = 1 ∧ xAfter s (.widf 5 1) 5 = 2 := by decide +kernel

/-! ### States and operands that meet the hypotheses of the statements -/

/-- The lone state with a trap vector. -/
def vectored (xs : List (Nat × Word)) : State := (lone xs).modHere (fun k => { k with tvec := 0x8000 })

/-- A transaction that a slot opened with the abort target 0x2000. -/
def openTxn : Txn :=
  { target := 0x2000, depth := 1, stamp := none, age := 0, shadowX := Vector.replicate 32 7, shadowV := Vector.replicate 32 0, reads := []
    writes := [], reds := [], spec := [], pendRed := [], held := [], committing := false }

/-- The lone state inside that transaction. -/
def inTxn (xs : List (Nat × Word)) : State := (lone xs).modMe (fun t => { t with txn := some openTxn })

/-- The lone state as a pair leaves it before its second word. -/
def paired (xs : List (Nat × Word)) : State :=
  (vectored xs).modMe (fun t => { t with bundle := { t.bundle with mode := .second, next := 0x1008 } })

theorem lone_vectored (xs : List (Nat × Word)) : Lone (vectored xs) := ⟨rfl, rfl, rfl, rfl, rfl⟩

theorem lone_inTxn (xs : List (Nat × Word)) : Lone (inTxn xs) := ⟨rfl, rfl, rfl, rfl, rfl⟩

theorem witness_ScalarRegisterForms : Lone (lone []) ∧ (lone []).me.writesInto (.x 0) ∧ (lone []).me.writesInto (.x 31) ∧
    (lone []).poisonC true 31 8 = none ∧ (lone []).poisonC false 0 8 = none := by
  refine ⟨lone_reset _ _, rfl, rfl, ?_⟩; decide

theorem witness_ScalarImmediatesFieldsAndCounts : Lone (lone []) ∧ (lone []).me.writesInto (.x 0) ∧
    (lone []).launchOf (lone []).cur.1 = some placeLaunch := ⟨lone_reset _ _, rfl, rfl⟩

theorem witness_VectorIntegerArithmetic : Lone (lone []) ∧ (lone []).me.writesInto (.v ((lone []).vName 31)) ∧
    (lone []).poisonC true 31 16 = none ∧ (lone []).poisonC false 0 16 = none ∧ LaneType.n64.isInt = true := by
  refine ⟨lone_reset _ _, rfl, ?_⟩; decide

theorem witness_VectorFloatArithmetic : Lone (lone []) ∧ (lone []).me.writesInto (.v ((lone []).vName 0)) ∧
    (lone []).poisonC false 0 16 = none ∧ LaneType.fp64.isMainFloat = true := by
  refine ⟨lone_reset _ _, rfl, ?_⟩; decide

/-- The largest number and the least subnormal of FP16. -/
theorem witness_RoundingKeepsWhatTheFormatHolds : LaneType.fp16.isInt = false ∧ 0x7BFF < 2 ^ laneWidth .fp16 ∧
    decodeF .fp16 0x7BFF = .num false 2047 5 ∧ decodeF .fp16 0x8001 = .num true 1 (-24) := by decide

theorem witness_VectorShiftsBitsAndLanes : Lone (lone []) ∧ (lone []).me.writesInto (.v ((lone []).vName 0)) ∧
    (lone []).poisonC true 0 16 = none ∧ LaneType.n8.isInt = true ∧ LaneType.n8.isUnsigned = true ∧
    LaneType.i64.isSigned = true := by
  refine ⟨lone_reset _ _, rfl, ?_⟩; decide

theorem witness_VectorToScalarAndReductions : Lone (lone []) ∧ (lone []).me.writesInto (.x 0) ∧
    (lone []).me.writesInto (.v ((lone []).vName 0)) ∧ (lone []).poisonC true 0 16 = none ∧ LaneType.i8.isInt = true ∧
    LaneType.bf16.isMainFloat = true ∧ LaneType.fp32.isMainFloat = true := by
  refine ⟨lone_reset _ _, rfl, rfl, ?_⟩; decide

/-- An infinity of FP32 in lane 0, one of the operands of Table 16.13. -/
theorem witness_VectorConversionsAndSpecialFunctions :
    let s := lone [] [(2, 0x7F800000)]
    Lone s ∧ s.me.writesInto (.v (s.vName 1)) ∧ LaneType.fp32.isMainFloat = true ∧
    lane .fp32 (s.V 2) 0 = infBits .fp32 false := by
  refine ⟨lone_reset _ _, rfl, ?_⟩; decide

theorem witness_Pairs :
    let s := paired []
    s.me.bundle.mode = .second ∧ s.me.bundle.bad = none ∧ s.me.bundle.late = none ∧ s.me.bundle.popPorts = [] ∧
    s.me.bundle.popStreams = [] ∧ s.me.writesInto (.x 1) ∧ s.me.writesInto (.x 5) ∧ s.X 6 = s.X 7 ∧ s.me.txn = none ∧
    s.here.tvec ≠ 0 :=
  ⟨rfl, rfl, rfl, rfl, rfl, rfl, rfl, rfl, rfl, by decide⟩

theorem witness_FixedLatencyResults : Lone (lone []) ∧ (lone []).me.cvsize ≤ 1 ∧ (lone []).poisonC true 3 16 = none ∧
    (lone []).poisonC true 3 8 = none ∧ LaneType.fp32.isMainFloat = true ∧ (lone []).me.writesInto (.v 1) ∧
    (lone []).me.writesInto (.x 1) := by
  refine ⟨lone_reset _ _, ?_, ?_, ?_, ?_, rfl, rfl⟩ <;> decide

/-- The lone state in a launch of two cores, the second one east of the first. -/
def duo (xs : List (Nat × Word)) (vs : List (Nat × Vec) := []) : State :=
  let l : Launch := { placeLaunch with
    hdr := placeLaunch.hdr.set 4 0x0001000200000000, places := [(0, .site 0), (1, .site 1)] }
  ({ lone xs vs with launches := [(0, l)] } : State).modCore 1 (fun k => { k with launch := some 0 })

theorem lone_duo (xs : List (Nat × Word)) (vs : List (Nat × Vec)) : Lone (duo xs vs) := ⟨rfl, rfl, rfl, rfl, rfl⟩

/-- A stream bound to v24 for reading, and one to v25 for writing. -/
def streaming (write : Bool) : State :=
  let x : StreamSt :=
    { base := 0xF000000000000000, count0 := 4, count1 := 1, count2 := 1, stride0 := 16, stride1 := 0, stride2 := 0
      isWrite := write, next := 0, ahead := [], unwritten := [] }
  (lone []).modMe (fun t => { t with
    streams := [(if write then 25 else 24, x)]
    bundle := { t.bundle with popStreams := if write then [] else [24] } })

theorem witness_PortsAndStreams :
    (let s := streaming false;
      s.me.bundle.mode = .lone ∧ s.me.bundle.stash = none ∧ s.me.bundle.bad = none ∧ s.me.bundle.popPorts = [] ∧
      s.me.bundle.rename = 0 ∧ s.me.bundle.popStreams = [(24 : Reg).toNat] ∧
      s.me.writesInto (.v 1) ∧ (find s.me.streams 24).isSome = true) ∧
    (let s := streaming true;
      s.me.bundle.popStreams = [] ∧ (find s.me.streams 25).isSome = true ∧ s.me.bundle.popPorts = []) :=
  ⟨⟨rfl, rfl, rfl, rfl, rfl, rfl, rfl, rfl⟩, ⟨rfl, rfl, rfl⟩⟩

/-- The condition of BBS holds and that of BBC does not; the count of RPT at its two ends; a live loop in its last
bundle. -/
theorem witness_BranchesJumpsAndLoops :
    Lone (lone [(1, 0x2004)]) ∧ (lone []).me.writesInto (.x 1) ∧ ((lone [(1, 0x2004)]).X 1 + (0 : BitVec 11).signExtend 64).toNat % 4 = 0 ∧
    0 < ((lone [(6, 65535)]).X 6).toNat ∧ ((lone [(6, 65535)]).X 6).toNat ≤ 65535 ∧ ((lone []).X 6).toNat = 0 ∧
    65535 < ((vectored [(6, 65536)]).X 6).toNat ∧ (vectored []).me.txn = none ∧ (vectored []).here.tvec ≠ 0 ∧
    (lone []).me.bundle.bodyLast = false := by
  refine ⟨lone_reset _ _, rfl, ?_⟩; decide

/-- The lone state with its first GiB mapped to package 3 of its domain. -/
def elsewhere : State :=
  let t : RouteTable := { version := 0, members := [0, 3], routes := [(3, [.switch 0])], trees := [] }
  { lone [] with mem := (lone []).mem.setNum (placeTables + 0x102000) 8 (3 * 2 ^ 42 + 0xF)
                 fab := { (lone []).fab with cur := [(0, t), (1, t)] } }

/-- A body of one bundle, a pair, behind an RPT with count 0, and one whose word package 3 holds. -/
theorem witness_BranchesJumpsAndLoops_skipped : (lone []).me.bundle.next = 0x1004 ∧
    (lone []).skipBundles 0 0 1 0x1004 = .found 0x100C ∧ ((lone []).X 6).toNat = 0 ∧ elsewhere.me.bundle.next = 0x1004 ∧
    elsewhere.skipBundles 0 0 1 0x1004 = .ask 0x1004 (.other 3 0x1004) ∧ elsewhere.zyRoom 0 3 = true := by decide +kernel

theorem witness_BranchesJumpsAndLoops_elsewhere : Lone elsewhere := ⟨rfl, rfl, rfl, rfl, rfl⟩

theorem witness_TrapsTaken : (vectored []).here.tvec ≠ 0 ∧ (lone []).here.tvec = 0 ∧ (lone []).here.launch = some 0 ∧
    find (lone []).launches 0 = some placeLaunch ∧ placeLaunch.ending = none ∧ Lone (vectored []) ∧ Lone (inTxn []) ∧
    (vectored []).me.txn = none ∧ (inTxn []).me.txn = some openTxn ∧ (vectored []).fetchBad 0 0x1000 = false := by
  refine ⟨by decide, rfl, rfl, rfl, rfl, lone_vectored _, lone_inTxn _, rfl, rfl, ?_⟩; decide +kernel

/-- Two held traps, the lower code last, outside and inside a transaction, and with no vector; the watchdog's limit not
reached, reached, and reached again. -/
theorem witness_HeldTrapsAndReturns :
    (let s := (vectored []).modMe (fun t => { t with tpc := 0x1006, h := true });
      Lone s ∧ s.me.tpc.toNat % 4 ≠ 0 ∧ s.here.tvec ≠ 0) ∧ (vectored []).me.tpc.toNat % 4 = 0 ∧
    (let s := (vectored []).modMe (fun t => { t with heldTraps := [(.ecc, 2), (.wdog, 1)] });
      (Cause.wdog, (1 : Word)) ∈ (s.slot 0 0).heldTraps ∧
      (∀ q ∈ (s.slot 0 0).heldTraps, Cause.wdog.code < q.1.code ∨ q = (.wdog, 1)) ∧ (s.slot 0 0).h = false ∧
      (s.slot 0 0).wait.abandonable = true ∧ (s.slot 0 0).active = true ∧ (s.slot 0 0).txn = none ∧ (s.core 0).tvec ≠ 0 ∧
      (s.modMe (fun t => { t with txn := some openTxn })).me.txn = some openTxn ∧ openTxn.committing = false) ∧
    (let s := (lone []).modMe (fun t => { t with heldTraps := [(.ecc, 2)] });
      (s.core 0).tvec = 0 ∧ (s.slot 0 0).heldTraps = [(.ecc, 2)] ∧ (s.core 0).launch = some 0 ∧
      find s.launches 0 = some placeLaunch ∧ placeLaunch.ending = none) ∧ (lone []).me.heldTraps = [] ∧
    (let s := fun n f => (vectored []).modMe (fun t => { t with watch := n, wdogFired := f });
      (s 0 false).limitOf 0 = some (2 ^ 30) ∧ ((s (2 ^ 30 - 1) false).slot 0 0).watch < 2 ^ 30 ∧
      2 ^ 30 ≤ ((s (2 ^ 30) true).slot 0 0).watch ∧ ((s (2 ^ 30) true).slot 0 0).wdogFired = true ∧
      ((s (2 ^ 30) false).slot 0 0).wdogFired = false) ∧ (lone []).limitOf 1 = none := by
  refine ⟨⟨⟨rfl, rfl, rfl, rfl, rfl⟩, ?_⟩, ?_⟩ <;> decide

theorem witness_SystemWordsAndTheEnd : Lone (lone [(1, 0x2000)]) ∧ (lone []).me.cvsize ≤ 1 ∧ (lone []).me.txn = none ∧
    (lone []).me.inlineDepth = 0 ∧ (lone []).me.heldMsgs = [] ∧ (lone []).me.parent = none ∧ (inTxn []).me.txn = some openTxn ∧
    (let s := (lone []).modMe (fun t => { t with cvsize := 2 }); 1 < s.me.cvsize ∧ s.me.txn = none ∧ s.me.inlineDepth = 0) ∧
    (let s := (lone []).modMe (fun t => { t with parent := some ⟨0, 5⟩ }); s.me.parent = some ⟨s.pkg, 5⟩ ∧
      s.zyRoom s.cur.1 s.pkg = true) ∧
    (let s := (lone [(1, 0x2000)]).modMe (fun t => { t with inlineDepth := 1, parent := some ⟨0, 5⟩ });
      0 < s.me.inlineDepth ∧ (s.X 1).toNat % 4 = 0 ∧ s.me.parent = some ⟨s.pkg, 5⟩) := by
  refine ⟨lone_reset _ _, ?_⟩; decide

/-- A packet of this package for package 3. -/
def outPacket : Packet :=
  { version := 0, stream := { cls := 0, src := 0, die := 0, dst := 3 }, seq := 0
    body := { key := 0, src := ⟨0, 0⟩, slot := 0, dst := ⟨3, 0⟩, body := .endReport } }

/-- An outbound stream of n such packets; the slot's activation is a child of package 3. -/
def crowded (n : Nat) : State :=
  let s := (lone []).modMe (fun t => { t with parent := some ⟨3, 5⟩ })
  { s with fab := { s.fab with outs := [(outPacket.stream, ⟨0, List.replicate n outPacket, 0⟩)] } }

/-- END of that child finds no room for its report when the retry buffer is full. -/
theorem witness_SystemWordsAndTheEnd_stall : (crowded (4 * 2 ^ 20)).me.parent = some ⟨3, 5⟩ ∧
    (crowded (4 * 2 ^ 20)).zyRoom 0 3 = false := by
  have all : ∀ n, (crowded n).fab.retryBytes 0 = n * packetSize outPacket := by
    intro n
    have die : outPacket.die = 0 := rfl
    simp [crowded, Fab.retryBytes, List.map_replicate, die]
  have die : ioDie (dieOf 0) = 0 := by decide
  have size : packetSize outPacket = 64 := by decide
  have full : (crowded (4 * 2 ^ 20)).fab.retryRoom 0 = false := by
    unfold Fab.retryRoom; rw [all, size]; decide
  refine ⟨rfl, ?_⟩
  unfold State.zyRoom
  rw [die, full]
  rfl

theorem witness_ControlRegisterReads : Lone (lone []) ∧ (lone []).me.writesInto (.x 0) ∧
    (lone []).launchOf (lone []).cur.1 = some placeLaunch ∧
    ∀ e ∈ (lone []).here.mq, e.targets false = false ∧ e.targets true = false := by
  refine ⟨lone_reset _ _, rfl, rfl, ?_⟩; decide

/-- Each limit of a value written: FPCTL's mode 4, TVEC at a multiple of 4, TOPK 1 and 16, CHKMODE 2, SPLIM 1,024, and a
LINKMAP value with a port that no core of the launch stands at; a row (SRSEED) and a number without one; a register of the
matrix engine that waits for a command. -/
theorem witness_ControlRegisterWrites : Lone (vectored []) ∧ (vectored []).me.writesInto (.x 0) ∧
    (vectored []).cregWaits 0x045 true = false ∧ bits ((vectored [(6, 4)]).X 6) 2 0 ≤ 4 ∧
    (vectored [(6, 0x100)]).badLinkmap ((vectored [(6, 0x100)]).X 6) = false ∧ bits ((vectored [(6, 0x8004)]).X 6) 1 0 = 0 ∧
    1 ≤ ((vectored [(6, 16)]).X 6).toNat ∧ ((vectored [(6, 16)]).X 6).toNat ≤ 16 ∧ ((vectored [(6, 2)]).X 6).toNat ≤ 2 ∧
    ((vectored [(6, 1024)]).X 6).toNat ≤ 1024 ∧ (vectored [(6, 1)]).X 6 ≠ 0 ∧ (vectored []).me.txn = none ∧
    (vectored [(6, 1)]).badLinkmap ((vectored [(6, 1)]).X 6) = true ∧ (vectored []).cregWaits 0x002 true = false ∧
    ((vectored []).modHere (fun k => { k with mq := [{ serial := 0, slot := 0, act := 0, marker := none, words := [], run := none }] })).cregWaits
      0x040 true = true ∧ (vectored []).here.tvec ≠ 0 := by
  refine ⟨lone_vectored _, rfl, ?_⟩; decide

/-- A word in port 0 of the first core, x28 mapped to it, the core east of it in the same launch. -/
def ported (forward : Bool) : State :=
  let s := (duo []).modMe (fun t =>
    { t with bundle := { t.bundle with links := if forward then 0x111 else 0x101, popPorts := [0] } })
  s.modHere (fun k => { k with ports := [(0, [42])] })

/-- x29 is mapped to port 1 (east), where core 1 of the launch stands; a word of port 0 with and without the forward
bit. -/
theorem witness_PortsAndStreams_ports :
    (let s := (duo []).modMe (fun t => { t with bundle := { t.bundle with links := 0x102, popPorts := [] } });
      s.me.bundle.mode = .lone ∧ s.me.bundle.popStreams = [] ∧ portOf s.me.bundle.links 29 = some 1 ∧
      s.portSite s.cur.1 1 = some 1) ∧
    ((ported false).me.bundle.popPorts = [0] ∧ (ported false).me.writesInto (.x 1) ∧
      listOf (ported false).here.ports 0 = 42 :: [] ∧ (ported false).me.bundle.links.getLsbD 4 = false) ∧
    ((ported true).me.bundle.popPorts = [0] ∧ (ported true).me.writesInto (.x 1) ∧
      listOf (ported true).here.ports 0 = 42 :: [] ∧ (ported true).me.bundle.links.getLsbD 4 = true ∧
      (ported true).portSite (ported true).cur.1 (opposite 0) = some 1) := by
  refine ⟨⟨rfl, rfl, ?_, ?_⟩, ⟨rfl, ?_⟩, rfl, ?_⟩ <;> (try unfold Slot.writesInto) <;> decide

/-- Own LM from its first byte to its last doubleword, the A buffer, the C window at both accumulators. -/
theorem witness_LocalLoads : Lone (lone [(2, 0xF00000000001FFF0)]) ∧
    spaceOf 0 0xF00000000001FFF0 = .lm 0x1FFF0 ∧ (lone []).here.lmBad 0x1FFF0 16 = false ∧
    spaceOf 0 0xF100000000000000 = .abuf 0 ∧ (lone []).here.abufBad 0 8 = false ∧
    spaceOf 0 0xF300000000003FF0 = .cbuf 0x3FF0 ∧ spaceOf 0 0xF300000000004000 = .cbuf 0x4000 ∧
    (0xF00000000001FFF0 : Word).toNat % 16 = 0 ∧ (lone []).me.writesInto (.x 31) ∧ (lone []).me.writesInto (.v 0) := by
  refine ⟨lone_reset _ _, ?_, ?_, ?_, ?_, ?_, ?_, ?_, rfl, rfl⟩ <;> decide

theorem witness_LocalStores : Lone (lone [(2, 0xF00000000001FFF0)]) ∧ spaceOf 0 0xF00000000001FFF0 = .lm 0x1FFF0 ∧
    spaceOf 0 0xF10000000000FFF0 = .abuf 0xFFF0 ∧ (lone []).me.linkmap.getLsbD 8 = false := by
  refine ⟨lone_reset _ _, ?_⟩; decide

/-- The first address above the global space; an odd address of own LM and of the W buffer; the W buffer's first. -/
theorem witness_MemoryAccessTraps : Lone (vectored []) ∧ (vectored []).me.txn = none ∧ (vectored []).here.tvec ≠ 0 ∧
    spaceOf 0 0x0200000000000000 = .outside ∧ spaceOf 0 0xF000000000000001 = .lm 1 ∧
    spaceOf 0 0xF200000000000001 = .wbuf 1 ∧ spaceOf 0 0xF200000000000000 = .wbuf 0 := by
  refine ⟨lone_vectored _, rfl, ?_⟩; decide

/-- The doubleword at the end of own LM; a posted access, and a write of the host window, that a release waits for. -/
theorem witness_AcquiresReleasesAndFences : Lone (lone []) ∧ spaceOf 0 0xF00000000001FFF8 = .lm 0x1FFF8 ∧
    (lone []).here.lmBad 0x1FFF8 8 = false ∧ (lone []).here.wb = [] ∧ (lone []).posted = false ∧ (lone []).me.hostLinks = [] ∧
    (lone []).me.txn = none ∧ (let s := (lone []).modMe (fun t => { t with hostLinks := [0] }); s.posted = false ∧
      s.me.hostLinks ≠ [] ∧ s.here.wb = []) ∧
    (let s := { lone [] with net := [(lone []).msgFrom 0 0 ⟨0, 1⟩ (.access (.store [] none []) 0 .none)] };
      s.posted = true ∧ s.here.wb = [] ∧ s.me.txn = none) := by
  refine ⟨lone_reset _ _, ?_⟩; decide

theorem witness_AtomicsOnOwnMemory : Lone (lone []) ∧ spaceOf 0 0xF00000000001FFF0 = .lm 0x1FFF0 ∧
    (lone []).here.wb = [] ∧ (lone []).posted = false ∧ (lone []).here.lmBad 0x1FFF0 8 = false ∧
    (lone []).me.writesInto (.x 0) ∧ LaneType.bf16.isTred = true ∧ (0xF00000000001FFF0 : Word).toNat % 16 = 0 := by
  refine ⟨lone_reset _ _, ?_, rfl, rfl, ?_, rfl, ?_⟩ <;> decide

/-- The last sync word of own LM; a generation that is equal to x6 = 0 and differs from x6 = 1; a doubleword that is zero
and one that is not; an arrival that completes the generation (n = 1), one that does not (n = 2), and n = 0. -/
theorem witness_SyncWordsAndBarriers : Lone (vectored []) ∧ (vectored []).me.txn = none ∧ (vectored []).here.tvec ≠ 0 ∧
    spaceOf 0 0xF00000000001FFF0 = .lm 0x1FFF0 ∧ (0xF00000000001FFF0 : Word).toNat % 16 = 0 ∧
    (vectored []).here.lm.num (0x1FFF0 + 8) 4 = 0 ∧ (vectored []).me.writesInto (.x 6) ∧
    (vectored []).here.lm.word 0 = 0 ∧ ((vectored []).here.lm.setNum 0 8 1).word 0 = 1 ∧ (vectored []).me.barWait = false ∧
    (vectored []).here.wb = [] ∧ (vectored []).posted = false ∧ (vectored []).me.hostLinks = [] ∧
    (vectored []).here.barArrivals = [] := by
  refine ⟨lone_vectored _, ?_⟩; unfold Slot.writesInto; decide

/-- Global addresses homed here: virtual address 0x2000 is mapped to the same offset, cached; an entry of the write
buffer; the uncached case is the same leaf with its bit 2 set. -/
theorem witness_GlobalMemory : Lone (lone []) ∧ spaceOf 0 0x2000 = .global ∧
    ((lone []).leafFor .load 0x2000).map (fun t => (Use.allowed .load t, t.phys 0x2000, t.uncached)) =
      some (true, 0x2000, false) ∧
    ((lone []).leafFor .store 0x2000).map (fun t => (Use.allowed .store t, t.r, t.w)) = some (true, true, true) ∧
    ((lone []).leafFor .atomic 0x2000).map (fun t => (Use.allowed .atomic t, t.pa / 2 ^ 55 % 2)) = some (true, 0) ∧
    (lone []).homeOf 0x2000 false = .own 0x2000 false ∧ (lone []).homeOf 0x2000 true = .own 0x2000 true ∧
    (lone []).me.txn = none ∧ (lone []).txns = [] ∧ (lone []).contained 0 0 = false ∧ (lone []).memBad 0x2000 8 = false ∧
    (lone []).hostClear 0x2000 = true ∧ (lone []).here.l1d = [] ∧ (lone []).here.wb = [] ∧ (lone []).me.writesInto (.x 0) ∧
    ((({ asid := 0, va := 0x2000, pa := 0x2000, stores := [(0x2001, 7), (0x2001, 8)], slots := [0] } : WbEntry)).pa
      % 2 ^ 42 = 0x2000) := by
  refine ⟨lone_reset _ _, ?_⟩
  unfold Slot.writesInto
  decide +kernel

/-- A message from the second core of the launch to the first. -/
def toFirst (body : MsgBody) : Msg := { key := 0, src := ⟨0, 1⟩, slot := 0, dst := ⟨0, 0⟩, body, site := 1 }

/-- Two cores, and that message in the network. -/
def sent (body : MsgBody) : State := { duo [] with net := [toFirst body] }

/-- It is in order, due, of an unfinished launch, and core 0 takes it, whatever it carries to a core of this package. -/
theorem sent_arrives (body : MsgBody) (stays : (sent body).outgoing (toFirst body) = false)
    (goal : (sent body).ringGoal (toFirst body) = 0) : (sent body).net[0]? = some (toFirst body) ∧
    (sent body).inOrder 0 (toFirst body) = true ∧ (toFirst body).due ≤ (sent body).cycle ∧
    (sent body).launchFor (toFirst body) ≠ none ∧ (sent body).takerOf (toFirst body) = some 0 ∧
    (toFirst body).src.pkg = (sent body).pkg := by
  have ring : (sent body).arrived (toFirst body) = true := by
    unfold State.arrived; rw [goal]; rfl
  refine ⟨rfl, ?_, Nat.le_refl _, ?_, rfl, rfl⟩
  · unfold State.inOrder; rw [stays, ring]; rfl
  · exact Option.some_ne_none 0

/-- A message of each kind that a core takes. -/
theorem sent_stays : ∀ body ∈ ([.data 5 [], .reply 5 ⟨7, false⟩, .spawn 0 [] 0 true, .call 0 [] 0 0, .migrate 0 [] 0, .ask 0,
    .answer 0 true, .endReport, .access (.load 8) 0x40 (.slot 0), .access (.store [1] none []) 0x40 .none,
    .response (.slot 0) [1] false false, .response (.gather 3 0) [1] false false, .response (.scatter 3 0) [] false false,
    .wake 0 0x40 1] : List MsgBody),
    (sent body).outgoing (toFirst body) = false ∧ (sent body).ringGoal (toFirst body) = 0 := by decide +kernel

/-- Slot 0 of core 0 waits, and a message for it is in the network. -/
def answered (w : Wait) (body : MsgBody) : State := (sent body).modSlot 0 0 (fun t => { t with wait := w })

/-- Address 0xFFFFC00100000040 is doubleword 0x40 of the LM of the core at 1 in this package. -/
theorem witness_RemoteMemory :
    (let r : RemoteAddr := { place := ⟨0, 1⟩, raise := false, sw := 0, off := 0x40 };
      spaceOf 0 0xFFFFC00100000040 = .remote r ∧ (duo []).remoteOk 0 0xFFFFC00100000040 r true = true ∧
      (duo []).siteOf ((duo []).here.launch.getD 0) r.place.lcn = some 1) ∧
    (duo []).me.txn = none ∧ (duo []).contained 0 0 = false ∧ (0xFFFFC00100000040 : Word).toNat % 8 = 0 ∧
    ((sent (.access (.load 8) 0x40 (.slot 0))).core 0).lmBad 0x40 8 = false ∧
    (sent (.access (.load 8) 0x40 (.slot 0))).portBusy 0 = false ∧
    (let s := answered (.answer (.x 1 8 false) 0 none) (.response (.slot 0) (List.replicate 8 0) false false);
      (s.slot 0 0).wait = .answer (.x 1 8 false) 0 none ∧ (s.slot 0 0).bundle.popPorts = [] ∧
      (s.slot 0 0).bundle.popStreams = [] ∧ (s.slot 0 0).bundle.stash = none ∧ portOf (s.slot 0 0).bundle.links 1 = none) := by
  decide +kernel

theorem witness_RemoteMemory_lone : Lone (duo []) := lone_duo _ _

/-- A nested transaction, and an ordered one at the launch's frontier (1) and behind it. -/
def waiting (stamp : Word) : State :=
  (lone []).modMe (fun t => { t with txn := some { openTxn with stamp := some stamp }, wait := .tend })

theorem witness_Transactions : Lone (vectored []) ∧ (vectored []).me.txn = none ∧ (vectored []).here.wb = [] ∧
    (vectored []).here.tvec ≠ 0 ∧ Lone (inTxn []) ∧ (inTxn []).me.txn = some openTxn ∧ openTxn.depth < 7 ∧
    1 < ({ openTxn with depth := 7 } : Txn).depth ∧ openTxn.depth ≤ 1 ∧ openTxn.stamp = none ∧ openTxn.pendRed = [] ∧
    openTxn.held = [] ∧ openTxn.committing = false ∧ (inTxn []).txnClear openTxn = true ∧ (inTxn []).posted = false ∧
    (lone []).here.launch = some 0 ∧ find (lone []).launches 0 = some placeLaunch ∧ placeLaunch.skipped = [] ∧
    placeLaunch.front = 1 ∧ (0 : Word).toNat < placeLaunch.front.toNat ∧
    ((waiting 1).slot 0 0).wait = .tend ∧ ((waiting 1).slot 0 0).txn = some { openTxn with stamp := some 1 } ∧
    (waiting 1).txnClear { openTxn with stamp := some 1 } = true ∧ (waiting 1).postedBy 0 0 = false ∧
    ((waiting 1).slot 0 0).bundle.popPorts = [] ∧ ((waiting 1).slot 0 0).bundle.popStreams = [] ∧
    ((waiting 1).slot 0 0).bundle.stash = none ∧ placeLaunch.front.toNat < (2 : Word).toNat ∧
    ((waiting 2).slot 0 0).txn = some { openTxn with stamp := some 2 } := by
  refine ⟨lone_vectored _, rfl, rfl, ?_, lone_inTxn _, rfl, ?_⟩ <;> decide +kernel

/-- The place word of the core one step east; a place word of RANK mode, which this launch refuses; the reply token of
channel 5 of the core at 1; 6 is no entry address. -/
theorem witness_MessagesOnTheirWay : Lone (duo []) ∧ (duo []).me.txn = none ∧ (duo []).contained 0 0 = false ∧
    (duo []).here.wb = [] ∧ (duo []).posted = false ∧ (duo []).niRoom 0 ⟨0, 1⟩ = true ∧
    (duo []).placeTarget 0 0x4000FFFF00000001 = some ⟨0, 1⟩ ∧ (duo []).placeTarget 0 0 = none ∧
    (duo []).tokenTarget 0x45 = some ⟨0, 1⟩ ∧ (0x2000 : Word).toNat % 4 = 0 ∧ (6 : Word).toNat % 4 ≠ 0 ∧
    (duo []).me.inlineDepth = 0 ∧ (duo []).me.cvsize ≤ 1 ∧ (duo []).me.heldMsgs = [] ∧ (duo []).me.parent = none ∧
    ((duo []).modHere (fun k => { k with tvec := 0x8000 })).here.tvec ≠ 0 := by
  refine ⟨lone_duo _ _, ?_⟩; decide +kernel

/-- A message into an empty oasis, with room in the channel for the four words and in the arrival queue, and a full
oasis. -/
theorem witness_MessagesOnTheirWay_delivery : (let s := sent (.data 5 (List.replicate 4 ⟨7, false⟩));
      (s.core 0).oasis = [] ∧ 4 ≤ (s.core 0).fifoRoom 5 ∧ (s.core 0).arrivalUsed < 16) ∧
    (let s := (sent (.data 5 [⟨7, false⟩])).modCore 0 (fun k => { k with
      oasis := List.replicate Config.oasisAll ({ msg := toFirst (.data 5 [⟨7, false⟩]) } : QMsg) });
      Config.oasisAll ≤ (s.core 0).oasis.length) := by decide +kernel

/-- A word in channel 5 and none; a slot that waits for that channel while its word is there. -/
theorem witness_MessagesOnTheirWay_channel :
    (let s := (lone []).modHere (fun k => { k with fifos := [(5, [⟨⟨7, false⟩, 0, none⟩])] });
      Lone s ∧ s.me.txn = none ∧ s.contained 0 0 = false ∧ s.here.oasis = [] ∧ s.here.chrdWaiters = [] ∧
      s.here.otherClaims 0 5 = 0 ∧ listOf s.here.fifos 5 = ⟨⟨7, false⟩, 0, none⟩ :: [] ∧ listOf s.here.fifos 6 = [] ∧
      s.me.writesInto (.x 1)) ∧
    (let s := ((lone []).modHere (fun k => { k with fifos := [(5, [⟨⟨7, false⟩, 0, none⟩])], chrdWaiters := [(0, 5)] })).modMe
        (fun t => { t with wait := .chrd 1 5 });
      (s.slot 0 0).wait = .chrd 1 5 ∧ s.coreRuns 0 = true ∧ s.contained 0 0 = false ∧ (s.core 0).oasis = [] ∧
      (s.core 0).nextReader 5 = some 0 ∧ listOf (s.core 0).fifos 5 = ⟨⟨7, false⟩, 0, none⟩ :: [] ∧
      (s.slot 0 0).bundle.popPorts = []) := by
  refine ⟨⟨⟨rfl, rfl, rfl, rfl, rfl⟩, ?_⟩, ?_⟩ <;> (try unfold Slot.writesInto) <;> decide +kernel

/-- Fewer children than SPLIM and as many; a slot that waits for the answer of its target. -/
theorem witness_SpawnProtocol : (duo []).me.inlineDepth < 15 ∧ (duo []).here.children < (duo []).here.splim ∧
    (let s := (duo []).modHere (fun k => { k with children := 64 }); s.here.splim ≤ s.here.children) ∧
    (let s := answered (.spawn 0x2000) (.answer 0 true); (s.slot 0 0).wait = .spawn 0x2000 ∧
      s.niRoom 0 ⟨0, 1⟩ = true ∧ (s.slot 0 0).bundle.popPorts = [] ∧ (s.slot 0 0).bundle.popStreams = [] ∧
      (s.slot 0 0).bundle.stash = none) := by decide +kernel

/-- A generation that has moved (the doubleword at 8 is 5) and one that has not; a doubleword of each kind; an empty
matrix queue; a stalled bundle whose word decodes; a barrier at the LM of the core at 1, and its wake answer. -/
theorem witness_EndsOfWaits :
    (let s := ((lone []).modMe (fun t => { t with wait := .swwait 1 0 4 })).modHere (fun k =>
        { k with lm := Memory.setNum [] 8 8 5 });
      s.coreRuns 0 = true ∧ (s.slot 0 0).wait = .swwait 1 0 4 ∧ (s.core 0).lm.num 8 4 ≠ (4 : BitVec 32).toNat ∧
      (s.core 0).lm.num 8 4 = (5 : BitVec 32).toNat ∧ (s.core 0).lm.word 8 ≠ 0 ∧ (s.core 0).lm.word 0 = 0 ∧
      (s.slot 0 0).bundle.popPorts = [] ∧ (s.slot 0 0).bundle.popStreams = [] ∧ (s.slot 0 0).bundle.stash = none ∧
      (s.core 0).doneUpTo 3 = true) ∧
    (decodeWord 0x80000000).toOption.map Prod.snd = some .nopC ∧
    (let s := (answered (.barrier .pkg) (.wake 0 0x40 0)).modMe (fun t => { t with
        barAddr := 0xFFFFC00100000040, barWait := true, barGen := 0 });
      (s.slot 0 0).wait = .barrier .pkg ∧ spaceOf s.pkg (s.slot 0 0).barAddr =
        .remote { place := ⟨0, 1⟩, raise := false, sw := 0, off := 0x40 }) := by decide +kernel

/-- The last item of a batch, for a core with a free slot. -/
theorem witness_FillingASlot : let s := (State.reset.placeProgram).modCore 0 (fun k => { k with
      batches := [{ num := 0, first := 5, left := 1 }] })
    (s.core 0).containedAt 0 = false ∧ s.mayFill 0 = true ∧ s.launchOf 0 = some placeLaunch ∧ (s.core 0).freeSlot = some 1 ∧
    (s.core 0).nextOrigin = some .batch ∧ (s.core 0).batches = [{ num := 0, first := 5, left := 1 }] ∧
    (s.slot 0 1).streams = [] ∧ (s.core 0).unstarted 1 = false := by decide +kernel

/-- Eight batches beside an idle neighbour: four are shipped. -/
theorem witness_LevellingAndPoison : let s := (duo []).modCore 0 (fun k => { k with
      batches := (List.range 8).map (fun n => { num := n, first := 256 * n, left := 256 }) })
    (s.core 0).launch ≠ none ∧ (s.core 0).works = true ∧ s.leastPeer (s.peers 0) = some 1 ∧
    (s.core 1).load + 1 < (s.core 0).load ∧ (s.core 0).oasis = [] ∧ (s.core 1).batches = [] ∧
    (∀ b ∈ (s.core 0).batches, b.held = []) ∧ min 8 (((s.core 0).load - (s.core 1).load) / 2) = 4 ∧
    4 ≤ (s.core 0).batches.length := by decide +kernel

/-! ### Engines and the matrix engine -/

/-- Own LM with a few doublewords. -/
def lmOf (ws : List (Nat × Nat)) : Memory := ws.foldl (fun m p => m.setNum p.1 8 p.2) []

/-- The lone state with those doublewords in its LM. -/
def withLm (xs : List (Nat × Word)) (ws : List (Nat × Nat)) : State := (lone xs).modHere (fun k => { k with lm := lmOf ws })

theorem lone_withLm (xs : List (Nat × Word)) (ws : List (Nat × Nat)) : Lone (withLm xs ws) := ⟨rfl, rfl, rfl, rfl, rfl⟩

/-- A copy of 256 bytes inside own LM that nothing has been delivered of. -/
def copyOp : CopyOp :=
  { serial := 0, slot := 0, act := 0, dst := 0xF000000000000100, src := 0xF000000000000000, srcTy := 0, dstTy := 0
    length := 256, sat := false, rm := 0, fz := false, sw := none, done := 0, flags := {} }

/-- A valid copy of 256 bytes and of 0; a full queue; a control word with reserved bits, which faults. -/
theorem witness_Copies : (lone []).copyFault 0xF000000000000100 0xF000000000000000 256 false = none ∧
    (lone []).copyFault 0xF000000000000100 0xF000000000000000 0 false = none ∧ (lone []).here.cq.length < 16 ∧
    16 ≤ ((lone []).modHere (fun k => { k with cq := List.replicate 16 copyOp })).here.cq.length ∧
    bits (0x1000000000000100 : Word) 63 60 ≠ 0 ∧
    (lone []).copyFault 0xF000000000000100 0xF000000000000000 0x1000000000000100 false = some 0x1000000000000100 ∧
    (let s := (lone []).modHere (fun k => { k with cq := [copyOp] });
      (s.core 0).cq[0]? = some copyOp ∧ (s.core 0).works = true ∧ (LaneType.ofCode copyOp.srcTy).isSome = true ∧
      (s.core 0).poison = [] ∧ copyOp.done = 0 ∧ copyOp.stopped = false ∧ copyOp.kept = none ∧ copyOp.sw = none ∧
      copyOp.srcTy = copyOp.dstTy ∧ copyOp.src = BitVec.ofNat 64 (0xF000000000000000 + 0) ∧
      copyOp.dst = BitVec.ofNat 64 (0xF000000000000000 + 0x100) ∧ copyOp.complete = false ∧
      ({ copyOp with done := 256 } : CopyOp).complete = true) := by decide +kernel

/-- A gather of four doublewords to LM 0x100 by the indexes at 0x200, and the descriptor with no element. -/
theorem witness_GathersAndScatters :
    (let s := withLm [(1, 0xF000000000000400)] [(0x400, 0x300000004), (0x408, 0x100), (0x410, 0x200), (0x418, 0x1000000000)];
      (s.X 1).toNat = 0xF000000000000000 + 0x400 ∧ s.here.lmBad 0x400 32 = false ∧ s.gatherDesc 0x400 false ≠ none ∧
      s.gatherDesc 0x400 true ≠ none ∧ s.here.gatherRoom = true) ∧ (withLm [] [(0x400, 0x300000000)]).gatherDesc 0x400 false = none := by
  decide +kernel

/-- An operation of that gather: one element outstanding of two. -/
def gatherOp : GatherOp :=
  { serial := 3, slot := 0, act := 0, isScatter := false, desc := 0, raise := none, sizeCode := 3, count := 2, toA := false
    local_ := 0x100, index := 0x200, base := 0, block := 16, next := 1, outstanding := 1 }

theorem witness_GathersAndScatters_elements :
    (let s := (duo []).modCore 0 (fun k => { k with gq := [gatherOp], lm := lmOf [(0x200, 0x1F00000000)] });
      (s.core 0).gq[0]? = some gatherOp ∧ gatherOp.next < gatherOp.count ∧
      (s.core 0).lm.num (gatherOp.index + 4 * gatherOp.next) 4 = 0x1F ∧ s.rankPlace 0 (0x1F / 16) = some ⟨0, 1⟩ ∧
      0 + 0x1F % 16 * 8 + 8 ≤ 0x20000) ∧
    (let s := (sent (.response (.gather 3 0) [1, 2, 3, 4, 5, 6, 7, 8] false false)).modCore 0 (fun k =>
        { k with gq := [gatherOp] });
      (s.core 0).gq = [gatherOp] ∧ gatherOp.raise = none ∧ gatherOp.toA = false ∧
      (s.slot 0 gatherOp.slot).active = true ∧ (s.slot 0 gatherOp.slot).act = gatherOp.act) := by decide +kernel

/-- A stream of four elements from 0x400 on and a descriptor with no element; a packet of 16 bytes for a group of this
package alone; a header in LM; five words that are no multicast place. -/
theorem witness_LaunchesAndMulticasts :
    (let s := withLm [] [(0x100, 0xF000000000000400), (0x108, 4), (0x118, 16)];
      (24 : Reg).toNat = 24 ∧ s.streamPending 0 0 24 = 0 ∧
      s.checkMem 0xF000000000000100 32 .waitev = .ok ⟨.lm 0x100, none⟩ ∧ s.here.lmBad 0x100 32 = false ∧
      s.streamDesc 0x100 ≠ none ∧ s.streamDesc 0x200 = none ∧
      s.checkMem 0xF000000000000200 64 .header = .ok ⟨.lm 0x200, none⟩ ∧ s.here.devq.length < 4) ∧
    (let s := { lone [] with fab := { (lone []).fab with groups := [(0, 7, [0])] } };
      s.groupOf (ioDie (dieOf s.cur.1)) 7 = some (s, [0]) ∧ bits (0x8000000000000007 : Word) 63 62 = 2 ∧
      mcstFault 0xF000000000000100 16 = none ∧
      s.checkMem 0xF000000000000100 16 .mcast = .ok ⟨.lm 0x100, none⟩ ∧ s.mcTurn 0 0 = true ∧ bits (0x8000000000000007 : Word) 61 12 = 0 ∧
      bits (0x4000000000000007 : Word) 63 62 ≠ 2) := by decide +kernel

/-- A stream that reads, with room for a read-ahead, and one that has an element to write. -/
theorem witness_LaunchesAndMulticasts_streams :
    (let x : StreamSt := { base := 0xF000000000000400, count0 := 4, count1 := 1, count2 := 1, stride0 := 16, stride1 := 0
                           stride2 := 0, isWrite := false, next := 0, ahead := [], unwritten := [] };
      x.ahead.length < 4 ∧ x.next + x.ahead.length < x.total ∧ (idleCore 0).badElement (x.addr 0).toNat = false ∧
      ({ x with isWrite := true, unwritten := [(3, 7)] } : StreamSt).addr 3 = ((0xF000000000000000 + 0x430 : Nat) : Int)) := by
  decide +kernel

/-- A tree of one core with the list at 0x400, and a tree word with a reserved bit; an NI with 16 messages out; a selection of one of four keys, and a
descriptor of zeros. -/
theorem witness_SelectionAndMerging :
    (let s := lone [];
      spaceOf s.pkg 0xF000000000000400 = .lm 0x400 ∧ s.badTree 0 0 s.here.topk = false ∧ s.badTree 0x80 0 s.here.topk = true ∧
      s.here.lmBad 0x400 (8 * s.here.topk) = false ∧ s.niRoom 0 ⟨s.pkg, coreAt 0 0⟩ = true ∧
      ({ s with net := List.replicate 16 { toFirst (.data 5 []) with src := ⟨0, 0⟩, site := 0 } } : State).niRoom 0
        ⟨s.pkg, coreAt 0 0⟩ = false) ∧
    (let s := withLm [] [(0x400, 0x400001000), (0x408, 0x100000000), (0x410, 0x200000000000)];
      (s.here.bkDesc 0x400 .i32).map (fun x => (x.count, x.k, x.result, x.bitmap, s.here.bkBad 0x400 4 x)) =
        some (4, 1, 0x2000, none, none) ∧ (s.here.bkDesc 0x500 .i32).isNone = true) := by
  decide +kernel

/-- A round of one core that has come together at the root's quad. -/
def oneRound : Round :=
  { launch := 0, tag := 0, rect := (0, 0, 1, 1), num := 0, result := 0x400, sw := 0, joined := [0]
    lists := [(0, 0, 0, { k := 1, entries := [padding], contributors := 1, nans := 0 })] }

theorem witness_SelectionAndMerging_round : let s := { lone [] with rounds := [oneRound] }
    s.net = [] ∧ s.mergesReady = [(oneRound, topLevel oneRound.rect, 0)] ∧
    s.siteOf oneRound.launch (coreAt oneRound.rect.1 oneRound.rect.2.1) = some 0 := by decide +kernel

/-- A core whose matrix queue holds one entry. -/
def queued (e : MEntry) (fmt : BitVec 12) : State :=
  ((lone []).modMe (fun t => { t with mfmta := fmt, mfmtb := fmt })).modHere (fun k => { k with mq := [e] })

/-- A record of the running slot. -/
def record (ws : List Word) : MEntry := { serial := 0, slot := 0, act := 0, marker := none, words := ws, run := none }

/-- An MSWAP marker of the running slot, not yet pushed, at the head, and gone. -/
theorem witness_MatrixQueueWords :
    (let s := lone []; s.me.mswapPending = false ∧ s.here.mq.length < 16 ∧ s.here.markerWaits s.cur.2 s.me.act = false ∧
      s.here.doneUpTo s.here.nextOp = true) ∧
    (let s := queued { record [] with marker := some true } 0;
      (s.core 0).mq = { record [] with marker := some true } :: [] ∧ (s.slot 0 0).active = true ∧ (s.slot 0 0).act = 0) ∧
    (let s := ((lone []).modMe (fun t => { t with wait := .mswap true })).modHere (fun k =>
        { k with nextOp := 1, mq := List.replicate 16 (record []) });
      16 ≤ s.here.mq.length ∧ s.here.doneUpTo s.here.nextOp = false ∧ (s.slot 0 0).wait = .mswap true) := by decide +kernel

/-- The cycles that the checks of a record give, in the state it is queued in. -/
def startOfRecord (ws : List Word) : MStart :=
  ((queued (record ws) 0).core 0).startOf (record ws) ((queued (record ws) 0).slot 0 0).sample

/-- Records that start: MZERO, MLDW of a row of 16 bytes, MMA over eight k-elements of I8; and MZERO with a reserved bit. -/
theorem witness_MatrixCommandsStart : startOfRecord [1] = .ok 4 ∧ startOfRecord [0x100000002, 0x20000, 0, 0, 0x100000] = .ok 9 ∧
    startOfRecord [0x801010010] = .ok 13 ∧ startOfRecord [0x800000001] = .fault ∧
    ((queued (record [1]) 0).core 0).works = true ∧ ((queued (record [1]) 0).slot 0 0).active = true := by decide +kernel

/-- The fields that the results read; a run that is finished and due. -/
theorem witness_MatrixResults : bits (0x100000002 : Word) 7 0 = 2 ∧ bits (0x100000002 : Word) 47 32 = 1 ∧
    bits (0x801010010 : Word) 7 0 = 0x10 ∧ bits (0x801010010 : Word) 47 32 ≤ 8 ∧
    (let s := queued (record [0x801010010]) 0;
      (pairing (s.slot 0 0).mfmta (s.slot 0 0).mfmtb).map (fun p => p.cls.id) = some 4 ∧
      ({ newRun (s.slot 0 0).sample 0 8 with finished := true } : MRun).finished = true ∧
      (newRun (s.slot 0 0).sample 0 8).due ≤ s.cycle ∧ (newRun (s.slot 0 0).sample 0 8).finished = false) := by decide +kernel

/-- A mask without the own core and one that names it; the group's second core, idle in the same launch, is granted. -/
theorem witness_Caravans :
    (let s := duo [(1, 2), (2, 1)];
      ¬ (bits (s.X 1) 63 16 ≠ 0 ∨ bitAt (s.X 1) (groupPos s.cur.1) = true ∨
        7 < ((List.range 16).filter (bitAt (s.X 1))).length) ∧ bitAt (s.X 2) (groupPos s.cur.1) = true ∧ s.me.cvsize ≤ 1 ∧
      s.coreRuns 0 = true ∧ s.cvGrant 0 0 2 = [1]) ∧
    (let s := (duo []).modMe (fun t => { t with wait := .compose 1 2 none, cvsize := 2 });
      1 < s.me.cvsize ∧ (s.slot 0 0).wait = .compose 1 2 none ∧
      (s.slot 0 0).lastIssue < ({ s with cycle := 1 } : State).cycle) ∧
    (let s := (duo []).modMe (fun t => { t with wait := .compose 1 2 (some (2, 0)) });
      (s.slot 0 0).wait = .compose 1 2 (some (2, 0)) ∧ (0 : Nat) ≤ s.cycle ∧ (s.slot 0 0).bundle.popPorts = [] ∧
      (s.slot 0 0).bundle.popStreams = [] ∧ (s.slot 0 0).bundle.stash = none) := by
  decide +kernel

/-! ### Turns, launches and the host -/

/-- A free core of which class 0 is to have a turn, with a launch of it ready; a turn that still lasts. -/
def turning (last : Option Nat) (left : Nat) : State :=
  { State.reset.placeProgram with
    launches := [(0, { placeLaunch with state := .ready, places := [] })], cores := [(0, { idleCore 0 with
      lastClass := last, turnLeft := left })] }

theorem witness_TurnsAndRequests : (turning none 0).turnOver 0 = true ∧ (turning none 0).turnClasses 0 = [0] ∧
    ((turning none 0).core 0).deficits = [] ∧ 0 < (turning none 0).disp.weight 0 ∧ (turning (some 0) 5).turnOver 0 = false ∧
    (turning none 0).mustYield 0 = false := by decide +kernel

/-- A running core of class 0 whose turn ends while a launch of class 1 waits for it, with room in the save pool. -/
def yielding : State :=
  let other : Launch := { placeLaunch with
    hdr := placeLaunch.hdr.set 0 (1 + 2 ^ 16 + 2 ^ 12), state := .ready, places := [] }
  let s : State := State.reset.placeProgram
  ({ s with launches := s.launches ++ [(1, other)], disp := { s.disp with savepool := some (0x100000000, 4) } } : State).modCore
    0 (fun k => { k with lastClass := some 0, turnLeft := 0 })

theorem witness_TurnsAndRequests_request : (yielding.core 0).stage = .running ∧ yielding.mustYield 0 = true ∧
    yielding.imageFree = true ∧ (yielding.core 0).forwards.length < 64 := by decide +kernel

/-- A stopping core that stands still; a request of a core that need not yield, and of one that must while its engine saves
another core and while it is free; a saving core whose image is not written yet, due and not due. -/
theorem witness_SavingAContext :
    (let s := yielding.modCore 0 (fun k => { k with stage := .stopping none 0 });
      (s.core 0).stage = .stopping none 0 ∧ (s.core 0).launch = some 0 ∧ find s.launches 0 = some placeLaunch ∧
      (s.core 0).wb = [] ∧ (s.core 0).still s.cycle = true ∧ (s.core 0).caravan = none ∧ (s.core 0).devq = [] ∧
      (∀ e ∈ (s.core 0).mq.drop 1, e.run = none) ∧
      ∀ i < 4, (s.slot 0 i).txn = none ∧ (s.slot 0 i).streams = [] ∧ (s.slot 0 i).cvsize ≤ 1) ∧
    (let s := (turning none 0).modCore 0 (fun k => { k with stage := .requested 0 });
      (s.core 0).stage = .requested 0 ∧ s.mustYield 0 = false) ∧
    (let s := (yielding.modCore 0 (fun k => { k with stage := .requested 0 })).modCore 1 (fun k =>
        { k with stage := .saving 9 });
      s.mustYield 0 = true ∧ s.engineNext 0 = false) ∧
    (let s := yielding.modCore 0 (fun k => { k with stage := .requested 0 });
      s.mustYield 0 = true ∧ s.engineNext 0 = true) ∧
    (let img : Image := { launch := 0, origin := 0, site := 0, core := idleCore 0, slot := 0, written := false };
      let s := { (yielding.modCore 0 (fun k => { k with stage := .saving 0, launch := none })) with images := [(3, img)] };
      (s.core 0).stage = .saving 0 ∧ s.images.find? (fun (p : Nat × Image) => p.2.site == 0 && !p.2.written) = some (3, img) ∧
      s.disp.savepool = some (0x100000000, 4)) := by decide +kernel

/-- With no tile touched by a transaction and no host copy, nothing keeps back the writing of that image. -/
theorem witness_SavingAContext_clear : yielding.rangeClear 0x100000000 0x5C000 = true ∧
    (yielding.touchTiles true (tilesOf 0x100000000 0x5C000)).isSome = true := by decide +kernel

/-- The image that `imaged` holds. -/
def savedImage (written : Bool) : Image := { launch := 0, origin := 0, site := 0, core := idleCore 0, slot := 0, written }

/-- An image of the launch whose turn it is, at the place it left, in a sector whose engine is idle and in one that saves
another context. -/
def imaged (busy : Bool) (written : Bool := true) : State :=
  let s := turning (some 0) 5
  { s with
    launches := [(0, { placeLaunch with places := [(0, .image 3)] })], images := [(3, savedImage written)]
    cores := s.cores ++ (if busy then [(1, { idleCore 1 with stage := .saving 9 })] else [])
    disp := { s.disp with savepool := some (0x100000000, 4) } }

/-- A written image is restored alone on a core that is kept for it, one that is not written is not; the load of it waits for
the engine; its core is free again when the image has gone. -/
theorem witness_RestoreAndMigration :
    (let s := imaged false;
      find s.images 3 = some (savedImage true) ∧ s.restoredWith 0 (savedImage true) = [(3, 0, 0)] ∧
      s.restorable 3 0 (savedImage true) = true ∧ (imaged false false).restorable 3 0 (savedImage false) = false ∧
      (s.core 0).stage = .running) ∧
    (let s := fun busy => (imaged busy).modCore 0 (fun k => { k with stage := .loading 3 0 });
      ((s false).core 0).stage = .loading 3 0 ∧ (s false).engineNext 0 = true ∧ (s true).engineNext 0 = false ∧
      (s false).disp.savepool = some (0x100000000, 4) ∧ (find (s false).launches 0).isSome = true ∧
      find ({ s false with images := [] } : State).images 3 = none) := by decide +kernel

/-- A running core whose context may move eight cores east; one that stops and moves there; the last core to acknowledge, and one
of two. -/
theorem witness_RestoreAndMigration_move :
    (let s := { lone [] with disp := { yielding.disp with savepool := some (0x100000000, 4) } };
      (s.core 0).stage = .running ∧ (s.core 0).launch = some 0 ∧ s.disp.savepool.isSome = true ∧
      (s.core 8).stage ≠ .promised 0 ∧ s.mayMove 0 0 8 = true ∧ (s.leaveWith 0 0 8).isSome = true) ∧
    (let s := yielding.modCore 0 (fun k => { k with stage := .stopping (some 8) 0 });
      (s.core 0).stage = .stopping (some 8) 0 ∧ (s.core 0).still s.cycle = true ∧ (s.core 0).launch = some 0 ∧
      (s.core 0).wb = [] ∧ (s.core 0).caravan = none ∧ (s.core 0).devq = [] ∧
      (∀ e ∈ (s.core 0).mq.drop 1, e.run = none) ∧ s.engineNext 0 = true ∧
      ∀ i < 4, (s.slot 0 i).txn = none ∧ (s.slot 0 i).streams = [] ∧ (s.slot 0 i).cvsize ≤ 1 ∧ (s.slot 0 i).wait = .none) ∧
    (Launch.sites placeLaunch = [0] ∧ ((duo []).launches.map (fun p => p.2.sites)) = [[0, 1]]) := by decide +kernel

/-- A packet on its way to the die of core 0 that has been stuck for 256 cycles at another die; a message to a context
that has moved. -/
theorem witness_MessagesOnTheirWay_forwarding :
    (let m := { toFirst (.data 5 [⟨7, false⟩]) with src := ⟨0, 16383⟩, ring := dieOf 16383, stuck := 256 };
      (sent (.data 5 [⟨7, false⟩])).arrived m = false ∧ m.vc < 2 ∧ 256 ≤ m.stuck) ∧
    (let s := (sent (.data 5 [⟨7, false⟩])).modCore 0 (fun k => { k with forwards := [(0, 0, 1)] });
      s.forwarded (toFirst (.data 5 [⟨7, false⟩])) = true ∧
      (sent (.data 5 [⟨7, false⟩])).forwarded (toFirst (.data 5 [⟨7, false⟩])) = false) := by decide +kernel

/-- Host queue 0 holds one header whose image stands at 0xE00. -/
def headed (w : List Word) : State :=
  let s : State := { State.reset with mem := (placeMemory []).setNum 0xE00 8 (2 ^ 63), asidBase := BitVec.ofNat 64 placeTables }
  { s with disp := { s.disp with queues := [(0, { en := true, cls := 0, asid := 0, recs := [w] })] } }

/-- Addresses of the first 64 KiB take one walk. -/
theorem walkFrom_low (s : State) (sector asid va : Nat) (h : va < 65536) :
    ∀ level table, s.walkFrom sector asid va level table = s.walkFrom sector asid 0 level table := by
  intro level
  have hz : ∀ n, va / 2 ^ (levelBits n).1 = 0 := fun n =>
    Nat.div_eq_of_lt (lt_of_lt_of_le h (Nat.pow_le_pow_right (n := 2) (i := 16) (by decide)
      (by unfold levelBits; split <;> decide)))
  induction level with
  | zero => intro table; unfold State.walkFrom; simp only [hz, Nat.zero_div]
  | succ n ih => intro table; unfold State.walkFrom; simp only [hz, Nat.zero_div, ih]

theorem mapM_some (l : List Nat) {β : Type} (f : Nat → Option β) (g : Nat → β) (h : ∀ x ∈ l, f x = some (g x)) :
    l.mapM f = some (l.map g) := by
  induction l with
  | nil => rfl
  | cons a r ih => simp [List.mapM_cons, h a (by simp), ih (fun x hx => h x (by simp [hx]))]

/-- The state of queue 0 with the header of the placed launch. -/
def offered : State := headed placeLaunch.hdr

/-- What the dispatcher reads there is what device memory holds. -/
theorem offered_read (va : Nat) (h : va < 65536) : offered.dispRead 0 va = some (offered.mem.read va) := by
  have leaf : (offered.walk 0 0 0).map (fun t => (t.r, t.uncached, t.pa, t.va)) = some (true, false, 0, 0) := by
    decide +kernel
  have e : offered.walk 0 0 va = offered.walk 0 0 0 := by
    unfold State.walk; simp only [walkFrom_low _ _ _ _ h]
  have clean : offered.memPoison = [] := rfl
  have own : offered.pkg = 0 := rfl
  unfold State.dispRead State.dispByte
  rw [e]
  match h0 : offered.walk 0 0 0, leaf with
  | some t, leaf =>
    simp only [Option.map_some, Option.some.injEq, Prod.mk.injEq] at leaf
    obtain ⟨hr, hu, hp, hv⟩ := leaf
    have at_ : t.phys va = va := by unfold TlbEntry.phys; omega
    have home : offered.homeOf va false = .own va false := by
      unfold State.homeOf
      rw [own, if_neg (by omega), if_pos (by omega), Nat.mod_eq_of_lt (by omega)]
    have far : decide (2 ^ 57 ≤ va) = false := decide_eq_false (by omega)
    simp only [hr, hu, at_, home, far, clean, Bool.not_true, Bool.and_false, Bool.not_false]
    rfl

/-- The image at 0xE00: channel 0 valid, the rest zeros. -/
def image : List Nat := 2 ^ 63 :: List.replicate 63 0

theorem offered_words : (List.range 64).mapM (fun n => offered.dispNum 0 (0xE00 + 8 * n) 8) = some image := by
  have vals : (List.range 64).map (fun n => offered.mem.num (0xE00 + 8 * n) 8) = image := by decide +kernel
  rw [← vals]
  refine mapM_some _ _ _ (fun n hn => ?_)
  have hn : n < 64 := List.mem_range.mp hn
  unfold State.dispNum State.dispBytes
  rw [mapM_some _ _ (fun k => offered.mem.read (0xE00 + 8 * n + k)) (fun k hk => offered_read _ (by
    have := List.mem_range.mp hk; omega))]
  simp only [Option.map_some, Memory.num, Memory.bytes]

theorem image_copied (s : State) (h : (List.range 64).mapM (fun n => s.dispNum 0 (0xE00 + 8 * n) 8) = some image) :
    s.copyImage 0 placeLaunch.hdr = .ok ((image.map (BitVec.ofNat 64)).map handlerOf) [] := by
  have base : ((placeLaunch.hdr.getD 1 0).toNat + 2 ^ 64 - 512) % 2 ^ 64 = 0xE00 := by decide
  have ok : imageOk (image.map (BitVec.ofNat 64)) = true := by decide +kernel
  unfold State.copyImage
  simp only [base, h, ok, if_true]

theorem header_accepted (s : State) (h : (List.range 64).mapM (fun n => s.dispNum 0 (0xE00 + 8 * n) 8) = some image) :
    s.checkHeader placeLaunch.hdr true = .ok ((image.map (BitVec.ofNat 64)).map handlerOf) [] := by
  have fields : headerFields placeLaunch.hdr = true := by decide +kernel
  have ranks : s.copyRanks 0 placeLaunch.hdr = .ok [] [] := rfl
  have id0 : bits (placeLaunch.hdr.getD 2 0) 63 48 = 0 := by decide
  have asid0 : bits (placeLaunch.hdr.getD 0 0) 47 32 = 0 := by decide
  unfold State.checkHeader
  simp only [fields, id0, asid0, ranks, image_copied s h, Bool.not_true, Bool.false_or, bne_self_eq_false, Bool.false_and]
  rfl

/-- The header is taken from queue 0 and accepted. -/
theorem witness_AcceptingLaunches :
    offered.checkHeader placeLaunch.hdr true = .ok ((image.map (BitVec.ofNat 64)).map handlerOf) [] :=
  header_accepted offered offered_words

/-- A header of format 2 is not accepted; a device header of core 0. -/
theorem witness_AcceptingLaunches_others :
    offered.nextSource = some 0 ∧ offered.heldWords none [(0, placeLaunch.hdr)] = [] ∧
    (headed [2]).checkHeader [2] true = .bad ∧ completionVa [2] % 8 = 0 ∧
    (headed [2]).dispByte 0 0 true = some (.own 0 false) ∧ (headed [2]).hostClear 0 = true ∧ (headed [2]).txns = [] ∧
    (let h : DevHeader := { words := placeLaunch.hdr, parent := 0, stamp := 0 };
      ((lone []).modHere (fun k => { k with devq := [h] })).oldestHeader 0 = some (0, h)) := by decide +kernel

/-- A launch that waits for nothing, with and without an item to run, one with a wait counter, and one that waits for
another; a launch that may start on a free core, and one with an item to deal. -/
theorem witness_StartingLaunches :
    (let x := { placeLaunch with state := .waiting, places := [], undealt := 0, started := false };
      x.met = true ∧ x.countList = false ∧ x.undealt < x.count ∧ { x with undealt := 1 }.count ≤ 1 ∧ x.watching = none ∧
      { x with preds := [5] }.met = false ∧
      (let s := { headed [] with launches := [(0, x)] };
        s.hostClear 0 = true ∧ s.hits 0 .plainWrite none = [] ∧ completionVa x.hdr % 8 = 0 ∧
        s.dispByte x.asid (completionVa x.hdr) true = some (.own 0 false))) ∧
    (let x := { placeLaunch with
        hdr := placeLaunch.hdr.set 0 (1 + 2 ^ 16 + 2 ^ 11), state := .waiting, places := [] };
      x.waits = true ∧ x.cleared = false ∧ (headed []).counterAt x = some 0) ∧
    (let s := turning (some 0) 5; s.chosen 0 = some 0 ∧ (s.core 0).free = true ∧ (turning (some 0) 0).chosen 0 ≠ some 0) ∧
    (let s := { State.reset.placeProgram with launches := [(0, { placeLaunch with undealt := 0 })] };
      { placeLaunch with undealt := 0 }.nextId 0 = some 0 ∧ s.standsAt 0 0 = some 0 ∧
      s.nextDealt { placeLaunch with undealt := 0 } = some 0 ∧ placeLaunch.live = true) ∧
    (let s := { State.reset with launches := [(0, { placeLaunch with undealt := 0, places := [], ahead := [] })] };
      s.standsAt 0 0 = none ∧ s.nextDealt { placeLaunch with undealt := 0, places := [], ahead := [] } = some 0) := by
  decide +kernel

/-- A running launch whose work is dealt and quiet, and one with an activation; an ending launch without a core and with
two; LKILL busy with and without a launch of its ASID. -/
theorem witness_EndingLaunches :
    (let s := State.reset.placeProgram.modCore 0 (fun k => { k with slots := Vector.replicate 4 idleSlot });
      s.complete 0 placeLaunch = true ∧ State.reset.placeProgram.complete 0 placeLaunch = false ∧
      s.hostClear 0 = true ∧ s.hits 0 .plainWrite none = [] ∧ s.dispByte 0 (completionVa placeLaunch.hdr) true = some (.own 0 false)) ∧
    (let x := { placeLaunch with ending := some (.killed, 0), places := [] };
      let s := { headed [] with launches := [(0, x)] };
      (s.core 0).launch ≠ some 0 ∧ s.dispByte 0 (completionVa x.hdr) true = some (.own 0 false)) ∧
    (let s := (duo []).modCore 0 (fun k => { k with slots := Vector.replicate 4 idleSlot });
      (s.launches.map (fun p => find p.2.places 1)) = [some (.site 1)] ∧ (s.core 1).launch = some 0 ∧
      (s.core 0).launch = some 0 ∧ (s.core 0).wb = [] ∧ (s.core 0).devq = [] ∧
      (s.core 0).slots.toList.all (fun u => !u.active) = true) ∧
    bits (0x5 : Word) 15 0 ≠ 0 ∧ bits (0x100000000 : Word) 15 0 = 0 ∧ State.reset.disp.lkillBusy = false := by decide +kernel

/-! ### Management, the fabric, the host and the step -/

/-- A mailbox that is served, with a command, a length and its first data doublewords. -/
def mailed (code len : Nat) (ws : List Nat) (done : Bool := false) : State :=
  let data : Memory := (ws.zipIdx).foldl (fun m p => m.setNum (0x8100 + 8 * p.2) 8 p.1) []
  let box : Mbox := { cmd := BitVec.ofNat 64 (2 ^ 63 + len * 2 ^ 32 + code), busy := true, status := 0, done, data }
  { State.reset with tele := { State.reset.tele with bringup := 5, order := [1], mboxes := [(1, box)] } }

/-- Every command at the ends of its arguments' ranges; whether an image is accepted is the firmware's (Config). -/
theorem witness_MailboxCommands :
    (let s := mailed 1 8 [1200]; s.tele.order = 1 :: [] ∧ (s.tele.mbox 1).busy = true ∧ (s.tele.mbox 1).done = false ∧
      (s.tele.mbox 1).code = 1 ∧ (s.tele.mbox 1).len ≤ 32512 ∧ ((s.tele.mbox 1).dword 0).toNat = 1200) ∧
    ((mailed 1 8 [2801]).tele.mbox 1).dword 0 = 2801 ∧ ((mailed 3 8 [16383]).tele.mbox 1).dword 0 = 16383 ∧
    ((mailed 0x10 8 [0]).tele.mbox 1).len = 8 ∧ ((mailed 0x10 7 [0]).tele.mbox 1).len < 8 ∧
    ((mailed 0x11 0 []).tele.mbox 1).code = 0x11 ∧ ((mailed 0x12 0 []).tele.mbox 1).code ∉ [1, 2, 3, 0x10, 0x11, 0x20, 0x21] ∧
    ((mailed 1 32513 []).tele.mbox 1).len = 32513 ∧ ((mailed 1 8 [1200] true).tele.mbox 1).done = true ∧
    (let m := (mailed 0x20 16 [0x100000000, 4]).tele.mbox 1;
      m.code = 0x20 ∧ 16 ≤ m.len ∧ (m.dword 0).toNat % 4096 = 0 ∧ (m.dword 0).toNat / 2 ^ 42 = State.reset.pkg ∧
      (m.dword 1).toNat = 4 ∧ (m.dword 0).toNat % 2 ^ 42 + 4 * 0x5C000 ≤ 768 * 2 ^ 30 - 2 ^ 31 ∧
      State.reset.disp.cappool = none) := by decide +kernel

/-- Mailbox 0 while mailbox 1 is served. -/
theorem witness_MailboxCommands_other : (mailed 1 8 []).tele.order = 1 :: [] ∧ (0 : Nat) ≠ 1 := by decide

/-- Sensor 0 is a die temperature; a sample that names no sensor, and one that finds that die at 116 degrees. -/
theorem witness_PowerSensorsAndBringUp_hot :
    let sampled := fun (recs : List SensorRec) => State.reset.tele.sensors.map (fun old =>
      (recs.find? (fun r => r.id == old.id)).getD old)
    isDieTemp 0 = true ∧ hottest (sampled []) ≤ 115000 ∧
    115000 < hottest (sampled [{ id := 0, status := 1, value := 116000 }]) := by decide +kernel

/-- A part before bring-up and behind it; a die with spares, and one that has lost 64 cores. -/
theorem witness_PowerSensorsAndBringUp : State.reset.tele.capNext = [] ∧
    (State.reset.agenda = [] ∧ powerCycle State.reset.agenda = none) ∧ State.reset.tele.bringup = 0 ∧
    ({ State.reset with tele := { State.reset.tele with bringup := 5 } } : State).tele.bringup ≠ 0 ∧
    (State.reset.core 0).caravan = none ∧ (State.reset.slot 0 0).active = false ∧
    State.reset.tele.nextSpare (dieOf 0) = some 2048 ∧ (State.reset.core 0).launch = none ∧
    ((lone []).core 0).launch = some 0 ∧ ((lone []).slot 0 1).active = false := by decide +kernel

theorem witness_PowerSensorsAndBringUp_spares (t : Tele) (h : t.excluded = List.range 64) : t.nextSpare 0 = none := by
  have few : (fun n => !(List.range 64).contains n) = (fun n => decide (64 ≤ n)) := by
    funext n; by_cases h : n < 64 <;> simp [h, Nat.not_le.mpr]; omega
  have none_left : (((List.range diePhysical).map (fun n => 0 * diePhysical + n)).filter (fun n => decide (64 ≤ n))).drop 2048 = [] := by
    decide +kernel
  unfold Tele.nextSpare Tele.good
  rw [h, few, none_left]
  rfl

/-- A request packet of package 3 for this package, with its number. -/
def packet (cls : Nat) (seq : BitVec 32) (body : MsgBody) : Packet :=
  { version := 0, stream := { cls, src := 3, die := 0, dst := if cls = 2 then 7 else 0 }, seq
    body := { key := 0, src := ⟨3, 1⟩, slot := 0, dst := ⟨0, 0⟩, body } }

/-- Reset, with what an inbound stream expects and holds, and an outbound stream of one packet. -/
def linkedTo (expected : BitVec 32) (held : List Packet) : State :=
  { State.reset with fab := { State.reset.fab with ins := [((packet 0 0 .endReport).stream, ⟨expected, held⟩)]
                                                   outs := [({ cls := 0, src := 0, die := 0, dst := 3 }, ⟨1, [packet 0 0 .endReport], 3⟩)] }
                     cycle := 660000 }

/-- With 5 expected: 4 is a duplicate, 5 is next, 6 waits, 5 + 2^15 waits and 6 + 2^15 is too far; 6 is held already, and
follows 5. The outbound stream has waited for its timeout. -/
theorem witness_PacketsBetweenPackages :
    (packet 0 4 .endReport).stream.cls ≠ 2 ∧ (packet 0 4 .endReport).stream.dst = State.reset.pkg ∧
    (2 : Nat) ^ 31 ≤ ((4 : BitVec 32) - 5).toNat ∧ ((5 : BitVec 32) - 5).toNat = 0 ∧ ((6 : BitVec 32) - 5).toNat = 1 ∧
    ((5 + 2 ^ 15 : BitVec 32) - 5).toNat = 2 ^ 15 ∧ 2 ^ 15 < ((6 + 2 ^ 15 : BitVec 32) - 5).toNat ∧
    (linkedTo 5 [packet 0 6 .endReport]).fab.inStream (packet 0 5 .endReport).stream = ⟨5, [packet 0 6 .endReport]⟩ ∧
    (linkedTo 5 []).fab.reorderRoom (packet 0 6 .endReport) = true ∧ (packet 3 5 (.activate 1)).body.body = .activate 1 ∧
    (let id : StreamId := { cls := 0, src := 0, die := 0, dst := 3 };
      assoc (linkedTo 5 []).fab.outs id = some ⟨1, [packet 0 0 .endReport], 3⟩ ∧
      (packet 0 0 .endReport).sent + (linkedTo 5 []).fab.timeout (packet 0 0 .endReport).die ≤ (linkedTo 5 []).cycle ∧
      ({ linkedTo 5 [] with cycle := 659999 } : State).cycle < 0 + (linkedTo 5 []).fab.timeout 0) := by decide +kernel

/-- The leaf of package 3 in plane 0 with a route to it and a shadow of version 1, a packet at it, and its link to the first
spine broken. -/
def switched (p : Packet) : State :=
  let t : RouteTable := { version := 0, members := [3], routes := [(3, [.package 3])], trees := [] }
  { State.reset with fab := { State.reset.fab with switches := [(0, ⟨t, some { t with version := 1 }⟩)], shadow := [(0, { t with version := 1 })]
                                                   flight := [(.switch 0, none, p)], failed := [(.switch 0, .switch 64)] } }

theorem witness_RoutesAndVersions :
    (let p := { packet 0 0 .endReport with stream := { cls := 0, src := 0, die := 0, dst := 3 } };
      (switched p).fab.flight[0]? = some (.switch 0, none, p) ∧ (switched p).fab.broken (.switch 0) (.package 3) = false ∧
      (switched p).fab.broken (.switch 0) (.switch 64) = true ∧
      ((find (switched p).fab.switches 0).map (fun w => (w.cur.version, w.shadow.map RouteTable.version,
        listOf w.cur.routes p.stream.dst))) = some (p.version, some 1, [.package 3]) ∧
      linked (.switch 0) (.package 3) = true ∧ linked (.switch 0) (.switch 64) = true ∧ newer 1 0 = true ∧ newer 0 1 = false ∧
      (find (switched p).fab.shadow 0).map RouteTable.version = some 1) := by
  decide +kernel

/-- A map entry that maps group 7 to 256 bytes at offset 0 of this package, and none; a merge that has heard one of two
children; a multicast whose answer is awaited. -/
theorem witness_MulticastAnswers :
    (let p := packet 2 0 (.mcast 7 0 [1, 2] 4 []);
      let s := { lone [] with fab := { State.reset.fab with inmap := [(7, 0x8000000000000000)]
                                                            sends := [⟨7, 5, 0, 0, 0, 4, 2, 0⟩]
                                                            merges := [⟨9, p.stream, 0, 0, [(.package 3, ⟨1, 0, 511, 0⟩)]⟩] } };
      p.stream.cls = 2 ∧ (s.fab.inStream p.stream).expected = p.seq ∧ (s.fab.inStream p.stream).held = [] ∧
      s.recorded p.stream p.seq = none ∧ bitAt (s.mapEntry 7) 63 = true ∧ bitAt (s.mapEntry 8) 63 = false ∧
      0 + [1, 2].length ≤ (bits (s.mapEntry 7) 7 0 + 1) * 256 ∧ bits (s.mapEntry 7) 55 8 * 256 / 2 ^ 42 = s.pkg ∧
      s.rangeClear 0 2 = true ∧ s.txns = [] ∧
      (s.fab.merges.map (fun m => m.got)) = [[(.package 3, ⟨1, 0, 511, 0⟩)]] ∧
      s.fab.sends.find? (fun (m : McSent) => m.group == 7 && m.seq == 5) = some ⟨7, 5, 0, 0, 0, 4, 2, 0⟩ ∧
      s.fab.pendingAgg = [] ∧ find s.launches 0 = some placeLaunch ∧ s.siteOf 0 0 = some 0 ∧ (s.core 0).stage = .running ∧
      (s.core 0).barArrivals = []) ∧
    (let p := packet 2 0 (.mcast 7 0 [1, 2] 4 []);
      let s := { State.reset with fab := { State.reset.fab with records := [(p.stream, [(0, ⟨1, 0, 511, 0⟩)])]
                                                                ins := [(p.stream, ⟨1, []⟩)] } };
      (2 : Nat) ^ 31 ≤ (p.seq - (s.fab.inStream p.stream).expected).toNat ∧
      s.recorded p.stream p.seq = some ⟨1, 0, 511, 0⟩) := by decide +kernel

/-- An enabled queue with room and a full one, behind step 5 of bring-up; a mailbox that is busy and one that is not. -/
theorem witness_QueueRecordsAndRegisterWrites :
    (let s := fun n => { State.reset with
        tele := { State.reset.tele with bringup := 5 }
        disp := { State.reset.disp with queues := [(15, ⟨true, 0, 0, List.replicate n []⟩)] } };
      ((s 63).disp.queue 15).en = true ∧ ((s 63).disp.queue 15).recs.length < 64 ∧ 64 ≤ ((s 64).disp.queue 15).recs.length ∧
      5 ≤ (s 63).tele.bringup) ∧
    ((mailed 1 8 []).tele.mbox 1).busy = true ∧ ((mailed 1 8 []).tele.mbox 0).busy = false ∧
    State.reset.tele.bringup < 5 := by decide +kernel

/-- Nothing is busy, no write is buffered and no transaction is open; and each BUSY set. -/
theorem witness_Invalidations : Lone (lone []) ∧ (lone []).disp.tinvBusy = false ∧ (lone []).txns = [] ∧
    ((lone []).cores.all (fun p => p.2.wb == [])) = true ∧ bitAt (0x20000 : Word) 16 = false ∧ bitAt (0x10000 : Word) 16 = true ∧
    ({ lone [] with disp := { (lone []).disp with tinvBusy := true } } : State).translatedOpen 0 = false ∧
    ({ lone [] with tele := { (lone []).tele with bringup := 5 } } : State).linksUp = true ∧
    (lone []).fab.mcinvBusy = false ∧ (lone []).me.txn = none ∧ (lone []).translatedOpen 0 = false := by
  refine ⟨lone_reset _ _, ?_⟩; decide +kernel

/-- The last byte that the host may reach; a request that waits behind the line of a transaction's commit; a snooped line; a
slot that reads the host window, and one that releases to it. -/
theorem witness_HostMemoryAccess : 768 * 2 ^ 30 - 2 ^ 31 - 1 + 1 ≤ 768 * 2 ^ 30 - 2 ^ 31 ∧ State.reset.fab.inbound = [] ∧
    State.reset.txns = [] ∧ (State.reset.dirOf 64).snooping = false ∧
    ((State.reset.snoop 64).dirOf 64).snooping = true ∧ (decodeWord 0x80000000).toOption.map Prod.snd = some .nopC ∧
    (let s := { lone [] with tele := { (lone []).tele with bringup := 5 }, fab := { (lone []).fab with cxl := [0] } };
      s.linksUp = true ∧ s.fab.cxl ≠ [] ∧ State.reset.linksUp = false) ∧
    (let s := (lone []).modMe (fun t => { t with wait := .hostFence, hostLinks := [0, 1] });
      (s.slot 0 0).wait = .hostFence ∧ (s.slot 0 0).hostLinks.tail ≠ [] ∧
      (s.modMe (fun t => { t with hostLinks := [0] })).me.hostLinks.tail = []) ∧
    (let o := { copyOp with window := [0], outstanding := 1 };
      ((lone []).modHere (fun k => { k with cq := [o] })).here.cq[0]? = some o ∧ o.window = 0 :: []) ∧
    State.reset.homeOf (2 ^ 55 + 64) false = .host 64 := by decide +kernel

/-- A slot waits for a load of the host window, which its ASID maps at 0x2000. -/
def windowed : State :=
  { (lone []).modMe (fun t => { t with wait := .hostRead (.x 1 8 false) 0x2000 none 0 }) with
    mem := (lone []).mem.setNum (placeTables + 0x102000) 8 (2 ^ 55 + 0xF) }

theorem witness_HostMemoryAccess_window : (windowed.slot 0 0).wait = .hostRead (.x 1 8 false) 0x2000 none 0 ∧
    (windowed.translate 0 (windowed.asidOf 0) 0x2000).map (fun t => windowed.homeOf (t.phys 0x2000) t.uncached) =
      some (.host 0x2000) ∧ (windowed.actAs 0 0).me.writesInto (.x 1) := by
  refine ⟨rfl, ?_, rfl⟩; decide +kernel

theorem witness_HostMemoryAccess_lone : Lone (windowed.actAs 0 0) := ⟨rfl, rfl, rfl, rfl, rfl⟩

/-- The state with a word or a pair where step fetches next. -/
def fetching (w : Nat) : State := State.reset.withFetchWord 32 w

/-- A lone word, a word of an unassigned opcode, and a pair of NOPs at 0x1000. -/
theorem witness_StepRunsTheDecodedInstruction : let s := fetching 0x80000000
    s.stopped = false ∧ s.agenda = [] ∧ s.nextCore = some (0, 0) ∧ (s.slot 0 0).pc = 0x1000 ∧ spaceOf s.pkg 0x1000 = .global ∧
    (s.translateFor 0 (s.asidOf 0) 0x1000 TlbEntry.x).map (fun t => (t.x, s.homeOf (t.phys 0x1000) t.uncached)) =
      some (true, .own 0x1000 false) ∧ s.memBad 0x1000 4 = false ∧ (s.core 0).l1i = [] ∧ (s.slot 0 0).loop = none ∧
    (s.slot 0 0).linkmap = 0 ∧ (s.slot 0 0).streams = [] ∧ (s.slot 0 0).pend = [] ∧ (s.slot 0 0).poisonX = [] ∧
    (s.slot 0 0).poisonV = [] ∧ (s.slot 0 0).resetPending = false ∧ (s.slot 0 0).cvsize ≤ 1 ∧
    (decodeWord (BitVec.ofNat 32 (s.mem.num 0x1000 4))).toOption.map (fun d => (d.1.lone, d.2)) = some (true, .nopC) := by
  decide +kernel

theorem witness_StepRunsTheDecodedInstruction_pair :
    (decodeWord (BitVec.ofNat 32 ((fetching 0).mem.num 0x1000 4))).toOption.map (fun d => (d.1.lone, d.2)) =
      some (false, .nopC) ∧
    (decodeWord (BitVec.ofNat 32 ((fetching 0).mem.num 0x1004 4))).toOption.map Prod.snd = some .nopA ∧
    (BitVec.ofNat 32 ((fetching 0).mem.num 0x1004 4)).extractLsb' 27 5 = 1 ∧ isRpt .nopC = false ∧
    ((decodeWord 0x80E00000).toOption).isNone = true ∧ ({ State.reset with stopped := true } : State).stopped = true ∧
    (let inp : BringupInput := { badCores := [] };
      (powerCycle [.subDispatch 0, .powerGood inp]).map Prod.fst = some inp) := by
  decide +kernel

theorem witness_EncodedInstructionsDecode : (Instr.addC 1 2 3).wellFormed = true ∧
    encode { lone := true, stall := 0 } (.addC 1 2 3) ≠ none ∧ (decodeWord 0x80000000).toOption.isSome = true := by decide

theorem witness_StepKeepsMemoryCanonical : State.reset.memOk ∧ (step State.reset = .next State.reset.endCycle) :=
  ⟨⟨rfl, rfl⟩, rfl⟩

/-- Registers whose bit 63 is zero, and a shadow table at I/O die 0. -/
theorem witness_RegisterReads : State.reset.disp.tinvctl.getLsbD 63 = false ∧ State.reset.disp.lkill.getLsbD 63 = false ∧
    State.reset.fab.mcinv.getLsbD 63 = false ∧ (State.reset.tele.mbox 1).cmd.getLsbD 63 = false ∧
    (State.reset.tele.mbox 1).status < 4 ∧ (State.reset.disp.queue 15).cls < 16 ∧ (State.reset.disp.queue 15).asid < 2 ^ 16 ∧
    (State.reset.disp.queue 15).recs.length ≤ 64 ∧ find State.reset.fab.shadow 0 = none ∧ find State.reset.fab.zrto 1 = some 200 ∧
    (find (switched (packet 0 0 .endReport)).fab.shadow 0).map RouteTable.version = some 1 := by decide

/-! ### Boundary values and further clauses of the statements -/

/-- What a slot of no caravan meets: nothing parts it; a member of a caravan whose core stops, and a slot that waits for an
answer, take no trap; a list that has not left is one. -/
theorem witness_HeldTrapsAndReturns_waits :
    (vectored []).parting 0 0 = false ∧ (Wait.answer .skip 0 none).abandonable = false ∧
    (let s := (duo []).modMe (fun t => { t with cvsize := 2, cvmask := 3 }) |>.modCore 1 (fun k =>
        { k with caravan := some ⟨0, 0⟩, stage := .stopping none 0 });
      s.parting 0 0 = true) ∧ (lone []).me.wait = .none ∧
    (let s := (vectored []).modMe (fun t => { t with txn := some { openTxn with committing := true } });
      s.me.txn = some { openTxn with committing := true }) := by decide +kernel

/-- RELEASE of a caravan of two inside a transaction; a parent in this package, in which there is always room, and one in
another package with room in the retry buffer. -/
theorem witness_SystemWordsAndTheEnd_caravan :
    (let s := (inTxn []).modMe (fun t => { t with cvsize := 2 }); 1 < s.me.cvsize ∧ s.me.txn = some openTxn) ∧
    (let s := (lone []).modMe (fun t => { t with parent := some ⟨3, 5⟩ }); s.me.parent = some ⟨3, 5⟩ ∧
      s.zyTurn s.cur.1 s.cur.2 3 = true ∧ (3 : Nat) ≠ s.pkg ∧ s.zyTurn s.cur.1 s.cur.2 s.pkg = true) := by decide +kernel

/-- Slot 1 of core 0 in a transaction that has written the tile of address 0x2000, older or younger than the running slot's
(age 5), committing or not. -/
def contested (older committing : Bool) : State :=
  let mine := fun (t : Slot) => { t with txn := some { openTxn with age := 5 * 2 ^ 16 } }
  ((lone []).modMe mine).modSlot 0 1 (fun t => { t with
    active := true, txn := some { openTxn with age := if older then 4 * 2 ^ 16 else 6 * 2 ^ 16, writes := [16], committing } })

/-- Inside a transaction: the tile of 0x2000 is 16, and no other transaction meets it; one that has read 1,024 tiles; an
older rival, one that commits, and a younger one. -/
theorem witness_Transactions_inside :
    (let s := inTxn [];
      Lone s ∧ spaceOf s.pkg 0x2000 = .global ∧
      (s.leafFor .load 0x2000).map (fun t => (Use.allowed .load t, t.uncached, t.phys 0x2000)) = some (true, false, 0x2000) ∧
      (s.leafFor .store 0x2000).map (fun t => (Use.allowed .store t, t.uncached, t.phys 0x2000)) = some (true, false, 0x2000) ∧
      (s.leafFor .queueStore 0x2000).map (fun t => (Use.allowed .queueStore t, t.uncached, t.phys 0x2000)) =
        some (true, false, 0x2000) ∧
      (s.leafFor .atomic 0x2000).map (fun t => (Use.allowed .atomic t, t.uncached, t.phys 0x2000, t.pa / 2 ^ 55 % 2)) =
        some (true, false, 0x2000, 0) ∧
      s.homeOf 0x2000 false = .own 0x2000 false ∧ s.contained s.cur.1 s.cur.2 = false ∧ s.loadBad 0x2000 8 false = false ∧
      s.hits 16 .read (some s.cur) = [] ∧ s.hits 16 .write (some s.cur) = [] ∧
      s.hits 16 (.red .add .fp32) (some s.cur) = [] ∧ openTxn.reads.length < 1024 ∧ openTxn.dirty.length < 256 ∧
      ((s.txns.map (fun y => (y.2.2.dirty.filter (fun u => tileDie u == tileDie 16)).length)).sum) < Config.versionedTiles) ∧
    ({ openTxn with reads := (List.range 1025).drop 1 |>.map (· + 100) } : Txn).reads.contains 16 = false ∧
    1024 ≤ ({ openTxn with reads := (List.range 1025).drop 1 |>.map (· + 100) } : Txn).reads.length ∧
    (let s := contested true false;
      s.hits 16 .write (some s.cur) = [(0, 1, { openTxn with age := 4 * 2 ^ 16, writes := [16] })] ∧
      s.older (0, 1, { openTxn with age := 4 * 2 ^ 16, writes := [16] }) (0, 0, { openTxn with age := 5 * 2 ^ 16 }) = true) ∧
    (∀ committing, let s := contested false committing;
      s.hits 16 .write (some s.cur) = [(0, 1, { openTxn with age := 6 * 2 ^ 16, writes := [16], committing })] ∧
      s.older (0, 1, { openTxn with age := 6 * 2 ^ 16, writes := [16], committing }) (0, 0, { openTxn with age := 5 * 2 ^ 16 }) =
        false) ∧
    ({ openTxn with writes := [16] } : Txn).writes.contains 16 = true := by
  refine ⟨⟨lone_inTxn _, ?_⟩, ?_⟩ <;> decide +kernel

/-- A plain access outside a transaction to an uncached tile that another slot's transaction has written, and to one that a
commit has; operations that no transaction may hold; a nest of seven. -/
theorem witness_Transactions_outside :
    (∀ committing, let s := (contested true committing).modMe (fun t => { t with txn := none });
      s.me.txn = none ∧ s.homeOf 0x2000 true = .own 0x2000 true ∧ s.memBad 0x2000 8 = false ∧ s.hostClear 0x2000 = true ∧
      (s.hits 16 .plainRead none).map (fun y => (y.1, y.2.1, y.2.2.committing)) = [(0, 1, committing)] ∧
      (s.hits 16 .plainWrite none).map (fun y => (y.1, y.2.1, y.2.2.committing)) = [(0, 1, committing)]) ∧
    spaceOf 0 0xFFFFC00100000040 = .remote { place := ⟨0, 1⟩, raise := false, sw := 0, off := 0x40 } ∧
    (∃ q o, spaceOf 0 0xF400000000000000 = .queue q o) ∧ 7 ≤ ({ openTxn with depth := 7 } : Txn).depth := by
  refine ⟨by decide +kernel, by decide +kernel, ⟨_, _, rfl⟩, by decide⟩

/-- An entry of the oasis with that body, from the core at n. -/
def waitingMsg (body : MsgBody) (n : Nat := 1) : QMsg := { msg := { toFirst body with src := ⟨0, n⟩ } }

/-- An oasis of n entries before core 0. -/
def heaped (n : Nat) (body : MsgBody) : State :=
  (sent body).modCore 0 (fun k => { k with oasis := List.replicate n (waitingMsg (.data 5 [⟨7, false⟩])) })

/-- An oasis that has 960 entries and one that has 1,024; a shorter one; a channel and an arrival queue without room. -/
theorem witness_MessagesOnTheirWay_oasis : ((heaped 960 (.data 5 [])).core 0).oasis.length = 960 ∧
    ((heaped 1024 (.reply 5 ⟨7, false⟩)).core 0).oasis.length = 1024 ∧ ((heaped 959 (.data 5 [])).core 0).oasis.length < 960 ∧
    ((heaped 1 (.data 5 [])).core 0).oasis ≠ [] ∧
    ({ idleCore 0 with fifos := [(5, List.replicate 64 ⟨⟨7, false⟩, 0, none⟩)] } : CoreSt).hasRoom (.data 5 [⟨7, false⟩]) = false ∧
    ({ idleCore 0 with arrival := List.replicate 16 (waitingMsg (.migrate 0 [] 0)) } : CoreSt).hasRoom (.migrate 0 [] 0) = false := by
  refine ⟨?_, ?_, ?_, ?_, ?_, ?_⟩
  · exact List.length_replicate
  · exact List.length_replicate
  · rw [show ((heaped 959 (.data 5 [])).core 0).oasis.length = 959 from List.length_replicate]; decide
  all_goals decide +kernel

/-- A core whose channel 5 is full and whose channel 6 is not: behind a message for channel 5, one of another sender for
channel 6 moves, and one of the same sender for channel 5 does not. -/
theorem witness_MessagesOnTheirWay_order :
    (let full : CoreSt := { idleCore 0 with fifos := [(5, List.replicate 64 ⟨⟨7, false⟩, 0, none⟩)] };
      full.hasRoom (waitingMsg (.data 5 [⟨7, false⟩])).msg.body = false ∧ 1 ≤ full.fifoRoom 6 ∧
      (waitingMsg (.data 6 [⟨7, false⟩]) 2).msg.body = .data 6 [⟨7, false⟩]) ∧
    (let a := waitingMsg (.data 5 (List.replicate 4 ⟨7, false⟩));
      let b := waitingMsg (.data 5 [⟨7, false⟩]);
      let near : CoreSt := { idleCore 0 with fifos := [(5, List.replicate 62 ⟨⟨7, false⟩, 0, none⟩)] };
      near.hasRoom a.msg.body = false ∧ 1 ≤ near.fifoRoom 5 ∧ a.msg.src = b.msg.src ∧ fifoOf a.msg.body = some 5) := by
  decide +kernel

/-- A slot that finds the buffer full; two slots of a core that wait for it; a message to a context in an image. -/
theorem witness_MessagesOnTheirWay_waits :
    (let s := { duo [] with net := List.replicate 16 { toFirst (.data 5 []) with src := ⟨0, 0⟩, site := 0 } };
      s.niTurn 0 0 ⟨0, 1⟩ = false ∧ s.placeTarget 0 0x4000FFFF00000001 = some ⟨0, 1⟩ ∧ s.here.wb = [] ∧ s.posted = false) ∧
    (duo []).niTurn 0 0 ⟨0, 1⟩ = true ∧
    (let k := ((duo []).modSlot 0 1 (fun t => { t with active := true, wait := .full .ni, lastIssue := 3 })).core 0;
      (k.slot 1).active = true ∧ (k.slot 1).wants = some .ni ∧ (k.slot 0).lastIssue < (k.slot 1).lastIssue) ∧
    (let s := { sent (.data 5 []) with launches := [(0, { placeLaunch with places := [(0, .image 3), (1, .site 1)] })] };
      s.takerOf (toFirst (.data 5 [])) = none ∧ s.launchFor (toFirst (.data 5 [])) ≠ none) ∧
    (let s := (duo []).modMe (fun t => { t with inlineDepth := 1 });
      0 < s.me.inlineDepth ∧ s.me.cvsize ≤ 1 ∧ (s.X 1).toNat % 4 = 0) := by decide +kernel

/-- At inline depth 15; no place in the outbound buffer; the question to a core and to a context in an image; a declined
child. -/
theorem witness_SpawnProtocol_declined :
    (let s := (duo []).modMe (fun t => { t with inlineDepth := 15 }); s.me.inlineDepth = 15 ∧ s.niTurn 0 0 ⟨0, 1⟩ = true) ∧
    ({ duo [] with net := List.replicate 16 { toFirst (.data 5 []) with src := ⟨0, 0⟩, site := 0 } } : State).niTurn 0 0 ⟨0, 1⟩ =
      false ∧
    (let s := sent (.ask 0);
      (find s.launches 0).bind (fun x => find x.places 0) = some (.site 0) ∧ (s.core 0).arrivalUsed < 16 ∧ (s.core 0).oasis = []) ∧
    (let s := { sent (.ask 0) with launches := [(0, { placeLaunch with places := [(0, .image 3), (1, .site 1)] })]
                                   images := [(3, savedImage true)] };
      s.inOrder 0 (toFirst (.ask 0)) = true ∧ find s.images 3 = some (savedImage true) ∧ (savedImage true).core.oasis = []) ∧
    (let s := answered (.spawn 0x2000) (.answer 0 false);
      (s.slot 0 0).wait = .spawn 0x2000 ∧ (s.slot 0 0).writesInto (.x 1) ∧ (s.slot 0 0).bundle.popPorts = [] ∧
      (s.slot 0 0).bundle.popStreams = [] ∧ (s.slot 0 0).bundle.stash = none) := by
  unfold Slot.writesInto; decide +kernel

/-- A write of zero behind one that a WAITEV was to see; a stalled bundle of each kind; CHRD behind a slot that blocked before
it, on words that another activation has claimed, and with claims of its own; two slots that wait for one channel. -/
theorem witness_EndsOfWaits_order :
    (let s := ((lone []).modMe (fun t => { t with wait := .waitev 8 })).modHere (fun k => { k with evSeen := [0] });
      (s.slot 0 0).wait = .waitev 8 ∧ (s.core 0).lm.word 8 = 0 ∧ (s.core 0).evSeen.contains 0 = true ∧
      (lone []).here.evSeen.contains 0 = false) ∧
    (∀ w ∈ [Wait.stall, .full .copy, .leaving],
      ((lone []).modMe (fun t => { t with wait := w })).me.wait = w) ∧
    (let two : List FifoWord := [⟨⟨7, false⟩, 0, none⟩, ⟨⟨8, false⟩, 0, none⟩];
      let s := (lone []).modHere (fun k => { k with fifos := [(5, two)], chrdWaiters := [(1, 5)] });
      ¬ (s.me.chan = 5 ∧ 0 < s.me.claim) ∧ ¬ (∀ p ∈ s.here.chrdWaiters, p.2 ≠ 5) ∧
      (let u := s.modMe (fun t => { t with chan := 5, claim := 1 }); u.me.chan = 5 ∧ 0 < u.me.claim) ∧
      (let u := ((lone []).modHere (fun k => { k with fifos := [(5, two)] })).modSlot 0 1 (fun t =>
          { t with active := true, chan := 5, claim := 2 });
        (u.here.words 5).length ≤ u.here.otherClaims 0 5)) ∧
    (let k := ((lone []).modHere (fun k => { k with
        fifos := [(5, [⟨⟨7, false⟩, 0, none⟩])], chrdWaiters := [(2, 6), (1, 5), (0, 5)] })).core 0;
      k.chrdWaiters = [(2, 6)] ++ (1, 5) :: [(0, 5)] ∧ (∀ p ∈ [(2, 6)], p.2 ≠ 5 ∨ k.canPop p.1 5 = false) ∧
      k.words 5 ≠ [] ∧ k.otherClaims 1 5 = 0) := by decide +kernel

/-- The placed launch with nothing running on core 0 but the sources given. -/
def filling (f : CoreSt → CoreSt) : State := (State.reset.placeProgram).modCore 0 f

/-- The other rows of Table 2.6: a SPAWN child, a CALL and a migrated thread at the head of the arrival queue, and a channel
with as many words as its handler's threshold; a batch whose handler runs contained. -/
theorem witness_FillingASlot_arrivals :
    (∀ body ∈ ([.spawn 0x2000 [1, 2, 3, 4] 9 true, .call 0x2000 [1, 2, 3, 4] 9 0x45, .migrate 0x2000 (List.replicate 8 5) 9] :
        List MsgBody),
      let s := filling (fun k => { k with arrival := [waitingMsg body] });
      s.mayFill 0 = true ∧ s.launchOf 0 = some placeLaunch ∧ (s.core 0).freeSlot = some 1 ∧ (s.slot 0 1).streams = [] ∧
      (s.core 0).unstarted 1 = false ∧ (s.core 0).nextOrigin = some .arrival ∧ (s.core 0).arrival = waitingMsg body :: [] ∧
      (s.core 0).oasis = []) ∧
    (let h : Handler := { valid := true, multi := true, contained := true, persistent := false, mask := false, prio := 3, threshold := 2, offset := 0x40 };
      let s := filling (fun k => { k with
        table := k.table ++ [h], fifos := [(1, [⟨⟨7, false⟩, 0, none⟩, ⟨⟨8, false⟩, 0, none⟩])] });
      s.mayFill 0 = true ∧ (s.core 0).nextOrigin = some (.channel 1) ∧ (s.core 0).handler 1 = some h ∧
      (s.core 0).offers (.channel 1) = true ∧ Origin.channel 1 ∈ origins) ∧
    (let s := filling (fun k => { k with
        table := k.table.map (fun h => { h with contained := true }), batches := [{ num := 0, first := 5, left := 1 }] });
      (s.core 0).containedAt 0 = true ∧ s.mayFill 0 = true ∧ (s.core 0).nextOrigin = some .batch) := by decide +kernel

/-- A contained work item, delivered so many times, that reads a poisoned granule at LM 40. -/
def containedItem (tries : Nat) : State :=
  ((lone [(2, 0xF000000000000028)]).modMe (fun t => { t with source := .item 5 tries })).modHere (fun k => { k with
    poison := [.lm 5], batches := [{ num := 0, first := 6, left := 1, held := [5] }]
    table := k.table.map (fun h => { h with contained := true }) })

/-- A contained activation with n held messages. -/
def containedHeld (n : Nat) : State :=
  ((duo []).modMe (fun t => { t with heldMsgs := List.replicate n (toFirst (.data 5 [])) })).modHere (fun k =>
    { k with tvec := 0x8000, table := k.table.map (fun h => { h with contained := true }) })

theorem lone_contained (n : Nat) : Lone (containedItem n) ∧ Lone (containedHeld n) :=
  ⟨⟨rfl, rfl, rfl, rfl, rfl⟩, ⟨rfl, rfl, rfl, rfl, rfl⟩⟩

/-- A poisoned operand register, M operand and granule. -/
theorem witness_LevellingAndPoison_consumed :
    (let s := (vectored []).modMe (fun t => { t with bundle := { t.bundle with bad := some 5 } });
      s.me.bundle.mode = .lone ∧ s.me.bundle.bad = some 5 ∧ s.me.txn = none ∧ s.contained 0 0 = false ∧ s.here.tvec ≠ 0) ∧
    (let s := (vectored []).modHere (fun k => { k with poison := [.lm 5] });
      s.here.lmBad ((s.me.lmb.toNat + 8 * (5 : Reg).toNat) % 0x20000) 8 = true ∧ s.here.lmBad 40 8 = true ∧
      spaceOf s.pkg 0xF000000000000028 = .lm 40 ∧ s.here.tvec ≠ 0) ∧
    (let u := ((lone []).modMe (fun t => { t with poisonX := [3], poisonV := [4] })).me;
      u.port 3 = none ∧ (3 : Reg) ∈ u.poisonX ∧ u.stream 4 = none ∧ (4 : Reg) ∈ u.poisonV ∧
      (let fs := fieldsAt (u.renameOffset none) (.lone 0x80000000 .nopC);
        bundleIllegal u false (.lone 0x80000000 .nopC) fs = none ∧ u.chkmode ≠ 1 ∧
        u.wordFault 0x80000000 fs.readC fs.writeC = none) ∧
      u.badField (fieldsAt (u.renameOffset none) (.lone 0 (.addC 1 3 3))).readC = some 0xE000000100000003) := by
  decide +kernel

/-- A contained work item in its first and its third delivery. -/
theorem witness_LevellingAndPoison_item : ∀ tries ∈ [0, 2], let s := containedItem tries
    spaceOf s.pkg (s.X 2) = .lm 40 ∧ s.here.lmBad 40 8 = true ∧ s.me.txn = none ∧ s.contained 0 0 = true ∧
    s.me.source = .item 5 tries ∧ s.me.cvsize ≤ 1 ∧ s.here.launch = some 0 ∧ find s.launches 0 = some placeLaunch ∧
    s.here.batches = [{ num := 0, first := 6, left := 1, held := [5] }] ∧ s.here.oasis = [] := by decide +kernel

/-- A contained activation with 31 and with 32 held messages, and a store of its own to global memory. -/
theorem witness_LevellingAndPoison_held : ∀ n ∈ [31, 32], let s := containedHeld n
    s.contained 0 0 = true ∧ s.me.txn = none ∧ s.me.heldMsgs.length = n ∧ s.here.wb = [] ∧ s.posted = false ∧
    s.here.tvec ≠ 0 ∧ s.placeTarget 0 0x4000FFFF00000001 = some ⟨0, 1⟩ ∧ spaceOf s.pkg 0x2000 = .global ∧
    (s.leafFor .queueStore 0x2000).map TlbEntry.w = some true := by decide +kernel

/-- The start of a record under formats of A (and B) and C, on a core changed by f. -/
def startUnder (ws : List Word) (fmt : BitVec 12) (fmtC : BitVec 4 := 0) (f : CoreSt → CoreSt := id) : MStart :=
  let s := ((queued (record ws) fmt).modMe (fun t => { t with mfmtc := fmtC })).modHere f
  (s.core 0).startOf (record ws) (s.slot 0 0).sample

/-- Records of the other commands that start: MMAS on I8, MMA on FP16 and FP64, MMAB of mantissas of 2 bits over one loaded
macro, MADP with one adapter, MDRAIN of an I32 bank to I32 and of an FP32 bank to FP16; a poisoned operand; two rate
classes; an unknown code. -/
theorem witness_MatrixCommandsStart_others :
    startUnder [0x801010011] 0 = .ok 13 ∧ startUnder [0x801010010] 10 = .ok 13 ∧ startUnder [0x101010010] 8 = .ok 13 ∧
    startUnder [0x2001010012] 0x2F (f := fun k => { k with cimLoaded := 1 }) = .ok 10 ∧
    startUnder [0x101010013, 0, 0, 0x100, 0, 0x3F80000000000001, 0x200] 9 = .ok 15 ∧
    startUnder [0x1010020, 0, 0, 0x1000000000] 0 2 (fun k => { k with acc0v := { k.acc0v with kind := .i32 } }) = .ok 9 ∧
    startUnder [0x1010020, 0, 0, 0x1000000000] 0 10 (fun k => { k with acc0v := { k.acc0v with kind := .fp32 } }) = .ok 9 ∧
    startUnder [0x100000002, 0x20000, 0, 0, 0x100000] 0 0 (fun k => { k with poison := [.lm 0] }) = .poison 0xF000000000000000 ∧
    rateClass .fp16 ≠ rateClass .fp32 ∧ (0x30 : Nat) ∉ [0x01, 0x02, 0x10, 0x11, 0x12, 0x13, 0x20] := by decide +kernel

/-- The fields that those results read: depths, formats, the adapter's two operands, and terms inside the window. -/
theorem witness_MatrixResults_others :
    (let w : List Word := [0x801010011]; bits (w.getD 0 0) 7 0 = 0x11 ∧ bits (w.getD 0 0) 47 32 ≤ 8) ∧
    (pairing 0 0).map (fun p => p.cls.id) = some 4 ∧ (pairing 10 10).map (fun p => (p.cls.id, decide (8 ≤ p.cls.group))) =
      some (2, true) ∧ (pairing 8 8).map (fun p => p.cls.id) = some 0 ∧
    bits (0x2001010012 : Word) 47 32 ≤ 32 ∧
    (let e := record [0x101010013, 0, 0, 0x100, 0, 0x3F80000000000001, 0x200];
      (lone []).here.lm.num 0x100 2 = 0 ∧ fmtOf 9 = some (.fp32, 0) ∧ bits (0x101010013 : Word) 47 32 = 1 ∧
      bits (0x3F80000000000001 : Word) 19 16 = 0 ∧ ((lone []).here.adapterSpans e .fp32 0).isSome = true ∧
      ((lone []).here.lm.setNum 0x100 2 0xFFFF).num 0x100 2 = 0xFFFF) ∧
    (let e := record [0x1010020, 0, 0, 0x1000000000];
      bitAt (e.words.getD 4 0) 19 = false ∧ bits (e.words.getD 3 0) 17 17 = 0 ∧ LaneType.ofCode 2 = some .i32 ∧
      e.cols * (laneWidth .i32 / 8) ≤ bits (e.words.getD 3 0) 47 32) ∧
    (∀ t ∈ [FVal.num false 3 0, .num true 1 (-2)], ∃ n m e, t = .num n m e ∧ m ≠ 0 ∧
      (Nat.log2 3 : Int) + 0 - 48 ≤ e ∧ (Nat.log2 1 : Int) + (-2) - 48 ≤ e) := by
  refine ⟨by decide, by decide +kernel, by decide +kernel, by decide +kernel, by decide, by decide +kernel, by decide +kernel, ?_⟩
  intro t ht
  simp only [List.mem_cons, List.not_mem_nil, or_false] at ht
  obtain rfl | rfl := ht
  · exact ⟨_, _, _, rfl, by decide, by decide, by decide⟩
  · exact ⟨_, _, _, rfl, by decide, by decide, by decide⟩

/-- The zeros of FP16 against each other, one, and NaNs, quiet and signalling; a half between integers; infinities. -/
theorem witness_VectorFloatArithmetic_pins :
    operandF .fp16 false 0 = .num false 0 (-24) ∧ (operandF .fp16 false 0x8000).isNaN = false ∧
    (operandF .fp16 false 0x7E00).isNaN = true ∧ (operandF .fp16 false 0x7D00).isSig = true ∧
    (operandF .fp16 false 0x7E00).isSig = false ∧
    (minmaxLane .fp16 false false false 0 0x8000).1 = 0x8000 ∧ (minmaxLane .fp16 false true false 0 0x8000).1 = 0 := by
  decide +kernel

theorem witness_VectorConversionsAndSpecialFunctions_pins :
    (operandF .fp32 false 0x40200000).isNaN = false ∧ operandF .fp32 false 0x7F800000 = .inf false ∧
    (convertLane .fp32 .i8 { rm := 0, fz := false } 0x40200000) = (2, { nx := true }) ∧
    (convertLane .fp32 .i8 { rm := 3, fz := false } 0x40200000) = (3, { nx := true }) ∧
    intOf .i32 100 < (intRange .i8).2 ∧ (intOf .i32 5).natAbs < 2 ^ (fracBits .fp16 + 1) ∧
    (convertLane .i32 .fp16 { rm := 0, fz := false } 5).1 = 0x4500 := by
  decide +kernel

/-- A copy queue that is full, and one that other slots wait for. -/
theorem witness_Copies_turn :
    (lone []).here.firstFor 0 .copy = true ∧
    (let s := (lone []).modSlot 0 1 (fun t => { t with active := true, wait := .full .copy }) |>.modMe (fun t => { t with lastIssue := 9 });
      s.here.firstFor 0 .copy = false) ∧ (lone []).here.firstFor 0 .gather = true ∧ (lone []).here.firstFor 0 .device = true ∧
    (lone []).here.firstFor 0 .matrix = true ∧ (lone []).mcTurn 0 0 = true ∧
    ({ lone [] with net := List.replicate 16 { toFirst (.data 5 []) with src := ⟨0, 0⟩, site := 0 } } : State).mcTurn 0 0 = false ∧
    ((lone []).modHere (fun k => { k with gq := List.replicate 16 gatherOp })).here.gatherRoom = false ∧
    (lone []).niTurn 0 0 ⟨(lone []).pkg, coreAt 0 0⟩ = true ∧
    ({ lone [] with net := List.replicate 16 { toFirst (.data 5 []) with src := ⟨0, 0⟩, site := 0 } } : State).niTurn 0 0
      ⟨(lone []).pkg, coreAt 0 0⟩ = false ∧
    ((lone []).here.firstFor 0 .ni) = true := by decide +kernel

/-- A multicast of group 7 that has come to its I/O die, with room in the retry buffer. -/
theorem witness_LaunchesAndMulticasts_out :
    let m := { toFirst (.mcast 7 0 [1, 2] 4 []) with site := 0, members := 2 }
    let s := { lone [] with net := [m] }
    m.delivery = none ∧ m.src.pkg = s.pkg ∧ s.arrived m = true ∧ s.fab.retryRoom (ioDie (dieOf m.site)) = true := by decide +kernel

/-- A caravan that hands back, one that is parted, before and after the 40 cycles. -/
theorem witness_Caravans_over :
    (let s := (duo []).modMe (fun t => { t with wait := .handBack 40, cvsize := 2 });
      (s.slot 0 0).wait = .handBack 40 ∧ s.cycle < 40 ∧ s.coreRuns 0 = true) ∧
    (let s := (duo []).modMe (fun t => { t with wait := .parted 40, cvsize := 2 });
      (s.slot 0 0).wait = .parted 40 ∧ s.cycle < 40 ∧ (40 : Nat) ≤ ({ s with cycle := 40 } : State).cycle) := by decide +kernel

/-- A core that has a turn with nothing behind it, and one whose class has a launch of higher priority waiting. -/
theorem witness_TurnsAndRequests_priority :
    (let s := (State.reset.placeProgram).modCore 0 (fun k => { k with lastClass := some 0 });
      (s.core 0).launch = some 0 ∧ (s.core 0).lastClass = some 0 ∧ s.turnClasses 0 = [0] ∧
      ∀ m ∈ s.rivals 0 0, s.prioOf m ≤ s.prioOf 0) ∧
    (let other : Launch := { placeLaunch with
        hdr := placeLaunch.hdr.set 0 (1 + 2 ^ 16 + 5 * 2 ^ 8), state := .ready, places := [], prio := 5 };
      let p := State.reset.placeProgram;
      let s := ({ p with launches := p.launches ++ [(1, other)], disp := { p.disp with savepool := some (0x100000000, 4) } } :
        State).modCore 0 (fun k => { k with lastClass := some 0 });
      (s.core 0).launch = some 0 ∧ (s.core 0).lastClass = some 0 ∧ 1 ∈ s.rivals 0 0 ∧ s.prioOf 0 < s.prioOf 1 ∧
      (s.core 0).stage = .running ∧ s.imageFree = true ∧ (s.core 0).forwards.length < 64) := by decide +kernel

/-- Sub-dispatcher queues with an older and with a younger header; a header whose completion word the host holds back. -/
theorem witness_AcceptingLaunches_order :
    offered.disp.words = [] ∧ offered.stopped = false ∧ (headed [2]).wordFree 0 ∧
    (let h := fun n => ({ words := placeLaunch.hdr, parent := 0, stamp := n } : DevHeader);
      let y : SubHeader := { words := placeLaunch.hdr, parent := 0, asid := 0, cls := 0, prio := 0, stamp := 3 };
      let s := fun n => ({ (lone []).modHere (fun k => { k with devq := [h n] }) with
        disp := { (lone []).disp with subq := [(dieOf 0, [y])] } } : State);
      (s 4).oldestHeader 0 = some (0, h 4) ∧ (∀ z ∈ listOf (s 4).disp.subq 0, z.stamp ≤ 4) ∧
      listOf (s 2).disp.subq 0 = y :: [] ∧ 2 < y.stamp) ∧
    (let w := (headed [2]).modDir 0 (fun e => { e with hostShares := true });
      w.heldWords none [(0, [2])] = [some 0] ∧ w.checkHeader [2] true = .bad) := by
  refine ⟨rfl, rfl, ⟨rfl, by decide +kernel, ?_⟩, by decide +kernel, by decide +kernel⟩
  rw [show (headed [2]).hits (0 / 512) .plainWrite none = [] from by decide +kernel]
  intro t ht; cases ht

/-- Tables of two leaves, of which a removed link leaves another member in every spray set; a node that is not broken. -/
theorem witness_RoutesAndVersions_sets :
    (let t : RouteTable := { version := 0, members := [3], routes := [(3, [.package 3, .switch 64])], trees := [] };
      let s := { State.reset with fab := { State.reset.fab with switches := [(0, ⟨t, none⟩)], failed := [(.switch 0, .switch 64)] } };
      s.fab.broken (.switch 0) (.switch 64) = true ∧ s.fab.broken (.switch 0) (.package 3) = false ∧
      (∀ e ∈ s.fab.switches, ∀ r ∈ e.2.cur.routes, ∃ m ∈ r.2, m ≠ .switch 64 ∧ m ≠ .switch 0) ∧
      find s.fab.switches 0 = some ⟨t, none⟩) := by
  refine ⟨by decide, by decide, ?_, rfl⟩
  intro e he r hr
  simp only [List.mem_singleton] at he; subst he
  simp only [List.mem_singleton] at hr; subst hr
  exact ⟨.package 3, by decide, by decide, by decide⟩

/-- A line of group 7 in the network, at its home and in its turn, and no line; a number whose record is gone. -/
theorem witness_MulticastAnswers_line :
    let p := packet 2 0 (.mcast 7 0 [1, 2] 4 [])
    let m := { p.body with delivery := some (0, 0), dst := ⟨0, 0⟩ }
    let s := { lone [] with net := [m], fab := { State.reset.fab with inmap := [(7, 0x8000000000000000)] } }
    s.net.findIdx? (isLine p.stream p.seq) = some 0 ∧ s.net[0]? = some m ∧ s.inOrder 0 m = true ∧ s.peerTurn 0 m = true ∧
    (∀ x ∈ (lone []).net, isLine p.stream p.seq x = false) ∧ s.mapEntry 7 = 0x8000000000000000 ∧
    s.inOrder 0 { m with ring := 5 } = false ∧
    (let u := { State.reset with fab := { State.reset.fab with ins := [(p.stream, ⟨1, []⟩)] } };
      (2 : Nat) ^ 31 ≤ (p.seq - (u.fab.inStream p.stream).expected).toNat ∧ u.recorded p.stream p.seq = none) := by decide +kernel

/-- A slot whose stores to the host window took both links, inside no transaction. -/
theorem witness_AcquiresReleasesAndFences_links :
    let s := (lone []).modMe (fun t => { t with hostLinks := [0, 1] })
    s.here.wb = [] ∧ s.me.txn = none ∧ s.posted = false ∧ s.me.hostLinks ≠ [] := by decide

/-- Each size of access at a misaligned and an aligned address of the W buffer; a remote address outside the domain; the A
buffer and the C window for atomics. -/
theorem witness_MemoryAccessTraps_spaces : LaneType.bf16.isTred = true ∧
    spaceOf 0 0xF801400100000040 = .remote { place := ⟨5, 1⟩, raise := false, sw := 0, off := 0x40 } ∧ (vectored []).inDomain 5 = false ∧
    spaceOf 0 0xF100000000000000 = .abuf 0 ∧ spaceOf 0 0xF300000000003FF0 = .cbuf 0x3FF0 ∧
    (0xF300000000003FF0 : Word).toNat % 8 = 0 ∧ (0xF000000000000001 : Word).toNat % 2 ≠ 0 := by
  decide +kernel

end Sys2Proof.Tests
end

section
/-!
SUPPORT. The ends of a lone C-word, messages that leave and come within the package, and accesses to another core's LM
(05_memory R109 to R112).
-/
namespace Sys2Proof.Machine

/-! ### A lone C-word's ends -/

/-- The C-word of a lone bundle begins a wait. -/
theorem finishC_wait {s : State} (h : Lone s) (t : State) (w : Wait) :
    s.finishC (.error (.wait t w)) = t.modSlot s.cur.1 s.cur.2 (fun u => { u with wait := w }) := by
  have : (s.slot s.cur.1 s.cur.2).bundle.stash = none := h.stash
  simp [State.finishC, State.aStops, this]

/-- A C-word whose pair left no A-word's effects goes on. -/
theorem finishC_go_of_stash {s : State} (h : s.me.bundle.stash = none) (t : State) :
    s.finishC (go t) = t.retire s.cur.1 s.cur.2 none := by
  have : (s.slot s.cur.1 s.cur.2).bundle.stash = none := h
  simp [go, State.finishC, State.aStops, this]

/-- A lone bundle stays lone where the slot, the core that runs it and the place in the part are the same. -/
theorem Lone.of_me {s t : State} (h : Lone s) (hb : t.me.bundle = s.me.bundle) : Lone t :=
  ⟨by rw [hb, h.mode], by rw [hb, h.stash], by rw [hb, h.bad], by rw [hb, h.ports], by rw [hb, h.streams]⟩

/-- A lone C-word whose operation leaves the slot's loop and bundle retires, and the slot goes on. -/
theorem finishC_goesOn {s t : State} (h : Lone s) (hc : t.cur = s.cur) (hb : t.me.bundle = s.me.bundle)
    (hl : t.me.loop = s.me.loop) : GoesOn s (s.finishC (go t)) ∧ Retired t (s.finishC (go t)) [] {} := by
  obtain ⟨hr, hpc, hloop⟩ := retired_self (h.of_me hb)
  have hadv := advance_congr hl (congrArg Bundle.bodyLast hb) (congrArg Bundle.next hb)
  rw [go, finishC_go h, ← hc]
  exact ⟨⟨hpc.trans hadv.1, hloop.trans hadv.2⟩, hr⟩

/-- A slot whose bundle has retired after a change that left loop and bundle goes on as the slot would have. -/
theorem pc_finished {t u : Slot} (now : Nat) (hl : t.loop = u.loop) (hb : t.bundle = u.bundle) :
    (t.finished now).pc = u.advance.pc := by
  obtain ⟨f, g, n, h⟩ := retireCount_shape t now
  exact (advance_congr (by rw [h]; exact hl) (by rw [h]; exact congrArg _ hb) (by rw [h]; exact congrArg _ hb)).1

/-- The value that a C-word's write leaves in an x register. -/
theorem settled_place_x (t : Slot) (c now : Nat) (d : Reg) (v : Word) :
    (t.place c now { reg := .x d, val := v.setWidth 128, latency := 1 }).settled (.x d) = xValue d v := by
  rw [settled_place_self t c now { reg := .x d, val := v.setWidth 128, latency := 1 }]
  by_cases h0 : d = 0
  · simp [h0, xValue]
  · simp only [isX0_iff, beq_iff_eq, h0, if_false, xValue, RegName.holds]
    congr 1
    exact BitVec.setWidth_setWidth_of_le v (by decide) |>.trans (by simp)

/-! ### Accesses to another core -/

/-- A remote address without a raise is accepted or refused alike for every use (R109). -/
theorem remoteOk_of_not_raise {s : State} {c : Nat} {a : Word} {r : RemoteAddr} (h : r.raise = false) (b b' : Bool) :
    s.remoteOk c a r b = s.remoteOk c a r b' := by
  simp [State.remoteOk, h]

/-- CheckMem passes a remote access that R109 and R111 allow (Table 14.1). -/
theorem checkMem_remote {s : State} {a : Word} {size : Nat} {u : Use} {r : RemoteAddr} (hsp : spaceOf s.pkg a = .remote r)
    (htx : s.me.txn = none) (hok : s.remoteOk s.cur.1 a r u.mayRaise = true) (hal : a.toNat % size = 0)
    (had : u.admits s.cur.2 (.remote r) = true) (hcon : s.contained s.cur.1 s.cur.2 = false) :
    s.checkMem a size u = .ok ⟨.remote r, none⟩ := by
  simp [State.checkMem, hsp, htx, hok, hal, had, hcon]

/-- A remote access to a context on another core leaves into the network, and reaches the port after the latency of R9. -/
theorem post_access {s : State} {c n : Nat} {m : Msg} {op : RemoteOp} {off : Nat} {w : Waiter} (hb : m.body = .access op off w)
    (hp : m.dst.pkg = s.pkg) (hs : s.siteOf m.key m.dst.lcn = some n) (hn : n ≠ c) :
    s.post c m = { s with net := s.net ++ [{ m with site := c, ring := dieOf c, due := s.cycle + hopCycles c n }] } := by
  simp [State.post, hb, hp, State.postAccess, hs, hn]

/-- A message to a core of the package that is no access leaves into the network. -/
theorem post_own {s : State} {c : Nat} {m : Msg} (hb : ∀ op off w, m.body ≠ .access op off w) (hp : m.dst.pkg = s.pkg) :
    s.post c m = { s with net := s.net ++ [{ m with site := c, ring := dieOf c }] } := by
  cases h : m.body with
  | access op off w => exact absurd h (hb op off w)
  | _ => simp only [State.post, hp, if_true, h]

section
variable {s : State} {a b d : Reg} {imm : BitVec 11} {r : RemoteAddr} {n : Nat}

/-- An allowed load of another core's LM leaves as a message, and the bundle waits for the answer (R111). -/
theorem exec_ldD_remote (h : Lone s) (hsp : spaceOf s.pkg (s.X b + imm.signExtend 64) = .remote r)
    (hok : s.remoteOk s.cur.1 (s.X b + imm.signExtend 64) r true = true) (htx : s.me.txn = none) (hp : r.place.pkg = s.pkg)
    (hcon : s.contained s.cur.1 s.cur.2 = false) (hal : (s.X b + imm.signExtend 64).toNat % 8 = 0)
    (hs : s.siteOf (s.here.launch.getD 0) r.place.lcn = some n) (hn : n ≠ s.cur.1) (hr : r.raise = false) :
    exec (.ldD d b imm) s = .next ({ s with net := s.net ++
      [{ s.msgFrom s.cur.1 s.cur.2 r.place (.access (.load 8) r.off (.slot s.cur.2)) with
        ring := dieOf s.cur.1, due := s.cycle + hopCycles s.cur.1 n }] }.modSlot s.cur.1 s.cur.2
      (fun u => { u with wait := .answer (.x d 8 false) (s.X b + imm.signExtend 64) none })) := by
  have hck := checkMem_remote (u := .load) hsp htx (by rw [← hok]; exact remoteOk_of_not_raise hr _ _) hal rfl hcon
  have hres : s.ldRes d b imm 8 false = .error (.wait (s.post s.cur.1
      (s.msgFrom s.cur.1 s.cur.2 r.place (.access (.load 8) r.off (.slot s.cur.2))))
      (.answer (.x d 8 false) (s.X b + imm.signExtend 64) none)) := by
    simp only [State.ldRes, State.loadRes, State.effAddr, sext, hck]
    simp [bind, Except.bind, State.load, State.askRemote, State.zyTurn, hp]
  show Host.Outcome.next (s.finishC (s.ldRes d b imm 8 false)) = _
  rw [hres, finishC_wait h, post_access rfl hp hs hn]
  rfl

/-- An allowed store to another core's LM within the package is posted (R111). -/
theorem exec_stD_remote (hsp : spaceOf s.pkg (s.X b + imm.signExtend 64) = .remote r)
    (hok : s.remoteOk s.cur.1 (s.X b + imm.signExtend 64) r true = true) (htx : s.me.txn = none) (hp : r.place.pkg = s.pkg)
    (hcon : s.contained s.cur.1 s.cur.2 = false) (hal : (s.X b + imm.signExtend 64).toNat % 8 = 0)
    (hs : s.siteOf (s.here.launch.getD 0) r.place.lcn = some n) (hn : n ≠ s.cur.1) (hr : r.raise = false) :
    exec (.stD a b imm) s = .next (s.finishC (go { s with net := s.net ++
      [{ s.msgFrom s.cur.1 s.cur.2 r.place (.access (.store (bytesOfNat 8 (s.X a).toNat) none []) r.off .none) with
        va := s.X b + imm.signExtend 64, ring := dieOf s.cur.1, due := s.cycle + hopCycles s.cur.1 n }] })) := by
  have hck := checkMem_remote (u := .queueStore) hsp htx hok hal rfl hcon
  have hres : s.stRes a b imm 8 .queueStore = go (s.post s.cur.1
      { s.msgFrom s.cur.1 s.cur.2 r.place (.access (.store (bytesOfNat 8 (s.X a).toNat) none []) r.off .none) with
        va := s.X b + imm.signExtend 64 }) := by
    simp only [State.stRes, State.storeRes, State.effAddr, sext, Memory.length_bytesOfNat, hck]
    simp [bind, Except.bind, State.store, State.storeRemote, hp, hcon, hr]
  show Host.Outcome.next (s.finishC (s.stRes a b imm 8 .queueStore)) = _
  rw [hres, post_access rfl hp hs hn]
  rfl

end

/-! ### The port of the target -/

@[simp] theorem lm_seeEvents (k : CoreSt) : k.seeEvents.lm = k.lm := rfl
@[simp] theorem lm_lmWrite (k : CoreSt) (off : Nat) (bs : List Byte) : (k.lmWrite off bs).lm = k.lm.writeBytes off bs := rfl

@[simp] theorem core_dropMsg (s : State) (k c : Nat) : (s.dropMsg k).core c = s.core c := rfl
@[simp] theorem slot_dropMsg (s : State) (k c i : Nat) : (s.dropMsg k).slot c i = s.slot c i := rfl

section
variable {s : State} {k n : Nat} {m : Msg} {op : RemoteOp} {off : Nat} {w : Waiter}

/-- An access of the package that has come to its target is performed at the port while that is free, and answered (R9,
R112). -/
theorem accessLm_free (hord : s.inOrder k m = true) (hdue : m.due ≤ s.cycle) (hl : s.launchFor m ≠ none)
    (ht : s.takerOf m = some n) (hp : m.src.pkg = s.pkg) (hfree : s.portBusy n = false ∨ n = m.site) :
    s.accessLm k m op off w = (((s.dropMsg k).portAccess n m op off).1.respond n m w ((s.dropMsg k).portAccess n m op off).2.1
      false ((s.dropMsg k).portAccess n m op off).2.2) := by
  have hnow : (!s.inOrder k m || decide (s.cycle < m.due) || !s.answerRoom m w) = false := by
    simp [hord, Nat.not_lt.mpr hdue, State.answerRoom, hp]
  have hgo : (s.portBusy n && decide (n ≠ m.site ∨ m.src.pkg ≠ s.pkg) || !s.zyRoom n m.src.pkg) = false := by
    rcases hfree with h | h <;> simp [h, hp, State.zyRoom]
  simp only [State.accessLm, hnow, Option.isNone_eq_false_iff.mpr (Option.isSome_iff_ne_none.mpr hl), ht, hgo,
    Bool.false_eq_true, if_false]

/-- It waits while the port is busy with its core's own traffic (R9). -/
theorem accessLm_busy (hl : s.launchFor m ≠ none) (ht : s.takerOf m = some n) (hbusy : s.portBusy n = true) (hn : n ≠ m.site) :
    s.accessLm k m op off w = s := by
  simp [State.accessLm, Option.isNone_eq_false_iff.mpr (Option.isSome_iff_ne_none.mpr hl), ht, hbusy, hn]

end

/-- A posted store without a raise at its target's port changes the bytes of its range in that LM alone (R112). -/
theorem portAccess_store (s : State) (n off : Nat) (m : Msg) (bs : List Byte) :
    s.portAccess n m (.store bs none []) off = (s.modCore n (fun x => x.lmWrite off bs), [], false) := by
  simp only [State.portAccess, opConsumes, newBytes, opBad, opRaise, opReturns, Bool.false_and, List.map_nil,
    List.eraseDups_nil, List.append_nil, Bool.false_eq_true, if_false]

/-- A load at its target's port reads the bytes, and changes nothing (R112). -/
theorem portAccess_load {s : State} {n off size : Nat} {m : Msg} (h : (s.core n).lmBad off size = false) :
    s.portAccess n m (.load size) off = (s, (s.core n).lm.bytes off size, false) := by
  simp [State.portAccess, opConsumes, newBytes, opRaise, opReturns, opSize, h]

/-- The answer to a slot's access goes back to its core, and is taken in the same cycle (R9, R111). -/
theorem respond_slot {s : State} {n i : Nat} {m : Msg} {bs : List Byte} {nack bad : Bool} (hp : m.src.pkg = s.pkg) :
    s.respond n m (.slot i) bs nack bad = { s with
      net := s.net ++ [{ s.msgFrom n m.slot m.src (.response (.slot i) bs nack bad) with key := m.key, site := n, ring := dieOf n }]
      agenda := .remoteResponse s.net.length :: s.agenda } := by
  have hpost : s.answerTo n m (.response (.slot i) bs nack bad) = _ := post_own (by simp [State.msgFrom]) hp
  simp [State.respond, hpost, hp, answerEvent]

/-- REMOTE_ACCESS of an access to a core's LM. -/
theorem exec_remoteAccess {s : State} {k off : Nat} {m : Msg} {op : RemoteOp} {w : Waiter} (hk : s.net[k]? = some m)
    (hb : m.body = .access op off w) : exec (.remoteAccess k) s = .next (s.accessLm k m op off w) := by
  show Host.Outcome.next _ = _
  simp only [hk, State.remoteAccess, hb]

/-! ### The answer to a load -/

/-- A bundle whose C-word writes one x register when its answer comes retires: the register has the value, and nothing else
changes. -/
theorem retire_setX {s : State} {c i : Nat} {d : Reg} (v : Word) (hst : (s.slot c i).bundle.stash = none)
    (hpp : (s.slot c i).bundle.popPorts = []) (hps : (s.slot c i).bundle.popStreams = [])
    (hd : (s.slot c i).writesInto (.x d)) :
    ((s.actAs c i).setX d v).retire c i none = (s.actAs c i).setSlot c i
      (((s.slot c i).place c s.cycle { reg := .x d, val := v.setWidth 128, latency := 1 }).finished s.cycle) := by
  have hw : (s.actAs c i).setX d v = (s.actAs c i).setSlot c i
      ((s.slot c i).place c s.cycle { reg := .x d, val := v.setWidth 128, latency := 1 }) := writeReg_of (by exact hd)
  obtain ⟨hb, -⟩ := writeReg_system (s.slot c i) c s.cycle { reg := .x d, val := v.setWidth 128, latency := 1 }
  unfold State.retire
  rw [hw, applyPops_none (by rw [slot_setSlot_self, hb, hpp]) (by rw [slot_setSlot_self, hb, hps])]
  simp [hb, hst, Slot.finished, State.actAs]


/-- What a load of eight bytes leaves in its slot when the answer comes (R111, R321). -/
theorem answerSlot_load {s : State} {c i : Nat} {d : Reg} {va : Word} {bs : List Byte}
    (hst : (s.slot c i).bundle.stash = none) (hpp : (s.slot c i).bundle.popPorts = [])
    (hps : (s.slot c i).bundle.popStreams = []) (hd : (s.slot c i).writesInto (.x d)) :
    s.answerSlot c i (.x d 8 false) va none bs false false = (s.actAs c i).setSlot c i
      (((s.slot c i).place c s.cycle
        { reg := .x d, val := (BitVec.ofNat 64 (natOfBytes bs)).setWidth 128, latency := 1 }).finished s.cycle) := by
  rw [← retire_setX _ hst hpp hps hd]
  simp only [State.answerSlot, State.landed, extendLoad, Bool.false_and, Bool.false_eq_true, if_false]
  exact finishC_go_of_stash (s := s.actAs c i) hst _

/-- REMOTE_RESPONSE of an answer to a slot that waits for it (R111). -/
theorem exec_remoteResponse {s : State} {k n i : Nat} {m : Msg} {bs : List Byte} {land : Landing} {va : Word}
    {acq : Option Scope} {nack bad : Bool} (hk : s.net[k]? = some m) (hord : s.inOrder k m = true) (hl : s.launchFor m ≠ none)
    (ht : s.takerOf m = some n) (hb : m.body = .response (.slot i) bs nack bad)
    (hw : (s.slot n i).wait = .answer land va acq) (hland : land ≠ .header) :
    exec (.remoteResponse k) s = .next ((s.dropMsg k).answerSlot n i land va acq bs nack bad) := by
  have hhead : s.headerWaits n (.slot i) = false := by
    simp only [State.headerWaits, hw]
    cases land <;> simp_all
  show Host.Outcome.next _ = _
  simp only [State.onMsg, State.msgAt, hk, hb, isSlotAnswer, if_true, State.answer, hord, Bool.not_true, Bool.false_eq_true,
    if_false, Option.isNone_eq_false_iff.mpr (Option.isSome_iff_ne_none.mpr hl), ht, hhead, State.answered, slot_dropMsg, hw]

end Sys2Proof.Machine
end

section
/-!
CERTIFICATE. O25: another core's LM.
-/
namespace Sys2Proof.Proofs

open Sys2Proof.Machine

/-- Settles O25: an access leaves (`exec_ldD_remote`, `exec_stD_remote`), is performed at the port (`accessLm_free`), and its
answer lands (`answerSlot_load`). -/
theorem remoteMemory : Obligations.RemoteMemory := by
  refine ⟨?leaves, ?port, ?answer⟩
  case leaves =>
    intro s a b d imm r n h va msg hsp hok htx hp hcon hal hs hn hr
    refine ⟨⟨_, exec_ldD_remote h hsp hok htx hp hcon hal hs hn hr, rfl, ?_⟩, ?_⟩
    · simp [State.me, State.modSlot, State.slot, State.core, State.setSlot, State.setCore, va]
    · exact ⟨_, exec_stD_remote hsp hok htx hp hcon hal hs hn hr, finishC_goesOn h rfl rfl rfl⟩
  case port =>
    intro s k n off i m bs hk hord hdue hl ht hp
    refine ⟨fun op w hb hbusy hn => ?_, fun hfree => ⟨fun hb => ?_, fun hb hbad => ?_⟩⟩
    · rw [exec_remoteAccess hk hb, accessLm_busy hl ht hbusy hn]
    · rw [exec_remoteAccess hk hb, accessLm_free hord hdue hl ht hp hfree, portAccess_store]
      refine ⟨_, rfl, rfl, rfl, fun c hc => core_setCore_ne _ _ hc.symm, fun x => ?_⟩
      simp [State.respond, State.modCore, Memory.read_writeBytes]
    · have hlen : k < s.net.length := (List.getElem?_eq_some_iff.mp hk).1
      rw [exec_remoteAccess hk hb, accessLm_free hord hdue hl ht hp hfree, portAccess_load (s := s.dropMsg k) hbad,
        respond_slot (s := s.dropMsg k) hp]
      refine ⟨_, _, rfl, rfl, rfl, rfl, rfl, ?_, rfl⟩
      simp [State.dropMsg, List.length_eraseIdx, hlen]
  case answer =>
    intro s k n i m d va bs hk hord hl ht hb hw hpp hps hst hd _
    obtain ⟨hbun, -, hret, -, -, hloop⟩ := writeReg_system (s.slot n i) n s.cycle
      { reg := .x d, val := (BitVec.ofNat 64 (natOfBytes bs)).setWidth 128, latency := 1 }
    rw [exec_remoteResponse hk hord hl ht hb hw (by simp), answerSlot_load (s := s.dropMsg k) hst hpp hps hd]
    refine ⟨_, rfl, rfl, ?_, ?_, ?_, ?_, fun r hr => ?_, rfl⟩ <;> rw [slot_setSlot_self]
    · exact wait_finished ..
    · rw [retired_finished]; exact congrArg (· + 1) hret
    · exact pc_finished _ hloop hbun
    · rw [settled_finished]; exact settled_place_x ..
    · rw [settled_finished]; exact settled_place_ne _ _ _ _ (Ne.symm hr)

end Sys2Proof.Proofs
end

section
/-!
SUPPORT. What SEND, SPAWNQ, CALLAT, REPLY and MIGRATE do with the NI (02_execution R36 to R48), synchronous traps
(09_traps R197), and the queues that a message enters.
-/
namespace Sys2Proof.Machine

/-! ### Traps -/

/-- Landing writes changes the registers with their marks, and nothing else but what was pending. -/
theorem landAll_shape (t : Slot) : ∃ x v px pv,
    t.landAll = { t with x := x, v := v, poisonX := px, poisonV := pv, pend := [], landed := [] } := by
  have key : ∀ (ps : List Pending) (u : Slot), ∃ x v px pv,
      ps.foldl (fun u p => u.setReg p.reg p.val) u = { u with x := x, v := v, poisonX := px, poisonV := pv } := by
    intro ps
    induction ps with
    | nil => exact fun u => ⟨_, _, _, _, rfl⟩
    | cons p r ih =>
      intro u
      obtain ⟨x, v, px, pv, h⟩ := ih (u.setReg p.reg p.val)
      rw [List.foldl_cons, h]
      cases p.reg with
      | x d =>
        simp only [Slot.setReg]
        split <;> exact ⟨_, _, _, _, rfl⟩
      | v d => exact ⟨_, _, _, _, rfl⟩
  obtain ⟨x, v, px, pv, h⟩ := key t.pend t
  exact ⟨x, v, px, pv, by rw [Slot.landAll, h]⟩

theorem reg_congr {t u : Slot} (hx : t.x = u.x) (hv : t.v = u.v) (r : RegName) : t.reg r = u.reg r := by
  cases r <;> simp only [Slot.reg, hx, hv]

theorem settled_of_pend_nil {t : Slot} (h : t.pend = []) (r : RegName) : t.settled r = t.reg r := by
  rw [settled_eq, h]
  rfl

@[simp] theorem me_modMe (s : State) (f : Slot → Slot) : (s.modMe f).me = f s.me := by rw [modMe_eq, me_setSlot]

@[simp] theorem tvec_setSlot (k : CoreSt) (i : Nat) (t : Slot) : (k.setSlot i t).tvec = k.tvec := rfl

/-- A trap that the vector takes leaves the slot as R197 says. -/
theorem takeTrap_taken {s : State} {cause : Cause} {v tpc : Word} (h : s.here.tvec ≠ 0) :
    TrapTaken s (s.takeTrap s.cur.1 s.cur.2 cause v tpc) cause v tpc s.here.tvec := by
  obtain ⟨x, w, px, pv, hl⟩ := landAll_shape s.me
  have h' : (s.core s.cur.1).tvec ≠ 0 := h
  have ht : s.takeTrap s.cur.1 s.cur.2 cause v tpc = s.setSlot s.cur.1 s.cur.2 { s.me.landAll with
      wait := .none, tcause := BitVec.ofNat 64 cause.code, tval := v, tpc := tpc, rptst := rptstOf s.me.loop
      rptpc := (s.me.loop.map LoopSt.body).getD 0, loop := none, h := true, pc := s.here.tvec
      notBefore := max s.me.notBefore (s.cycle + 1) } := by
    simp only [State.takeTrap, modSlot_eq, me_eq, core_setSlot, tvec_setSlot, h', if_false, setSlot_setSlot,
      slot_setSlot_self, hl, cycle_setSlot]
    rfl
  rw [ht]
  refine ⟨?_, ?_, ?_, ?_, ?_, ?_, ?_, ?_, ?_, ?_, ?_, ?_, ?_, ?_, ?_⟩
  case refine_14 =>
    intro r
    rw [me_setSlot, settled_of_pend_nil (by rw [hl])]
    exact reg_congr rfl rfl r
  all_goals rw [me_setSlot, hl]
  rfl

/-- A synchronous trap outside a transaction, with a vector, is taken at its bundle (R173, R197). -/
theorem finishC_trap {s : State} {cause : Cause} {v : Word} (htx : s.me.txn = none) (h : s.here.tvec ≠ 0) :
    TrapTaken s (s.finishC (.error (s.stopWith cause v))) cause v s.me.bundle.here s.here.tvec := by
  have hs : s.stopWith cause v = .trap cause v := by simp [State.stopWith, htx]
  have htx' : (s.slot s.cur.1 s.cur.2).txn = none := htx
  rw [hs]
  simp only [State.finishC, State.trapNow, htx', Option.isSome_none, Bool.false_eq_true, if_false]
  exact takeTrap_taken h

/-! ### Operand checks of the sends -/

theorem noTxn_ok {s : State} (h : s.me.txn = none) : s.noTxn = .ok () := by simp [State.noTxn, h]

theorem checkPlace_ok {s : State} {v : Word} {p : Place} (h : s.placeTarget s.cur.1 v = some p) : s.checkPlace v = .ok p := by
  simp [State.checkPlace, h]

theorem checkPlace_error {s : State} {v : Word} (h : s.placeTarget s.cur.1 v = none) :
    s.checkPlace v = .error (s.stopWith .place v) := by
  simp [State.checkPlace, h]

theorem checkPc_ok {s : State} {pc : Word} (h : pc.toNat % 4 = 0) : s.checkPc pc = .ok () := by simp [State.checkPc, h]

theorem checkPc_error {s : State} {pc : Word} (h : pc.toNat % 4 ≠ 0) : s.checkPc pc = .error (s.stopWith .align pc) := by
  simp [State.checkPc, h]

/-- The registers from one on, by number. -/
theorem regs_eq (s : State) (b : Reg) (n : Nat) :
    s.regs b n = (List.range n).map (fun k => s.X (BitVec.ofNat 5 (b.toNat + k))) := by
  refine List.map_congr_left fun k _ => congrArg s.X ?_
  rw [BitVec.ofNat_add, BitVec.ofNat_toNat, BitVec.setWidth_eq]

/-! ### Releases of the sends, and the NI -/

/-- A release with nothing in the write buffer and nothing posted leaves the state, at every scope but SYSTEM (R157). -/
theorem release_idle {s : State} {sc : Scope} (hwb : s.here.wb = []) (hpo : s.posted = false) (hsc : sc ≠ .sys) :
    s.release sc = .ok s := by
  have hwb' : (s.core s.cur.1).wb = [] := hwb
  have hd : s.drained = .ok s := by
    simp only [State.drained, State.drainAll, hwb', List.length_nil, State.drainSteps, if_true]
    cases s.me.txn <;> simp
  have hp : s.performed sc = .ok s := by simp [State.performed, hpo, hsc]
  unfold State.release State.releaseAll
  split
  · rfl
  · rw [hd]; exact hp

theorem scopeOf_ne_sys (a b : Nat) : scopeOf a b ≠ .sys := by
  unfold scopeOf
  split_ifs <;> simp

theorem sendScope_ne_sys (s : State) (p : Place) : s.sendScope p ≠ .sys := by
  unfold State.sendScope
  split
  · exact scopeOf_ne_sys _ _
  · exact Scope.noConfusion

section
variable {s : State} {v : Word} {p : Place} {body : MsgBody}

/-- The state with a message of the running slot to a core of the package in the network. -/
def State.sent (s : State) (p : Place) (body : MsgBody) : State :=
  { s with net := s.net ++ [{ s.msgFrom s.cur.1 s.cur.2 p body with ring := dieOf s.cur.1 }] }

@[simp] theorem me_sent : (s.sent p body).me = s.me := rfl
@[simp] theorem cur_sent : (s.sent p body).cur = s.cur := rfl

/-- A message that the NI takes enters the network, and its slot has made progress (R40, R213). -/
theorem sendMsg_taken (hcon : s.contained s.cur.1 s.cur.2 = false) (hwb : s.here.wb = []) (hpo : s.posted = false)
    (hp : p.pkg = s.pkg) (hni : s.niTurn s.cur.1 s.cur.2 p = true) (hb : ∀ op off w, body ≠ .access op off w) :
    s.sendMsg v p body = .ok ((s.sent p body).modMe Slot.progress) := by
  have hpost : s.post s.cur.1 (s.msgFrom s.cur.1 s.cur.2 p body) = s.sent p body := post_own hb hp
  simp only [State.sendMsg, hcon, Bool.false_eq_true, if_false, release_idle hwb hpo (sendScope_ne_sys s p), bind, Except.bind,
    hni, if_true, hpost]
  rfl

/-- A message that the NI has no room or no turn for makes its bundle wait for the outbound buffer (R48). -/
theorem sendMsg_full (hcon : s.contained s.cur.1 s.cur.2 = false) (hwb : s.here.wb = []) (hpo : s.posted = false)
    (hp : p.pkg = s.pkg) (hni : s.niTurn s.cur.1 s.cur.2 p = false) : s.sendMsg v p body = .error (.wait s (.full .ni)) := by
  simp [State.sendMsg, hcon, release_idle hwb hpo (sendScope_ne_sys s p), bind, Except.bind, hni, State.niWait, State.zyTurn, hp]

end

/-! ### The five sends (R298, R334, R349, R353, R357) -/

section
variable {s : State} {a b : Reg} {count : BitVec 2} {ch : BitVec 6} {p : Place}

/-- SEND is its message, sent. -/
theorem sendRes_eq (htx : s.me.txn = none) (hpl : s.placeTarget s.cur.1 (s.X a) = some p) :
    s.sendRes a b count ch =
      (s.sendMsg (s.X a) p (.data ch.toNat ((s.regs b (count.toNat + 1)).map clean))).bind (fun t => go t) := by
  simp only [State.sendRes, noTxn_ok htx, checkPlace_ok hpl, bind, Except.bind]

/-- SPAWNQ is its message, sent, and a child more. -/
theorem spawnqRes_eq (htx : s.me.txn = none) (hpl : s.placeTarget s.cur.1 (s.X a) = some p) (hpc : (s.X b).toNat % 4 = 0)
    (hcon : s.contained s.cur.1 s.cur.2 = false) :
    s.spawnRes a b true = (s.sendMsg (s.X a) p (.spawn (s.X b) (s.regs 10 4) s.me.wid true)).bind (fun t => go t.bear) := by
  simp [State.spawnRes, State.spawnQueued, noTxn_ok htx, checkPlace_ok hpl, checkPc_ok hpc, bind, Except.bind, hcon]

/-- CALLAT is its message, sent. -/
theorem callatRes_eq (htx : s.me.txn = none) (hpl : s.placeTarget s.cur.1 (s.X a) = some p) (hpc : (s.X b).toNat % 4 = 0) :
    s.callatRes a b ch = (s.sendMsg (s.X a) p (.call (s.X b) (s.regs 10 4) s.me.wid
      (replyToken (s.placeOf s.cur.1) ch.toNat))).bind (fun t => go t) := by
  simp only [State.callatRes, noTxn_ok htx, checkPlace_ok hpl, checkPc_ok hpc, bind, Except.bind]

/-- REPLY is its message, sent. -/
theorem replyRes_eq (htx : s.me.txn = none) (hpl : s.tokenTarget (s.X a) = some p) :
    s.replyRes a b =
      (s.sendMsg (s.X a) p (.reply (bits (s.X a) 5 0) (clean (s.X b)))).bind (fun t => go t) := by
  simp only [State.replyRes, noTxn_ok htx, hpl, bind, Except.bind]

/-- A message that leaves after its release, where the NI takes it. -/
theorem sendAfter_taken {body : MsgBody} (hwb : s.here.wb = []) (hpo : s.posted = false)
    (hp : p.pkg = s.pkg) (hni : s.niTurn s.cur.1 s.cur.2 p = true) (hb : ∀ op off w, body ≠ .access op off w) :
    s.sendAfter (s.msgFrom s.cur.1 s.cur.2 p body) = .ok (s.sent p body) := by
  have hpost : s.post s.cur.1 (s.msgFrom s.cur.1 s.cur.2 p body) = s.sent p body := post_own hb hp
  have hrel : s.release (s.sendScope (s.msgFrom s.cur.1 s.cur.2 p body).dst) = .ok s :=
    release_idle hwb hpo (sendScope_ne_sys s p)
  have hni' : s.niTurn s.cur.1 s.cur.2 (s.msgFrom s.cur.1 s.cur.2 p body).dst = true := hni
  simp only [State.sendAfter, hrel, bind, Except.bind, hni', if_true, hpost]
  rfl

/-- MIGRATE of an inline child: its message, sent, and a return to x1 (R335). -/
theorem migrateRes_inline (htx : s.me.txn = none) (hpl : s.placeTarget s.cur.1 (s.X a) = some p) (hpc : (s.X b).toNat % 4 = 0)
    (hcv : s.me.cvsize ≤ 1) (hin : 0 < s.me.inlineDepth) (hret : (s.X 1).toNat % 4 = 0) (hwb : s.here.wb = [])
    (hpo : s.posted = false) (hp : p.pkg = s.pkg) (hni : s.niTurn s.cur.1 s.cur.2 p = true) :
    s.migrateRes a b = .ok (.jump ((s.sent p (.migrate (s.X b) (s.regs 10 8) s.me.wid)).modMe
      (fun u => { u.progress with inlineDepth := u.inlineDepth - 1 })) (s.X 1)) := by
  have hsend := sendAfter_taken (body := .migrate (s.X b) (s.regs 10 8) s.me.wid) hwb hpo hp hni (by simp)
  simp only [State.migrateRes, noTxn_ok htx, checkPlace_ok hpl, checkPc_ok hpc, checkPc_ok hret, bind, Except.bind,
    Nat.not_lt.mpr hcv, hin, if_true, if_false, hsend]
  rfl

/-- Nothing held and no parent: nothing leaves before the end of an activation. -/
theorem depart_nothing {c i : Nat} (hheld : (s.slot c i).heldMsgs = []) (hpar : (s.slot c i).parent = none) :
    s.depart c i = (s, .none) := by
  simp [State.depart, hheld, State.departHeld, hpar]

/-- MIGRATE of the activation itself: its message, sent, and the activation's end (R334). -/
theorem migrateRes_last (htx : s.me.txn = none) (hpl : s.placeTarget s.cur.1 (s.X a) = some p) (hpc : (s.X b).toNat % 4 = 0)
    (hcv : s.me.cvsize ≤ 1) (hin : s.me.inlineDepth = 0) (hheld : s.me.heldMsgs = []) (hpar : s.me.parent = none)
    (hwb : s.here.wb = []) (hpo : s.posted = false) (hp : p.pkg = s.pkg) (hni : s.niTurn s.cur.1 s.cur.2 p = true) :
    s.migrateRes a b = .ok (.ended (s.sent p (.migrate (s.X b) (s.regs 10 8) s.me.wid))) := by
  have hsend := sendAfter_taken (body := .migrate (s.X b) (s.regs 10 8) s.me.wid) hwb hpo hp hni (by simp)
  simp only [State.migrateRes, noTxn_ok htx, checkPlace_ok hpl, checkPc_ok hpc, bind, Except.bind, Nat.not_lt.mpr hcv, hin,
    Nat.lt_irrefl, if_false, depart_nothing (s := s) hheld hpar, hsend]

/-- A child's or a thread's PC that is not aligned traps ALIGN (R65). -/
theorem spawnRes_align {queued : Bool} (htx : s.me.txn = none) (hpl : s.placeTarget s.cur.1 (s.X a) = some p)
    (hpc : (s.X b).toNat % 4 ≠ 0) : s.spawnRes a b queued = .error (s.stopWith .align (s.X b)) := by
  simp only [State.spawnRes, noTxn_ok htx, checkPlace_ok hpl, checkPc_error hpc, bind, Except.bind]

theorem callatRes_align (htx : s.me.txn = none) (hpl : s.placeTarget s.cur.1 (s.X a) = some p)
    (hpc : (s.X b).toNat % 4 ≠ 0) : s.callatRes a b ch = .error (s.stopWith .align (s.X b)) := by
  simp only [State.callatRes, noTxn_ok htx, checkPlace_ok hpl, checkPc_error hpc, bind, Except.bind]

theorem migrateRes_align (htx : s.me.txn = none) (hpl : s.placeTarget s.cur.1 (s.X a) = some p)
    (hpc : (s.X b).toNat % 4 ≠ 0) : s.migrateRes a b = .error (s.stopWith .align (s.X b)) := by
  simp only [State.migrateRes, noTxn_ok htx, checkPlace_ok hpl, checkPc_error hpc, bind, Except.bind]

/-- A place word that names no core of the launch traps PLACE with it (R12). -/
theorem sends_place (htx : s.me.txn = none) (hpl : s.placeTarget s.cur.1 (s.X a) = none) :
    s.sendRes a b count ch = .error (s.stopWith .place (s.X a)) ∧
    (∀ queued, s.spawnRes a b queued = .error (s.stopWith .place (s.X a))) ∧
    s.callatRes a b ch = .error (s.stopWith .place (s.X a)) ∧
    s.migrateRes a b = .error (s.stopWith .place (s.X a)) := by
  refine ⟨?_, fun queued => ?_, ?_, ?_⟩ <;>
  simp only [State.sendRes, State.spawnRes, State.callatRes, State.migrateRes, noTxn_ok htx, checkPlace_error hpl, bind,
    Except.bind]

end

/-! ### The end of an activation -/

/-- What a retirement leaves of a slot. -/
theorem finished_shape (t : Slot) (now : Nat) : ∃ l pc f g n, t.finished now =
    { t with loop := l, pc := pc, retired := t.retired + 1, wait := .none, notBefore := n, portFrom := f, portTo := g } := by
  obtain ⟨l, pc, h⟩ := advance_cases (t.retireCount now)
  obtain ⟨f, g, n, k⟩ := retireCount_shape t now
  exact ⟨l, pc, f, g, n, by rw [Slot.finished, h, k]⟩

/-- A slot that is freed outside containment: it is idle, and only its core's list of waiting slots changes besides. -/
theorem freeSlot_frame {s : State} {c i : Nat} (hcon : s.contained c i = false) :
    ((s.freeSlot c i).slot c i).active = false ∧ (s.freeSlot c i).mem = s.mem ∧
      ((s.freeSlot c i).core c).lm = (s.core c).lm ∧ (s.freeSlot c i).net = s.net ∧ (s.freeSlot c i).cur = s.cur := by
  have hcon' : (s.modCore c (fun k => { k with chrdWaiters := k.chrdWaiters.filter (fun w => w.1 != i) })).contained c i =
      false := by
    rw [← hcon]
    simp only [State.contained, State.slot, State.modCore, core_setCore_self]
    rfl
  simp only [State.freeSlot, hcon', Bool.false_eq_true, if_false, modSlot_eq, slot_setSlot_self, core_setSlot, true_and]
  refine ⟨rfl, ?_, rfl, rfl⟩
  rw [State.modCore, core_setCore_self]
  rfl

/-- An activation ends alone: no caravan, and no parent to tell. -/
theorem endActivation_alone {s : State} {c i : Nat} (hcv : (s.slot c i).cvsize ≤ 1) (hpar : (s.slot c i).parent = none) :
    s.endActivation c i = (s.modSlot c i Slot.progress).freeSlot c i := by
  simp [State.endActivation, Nat.not_lt.mpr hcv, hpar]

/-- A lone bundle that jumps retires: the PC is the target. -/
theorem retire_jump {s : State} (h : Lone s) (pc : Word) :
    (s.retire s.cur.1 s.cur.2 (some pc)).me.pc = pc ∧ Retired s (s.retire s.cur.1 s.cur.2 (some pc)) [] {} := by
  obtain ⟨f, g, n, hs⟩ := retireCount_shape s.me s.cycle
  have ht : s.retire s.cur.1 s.cur.2 (some pc) = s.setSlot s.cur.1 s.cur.2 { s.me.retireCount s.cycle with pc := pc } := by
    have : s.me.bundle.stash = none := h.stash
    unfold State.retire
    rw [applyPops_none h.ports h.streams]
    simp only [me_eq, this, modSlot_eq]
  rw [ht]
  refine ⟨by rw [me_setSlot], by rw [me_setSlot], fun r _ => ?_, ?_, ?_, ?_, ?_, ?_⟩ <;> rw [me_setSlot, hs]
  · apply settled_congr <;> rfl
  · exact (or_empty _).symm
  · rfl

/-! ### Messages at their destination (R38 to R41) -/

section
variable {s : State} {k n : Nat} {m : Msg} {x : CoreSt}

theorem deliver_taken (hord : s.inOrder k m = true) (hl : s.launchFor m ≠ none) (ht : s.takerOf m = some n)
    (hr : (s.core n).receive m = some x) : s.deliver k m = (s.dropMsg k).setCore n x := by
  simp [State.deliver, hord, Option.isNone_eq_false_iff.mpr (Option.isSome_iff_ne_none.mpr hl), ht, hr]

theorem deliver_refused (hord : s.inOrder k m = true) (hl : s.launchFor m ≠ none) (ht : s.takerOf m = some n)
    (hr : (s.core n).receive m = none) :
    s.deliver k m = { s with net := modifyNth s.net k (fun m => { m with retried := true }) } := by
  simp [State.deliver, hord, Option.isNone_eq_false_iff.mpr (Option.isSome_iff_ne_none.mpr hl), ht, hr]

/-- A message to a context that is saved or moves waits (R203). -/
theorem deliver_waits (hl : s.launchFor m ≠ none) (ht : s.takerOf m = none) : s.deliver k m = s := by
  simp [State.deliver, Option.isNone_eq_false_iff.mpr (Option.isSome_iff_ne_none.mpr hl), ht]

/-- Up to 960 entries of the oasis take any message (R40). -/
theorem oasisTakes_common {b : MsgBody} (h : takesReserve b = false) :
    x.oasisTakes b = decide (x.oasis.length < 960) := by
  rw [CoreSt.oasisTakes, h, Bool.false_and, Bool.or_false]
  rfl

/-- The last 64 take a MIGRATE, a CALL or a REPLY (R40). -/
theorem oasisTakes_reserve {b : MsgBody} (h : takesReserve b = true) :
    x.oasisTakes b = decide (x.oasis.length < 1024) := by
  rw [Bool.eq_iff_iff]
  simp only [CoreSt.oasisTakes, h, Bool.true_and, Bool.or_eq_true, decide_eq_true_eq]
  simp only [Config.oasisCommon, Config.oasisAll]
  omega

/-- A message enters a queue with room while nothing waits in the oasis (R39). -/
theorem receive_room (hres : isReserved m.body = false) (ho : x.oasis = []) (hroom : x.hasRoom m.body = true) :
    x.receive m = some (x.enter { msg := m }) := by
  simp [CoreSt.receive, hres, ho, hroom]

/-- A SPAWN child takes the entry that was reserved for it (R42). -/
theorem receive_reserved (hres : isReserved m.body = true) (ho : x.oasis = []) :
    x.receive m = some (({ x with reserved := x.reserved - 1 } : CoreSt).enter { msg := m }) := by
  simp [CoreSt.receive, hres, ho]

/-- A message that no queue takes goes to the oasis, while that takes it (R39, R40). -/
theorem receive_oasis (hres : isReserved m.body = false) (ho : x.oasis ≠ [] ∨ x.hasRoom m.body = false)
    (ht : x.oasisTakes m.body = true) :
    x.receive m = some ({ x with oasis := x.oasis ++ [{ msg := m }] } : CoreSt).settle := by
  have hno : (x.oasis.isEmpty && x.hasRoom m.body) = false := by
    rcases ho with h | h <;> simp [h]
  simp only [CoreSt.receive, hres, Bool.false_and, Bool.false_eq_true, if_false, Bool.not_false, Bool.true_and, hno, ht, if_true]

/-- A message that the oasis does not take either stays in the sending NI (R40). -/
theorem receive_refused (hres : isReserved m.body = false) (ho : x.oasis ≠ []) (ht : x.oasisTakes m.body = false) :
    x.receive m = none := by
  simp [CoreSt.receive, hres, ho, ht]

/-- The oasis does not move an only entry whose queue has no room (R41). -/
theorem settle_stuck {q : QMsg} (ho : x.oasis = [q]) (hroom : x.hasRoom q.msg.body = false) : x.settle = x := by
  simp [CoreSt.settle, ho, CoreSt.oasisMoves, oasisNext, hroom]

/-- A message whose queue is full is the first in the oasis (R39, R41). -/
theorem receive_full (hres : isReserved m.body = false) (ho : x.oasis = []) (hroom : x.hasRoom m.body = false)
    (ht : x.oasisTakes m.body = true) : x.receive m = some { x with oasis := [{ msg := m }] } := by
  rw [receive_oasis hres (.inr hroom) ht, ho]
  exact congrArg some (settle_stuck (x := { x with oasis := [{ msg := m }] }) rfl hroom)

/-- An oasis of two entries, the older of which has no room: the younger moves out, unless it comes behind the older one on the
same way (R41). -/
theorem settle_second {a b : QMsg} (ho : x.oasis = [a, b]) (ha : x.hasRoom a.msg.body = false)
    (hb : x.hasRoom b.msg.body = true) (hstill : (({ x with oasis := [a] } : CoreSt).enter b).hasRoom a.msg.body = false) :
    x.settle = if sameWay b a then x else ({ x with oasis := [a] } : CoreSt).enter b := by
  have hoa : (({ x with oasis := [a] } : CoreSt).enter b).oasis = [a] := by
    unfold CoreSt.enter
    split <;> rfl
  by_cases hw : sameWay b a = true
  · simp [CoreSt.settle, ho, CoreSt.oasisMoves, oasisNext, ha, hb, hw]
  · have hw' : sameWay b a = false := by simpa using hw
    simp [CoreSt.settle, ho, CoreSt.oasisMoves, oasisNext, ha, hb, hw', hoa, hstill]

/-- A FIFO that takes words has no more room for others than before. -/
theorem hasRoom_after_data {y : CoreSt} {b : MsgBody} {ch : Nat} {ws : List FifoWord}
    (h : x.hasRoom b = false) (hf : y.fifos = put x.fifos ch (listOf x.fifos ch ++ ws)) (hu : y.arrivalUsed = x.arrivalUsed) :
    y.hasRoom b = false := by
  unfold CoreSt.hasRoom at h ⊢
  cases hb : fifoOf b with
  | none => simpa only [hb, hu] using h
  | some c =>
    simp only [hb, CoreSt.fifoRoom, hf] at h ⊢
    have hle : (listOf x.fifos c).length ≤ (listOf (put x.fifos ch (listOf x.fifos ch ++ ws)) c).length := by
      by_cases hc : ch = c
      · simp [listOf, hc]
      · simp [listOf, find_put_ne _ _ hc]
    exact decide_eq_false fun hroom => of_decide_eq_false h (hroom.trans (Nat.sub_le_sub_left hle _))

end

/-- The kinds of messages at their events. -/
theorem exec_queued {s : State} {k : Nat} {m : Msg} (hk : s.net[k]? = some m) :
    (isData m.body = true → exec (.dataMessage k) s = .next (s.deliver k m)) ∧
    (isSpawn m.body = true → exec (.spawnMessage k) s = .next (s.deliver k m)) ∧
    (isMigrate m.body = true → exec (.migrateMessage k) s = .next (s.deliver k m)) ∧
    (isCall m.body = true → exec (.callMessage k) s = .next (s.deliver k m)) ∧
    (isReply m.body = true → exec (.replyMessage k) s = .next (s.deliver k m)) := by
  refine ⟨?_, ?_, ?_, ?_, ?_⟩ <;>
  · intro h
    show Host.Outcome.next _ = _
    simp only [State.onMsg, State.msgAt, hk, h, if_true]

/-- What an arriving message without a reserved entry finds while its core's oasis is not empty, or its queue is full: the
oasis, up to a number of entries, and then the sending NI (R39, R40). -/
theorem deliver_oasis {s : State} {k n room : Nat} {m : Msg} (hord : s.inOrder k m = true) (hl : s.launchFor m ≠ none)
    (ht : s.takerOf m = some n) (hres : isReserved m.body = false)
    (htk : (s.core n).oasisTakes m.body = decide ((s.core n).oasis.length < room)) (h0 : 0 < room) :
    (room ≤ (s.core n).oasis.length →
      s.deliver k m = { s with net := modifyNth s.net k (fun m => { m with retried := true }) }) ∧
    ((s.core n).oasis.length < room → (s.core n).oasis ≠ [] → s.deliver k m =
      (s.dropMsg k).setCore n ({ s.core n with oasis := (s.core n).oasis ++ [{ msg := m }] } : CoreSt).settle) ∧
    ((s.core n).oasis = [] → (s.core n).hasRoom m.body = false → s.deliver k m =
      (s.dropMsg k).setCore n { s.core n with oasis := [{ msg := m }] }) := by
  refine ⟨fun h => ?_, fun h hne => ?_, fun he hroom => ?_⟩
  · refine deliver_refused hord hl ht (receive_refused hres (fun he => ?_) (by rw [htk]; simpa using h))
    rw [he] at h
    exact absurd h (Nat.not_le.mpr h0)
  · exact deliver_taken hord hl ht (receive_oasis hres (.inl hne) (by rw [htk]; simpa using h))
  · exact deliver_taken hord hl ht (receive_full hres he hroom (by rw [htk, he]; simpa using h0))

/-- A slot goes first for a queue when it began to wait before every other that waits for it (R48). -/
theorem firstFor_iff (x : CoreSt) (i : Nat) (q : Queue) : x.firstFor i q = true ↔
    ∀ j, j < 4 → j ≠ i → (x.slot j).active = true → (x.slot j).wants = some q →
      (x.slot i).lastIssue < (x.slot j).lastIssue ∨ (x.slot i).lastIssue = (x.slot j).lastIssue ∧ i < j := by
  simp only [CoreSt.firstFor, List.all_eq_true, List.mem_range, Bool.or_eq_true, beq_iff_eq, Bool.not_eq_true', bne_iff_ne,
    decide_eq_true_eq, Bool.and_eq_true]
  refine forall₂_congr fun j _ => ?_
  by_cases hji : j = i <;> by_cases ha : (x.slot j).active = true <;> by_cases hq : (x.slot j).wants = some q <;>
    simp [hji, ha, hq]

/-! ### The ends of the five sends -/

/-- A bundle that stalls keeps its PC, and nothing leaves (R195). -/
theorem finishC_stall {s : State} (h : Lone s) (w : Wait) : (s.finishC (.error (.wait s w))).me.wait = w ∧
    (s.finishC (.error (.wait s w))).me.pc = s.me.pc ∧ (s.finishC (.error (.wait s w))).net = s.net := by
  rw [finishC_wait h]
  show (s.modMe (fun u => { u with wait := w })).me.wait = w ∧ (s.modMe (fun u => { u with wait := w })).me.pc = s.me.pc ∧ _
  rw [me_modMe]
  exact ⟨rfl, rfl, rfl⟩

theorem me_bear (s : State) : s.bear.me = s.me := by
  simp only [State.me, State.slot, State.bear, State.modHere, State.modCore, cur_setCore, core_setCore_self]
  rfl

/-- A bundle whose message has left retires, and its slot goes on. -/
theorem sent_goesOn {s : State} (h : Lone s) (p : Place) (body : MsgBody) :
    GoesOn s (s.finishC (go ((s.sent p body).modMe Slot.progress))) ∧
      Retired ((s.sent p body).modMe Slot.progress) (s.finishC (go ((s.sent p body).modMe Slot.progress))) [] {} :=
  finishC_goesOn h rfl (by rw [me_modMe]; rfl) (by rw [me_modMe]; rfl)

/-- The same of a child's, which counts (R46). -/
theorem sent_bear_goesOn {s : State} (h : Lone s) (p : Place) (body : MsgBody) :
    GoesOn s (s.finishC (go ((s.sent p body).modMe Slot.progress).bear)) ∧
      Retired ((s.sent p body).modMe Slot.progress).bear (s.finishC (go ((s.sent p body).modMe Slot.progress).bear)) [] {} :=
  finishC_goesOn h rfl (by rw [me_bear, me_modMe]; rfl) (by rw [me_bear, me_modMe]; rfl)

/-- A MIGRATE that ends an inline child goes on at x1 (R335). -/
theorem sent_jump {s : State} (h : Lone s) (p : Place) (body : MsgBody) (f : Slot → Slot) (hf : (f s.me).bundle = s.me.bundle)
    (pc : Word) : (s.finishC (.ok (.jump ((s.sent p body).modMe f) pc))).me.pc = pc ∧
      Retired ((s.sent p body).modMe f) (s.finishC (.ok (.jump ((s.sent p body).modMe f) pc))) [] {} := by
  have hstash : (s.slot s.cur.1 s.cur.2).bundle.stash = none := h.stash
  have hlone : Lone ((s.sent p body).modMe f) := h.of_me (by rw [me_modMe]; exact hf)
  have hend : s.finishC (.ok (.jump ((s.sent p body).modMe f) pc)) =
      ((s.sent p body).modMe f).retire s.cur.1 s.cur.2 (some pc) := by
    simp [State.finishC, State.aStops, hstash]
  rw [hend]
  exact retire_jump hlone pc

/-- A MIGRATE that ends its activation frees the slot, and leaves the memories (R334). -/
theorem sent_ended {s : State} (h : Lone s) (p : Place) (body : MsgBody) (hcon : s.contained s.cur.1 s.cur.2 = false)
    (hcv : s.me.cvsize ≤ 1) (hpar : s.me.parent = none) : (s.finishC (.ok (.ended (s.sent p body)))).me.active = false ∧
      (s.finishC (.ok (.ended (s.sent p body)))).mem = s.mem ∧
      (s.finishC (.ok (.ended (s.sent p body)))).here.lm = s.here.lm ∧
      (s.finishC (.ok (.ended (s.sent p body)))).net = (s.sent p body).net := by
  obtain ⟨l, pc, f, g, n, hfin⟩ := finished_shape s.me s.cycle
  have hstash : (s.slot s.cur.1 s.cur.2).bundle.stash = none := h.stash
  have hend : s.finishC (.ok (.ended (s.sent p body))) =
      ((s.sent p body).setSlot s.cur.1 s.cur.2 (s.me.finished s.cycle).progress).freeSlot s.cur.1 s.cur.2 := by
    have hret : (s.sent p body).retire s.cur.1 s.cur.2 none = (s.sent p body).setSlot s.cur.1 s.cur.2 (s.me.finished s.cycle) :=
      retire_lone (h.of_me (t := s.sent p body) rfl)
    have hok : s.finishC (.ok (.ended (s.sent p body))) =
        ((s.sent p body).retire s.cur.1 s.cur.2 none).endActivation s.cur.1 s.cur.2 := by
      simp [State.finishC, State.aStops, hstash]
    rw [hok, hret, endActivation_alone (by rw [slot_setSlot_self, hfin]; exact hcv) (by rw [slot_setSlot_self, hfin]; exact hpar),
      modSlot_setSlot]
  have hcon' : ((s.sent p body).setSlot s.cur.1 s.cur.2 (s.me.finished s.cycle).progress).contained s.cur.1 s.cur.2 = false := by
    rw [← hcon, State.contained, slot_setSlot_self, core_setSlot, hfin]
    rfl
  obtain ⟨hact, hmem, hlm, hnet, hcur⟩ := freeSlot_frame hcon'
  rw [hend, State.me, State.here, hcur]
  exact ⟨hact, hmem, hlm.trans (by rw [core_setSlot]; rfl), hnet⟩

end Sys2Proof.Machine
end

section
/-!
CERTIFICATE. O27: messages on their way.
-/
namespace Sys2Proof.Proofs

open Sys2Proof.Machine

/-- Settles O27: what leaves (`sendMsg_taken`, `sendMsg_full`), what a core takes (`receive_room`, `deliver_oasis`), what moves
out of the oasis (`settle_second`), and what waits. -/
theorem messagesOnTheirWay : Obligations.MessagesOnTheirWay := by
  refine ⟨?leaving, ?taken, ?turn, ?moving, ?oasis, ?escape⟩
  case leaving =>
    intro s a b count ch p h htx hcon hwb hpo hp xs out sent quiet
    have hsent : s.niTurn s.cur.1 s.cur.2 p = true → ∀ v body, (∀ op off w, body ≠ .access op off w) →
        s.sendMsg v p body = .ok ((s.sent p body).modMe Slot.progress) := fun hni v body hb =>
      sendMsg_taken hcon hwb hpo hp hni hb
    refine ⟨fun hpl hni i hi hpc => ?_, fun hpl hni => ?_, fun htok hni => ?_, fun hpl hvec i hi => ?_⟩
    · have hfull : ∀ v body, s.sendMsg v p body = .error (.wait s (.full .ni)) := fun v body =>
        sendMsg_full hcon hwb hpo hp hni
      have hstall : ∀ r, exec i s = .next (s.finishC r) → r = .error (.wait s (.full .ni)) →
          ∃ t : State, exec i s = .next t ∧ t.me.wait = .full .ni ∧ t.me.pc = s.me.pc ∧ t.net = s.net := by
        rintro r he rfl
        exact ⟨_, he, finishC_stall h _⟩
      simp only [List.mem_cons, List.not_mem_nil, or_false] at hi
      rcases hi with rfl | rfl | rfl
      · exact hstall _ rfl (by rw [sendRes_eq htx hpl, hfull]; rfl)
      · have hpc : (s.X b).toNat % 4 = 0 := by simpa using hpc
        exact hstall _ rfl (by rw [spawnqRes_eq htx hpl hpc hcon, hfull]; rfl)
      · have hpc : (s.X b).toNat % 4 = 0 := by simpa using hpc
        exact hstall _ rfl (by rw [callatRes_eq htx hpl hpc, hfull]; rfl)
    · refine ⟨?_, fun hpc => ⟨?_, ?_, fun hin hcv hheld hpar => ?_, fun hin hcv hret => ?_⟩, fun hpc hvec i hi => ?_⟩
      · refine ⟨_, rfl, ?_⟩
        rw [sendRes_eq htx hpl, hsent hni _ _ (by simp), regs_eq]
        exact sent_goesOn h p _
      · refine ⟨_, rfl, ?_⟩
        rw [spawnqRes_eq htx hpl hpc hcon, hsent hni _ _ (by simp), regs_eq]
        exact sent_bear_goesOn h p _
      · refine ⟨_, rfl, ?_⟩
        rw [callatRes_eq htx hpl hpc, hsent hni _ _ (by simp), regs_eq]
        exact sent_goesOn h p _
      · refine ⟨_, rfl, ?_⟩
        rw [migrateRes_last htx hpl hpc hcv hin hheld hpar hwb hpo hp hni, regs_eq]
        exact sent_ended h p _ hcon hcv hpar
      · refine ⟨_, rfl, ?_⟩
        rw [migrateRes_inline htx hpl hpc hcv hin hret hwb hpo hp hni, regs_eq]
        exact sent_jump h p _ _ rfl _
      · have htrap : ∀ r, exec i s = .next (s.finishC r) → r = .error (s.stopWith .align (s.X b)) →
            ∃ t : State, exec i s = .next t ∧ TrapTaken s t .align (s.X b) s.me.bundle.here s.here.tvec := by
          rintro r he rfl
          exact ⟨_, he, finishC_trap htx hvec⟩
        simp only [List.mem_cons, List.not_mem_nil, or_false] at hi
        rcases hi with rfl | rfl | rfl | rfl
        · exact htrap _ rfl (spawnRes_align htx hpl hpc)
        · exact htrap _ rfl (spawnRes_align htx hpl hpc)
        · exact htrap _ rfl (callatRes_align htx hpl hpc)
        · exact htrap _ rfl (migrateRes_align htx hpl hpc)
    · refine ⟨_, rfl, ?_⟩
      rw [replyRes_eq htx htok, hsent hni _ _ (by simp), show bits (s.X a) 5 0 = (s.X a).toNat % 2 ^ 6 by simp [bits]]
      exact sent_goesOn h p _
    · have htrap : ∀ r, exec i s = .next (s.finishC r) → r = .error (s.stopWith .place (s.X a)) →
          ∃ t : State, exec i s = .next t ∧ TrapTaken s t .place (s.X a) s.me.bundle.here s.here.tvec := by
        rintro r he rfl
        exact ⟨_, he, finishC_trap htx hvec⟩
      obtain ⟨hsend, hspawn, hcall, hmigrate⟩ := sends_place (b := b) (count := count) (ch := ch) htx hpl
      simp only [List.mem_cons, List.not_mem_nil, or_false] at hi
      rcases hi with rfl | rfl | rfl | rfl | rfl
      · exact htrap _ rfl hsend
      · exact htrap _ rfl (hspawn false)
      · exact htrap _ rfl (hspawn true)
      · exact htrap _ rfl hcall
      · exact htrap _ rfl hmigrate
  case taken =>
    intro s k n m hk hord hl ht into x stays arrives urgent
    obtain ⟨hdata, hspawn, hmigrate, hcall, hreply⟩ := exec_queued hk
    have harrives : ∀ i, arrives i → exec i s = .next (s.deliver k m) ∧ isReserved m.body = false ∧
        takesReserve m.body = false := by
      rintro i (⟨c, ws, hb, rfl⟩ | ⟨pc, xs, wid, hb, rfl⟩)
      · exact ⟨hdata (by rw [hb]; rfl), by rw [hb]; rfl, by rw [hb]; rfl⟩
      · exact ⟨hspawn (by rw [hb]; rfl), by rw [hb]; rfl, by rw [hb]; rfl⟩
    have hurgent : ∀ i, urgent i → exec i s = .next (s.deliver k m) ∧ isReserved m.body = false ∧
        takesReserve m.body = true := by
      rintro i (⟨c, w, hb, rfl⟩ | ⟨pc, xs, wid, hb, rfl⟩ | ⟨pc, xs, wid, tok, hb, rfl⟩)
      · exact ⟨hreply (by rw [hb]; rfl), by rw [hb]; rfl, by rw [hb]; rfl⟩
      · exact ⟨hmigrate (by rw [hb]; rfl), by rw [hb]; rfl, by rw [hb]; rfl⟩
      · exact ⟨hcall (by rw [hb]; rfl), by rw [hb]; rfl, by rw [hb]; rfl⟩
    have hroomy : x.oasis = [] → isReserved m.body = false → x.hasRoom m.body = true → ∀ {y}, x.enter { msg := m } = y →
        s.deliver k m = into y := fun ho hres hroom y hy =>
      deliver_taken hord hl ht ((receive_room hres ho hroom).trans (congrArg some hy))
    refine ⟨fun i => ?_, fun ho => ⟨fun c ws hb hroom => ?_, fun c w hb hroom => ?_, fun hroom => ?_, fun pc xs wid hb => ?_⟩⟩
    · have hcommon := fun i (hi : arrives i) =>
        let ⟨he, hres, htk⟩ := harrives i hi
        And.intro he (deliver_oasis hord hl ht hres (oasisTakes_common htk) (by omega))
      have hreserve := fun i (hi : urgent i) =>
        let ⟨he, hres, htk⟩ := hurgent i hi
        And.intro he (deliver_oasis hord hl ht hres (oasisTakes_reserve htk) (by omega))
      refine ⟨fun hi hlen => ?_, fun hi hlen => ?_, ?_, ?_⟩
      · obtain ⟨he, hfull, -⟩ := hcommon i hi
        rw [he, hfull hlen]
      · obtain ⟨he, hfull, -⟩ := hreserve i hi
        rw [he, hfull hlen]
      · rintro (⟨hi, hlen⟩ | ⟨hi, hlen⟩) hne
        · obtain ⟨he, -, hmore, -⟩ := hcommon i hi
          rw [he, hmore hlen hne]; rfl
        · obtain ⟨he, -, hmore, -⟩ := hreserve i hi
          rw [he, hmore hlen hne]; rfl
      · rintro (hi | hi) hemp hroom
        · obtain ⟨he, -, -, hfirst⟩ := hcommon i hi
          rw [he, hfirst hemp hroom]; rfl
        · obtain ⟨he, -, -, hfirst⟩ := hreserve i hi
          rw [he, hfirst hemp hroom]; rfl
    · have hd : s.deliver k m = into { x with
          fifos := put x.fifos c (listOf x.fifos c ++ ws.map (fun w => { word := w })) } :=
        hroomy ho (by rw [hb]; rfl) (by simpa [CoreSt.hasRoom, hb, fifoOf, wordsOf] using hroom)
          (by simp [CoreSt.enter, hb, fifoOf, wordsOf])
      refine ⟨(hdata (by rw [hb]; rfl)).trans (congrArg _ hd), fun hret => ?_⟩
      rw [← hd]
      show Host.Outcome.next _ = _
      simp [State.onMsg, State.msgAt, hk, hb, isQueued, isData, hret]
    · exact (hreply (by rw [hb]; rfl)).trans (congrArg _ (hroomy ho (by rw [hb]; rfl)
        (by simpa [CoreSt.hasRoom, hb, fifoOf, wordsOf] using hroom) (by simp [CoreSt.enter, hb, fifoOf, wordsOf])))
    · have harrival : fifoOf m.body = none → isReserved m.body = false → s.deliver k m =
          into { x with arrival := x.arrival ++ [{ msg := m }] } := fun hf hres =>
        hroomy ho hres (by simpa [CoreSt.hasRoom, hf] using hroom) (by simp [CoreSt.enter, hf])
      refine ⟨fun pc xs wid hb => ?_, fun pc xs wid hb => ?_, fun pc xs wid tok hb => ?_⟩
      · exact (hspawn (by rw [hb]; rfl)).trans (congrArg _ (harrival (by rw [hb]; rfl) (by rw [hb]; rfl)))
      · exact (hmigrate (by rw [hb]; rfl)).trans (congrArg _ (harrival (by rw [hb]; rfl) (by rw [hb]; rfl)))
      · exact (hcall (by rw [hb]; rfl)).trans (congrArg _ (harrival (by rw [hb]; rfl) (by rw [hb]; rfl)))
    · refine (hspawn (by rw [hb]; rfl)).trans (congrArg _ ?_)
      rw [deliver_taken hord hl ht (receive_reserved (by rw [hb]; rfl) ho)]
      simp [CoreSt.enter, hb, fifoOf, into, State.dropMsg, x]
  case turn =>
    intro x i q _ waits
    refine ⟨fun h => (firstFor_iff x i q).mpr fun j hj hji ha hq => .inl (h j ⟨hj, hji, ha, hq⟩), fun j hw hlt => ?_⟩
    obtain ⟨hj, hji, ha, hq⟩ := hw
    rw [Bool.eq_false_iff]
    intro hf
    have := (firstFor_iff x i q).mp hf j hj hji ha hq
    omega
  case moving =>
    intro s k m hk ht hl i hi
    have hwaits : s.deliver k m = s := deliver_waits hl ht
    simp only [List.mem_cons, List.not_mem_nil, or_false] at hi
    rcases hi with rfl | rfl | rfl | rfl | rfl <;>
    · show Host.Outcome.next _ = _
      simp only [State.onMsg, State.msgAt, hk]
      split <;> simp_all
  case oasis =>
    intro x a b ch ws ho hb ha hroom
    have hroomb : x.hasRoom b.msg.body = true := by simpa [CoreSt.hasRoom, hb, fifoOf, wordsOf] using hroom
    have henter : ({ x with oasis := [a] } : CoreSt).enter b = { x with
        oasis := [a], fifos := put x.fifos ch (listOf x.fifos ch ++ ws.map (fun w => { word := w })) } := by
      simp [CoreSt.enter, hb, fifoOf, wordsOf]
    rw [settle_second ho ha hroomb (by rw [henter]; exact hasRoom_after_data ha rfl rfl), henter]
    refine if_congr ?_ rfl rfl
    simp only [sameWay, hb, fifoOf, Bool.and_eq_true, beq_iff_eq]
    exact and_congr eq_comm eq_comm
  case escape =>
    intro s k m hk
    refine ⟨fun harr hvc hst => ?_, fun hst => ?_, fun hf hd => ?_, fun hf => ?_⟩
    · show Host.Outcome.next (s.escape k) = _
      simp [State.escape, hk, harr, hvc, hst]
    · show Host.Outcome.next (s.escape k) = _
      simp [State.escape, hk, hst]
    · obtain ⟨ch, ws, hb⟩ := hd
      refine ⟨s.deliver k m, ?_, (exec_queued hk).1 (by rw [hb]; rfl)⟩
      show Host.Outcome.next (s.forward k) = _
      simp [State.forward, hk, hf, State.reach, hb, isQueued, isData]
    · show Host.Outcome.next (s.forward k) = _
      simp [State.forward, hk, hf]

end Sys2Proof.Proofs
end

section
/-!
SUPPORT. What the steps of a stopping core leave of every core's context and of the launches (09_traps R202): steady changes.
-/
namespace Sys2Proof.Machine

/-! ### What names a context -/

/-- What a core holds of its context's name: its launch, its launch-origin core, its stage and its forwarding entries. -/
def CoreSt.context (k : CoreSt) : Option Nat × Nat × Stage × List (Nat × Nat × Nat) := (k.launch, k.origin, k.stage, k.forwards)

theorem context_eq_iff {k k' : CoreSt} : k.context = k'.context ↔
    k.launch = k'.launch ∧ k.origin = k'.origin ∧ k.stage = k'.stage ∧ k.forwards = k'.forwards := by
  simp [CoreSt.context]

/-- A launch's generation, if it is unfinished. -/
def State.genOf (s : State) (l : Nat) : Option Nat := (find s.launches l).map Launch.gen

/-- A change that leaves the cycle, the next serial number, the launches' generations and every core's context. -/
structure State.Steady (s t : State) : Prop where
  cycle : t.cycle = s.cycle
  serial : t.serial = s.serial
  gens : ∀ l, t.genOf l = s.genOf l
  context : ∀ d, (t.core d).context = (s.core d).context

namespace State.Steady

theorem refl (s : State) : s.Steady s := ⟨rfl, rfl, fun _ => rfl, fun _ => rfl⟩

theorem trans {s t u : State} (h : s.Steady t) (g : t.Steady u) : s.Steady u :=
  ⟨g.cycle.trans h.cycle, g.serial.trans h.serial, fun l => (g.gens l).trans (h.gens l),
    fun d => (g.context d).trans (h.context d)⟩

theorem foldl {α : Type} {f : State → α → State} (h : ∀ (s : State) a, s.Steady (f s a)) (as : List α) (s : State) :
    s.Steady (as.foldl f s) := by
  induction as generalizing s with
  | nil => exact refl s
  | cons a as ih => exact (h s a).trans (ih _)

theorem thenFoldl {α : Type} {s t : State} {f : State → α → State} {as : List α} (h : s.Steady t)
    (hf : ∀ (s : State) a, s.Steady (f s a)) : s.Steady (as.foldl f t) := h.trans (foldl hf as t)

/-- A change outside the cores, the launches and the clock. -/
theorem of_cores {s t : State} (hc : t.cores = s.cores) (hl : t.launches = s.launches) (hy : t.cycle = s.cycle)
    (hs : t.serial = s.serial) : s.Steady t :=
  ⟨hy, hs, fun l => by rw [genOf, hl, genOf], fun d => by rw [State.core, hc, State.core]⟩

theorem setCore (s : State) (c : Nat) {k : CoreSt} (h : k.context = (s.core c).context) : s.Steady (s.setCore c k) := by
  refine ⟨rfl, rfl, fun _ => rfl, fun d => ?_⟩
  by_cases hd : c = d
  · rw [← hd, core_setCore_self, h]
  · rw [core_setCore_ne _ _ hd]

theorem modCore (s : State) (c : Nat) (f : CoreSt → CoreSt) (h : ∀ k, (f k).context = k.context) : s.Steady (s.modCore c f) :=
  setCore s c (h _)

theorem modDir (s : State) (off : Nat) (f : DirEntry → DirEntry) : s.Steady (s.modDir off f) := of_cores rfl rfl rfl rfl

theorem setSlot (s : State) (c i : Nat) (t : Slot) : s.Steady (s.setSlot c i t) := setCore s c rfl

theorem modSlot (s : State) (c i : Nat) (f : Slot → Slot) : s.Steady (s.modSlot c i f) := setSlot s c i _

theorem thenModCore {s t : State} {c : Nat} {f : CoreSt → CoreSt} (h : s.Steady t) (hf : ∀ k, (f k).context = k.context) :
    s.Steady (t.modCore c f) := h.trans (modCore t c f hf)

theorem thenModSlot {s t : State} {c i : Nat} {f : Slot → Slot} (h : s.Steady t) : s.Steady (t.modSlot c i f) :=
  h.trans (modSlot t c i f)

theorem modLaunch (s : State) (l : Nat) {f : Launch → Launch} (h : ∀ x, (f x).gen = x.gen) : s.Steady (s.modLaunch l f) := by
  unfold State.modLaunch
  split
  · next x hx =>
    refine ⟨rfl, rfl, fun m => ?_, fun _ => rfl⟩
    by_cases hm : l = m
    · simp [genOf, ← hm, hx, h]
    · simp only [genOf, find_put_ne _ _ hm]
  · exact refl s

end State.Steady

/-! ### Every core changed at once -/

theorem find_map_snd {α β : Type} (l : List (Nat × α)) (g : Nat → α → β) (n : Nat) :
    find (l.map (fun p => (p.1, g p.1 p.2))) n = (find l n).map (g n) := by
  induction l with
  | nil => rfl
  | cons p r ih =>
    obtain ⟨k, v⟩ := p
    simp only [List.map_cons, find]
    split
    · next h => rw [h]; rfl
    · exact ih

/-- A change of every core that leaves an idle one. -/
theorem core_mapCores (s : State) {g : Nat → CoreSt → CoreSt} {c : Nat} (h : g c (idleCore c) = idleCore c) :
    ({ s with cores := s.cores.map (fun p => (p.1, g p.1 p.2)) } : State).core c = g c (s.core c) := by
  simp only [State.core, find_map_snd]
  cases find s.cores c with
  | none => exact h.symm
  | some k => rfl

/-- A member of a caravan that ends leaves it. -/
def CoreSt.leaves (m : Membership) (k : CoreSt) : CoreSt := if k.caravan = some m then { k with caravan := none } else k

/-- A core without the lines that a write drops. -/
def CoreSt.without (w : Writer) (lines : List Nat) (c : Nat) (k : CoreSt) : CoreSt :=
  if w.keeps c then k else { k with l1d := k.l1d.filter (fun l => !lines.contains (l.pa % 2 ^ 42 / 256 * 256)) }

theorem context_leaves (m : Membership) (k : CoreSt) : (k.leaves m).context = k.context := by
  unfold CoreSt.leaves
  split <;> rfl

theorem context_without (w : Writer) (lines : List Nat) (c : Nat) (k : CoreSt) :
    (k.without w lines c).context = k.context := by
  unfold CoreSt.without
  split <;> rfl

theorem freeCaravan_eq (s : State) (c i : Nat) : s.freeCaravan c i =
    ({ s with cores := s.cores.map (fun p => (p.1, p.2.leaves ⟨c, i⟩)) } : State).modSlot c i
      (fun t => { t with cvsize := 1, cvmask := 0 }) := by
  have : (fun (p : Nat × CoreSt) => if p.2.caravan = some (Membership.mk c i) then (p.1, { p.2 with caravan := none }) else p) =
      (fun p => (p.1, p.2.leaves ⟨c, i⟩)) := by
    funext p
    unfold CoreSt.leaves
    split <;> rfl
  rw [State.freeCaravan, this]

theorem dropLines_eq (s : State) (w : Writer) (lines : List Nat) : s.dropLines w lines =
    { s with cores := s.cores.map (fun p => (p.1, p.2.without w lines p.1)) } := by
  have : (fun (p : Nat × CoreSt) => if w.keeps p.1 then p
      else (p.1, { p.2 with l1d := p.2.l1d.filter (fun l => !lines.contains (l.pa % 2 ^ 42 / 256 * 256)) })) =
      (fun p => (p.1, p.2.without w lines p.1)) := by
    funext p
    unfold CoreSt.without
    split <;> rfl
  rw [State.dropLines, this]

theorem core_leaves (s : State) (m : Membership) (c : Nat) :
    ({ s with cores := s.cores.map (fun p => (p.1, p.2.leaves m)) } : State).core c = (s.core c).leaves m :=
  core_mapCores s (g := fun _ => CoreSt.leaves m) rfl

theorem core_dropLines (s : State) (w : Writer) (lines : List Nat) (c : Nat) :
    (s.dropLines w lines).core c = (s.core c).without w lines c := by
  rw [dropLines_eq]
  refine core_mapCores s (g := fun d k => k.without w lines d) ?_
  unfold CoreSt.without
  split <;> rfl

namespace State.Steady

theorem freeCaravan (s : State) (c i : Nat) : s.Steady (s.freeCaravan c i) := by
  rw [freeCaravan_eq]
  refine trans (t := { s with cores := s.cores.map (fun p => (p.1, p.2.leaves ⟨c, i⟩)) })
    ⟨rfl, rfl, fun _ => rfl, fun d => ?_⟩ (modSlot _ c i _)
  rw [core_leaves, context_leaves]

theorem claimLines (s : State) (w : Writer) (off n : Nat) : s.Steady (s.claimLines w off n) := by
  refine trans (t := s.grantLines (s.writerOf w (linesOf off n)) (linesOf off n)) ?_ ⟨?_, ?_, fun _ => ?_, fun d => ?_⟩
  · unfold State.grantLines
    split
    · exact foldl (fun s l => modDir s l _) _ _
    · exact of_cores rfl rfl rfl rfl
    · exact refl s
  · rfl
  · rfl
  · rfl
  · rw [State.claimLines, core_dropLines, context_without]

theorem homeWrite (s : State) (w : Writer) (off : Nat) (bs : List Byte) : s.Steady (s.homeWrite w off bs) :=
  trans (t := { s with mem := s.mem.writeBytes off bs
                       memPoison := s.memPoison.filter (fun g => !(Machine.covered off bs.length).contains g) })
    (of_cores rfl rfl rfl rfl) (claimLines _ w off bs.length)

theorem abortTxn (s : State) (c i : Nat) (why : Abort) (code : Nat) : s.Steady (s.abortTxn c i why code) := modSlot s c i _

theorem plainAccess {s t : State} {tile : Nat} {w : Bool} {self : Option (Nat × Nat)} (h : s.plainAccess tile w self = some t) :
    s.Steady t := by
  simp only [State.plainAccess, Option.ite_none_left_eq_some, Option.some.injEq] at h
  rw [← h.2]
  exact foldl (fun s x => abortTxn s _ _ _ _) _ _

theorem drainEntry {s t : State} {c : Nat} {e : WbEntry} (h : s.drainEntry c e = some t) : s.Steady t := by
  simp only [State.drainEntry, Option.ite_none_left_eq_some, Option.map_eq_some_iff] at h
  obtain ⟨-, u, hu, rfl⟩ := h
  exact ((plainAccess hu).trans (foldl (fun s p => homeWrite s _ _ _) _ _)).trans (foldl (fun s i => modSlot s c i _) _ _)

theorem drainNth {s t : State} {c n : Nat} (h : s.drainNth c n = some t) : s.Steady t := by
  unfold State.drainNth at h
  split at h
  · cases h
  · obtain ⟨u, hu, rfl⟩ := Option.map_eq_some_iff.mp h
    exact thenModCore ((drainEntry hu).trans (of_cores rfl rfl rfl rfl)) fun _ => rfl

theorem snoopWb (s : State) (c : Nat) : s.Steady (s.snoopWb c) := by
  unfold State.snoopWb
  refine foldl (fun s e => ?_) _ s
  split
  · exact refl s
  · exact modDir s _ _

theorem drainSteps (s : State) (c n : Nat) : s.Steady (s.drainSteps c n) := by
  induction n generalizing s with
  | zero => exact refl s
  | succ n ih =>
    unfold State.drainSteps
    split
    · next t ht => exact (drainNth ht).trans (ih t)
    · exact snoopWb s c

theorem drainAll (s : State) (c : Nat) : s.Steady (s.drainAll c) := drainSteps s c _

theorem leaveWait (s : State) (c i : Nat) : s.Steady (s.leaveWait c i) := by
  unfold State.leaveWait
  refine thenModSlot (thenModCore ?_ fun _ => rfl)
  unfold State.unissued
  split
  · refine modLaunch s _ fun x => ?_
    unfold Launch.unissue
    split <;> rfl
  · exact refl s

theorem partCaravan (s : State) (c i : Nat) : s.Steady (s.partCaravan c i) := by
  unfold State.partCaravan
  split
  · exact (freeCaravan s c i).trans (modSlot _ c i _)
  · split
    · exact refl s
    · refine (trans ?_ (leaveWait _ c i)).trans (modSlot _ c i _)
      split
      · exact abortTxn s c i _ _
      · exact refl s

theorem partCore (s : State) (c : Nat) : s.Steady (s.partCore c) := by
  unfold State.partCore
  refine trans (t := s.partMember c) ?_ (foldl (fun s i => ?_) _ _)
  · unfold State.partMember
    split
    · exact partCaravan s _ _
    · exact refl s
  · split
    · exact partCaravan s c i
    · exact refl s

end State.Steady

end Sys2Proof.Machine
end

section
/-!
SUPPORT. The slots of a stopping core: what the end of a matrix command, the parting of caravans and the halt itself keep of them
(09_traps R202).
-/
namespace Sys2Proof.Machine

/-! ### What a stopping core's slots keep -/

theorem core_slot_setSlot (k : CoreSt) (i j : Nat) (t : Slot) :
    (k.setSlot i t).slot j = if Fin.ofNat 4 i = Fin.ofNat 4 j then t else k.slot j := by
  simp only [CoreSt.slot, CoreSt.setSlot, Vector.get_eq_getElem, Vector.getElem_set, Fin.ext_iff]

theorem slot_mod (k : CoreSt) (i : Nat) : k.slot i = k.slot (i % 4) := by
  have : Fin.ofNat 4 i = Fin.ofNat 4 (i % 4) := Fin.ext (by simp)
  rw [CoreSt.slot, CoreSt.slot, this]

/-- A slot as it was, but for its flags, a wait that may have ended, and a caravan that may have become free. -/
structure Slot.Keeps (t u : Slot) : Prop where
  x : u.x = t.x
  v : u.v = t.v
  pend : u.pend = t.pend
  pc : u.pc = t.pc
  active : u.active = t.active
  txn : u.txn = t.txn
  streams : u.streams = t.streams
  wait : u.wait = t.wait ∨ u.wait = .none
  alone : t.cvsize ≤ 1 → u.cvsize ≤ 1

theorem Slot.Keeps.refl (t : Slot) : t.Keeps t := ⟨rfl, rfl, rfl, rfl, rfl, rfl, rfl, .inl rfl, id⟩

theorem Slot.Keeps.trans {t u w : Slot} (h : t.Keeps u) (g : u.Keeps w) : t.Keeps w where
  x := g.x.trans h.x
  v := g.v.trans h.v
  pend := g.pend.trans h.pend
  pc := g.pc.trans h.pc
  active := g.active.trans h.active
  txn := g.txn.trans h.txn
  streams := g.streams.trans h.streams
  wait := g.wait.elim (fun e => e ▸ h.wait) .inr
  alone := fun hc => g.alone (h.alone hc)

/-- A core whose context, queues of headers and of elements, and write buffer are as they were, and whose slots keep what they
had. -/
structure CoreSt.Keeps (k k' : CoreSt) : Prop where
  context : k'.context = k.context
  wb : k'.wb = k.wb
  devq : k'.devq = k.devq
  gq : k'.gq = k.gq
  caravan : k.caravan = none → k'.caravan = none
  slots : ∀ i, (k.slot i).Keeps (k'.slot i)

namespace CoreSt.Keeps

theorem refl (k : CoreSt) : k.Keeps k := ⟨rfl, rfl, rfl, rfl, id, fun _ => .refl _⟩

theorem trans {k k' k'' : CoreSt} (h : k.Keeps k') (g : k'.Keeps k'') : k.Keeps k'' :=
  ⟨g.context.trans h.context, g.wb.trans h.wb, g.devq.trans h.devq, g.gq.trans h.gq, fun hc => g.caravan (h.caravan hc),
    fun i => (h.slots i).trans (g.slots i)⟩

theorem of_slots {k k' : CoreSt} (hc : k'.context = k.context) (hw : k'.wb = k.wb) (hd : k'.devq = k.devq)
    (hg : k'.gq = k.gq) (hv : k.caravan = none → k'.caravan = none) (hs : k'.slots = k.slots) : k.Keeps k' :=
  ⟨hc, hw, hd, hg, hv, fun i => by rw [CoreSt.slot, CoreSt.slot, hs]; exact .refl _⟩

theorem setSlot {k : CoreSt} {i : Nat} {t : Slot} (h : (k.slot i).Keeps t) : k.Keeps (k.setSlot i t) := by
  refine ⟨rfl, rfl, rfl, rfl, id, fun j => ?_⟩
  rw [core_slot_setSlot]
  split
  · next hij => rwa [CoreSt.slot, ← hij]
  · exact .refl _

theorem leaves (m : Membership) (k : CoreSt) : k.Keeps (k.leaves m) := by
  unfold CoreSt.leaves
  split
  · exact of_slots rfl rfl rfl rfl (fun _ => rfl) rfl
  · exact refl k

end CoreSt.Keeps

/-! ### A finished matrix command -/

/-- A message that is no access changes the network alone. -/
theorem post_net {s : State} {c : Nat} {m : Msg} (h : ∀ op off w, m.body ≠ .access op off w) :
    ∃ n, s.post c m = { s with net := n } := by
  by_cases hp : m.dst.pkg = s.pkg
  · exact ⟨_, post_own h hp⟩
  · exact ⟨_, if_neg hp⟩

/-- Messages that are no accesses change the network alone. -/
theorem foldl_post_net {α : Type} {c : Nat} {f : State → α → Msg} (h : ∀ s a op off w, (f s a).body ≠ .access op off w)
    (as : List α) (s : State) : ∃ n, as.foldl (fun s a => s.post c (f s a)) s = { s with net := n } := by
  induction as generalizing s with
  | nil => exact ⟨_, rfl⟩
  | cons a as ih =>
    obtain ⟨n, hn⟩ := post_net (s := s) (c := c) (h s a)
    obtain ⟨n', hn'⟩ := ih { s with net := n }
    exact ⟨n', by rw [List.foldl_cons, hn, hn']⟩

/-- A core with its LM and the arrivals of its barriers replaced, which its waiting slots see. -/
theorem keeps_seeEvents (k : CoreSt) (lm : Memory) (as : List (Place × Nat × Nat × Nat)) :
    k.Keeps ({ k with lm, barArrivals := as } : CoreSt).seeEvents := .of_slots rfl rfl rfl rfl id rfl

/-- A raise changes its core and the network. -/
theorem raise_cases (s : State) (c o m : Nat) :
    ∃ k n, s.raise c o m = { s.setCore c k with net := n } ∧ (s.core c).Keeps k ∧ k.mq = (s.core c).mq := by
  unfold State.raise
  obtain ⟨n, hn⟩ := foldl_post_net (c := c) (f := fun s (a : Place × Nat × Nat × Nat) =>
    { s.msgFrom c 0 a.1 (.wake a.2.1 o (BitVec.ofNat 32 a.2.2.2)) with slot := a.2.1 }) (by simp [State.msgFrom]) _ _
  exact ⟨_, n, hn, keeps_seeEvents _ _ _, rfl⟩

/-- The flags of an engine change their slot alone. -/
theorem engineFlags_cases (s : State) (c i act : Nat) (f : Flags) :
    s.engineFlags c i act f = s ∨ s.engineFlags c i act f = s.modSlot c i (fun t => { t with fflags := t.fflags.or f }) := by
  unfold State.engineFlags
  split
  · exact .inr rfl
  · exact .inl rfl

theorem modSlot_setCore (s : State) (c i : Nat) (k : CoreSt) (f : Slot → Slot) :
    (s.setCore c k).modSlot c i f = s.setCore c (k.setSlot i (f (k.slot i))) := by
  rw [modSlot_eq, State.setSlot, setCore_setCore, core_setCore_self, State.slot, core_setCore_self]

theorem keeps_fflags (k : CoreSt) (i : Nat) (f : Flags) :
    k.Keeps (k.setSlot i { k.slot i with fflags := (k.slot i).fflags.or f }) :=
  .setSlot ⟨rfl, rfl, rfl, rfl, rfl, rfl, rfl, .inl rfl, id⟩

/-- The head of a core's matrix queue is done: its events stand in the bank's status. -/
def CoreSt.headDone (k : CoreSt) (e : MEntry) (r : MRun) : CoreSt := { k.recordEvents e r with mq := k.mq.drop 1 }

theorem keeps_headDone (k : CoreSt) (e : MEntry) (r : MRun) : k.Keeps (k.headDone e r) := by
  unfold CoreSt.headDone CoreSt.recordEvents CoreSt.setWorking
  split
  · exact .of_slots rfl rfl rfl rfl id rfl
  · split <;> exact .of_slots rfl rfl rfl rfl id rfl

/-- The end of a running matrix command changes its core, whose queue loses its head, and the network. -/
theorem endRun_cases (s : State) (c : Nat) : s.endRun c = s ∨ ∃ k n, s.endRun c = { s.setCore c k with net := n } ∧
    (s.core c).Keeps k ∧ k.mq = (s.core c).mq.drop 1 := by
  unfold State.endRun
  split
  case h_2 => exact .inl rfl
  case h_1 e es hq =>
  split
  case isFalse => exact .inl rfl
  case isTrue hrun =>
  obtain ⟨r, hr⟩ := Option.isSome_iff_exists.mp hrun
  simp only [State.completeMatrix, hq, hr]
  split
  case isFalse => exact .inl rfl
  case isTrue =>
  have hflags : ∃ k, ((s.modCore c (fun k => k.headDone e r)).engineFlags c e.slot e.act r.flags) = s.setCore c k ∧
      (s.core c).Keeps k ∧ k.mq = (s.core c).mq.drop 1 := by
    rcases engineFlags_cases (s.modCore c (fun k => k.headDone e r)) c e.slot e.act r.flags with h | h
    · exact ⟨_, h, keeps_headDone _ e r, rfl⟩
    · exact ⟨_, h.trans (modSlot_setCore s c e.slot _ _), (keeps_headDone _ e r).trans (keeps_fflags _ e.slot r.flags), rfl⟩
  obtain ⟨k, hk, hkeep, hmq⟩ := hflags
  have hk' : (s.modCore c (fun k => { k.recordEvents e r with mq := k.mq.drop 1 })).engineFlags c e.slot e.act r.flags =
      s.setCore c k := hk
  right
  rw [hq] at hmq
  rw [hk']
  split
  · obtain ⟨k', n, h, hkeep', hmq'⟩ := raise_cases (s.setCore c k) c (16 * e.sw) 1
    rw [core_setCore_self] at hkeep' hmq'
    rw [setCore_setCore] at h
    exact ⟨k', n, h, hkeep.trans hkeep', hmq'.trans hmq⟩
  · exact ⟨k, _, rfl, hkeep, hmq⟩

theorem State.Steady.endRun (s : State) (c : Nat) : s.Steady (s.endRun c) := by
  rcases endRun_cases s c with h | ⟨k, n, h, hk, -⟩
  · rw [h]; exact .refl s
  · rw [h]
    exact (setCore s c hk.context).trans (.of_cores rfl rfl rfl rfl)

/-! ### Caravans of a stopping core -/

theorem core_modSlot_self (s : State) (c i : Nat) (f : Slot → Slot) :
    (s.modSlot c i f).core c = (s.core c).setSlot i (f ((s.core c).slot i)) := by
  rw [modSlot_eq, core_setSlot]
  rfl

/-- A slot without members releases no caravan but the one that it is composing. -/
theorem partCaravan_keeps {s : State} {c i : Nat} (h : (s.slot c i).cvsize ≤ 1) :
    (s.core c).Keeps ((s.partCaravan c i).core c) ∧ ((s.partCaravan c i).core c).mq = (s.core c).mq ∧
      ((∀ d m g, (s.slot c i).wait ≠ .compose d m g) → s.partCaravan c i = s) := by
  unfold State.partCaravan
  split
  · next hw =>
    refine ⟨?_, ?_, fun hno => absurd hw (hno _ _ _)⟩
    · rw [core_modSlot_self, freeCaravan_eq, core_modSlot_self, core_leaves]
      refine ((CoreSt.Keeps.leaves _ _).trans (.setSlot ?_)).trans (.setSlot ?_)
      · exact ⟨rfl, rfl, rfl, rfl, rfl, rfl, rfl, .inl rfl, fun _ => Nat.le_refl 1⟩
      · exact ⟨rfl, rfl, rfl, rfl, rfl, rfl, rfl, .inr rfl, id⟩
    · rw [core_modSlot_self, freeCaravan_eq, core_modSlot_self, core_leaves]
      unfold CoreSt.leaves
      split <;> rfl
  · simp only [h, decide_true, Bool.true_or, if_true, implies_true, and_true]
    exact .refl _

/-- A core whose slots have no members, and that belongs to no caravan, keeps its slots. -/
theorem partCore_keeps {s : State} {c : Nat} (hv : (s.core c).caravan = none) (h : ∀ i, (s.slot c i).cvsize ≤ 1) :
    (s.core c).Keeps ((s.partCore c).core c) ∧ ((s.partCore c).core c).mq = (s.core c).mq := by
  have hm : s.partMember c = s := by simp only [State.partMember, hv]
  have key : ∀ (is : List Nat) (t : State), (s.core c).Keeps (t.core c) → (t.core c).mq = (s.core c).mq →
      (s.core c).Keeps ((is.foldl (fun (s : State) i => if (s.slot c i).active then s.partCaravan c i else s) t).core c) ∧
      ((is.foldl (fun (s : State) i => if (s.slot c i).active then s.partCaravan c i else s) t).core c).mq =
        (s.core c).mq := by
    intro is
    induction is with
    | nil => exact fun t hk hq => ⟨hk, hq⟩
    | cons i is ih =>
      intro t hk hq
      rw [List.foldl_cons]
      split
      · obtain ⟨hk', hq', -⟩ := partCaravan_keeps (s := t) (c := c) (i := i) ((hk.slots i).alone (h i))
        exact ih _ (hk.trans hk') (hq'.trans hq)
      · exact ih t hk hq
  unfold State.partCore
  rw [hm]
  exact key _ s (.refl _) rfl

/-- A core that composes no caravan either releases none. -/
theorem partCore_eq_self {s : State} {c : Nat} (hv : (s.core c).caravan = none) (h : ∀ i, (s.slot c i).cvsize ≤ 1)
    (hw : ∀ i d m g, (s.slot c i).wait ≠ .compose d m g) : s.partCore c = s := by
  have hm : s.partMember c = s := by simp only [State.partMember, hv]
  have hstep : ∀ i, (if (s.slot c i).active then s.partCaravan c i else s) = s := fun i => by
    rw [(partCaravan_keeps (h i)).2.2 (hw i), ite_self]
  have key : ∀ is : List Nat,
      is.foldl (fun (s : State) i => if (s.slot c i).active then s.partCaravan c i else s) s = s := fun is => by
    induction is with
    | nil => rfl
    | cons i is ih => rw [List.foldl_cons, hstep i, ih]
  rw [State.partCore, hm, key]

/-! ### A core that stands still -/

/-- Every slot of a core has a place below 4. -/
theorem forall_slots_iff {k : CoreSt} {p : Slot → Bool} : k.slots.toList.all p = true ↔ ∀ i, p (k.slot i) = true := by
  simp only [List.all_eq_true, Vector.mem_toList_iff, CoreSt.slot, Vector.get_eq_getElem]
  constructor
  · exact fun h i => h _ (Vector.getElem_mem _)
  · intro h t ht
    obtain ⟨i, hi, rfl⟩ := Vector.mem_iff_getElem.mp ht
    simpa [Nat.mod_eq_of_lt hi] using h i

/-- A core that stands still does so after a change that keeps its slots, where its matrix queue stands at a boundary. -/
theorem still_of_keeps {k k' : CoreSt} {now : Nat} (h : k.still now = true) (g : k.Keeps k')
    (hb : k'.atBoundary now = true) : k'.still now = true := by
  simp only [CoreSt.still, Bool.and_eq_true, forall_slots_iff] at h ⊢
  obtain ⟨⟨⟨⟨-, hcar⟩, hslots⟩, hgq⟩, hwb⟩ := h
  refine ⟨⟨⟨⟨hb, ?_⟩, fun i => ?_⟩, by rwa [g.gq]⟩, by rwa [g.wb]⟩
  · rw [g.caravan (Option.isNone_iff_eq_none.mp hcar), Option.isNone_none]
  · have hi := hslots i
    rw [(g.slots i).active, (g.slots i).txn]
    rcases (g.slots i).wait with hw | hw
    · rwa [hw]
    · simp only [Bool.or_eq_true, Bool.and_eq_true] at hi ⊢
      exact hi.imp_right fun hi => ⟨by rw [hw]; rfl, hi.2⟩

/-- A matrix queue without a running command stands at a boundary. -/
theorem atBoundary_of_idle {k : CoreSt} {now : Nat} (h : ∀ e ∈ k.mq, e.run = none) : k.atBoundary now = true := by
  unfold CoreSt.atBoundary
  split
  · next e es hq => rw [h e (by rw [hq]; exact List.mem_cons_self)]
  · rfl

theorem atBoundary_congr {k k' : CoreSt} {now : Nat} (h : k'.mq = k.mq) : k'.atBoundary now = k.atBoundary now := by
  rw [CoreSt.atBoundary, CoreSt.atBoundary, h]

/-- Nothing in the write buffer: nothing drains. -/
theorem drainAll_nil {s : State} {c : Nat} (h : (s.core c).wb = []) : s.drainAll c = s := by
  simp [State.drainAll, h, State.drainSteps]

/-! ### A core halts -/

theorem core_modLaunch (s : State) (l : Nat) (f : Launch → Launch) (c : Nat) : (s.modLaunch l f).core c = s.core c := by
  unfold State.modLaunch
  split <;> rfl

theorem unissued_core (s : State) (c i d : Nat) : (s.unissued c i).core d = s.core d := by
  unfold State.unissued
  split
  · exact core_modLaunch ..
  · rfl

/-- A slot that leaves its wait keeps the rest. -/
theorem leaveWait_keeps (s : State) (c i : Nat) : (s.core c).Keeps ((s.leaveWait c i).core c) := by
  rw [State.leaveWait, core_modSlot_self, State.modCore, core_setCore_self, unissued_core]
  refine .trans (k' := { s.core c with chrdWaiters := (s.core c).chrdWaiters.filter (fun w => w.1 != i) })
    (.of_slots rfl rfl rfl rfl id rfl) (.setSlot ?_)
  exact ⟨rfl, rfl, rfl, rfl, rfl, rfl, rfl, .inr rfl, id⟩

/-- The slots of a core leave their waits. -/
theorem leaveWaits_keeps (is : List Nat) (s : State) (c : Nat) : (s.core c).Keeps
    ((is.foldl (fun (s : State) i => if (s.slot c i).active then s.leaveWait c i else s) s).core c) := by
  induction is generalizing s with
  | nil => exact .refl _
  | cons i is ih =>
    rw [List.foldl_cons]
    refine .trans ?_ (ih _)
    split
    · exact leaveWait_keeps s c i
    · exact .refl _

/-- The slots of a core halted, one after the other. -/
def CoreSt.haltSlots (k : CoreSt) (is : List Nat) : CoreSt := is.foldl (fun k i => k.setSlot i (k.slot i).halt) k

theorem streams_halt {t : Slot} (h : t.streams = []) : t.halt.streams = [] := by
  obtain ⟨x, v, px, pv, hl⟩ := landAll_shape t
  simp only [Slot.halt, h, List.map_nil]

/-- Slots without streams halt alone. -/
theorem core_haltSlots (is : List Nat) (s : State) (c : Nat) (h : ∀ i, (s.slot c i).streams = []) :
    (is.foldl (fun (s : State) i => (s.flushStreams c i).modSlot c i Slot.halt) s).core c = (s.core c).haltSlots is := by
  induction is generalizing s with
  | nil => rfl
  | cons i is ih =>
    have hf : s.flushStreams c i = s := by simp [State.flushStreams, h i]
    rw [List.foldl_cons, hf, ih, core_modSlot_self]
    · rfl
    · intro j
      rw [State.slot, core_modSlot_self, core_slot_setSlot]
      split
      · exact streams_halt (h i)
      · exact h j

theorem slot_haltSlots (k : CoreSt) (i : Nat) : (k.haltSlots (List.range 4)).slot i = (k.slot i).halt := by
  have h4 : i % 4 = 0 ∨ i % 4 = 1 ∨ i % 4 = 2 ∨ i % 4 = 3 := by omega
  rw [slot_mod, slot_mod k i]
  simp only [CoreSt.haltSlots, show List.range 4 = [0, 1, 2, 3] from rfl, List.foldl_cons, List.foldl_nil, core_slot_setSlot]
  rcases h4 with h | h | h | h <;> rw [h] <;> rfl

theorem devq_haltSlots (k : CoreSt) (is : List Nat) : (k.haltSlots is).devq = k.devq := by
  unfold CoreSt.haltSlots
  induction is generalizing k with
  | nil => rfl
  | cons i is ih => exact ih _

theorem slots_recordStopped (k : CoreSt) (i : Nat) : k.recordStopped.slot i = k.slot i := by
  unfold CoreSt.recordStopped
  split
  · split
    · unfold CoreSt.recordEvents CoreSt.setWorking
      split
      · rfl
      · split <;> rfl
    · rfl
  · rfl

/-- What a halted slot has: its registers with all writes landed, its PC, and no wait. -/
structure Slot.Halted (t u : Slot) : Prop where
  pc : u.pc = t.pc
  active : u.active = t.active
  wait : u.wait = .none
  pend : u.pend = []
  reg : ∀ r, u.reg r = t.settled r

theorem halted_halt {t u : Slot} (h : t.Keeps u) : t.Halted u.halt := by
  obtain ⟨x, v, px, pv, hl⟩ := landAll_shape u
  refine ⟨?_, ?_, rfl, rfl, fun r => ?_⟩
  · rw [← h.pc, Slot.halt, hl]
  · rw [← h.active, Slot.halt, hl]
  · rw [← settled_congr h.x h.v h.pend]
    exact reg_congr rfl rfl r

/-- A core without transactions, streams and headers halts: its slots are halted, and its LM holds their tails. -/
theorem core_halt {s : State} {c : Nat} (htx : ∀ i, (s.slot c i).txn = none) (hst : ∀ i, (s.slot c i).streams = [])
    (hdev : (s.core c).devq = []) : ∃ k : CoreSt, (s.halt c).core c = k.writeTails ∧ ∀ i, (s.slot c i).Halted (k.slot i) := by
  have habort : (List.range 4).foldl (fun (s : State) i =>
      if (s.slot c i).txn.isSome then s.abortTxn c i .preempt 0 else s) s = s :=
    List.foldl_fixed' (fun i => by simp [htx i]) _
  have hwait := leaveWaits_keeps (List.range 4) s c
  simp only [State.halt, habort]
  generalize (List.range 4).foldl (fun (s : State) i => if (s.slot c i).active then s.leaveWait c i else s) s = t at hwait
  have hcore := core_haltSlots (List.range 4) t c fun i => ((hwait.slots i).streams).trans (hst i)
  generalize (List.range 4).foldl (fun (s : State) i => (s.flushStreams c i).modSlot c i Slot.halt) t = u at hcore
  have hand : u.handOverAll c = u := by
    rw [State.handOverAll, hcore, devq_haltSlots, hwait.devq, hdev, List.foldl_nil]
  simp only [hand, State.modCore, core_setCore_self]
  refine ⟨_, rfl, fun i => ?_⟩
  show (s.slot c i).Halted ((u.core c).recordStopped.slot i)
  rw [slots_recordStopped, hcore, slot_haltSlots]
  exact halted_halt (hwait.slots i)

theorem context_lmWrite (k : CoreSt) (off : Nat) (bs : List Byte) : (k.lmWrite off bs).context = k.context := rfl

theorem context_writeTails (k : CoreSt) : k.writeTails.context = k.context := by
  simp only [CoreSt.writeTails, show List.range 4 = [0, 1, 2, 3] from rfl, List.foldl_cons, List.foldl_nil, context_lmWrite]

theorem context_recordStopped (k : CoreSt) : k.recordStopped.context = k.context := by
  unfold CoreSt.recordStopped
  split
  · split
    · exact (keeps_headDone k _ _).context
    · rfl
  · rfl

namespace State.Steady

theorem streamFlush (s : State) (c i r n : Nat) : s.Steady (s.streamFlush c i r n) := by
  induction n generalizing s with
  | zero => exact refl s
  | succ n ih =>
    refine trans (t := s.streamFlushOne c i r) ?_ (ih _)
    unfold State.streamFlushOne
    split
    · split
      · refine thenModSlot (modCore s c _ fun k => ?_)
        simp only [CoreSt.streamStore]
        split <;> rfl
      · exact refl s
    · exact refl s

theorem flushStreams (s : State) (c i : Nat) : s.Steady (s.flushStreams c i) := by
  unfold State.flushStreams
  exact foldl (fun s r => streamFlush s c i r _) _ s

theorem handOver (s : State) (c : Nat) (h : DevHeader) : s.Steady (s.handOver c h) := by
  refine trans (t := s.modCore c (fun k => { k with devq := k.devq.erase h })) (modCore s c _ fun _ => rfl) ?_
  exact of_cores rfl rfl rfl rfl

theorem handOverAll (s : State) (c : Nat) : s.Steady (s.handOverAll c) := foldl (fun s h => handOver s c h) _ s

theorem halt (s : State) (c : Nat) : s.Steady (s.halt c) := by
  simp only [State.halt]
  refine thenModCore (thenModCore (trans (thenFoldl (thenFoldl (foldl (fun s i => ?_) _ s) fun s i => ?_) fun s i => ?_)
    (handOverAll _ c)) context_recordStopped) fun k => context_writeTails _
  · split
    · exact abortTxn s c i _ _
    · exact refl s
  · split
    · exact leaveWait s c i
    · exact refl s
  · exact thenModSlot (flushStreams s c i)

theorem logContext (s : State) (c : Nat) : s.Steady (s.logContext c) := by
  unfold State.logContext State.logMoved
  split
  · exact refl s
  · exact of_cores rfl rfl rfl rfl

end State.Steady

theorem core_logMoved (s : State) (c d : Nat) (bad : List Nat) : (s.logMoved c bad).core d = s.core d := by
  unfold State.logMoved
  split <;> rfl

theorem core_logContext (s : State) (c d : Nat) : (s.logContext c).core d = s.core d := core_logMoved ..

end Sys2Proof.Machine
end

section
/-!
SUPPORT. The tails that a halted core has in its LM (09_traps R206).
-/
namespace Sys2Proof.Machine

/-! ### Bytes at a place of a list -/

theorem wordOf8_bytesOfNat (w : Word) : wordOf8 (bytesOfNat 8 w.toNat) = w := by
  rw [wordOf8, Memory.natOfBytes_bytesOfNat, Nat.mod_eq_of_lt (by simpa using w.isLt), BitVec.ofNat_toNat, BitVec.setWidth_eq]

/-- One of the pieces, all of one length, that a list is made of. -/
theorem take_drop_flatMap {α β : Type} {f : α → List β} {n : Nat} (hf : ∀ a, (f a).length = n) {l : List α} {r : Nat}
    (h : r < l.length) : ((l.flatMap f).drop (n * r)).take n = f l[r] := by
  induction l generalizing r with
  | nil => cases h
  | cons a l ih =>
    cases r with
    | zero => simp [← hf a]
    | succ r =>
      have : n * (r + 1) = (f a).length + n * r := by rw [hf a]; ring
      rw [List.flatMap_cons, this, List.drop_append, List.drop_eq_nil_of_le (by omega), List.nil_append, Nat.add_sub_cancel_left,
        ih (by simpa using h), List.getElem_cons_succ]

theorem length_flatMap {α β : Type} {f : α → List β} {n : Nat} (hf : ∀ a, (f a).length = n) (l : List α) :
    (l.flatMap f).length = n * l.length := by
  simp [List.length_flatMap, hf, Nat.mul_comm]

/-- A part of some bytes of a memory. -/
theorem Memory.bytes_part (m : Memory) (a : Nat) {n o k : Nat} (h : o + k ≤ n) :
    ((m.bytes a n).drop o).take k = m.bytes (a + o) k := by
  refine List.ext_getElem (by simp; omega) fun i h1 h2 => ?_
  simp [Memory.bytes, Nat.add_assoc]

/-- The doublewords in the bytes of a memory. -/
theorem word_of_wordsBytes {m : Memory} {a : Nat} {ws : List Word} (h : m.bytes a (8 * ws.length) = wordsBytes ws) {r : Nat}
    (hr : r < ws.length) : m.word (a + 8 * r) = ws[r] := by
  have hp := Memory.bytes_part m a (n := 8 * ws.length) (o := 8 * r) (k := 8) (by omega)
  rw [h, wordsBytes, take_drop_flatMap (fun w => Memory.length_bytesOfNat 8 _) hr] at hp
  rw [Memory.word, ← hp, wordOf8_bytesOfNat]

/-! ### The tail of a slot (R206) -/

theorem length_wordsBytes (ws : List Word) : (wordsBytes ws).length = 8 * ws.length :=
  length_flatMap (fun _ => Memory.length_bytesOfNat 8 _) ws

/-- The doublewords of the x registers in a tail. -/
def Slot.xWords (t : Slot) : List Word := 0 :: t.x.toList.drop 1

/-- The bytes of the v registers in a tail. -/
def Slot.vBytes (t : Slot) : List Byte := t.v.toList.flatMap (fun v => bytesOfNat 16 v.toNat)

theorem tail_eq (t : Slot) : t.tail = wordsBytes t.xWords ++ t.vBytes ++ wordsBytes t.tailWords := rfl

theorem length_xWords (t : Slot) : t.xWords.length = 32 := by simp [Slot.xWords]
theorem length_vBytes (t : Slot) : t.vBytes.length = 512 := by
  rw [Slot.vBytes, length_flatMap (fun _ => Memory.length_bytesOfNat 16 _), Vector.length_toList]
theorem length_tailWords (t : Slot) : t.tailWords.length = 32 := rfl

theorem length_tail (t : Slot) : t.tail.length = 1024 := by
  simp [tail_eq, length_wordsBytes, length_xWords, length_vBytes, length_tailWords]

/-- A memory has a slot's tail at an address: its x registers, its v registers and its control area stand there. -/
theorem tail_parts {m : Memory} {a : Nat} {t : Slot} (h : m.bytes a 1024 = t.tail) :
    m.bytes a 256 = wordsBytes t.xWords ∧ m.bytes (a + 0x100) 512 = t.vBytes ∧ m.bytes (a + 0x300) 256 = wordsBytes t.tailWords := by
  have hx : (wordsBytes t.xWords).length = 256 := by rw [length_wordsBytes, length_xWords]
  have hw : (wordsBytes t.tailWords).length = 256 := by rw [length_wordsBytes, length_tailWords]
  refine ⟨?_, ?_, ?_⟩
  · rw [← Nat.add_zero a, ← Memory.bytes_part m a (show 0 + 256 ≤ 1024 by omega), h, tail_eq, List.append_assoc,
      List.drop_zero, List.take_left' hx]
  · rw [← Memory.bytes_part m a (show 0x100 + 512 ≤ 1024 by omega), h, tail_eq, List.append_assoc,
      List.drop_left' hx, List.take_left' (length_vBytes t)]
  · rw [← Memory.bytes_part m a (show 0x300 + 256 ≤ 1024 by omega), h, tail_eq,
      List.drop_left' (by rw [List.length_append, hx, length_vBytes]), List.take_of_length_le (by rw [hw])]

section
variable {m : Memory} {a : Nat} {t : Slot} (h : m.bytes a 1024 = t.tail)
include h

/-- A tail holds the x registers but x0. -/
theorem word_tail_x {r : Reg} (hr : r ≠ 0) : (m.word (a + 8 * r.toNat)).setWidth 128 = t.reg (.x r) := by
  have hlt : r.toNat < t.xWords.length := by rw [length_xWords]; exact r.isLt
  rw [word_of_wordsBytes (ws := t.xWords) (by rw [length_xWords]; exact (tail_parts h).1) hlt]
  have h0 : r.toNat ≠ 0 := fun h0 => hr (BitVec.eq_of_toNat_eq (by simpa using h0))
  have hi : 1 + (r.toNat - 1) = r.toNat := by omega
  have hget : t.xWords[r.toNat] = t.x.get r.toFin := by
    simp only [Slot.xWords, List.getElem_cons, h0, dif_neg, not_false_eq_true, List.getElem_drop, hi, Vector.getElem_toList,
      Vector.get_eq_getElem]
    rfl
  rw [hget, Slot.reg, if_neg hr]

/-- A tail holds the v registers. -/
theorem num_tail_v (r : Reg) : BitVec.ofNat 128 (m.num (a + 0x100 + 16 * r.toNat) 16) = t.reg (.v r) := by
  have hlt : r.toNat < t.v.toList.length := by simpa using r.isLt
  have hp := Memory.bytes_part m (a + 0x100) (n := 512) (o := 16 * r.toNat) (k := 16) (by have := r.isLt; omega)
  rw [(tail_parts h).2.1, Slot.vBytes, take_drop_flatMap (fun w => Memory.length_bytesOfNat 16 _) hlt] at hp
  rw [Memory.num, ← hp, Memory.natOfBytes_bytesOfNat, Nat.mod_eq_of_lt (by simpa using BitVec.isLt _), BitVec.ofNat_toNat,
    BitVec.setWidth_eq, Slot.reg, Vector.get_eq_getElem, Vector.getElem_toList]
  rfl

/-- A tail holds the PC. -/
theorem word_tail_pc : m.word (a + 0x300) = t.pc := by
  have hp := word_of_wordsBytes (ws := t.tailWords) (by rw [length_tailWords]; exact (tail_parts h).2.2) (r := 0)
    (by rw [length_tailWords]; omega)
  exact hp

end

/-- Writing tails changes the LM, and no slot. -/
theorem slot_writeTails (k : CoreSt) (i : Nat) : k.writeTails.slot i = k.slot i := by
  have hslot : ∀ (k : CoreSt) (off : Nat) (bs : List Byte), (k.lmWrite off bs).slot i = k.slot i := fun _ _ _ => rfl
  simp only [CoreSt.writeTails, show List.range 4 = [0, 1, 2, 3] from rfl, List.foldl_cons, List.foldl_nil, hslot]

theorem lm_writeTails (k : CoreSt) : k.writeTails.lm =
    (((k.lm.writeBytes 0x1F000 (k.slot 0).tail).writeBytes 0x1F400 (k.slot 1).tail).writeBytes 0x1F800
      (k.slot 2).tail).writeBytes 0x1FC00 (k.slot 3).tail := by
  have hslot : ∀ (k : CoreSt) (off : Nat) (bs : List Byte) (i : Nat), (k.lmWrite off bs).slot i = k.slot i :=
    fun _ _ _ _ => rfl
  simp only [CoreSt.writeTails, show List.range 4 = [0, 1, 2, 3] from rfl, List.foldl_cons, List.foldl_nil, lm_lmWrite, hslot]

/-- The LM of a core whose slots' tails are written has each tail at its place (R206). -/
theorem bytes_writeTails (k : CoreSt) {i : Nat} (hi : i < 4) :
    k.writeTails.lm.bytes (0x1F000 + 1024 * i) 1024 = (k.slot i).tail := by
  have hd : ∀ (m : Memory) (a x : Nat) (t : Slot), x + 1024 ≤ a ∨ a + 1024 ≤ x →
      (m.writeBytes a t.tail).bytes x 1024 = m.bytes x 1024 := fun m a x t h =>
    Memory.bytes_writeBytes_of_disjoint m a x 1024 t.tail (by rwa [length_tail])
  have hs : ∀ (m : Memory) (a x : Nat) (t : Slot), x = a → (m.writeBytes a t.tail).bytes x 1024 = t.tail := fun m a x t h => by
    rw [h, ← length_tail t, Memory.bytes_writeBytes]
  rw [lm_writeTails]
  obtain h | h | h | h : i = 0 ∨ i = 1 ∨ i = 2 ∨ i = 3 := by omega
  · rw [hd _ _ _ _ (by omega), hd _ _ _ _ (by omega), hd _ _ _ _ (by omega), hs _ _ _ _ (by omega), h]
  · rw [hd _ _ _ _ (by omega), hd _ _ _ _ (by omega), hs _ _ _ _ (by omega), h]
  · rw [hd _ _ _ _ (by omega), hs _ _ _ _ (by omega), h]
  · rw [hs _ _ _ _ (by omega), h]

end Sys2Proof.Machine
end

section
/-!
SUPPORT. A core at rest that stops, and the image of its context (09_traps R202, R204).
-/
namespace Sys2Proof.Machine

/-! ### A context leaves its core (R202, R204, R210) -/

theorem find_modLaunch_self {s : State} {l : Nat} {x : Launch} (f : Launch → Launch) (h : find s.launches l = some x) :
    find (s.modLaunch l f).launches l = some (f x) := by
  simp only [State.modLaunch, h, find_put_self]

@[simp] theorem cycle_modLaunch (s : State) (l : Nat) (f : Launch → Launch) : (s.modLaunch l f).cycle = s.cycle := by
  unfold State.modLaunch
  split <;> rfl

@[simp] theorem images_modLaunch (s : State) (l : Nat) (f : Launch → Launch) : (s.modLaunch l f).images = s.images := by
  unfold State.modLaunch
  split <;> rfl

@[simp] theorem mem_modLaunch (s : State) (l : Nat) (f : Launch → Launch) : (s.modLaunch l f).mem = s.mem := by
  unfold State.modLaunch
  split <;> rfl

theorem core_setPlace (s : State) (l o : Nat) (w : Where) (c : Nat) : (s.setPlace l o w).core c = s.core c := core_modLaunch ..

/-- The place that a context is given in an unfinished launch. -/
theorem place_setPlace {s : State} {l o : Nat} {w : Where} {x : Launch} (h : find s.launches l = some x) :
    (find (s.setPlace l o w).launches l).bind (fun y => find y.places o) = some w := by
  rw [State.setPlace, find_modLaunch_self _ h]
  exact find_put_self ..

/-- A launch is unfinished after a steady change. -/
theorem State.Steady.launch {s t : State} (h : s.Steady t) {l : Nat} {x : Launch} (hx : find s.launches l = some x) :
    ∃ y, find t.launches l = some y := by
  have hg := h.gens l
  rw [State.genOf, State.genOf, hx] at hg
  obtain ⟨y, hy, -⟩ := Option.map_eq_some_iff.mp hg
  exact ⟨y, hy⟩

theorem Slot.Halted.of_keeps {t u w : Slot} (h : t.Keeps u) (g : u.Halted w) : t.Halted w :=
  ⟨g.pc.trans h.pc, g.active.trans h.active, g.wait, g.pend,
    fun r => (g.reg r).trans (settled_congr h.x h.v h.pend r)⟩

/-- A core that stands still, with an empty write buffer and no headers to hand over, and whose slots are in no transaction, have
no streams and no members. -/
structure State.Rests (s : State) (c : Nat) : Prop where
  wb : (s.core c).wb = []
  still : (s.core c).still s.cycle = true
  caravan : (s.core c).caravan = none
  devq : (s.core c).devq = []
  mq : ∀ e ∈ (s.core c).mq.drop 1, e.run = none
  txn : ∀ i, (s.slot c i).txn = none
  streams : ∀ i, (s.slot c i).streams = []
  alone : ∀ i, (s.slot c i).cvsize ≤ 1

theorem State.Rests.of_slots {s : State} {c : Nat} (hwb : (s.core c).wb = []) (hst : (s.core c).still s.cycle = true)
    (hcv : (s.core c).caravan = none) (hdq : (s.core c).devq = []) (hmq : ∀ e ∈ (s.core c).mq.drop 1, e.run = none)
    (hs : ∀ i, i < 4 → (s.slot c i).txn = none ∧ (s.slot c i).streams = [] ∧ (s.slot c i).cvsize ≤ 1) : s.Rests c := by
  have hs' : ∀ i, (s.slot c i).txn = none ∧ (s.slot c i).streams = [] ∧ (s.slot c i).cvsize ≤ 1 := fun i => by
    rw [State.slot, slot_mod]
    exact hs (i % 4) (Nat.mod_lt i (by omega))
  exact ⟨hwb, hst, hcv, hdq, hmq, fun i => (hs' i).1, fun i => (hs' i).2.1, fun i => (hs' i).2.2⟩

section
variable {s : State} {c : Nat} (h : s.Rests c)
include h

theorem State.Rests.drainAll : s.drainAll c = s := drainAll_nil h.wb

/-- The end of a running command leaves a core that stands still at rest. -/
theorem State.Rests.endRun : (s.endRun c).Rests c ∧ (s.core c).Keeps ((s.endRun c).core c) := by
  rcases endRun_cases s c with he | ⟨k, n, he, hk, hq⟩
  · rw [he]
    exact ⟨h, .refl _⟩
  · have hcore : (s.endRun c).core c = k := by rw [he]; exact core_setCore_self s c k
    have hidle : ∀ e ∈ k.mq, e.run = none := by rw [hq]; exact h.mq
    have hslot : ∀ i, (s.slot c i).Keeps ((s.endRun c).slot c i) := fun i => by rw [State.slot, State.slot, hcore]; exact hk.slots i
    refine ⟨⟨?_, ?_, ?_, ?_, ?_, fun i => ?_, fun i => ?_, fun i => ?_⟩, by rwa [hcore]⟩
    · rw [hcore, hk.wb, h.wb]
    · rw [hcore, (State.Steady.endRun s c).cycle]
      exact still_of_keeps h.still hk (atBoundary_of_idle hidle)
    · rw [hcore, hk.caravan h.caravan]
    · rw [hcore, hk.devq, h.devq]
    · rw [hcore]
      exact fun e he => hidle e (List.mem_of_mem_drop he)
    · rw [(hslot i).txn, h.txn]
    · rw [(hslot i).streams, h.streams]
    · exact (hslot i).alone (h.alone i)

/-- The parting of caravans leaves it at rest too. -/
theorem State.Rests.partCore : (s.partCore c).Rests c ∧ (s.core c).Keeps ((s.partCore c).core c) := by
  obtain ⟨hk, hq⟩ := partCore_keeps h.caravan h.alone
  refine ⟨⟨?_, ?_, hk.caravan h.caravan, ?_, by rw [hq]; exact h.mq, fun i => ?_, fun i => ?_, fun i => (hk.slots i).alone (h.alone i)⟩,
    hk⟩
  · rw [hk.wb, h.wb]
  · rw [(State.Steady.partCore s c).cycle]
    refine still_of_keeps h.still hk ?_
    rw [atBoundary_congr hq]
    have hst := h.still
    simp only [CoreSt.still, Bool.and_eq_true] at hst
    exact hst.1.1.1.1
  · rw [hk.devq, h.devq]
  · exact ((hk.slots i).txn).trans (h.txn i)
  · exact ((hk.slots i).streams).trans (h.streams i)

/-- A resting core halts: its slots are halted, and its LM has their tails. -/
theorem State.Rests.halt : ∃ k : CoreSt, ((s.halt c).logContext c).core c = k.writeTails ∧
    ∀ i, (s.slot c i).Halted (k.slot i) := by
  rw [core_logContext]
  exact core_halt h.txn h.streams h.devq

end

/-- The state in which a stopping core has drained, completed and parted what it can. -/
def State.settling (s : State) (c : Nat) : State := ((s.drainAll c).endRun c).partCore c

theorem State.Steady.settling (s : State) (c : Nat) : s.Steady (s.settling c) :=
  ((drainAll s c).trans (endRun _ c)).trans (partCore _ c)

theorem State.Rests.settling {s : State} {c : Nat} (h : s.Rests c) :
    (s.settling c).Rests c ∧ (s.core c).Keeps ((s.settling c).core c) := by
  rw [State.settling, h.drainAll]
  obtain ⟨hr, hk⟩ := h.endRun
  exact ⟨hr.partCore.1, hk.trans hr.partCore.2⟩

/-- A resting core that stops is saved, or moves when the engines take it. -/
theorem stopStep_rests {s : State} {c l since : Nat} (h : s.Rests c) (hl : (s.core c).launch = some l) :
    ((s.core c).stage = .stopping none since → s.stopStep c = (s.settling c).saveImage c l) ∧
    (∀ d, (s.core c).stage = .stopping (some d) since → (s.settling c).engineNext c = true →
      s.stopStep c = (s.settling c).moveContext c d l) := by
  obtain ⟨hl', -, hst', -⟩ := context_eq_iff.mp ((State.Steady.settling s c).context c)
  have hstill := h.settling.1.still
  have hdef : s.settling c = ((s.drainAll c).endRun c).partCore c := rfl
  unfold State.stopStep
  simp only [← hdef, hl', hst', hl, hstill]
  refine ⟨fun hst => by rw [hst]; rfl, fun d hst hn => ?_⟩
  simp only [hst, Bool.not_true, Bool.false_eq_true, if_false, hn, if_true]

/-! ### The image of a context (R204) -/

theorem exec_preemption_stopping {s : State} {c since : Nat} {dest : Option Nat} (h : (s.core c).stage = .stopping dest since) :
    exec (.preemption c) s = .next (s.stopStep c) := by
  show Host.Outcome.next (s.preempt c) = _
  rw [State.preempt, h]

/-- What an image keeps of a context. -/
structure Image.Keeps (img : Image) (s : State) (c l : Nat) : Prop where
  launch : img.launch = l
  origin : img.origin = (s.core c).origin
  site : img.site = c
  written : img.written = false
  slots : ∀ i, (s.slot c i).Halted (img.core.slot i)
  tails : ∀ i, i < 4 → img.core.lm.bytes (0x1F000 + 1024 * i) 1024 = (img.core.slot i).tail

/-- A resting core becomes an image. -/
theorem saveImage_rests {s : State} {c l : Nat} {x : Launch} (h : s.Rests c) (hx : find s.launches l = some x) :
    ∃ img : Image, find (s.saveImage c l).images s.serial = some img ∧ img.Keeps s c l ∧
      ((s.saveImage c l).core c).launch = none ∧ ((s.saveImage c l).core c).stage = .saving (s.cycle + 4858) ∧
      (find (s.saveImage c l).launches l).bind (fun y => find y.places (s.core c).origin) = some (.image s.serial) := by
  have hsteady : s.Steady ((s.halt c).logContext c) := (State.Steady.halt s c).trans (.logContext _ c)
  obtain ⟨k, hk, hslots⟩ := h.halt
  obtain ⟨-, horigin, -, -⟩ := context_eq_iff.mp (hsteady.context c)
  obtain ⟨y, hy⟩ := hsteady.launch hx
  unfold State.saveImage
  generalize (s.halt c).logContext c = u at *
  dsimp only
  rw [core_setCore_self, ← hsteady.cycle, ← hsteady.serial, ← horigin]
  refine ⟨{ launch := l, origin := (u.core c).origin, site := c, core := u.core c, slot := u.freeImage, written := false },
    ?_, ⟨rfl, horigin, rfl, rfl, fun i => ?_, fun i hi => ?_⟩, rfl, ?_, ?_⟩
  · rw [images_setCore, State.setPlace, images_modLaunch]
    exact find_put_self ..
  · dsimp only
    rw [hk, slot_writeTails]
    exact hslots i
  · dsimp only
    rw [hk, slot_writeTails]
    exact bytes_writeTails k hi
  · dsimp only [State.setPlace]
    rw [cycle_modLaunch]
    rfl
  · exact (congrArg (Option.bind · _) (find_modLaunch_self (x := y) _ (by exact hy))).trans (find_put_self y.places _ _)

/-- A resting core that stops becomes an image of what it held (R202, R204). -/
theorem stopStep_saves {s : State} {c l since : Nat} {x : Launch} (h : s.Rests c) (hst : (s.core c).stage = .stopping none since)
    (hl : (s.core c).launch = some l) (hx : find s.launches l = some x) :
    ∃ img : Image, find (s.stopStep c).images s.serial = some img ∧ img.Keeps s c l ∧
      ((s.stopStep c).core c).launch = none ∧ ((s.stopStep c).core c).stage = .saving (s.cycle + 4858) ∧
      (find (s.stopStep c).launches l).bind (fun y => find y.places (s.core c).origin) = some (.image s.serial) := by
  have hsteady := State.Steady.settling s c
  obtain ⟨hrests, hkeeps⟩ := h.settling
  obtain ⟨-, horigin, -, -⟩ := context_eq_iff.mp (hsteady.context c)
  obtain ⟨y, hy⟩ := hsteady.launch hx
  obtain ⟨img, himg, hk, hfree, hstage, hplace⟩ := saveImage_rests hrests hy
  rw [(stopStep_rests h hl).1 hst, ← hsteady.serial, ← hsteady.cycle, ← horigin]
  exact ⟨img, himg, ⟨hk.launch, hk.origin.trans horigin, hk.site, hk.written, fun i => (hk.slots i).of_keeps (hkeeps.slots i),
    hk.tails⟩, hfree, hstage, hplace⟩

end Sys2Proof.Machine
end

section
/-!
SUPPORT. The bytes of an image, and how the save engine writes them (09_traps R204 to R206).
-/
namespace Sys2Proof.Machine

/-! ### The bytes of an image (R205) -/

theorem length_fill0 (n : Nat) (bs : List Byte) : (fill0 n bs).length = n := by simp [fill0]

theorem length_range_flatMap {n k : Nat} {f : Nat → List Byte} (h : ∀ i, (f i).length = k) :
    ((List.range n).flatMap f).length = k * n := by
  rw [length_flatMap h, List.length_range]

/-- The core state block is of 256 bytes (R205). -/
theorem length_stateBlock (k : CoreSt) (pkg c : Nat) : (k.stateBlock pkg c).length = 256 := by
  have hb : ∀ b : Bank, b.saved.length = 4 := fun b => Memory.length_bytesOfNat 4 _
  simp only [CoreSt.stateBlock, List.length_append, length_fill0, length_wordsBytes, Memory.length_bytesOfNat,
    length_range_flatMap (fun _ => Memory.length_bytesOfNat _ _), length_flatMap hb, List.length_cons, List.length_nil]

/-- A saved binding is of 48 bytes (Table 9.2). -/
theorem length_saved (x : StreamSt) : x.saved.length = 48 := length_wordsBytes _

/-- An image begins with the LM (R206). -/
theorem lm_prefix_image (k : CoreSt) (pkg c : Nat) (free : Nat → List Byte) : k.lm.bytes 0 0x20000 <+: k.image pkg c free := by
  unfold CoreSt.image
  extract_lets
  generalize k.lm.bytes 0 0x20000 = a
  simp only [List.append_assoc]
  exact List.prefix_append _ _

/-- An image is of 368 KiB (R205). -/
theorem length_image (k : CoreSt) (pkg c : Nat) {free : Nat → List Byte} (hf : ∀ n, (free n).length = n) :
    (k.image pkg c free).length = 0x5C000 := by
  have hstream : ∀ i r, (match find (k.slot i).streams (24 + r) with
      | some x => x.saved
      | none => fill0 48 []).length = 48 := fun i r => by
    split
    · exact length_saved _
    · exact length_fill0 48 _
  unfold CoreSt.image
  extract_lets queue record stream port
  have hqueues : ((List.range 64).flatMap queue).length = 512 * 64 := length_range_flatMap (fun _ => length_fill0 _ _)
  have hstreams : ((List.range 4).flatMap fun i => (List.range 8).flatMap (stream i)).length = 48 * 8 * 4 :=
    length_range_flatMap (fun i => length_range_flatMap (hstream i))
  have hports : ((List.range 4).flatMap port).length = 32 * 4 := length_range_flatMap (fun _ => length_fill0 _ _)
  have hcim : ((List.range 16).flatMap fun n => Memory.bytes ((find k.cimExp n).getD []) 0 128).length = 128 * 16 :=
    length_range_flatMap (fun _ => Memory.length_bytes _ _ _)
  have hstaging : ((List.range 4).flatMap fun i => (k.slot i).staging.bytes 0 64).length = 64 * 4 :=
    length_range_flatMap (fun _ => Memory.length_bytes _ _ _)
  simp only [List.length_append, hqueues, hstreams, hports, hcim, hstaging, Memory.length_bytes, length_fill0,
    length_stateBlock, hf]

theorem length_freeBytes (s : State) (n : Nat) : (s.freeBytes n).length = n := by simp [State.freeBytes]

/-! ### Writing an image (R176, R204, R246) -/

theorem mem_claimLines (s : State) (w : Writer) (off n : Nat) : (s.claimLines w off n).mem = s.mem := by
  have h : ∀ (ls : List Nat) (f : DirEntry → DirEntry) (s : State), (ls.foldl (fun (s : State) l => s.modDir l f) s).mem = s.mem :=
    fun ls f => by
      induction ls with
      | nil => exact fun _ => rfl
      | cons l ls ih => exact fun s => ih (s.modDir l f)
  show (s.grantLines _ _).mem = s.mem
  unfold State.grantLines
  split
  · exact h _ _ s
  · rfl
  · rfl

theorem mem_plainAccess {s t : State} {tile : Nat} {w : Bool} {self : Option (Nat × Nat)}
    (h : s.plainAccess tile w self = some t) : t.mem = s.mem := by
  have hfold : ∀ (xs : List (Nat × Nat × Txn)) (s : State),
      (xs.foldl (fun s t => s.abortTxn t.1 t.2.1 .plainhit 0) s).mem = s.mem := fun xs => by
    induction xs with
    | nil => exact fun _ => rfl
    | cons x xs ih => exact fun s => ih _
  simp only [State.plainAccess, Option.ite_none_left_eq_some, Option.some.injEq] at h
  rw [← h.2]
  exact hfold _ s

theorem mem_touchTiles {w : Bool} {tiles : List Nat} {self : Option (Nat × Nat)} {s t : State}
    (h : s.touchTiles w tiles self = some t) : t.mem = s.mem := by
  induction tiles generalizing s with
  | nil => exact congrArg State.mem (Option.some.inj h).symm
  | cons x xs ih =>
    obtain ⟨u, hu, ht⟩ := Option.bind_eq_some_iff.mp h
    exact (ih ht).trans (mem_plainAccess hu)

/-- The save engine's write waits while the host holds a line of the range (R246). -/
theorem agentWrite_held {s : State} {off : Nat} {bs : List Byte} (h : s.rangeClear off bs.length = false) :
    ∃ d, s.agentWrite off bs = .error { s with dir := d } := by
  obtain ⟨d, hd⟩ := snoopRange_eq s off bs.length
  exact ⟨d, by simp [State.agentWrite, h, hd]⟩

/-- It is performed where neither the host nor a commit stands in the way. -/
theorem agentWrite_clear {s : State} {off : Nat} {bs : List Byte} (h : s.rangeClear off bs.length = true)
    (ht : (s.touchTiles true (tilesOf off bs.length)).isSome = true) :
    ∃ t, s.agentWrite off bs = .ok t ∧ t.mem = s.mem.writeBytes off bs := by
  obtain ⟨t, ht⟩ := Option.isSome_iff_exists.mp ht
  refine ⟨t.homeWrite .far off bs, by simp [State.agentWrite, h, ht], ?_⟩
  rw [State.homeWrite, mem_claimLines, mem_touchTiles ht]

section
variable {s : State} {c due n : Nat} {img : Image} {pa size : Nat}

/-- The bytes that the engine writes for an image. -/
def State.imageBytesOf (s : State) (img : Image) : List Byte := img.core.image s.pkg img.origin s.freeBytes

theorem length_imageBytesOf (s : State) (img : Image) : (s.imageBytesOf img).length = 0x5C000 :=
  length_image img.core s.pkg img.origin (length_freeBytes s)

theorem writeImage_eq (hi : s.images.find? (fun (p : Nat × Image) => p.2.site == c && !p.2.written) = some (n, img))
    (hp : s.disp.savepool = some (pa, size)) : s.writeImage c =
      (s.agentWrite (pa % 2 ^ 42 + 0x5C000 * img.slot) (s.imageBytesOf img)).map (fun t =>
        { t with images := put t.images n { img with written := true }, fresh := t.fresh + 0x5C000 }) := by
  simp only [State.writeImage, hi, hp]
  rfl

theorem exec_imageSaveDone (s : State) (c : Nat) : exec (.imageSaveDone c) s = .next (s.imageDone c) := rfl

/-- An image is not done before its time. -/
theorem imageDone_early (hst : (s.core c).stage = .saving due) (h : s.cycle < due) : s.imageDone c = s := by
  simp only [State.imageDone, hst, h, if_true]

/-- While the host holds a line of its place the image waits, and the core stays as it is (R246). -/
theorem imageDone_held (hst : (s.core c).stage = .saving due) (hd : due ≤ s.cycle)
    (hi : s.images.find? (fun (p : Nat × Image) => p.2.site == c && !p.2.written) = some (n, img))
    (hp : s.disp.savepool = some (pa, size)) (h : s.rangeClear (pa % 2 ^ 42 + 0x5C000 * img.slot) 0x5C000 = false) :
    (s.imageDone c).mem = s.mem ∧ ((s.imageDone c).core c).stage = .saving due := by
  obtain ⟨d, hw⟩ := agentWrite_held (s := s) (bs := s.imageBytesOf img) (by rwa [length_imageBytesOf])
  simp only [State.imageDone, hst, Nat.not_lt.mpr hd, if_false, writeImage_eq hi hp, hw]
  exact ⟨rfl, hst⟩

/-- Else the image lies in its place, and the core runs. -/
theorem imageDone_written (hst : (s.core c).stage = .saving due) (hd : due ≤ s.cycle)
    (hi : s.images.find? (fun (p : Nat × Image) => p.2.site == c && !p.2.written) = some (n, img))
    (hp : s.disp.savepool = some (pa, size)) (h : s.rangeClear (pa % 2 ^ 42 + 0x5C000 * img.slot) 0x5C000 = true)
    (ht : (s.touchTiles true (tilesOf (pa % 2 ^ 42 + 0x5C000 * img.slot) 0x5C000)).isSome = true) :
    ((s.imageDone c).core c).stage = .running ∧ (find (s.imageDone c).images n).map Image.written = some true ∧
      (s.imageDone c).mem = s.mem.writeBytes (pa % 2 ^ 42 + 0x5C000 * img.slot) (s.imageBytesOf img) := by
  obtain ⟨t, hw, hm⟩ := agentWrite_clear (s := s) (off := pa % 2 ^ 42 + 0x5C000 * img.slot) (bs := s.imageBytesOf img)
    (by rwa [length_imageBytesOf]) (by rwa [length_imageBytesOf])
  simp only [State.imageDone, hst, Nat.not_lt.mpr hd, if_false, writeImage_eq hi hp, hw]
  refine ⟨?_, ?_, hm⟩
  · exact congrArg CoreSt.stage (core_setCore_self ..)
  · show (find (put t.images n _) n).map Image.written = some true
    rw [find_put_self]
    rfl

/-- What a memory reads after an image's bytes were written there. -/
theorem read_image (m : Memory) (s : State) (img : Image) (base : Nat) :
    (∀ j, j < 0x20000 → (m.writeBytes base (s.imageBytesOf img)).read (base + j) = img.core.lm.read j) ∧
    (∀ y, y < base ∨ base + 0x5C000 ≤ y → (m.writeBytes base (s.imageBytesOf img)).read y = m.read y) := by
  obtain ⟨rest, hr⟩ := lm_prefix_image img.core s.pkg img.origin s.freeBytes
  refine ⟨fun j hj => ?_, fun y hy => ?_⟩
  · rw [Memory.read_writeBytes, length_imageBytesOf, if_pos (by omega), Nat.add_sub_cancel_left, State.imageBytesOf, ← hr,
      List.getD_append _ _ _ _ (by rwa [Memory.length_bytes]), Memory.getD_bytes _ _ _ _ hj, Nat.zero_add]
  · rw [Memory.read_writeBytes, length_imageBytesOf, if_neg (by omega)]

end

end Sys2Proof.Machine
end

section
/-!
CERTIFICATE. A core that stops is saved (09_traps R202 to R206).
-/
namespace Sys2Proof.Proofs
open Sys2Proof.Machine

/-- The three outcomes of a request for a save (R192). -/
theorem exec_preemption_requested {s : State} {c since : Nat} (hst : (s.core c).stage = .requested since) :
    (s.mustYield c = false → exec (.preemption c) s = .next (s.modCore c (fun k => { k with stage := .running }))) ∧
    (s.mustYield c = true → s.engineNext c = false → exec (.preemption c) s = .next s) ∧
    (s.mustYield c = true → s.engineNext c = true → exec (.preemption c) s =
      exec (.preemption c) (s.modCore c (fun k => { k with stage := .stopping none since }))) := by
  have hexec : exec (.preemption c) s = .next (s.preempt c) := rfl
  have hstop : ((s.modCore c (fun k => { k with stage := .stopping none since })).core c).stage = .stopping none since :=
    congrArg CoreSt.stage (core_setCore_self ..)
  refine ⟨fun hy => ?_, fun hy hn => ?_, fun hy hn => ?_⟩
  · simp only [hexec, State.preempt, hst, hy, Bool.not_false, if_true]
  · simp only [hexec, State.preempt, hst, hy, hn, Bool.not_true, Bool.false_eq_true, if_false]
  · rw [exec_preemption_stopping hstop]
    simp only [hexec, State.preempt, hst, hy, hn, Bool.not_true, Bool.false_eq_true, if_false, if_true]

/-- Settles O41, by what the steps of a stopping core keep of its slots, and the layout of an image. -/
theorem savingAContext : Obligations.SavingAContext := by
  unfold Obligations.SavingAContext
  refine ⟨?_, fun s c since hst => exec_preemption_requested hst, fun s c due hst => ⟨?_, fun hd => ?_⟩⟩
  · intro s c l since x hst hl hx hwb hstill hcv hdq hmq hs
    have hr : s.Rests c := .of_slots hwb hstill hcv hdq hmq hs
    obtain ⟨img, himg, hk, hfree, hstage, hplace⟩ := stopStep_saves hr hst hl hx
    refine ⟨_, img, exec_preemption_stopping hst, himg, hk.launch, hk.origin, hk.site, hk.written, hfree, hstage, hplace,
      fun i hi => ?_⟩
    obtain ⟨hpc, hactive, hwait, hpend, hreg⟩ := hk.slots i
    refine ⟨hpc, hactive, hwait, hpend, hreg, fun r h0 => ?_, fun r => ?_, ?_⟩
    · rw [word_tail_x (hk.tails i hi) h0, hreg]
    · rw [num_tail_v (hk.tails i hi), hreg]
    · rw [word_tail_pc (hk.tails i hi), hpc]
  · intro n img pa size hd hi hp
    refine ⟨fun hheld => ?_, fun hclear htiles => ?_⟩
    · exact ⟨_, exec_imageSaveDone s c, imageDone_held hst hd hi hp hheld⟩
    · obtain ⟨hrun, hwritten, hmem⟩ := imageDone_written hst hd hi hp hclear htiles
      refine ⟨_, exec_imageSaveDone s c, hrun, hwritten, ?_⟩
      rw [hmem]
      exact read_image s.mem s img _
  · rw [exec_imageSaveDone, imageDone_early hst hd]

end Sys2Proof.Proofs
end

section
/-!
SUPPORT. A context that a core receives, from the save pool or from another core (09_traps R207 to R211).
-/
namespace Sys2Proof.Machine

/-! ### Parts of a memory -/

/-- A part of a memory reads as the memory at its place. -/
theorem read_slice (m : Memory) {base n j : Nat} (h : j < n) : (m.slice base n).read j = m.read (base + j) := by
  induction m with
  | nil => rfl
  | cons c r ih =>
    obtain ⟨a, b⟩ := c
    unfold Memory.slice at ih ⊢
    by_cases hin : base ≤ a ∧ a < base + n
    · rw [List.filter_cons_of_pos (by simpa using hin), List.map_cons, Memory.read, Memory.read, ih]
      have : j = a - base ↔ base + j = a := by omega
      simp only [this]
    · rw [List.filter_cons_of_neg (by simpa using hin), Memory.read, if_neg (by omega), ih]

theorem find_del {α : Type} (l : List (Nat × α)) (n : Nat) : find (del l n) n = none := by
  induction l with
  | nil => rfl
  | cons p r ih =>
    obtain ⟨k, v⟩ := p
    by_cases h : k = n
    · simpa [del, h] using ih
    · simpa [del, h, find] using ih

theorem core_modCore_self (s : State) (c : Nat) (f : CoreSt → CoreSt) : (s.modCore c f).core c = f (s.core c) :=
  core_setCore_self ..

/-! ### A core receives a context (R195, R209) -/

/-- A turn that a context's coming begins changes its core alone. -/
theorem turnFor_cases (s : State) (d l : Nat) : s.turnFor d l = s ∨ ∃ k, s.turnFor d l = s.setCore d k := by
  simp only [State.turnFor]
  split
  · exact .inl rfl
  · exact .inr ⟨_, rfl⟩

section
variable (s : State) (d l : Nat)

@[simp] theorem launches_turnFor : (s.turnFor d l).launches = s.launches := by
  rcases turnFor_cases s d l with h | ⟨k, h⟩
  · rw [h]
  · rw [h]; rfl

@[simp] theorem mem_turnFor : (s.turnFor d l).mem = s.mem := by
  rcases turnFor_cases s d l with h | ⟨k, h⟩
  · rw [h]
  · rw [h]; rfl

@[simp] theorem images_turnFor : (s.turnFor d l).images = s.images := by
  rcases turnFor_cases s d l with h | ⟨k, h⟩
  · rw [h]
  · rw [h]; rfl

theorem core_turnFor_ne {c : Nat} (hc : d ≠ c) : (s.turnFor d l).core c = s.core c := by
  rcases turnFor_cases s d l with h | ⟨k, h⟩ <;> rw [h]
  exact core_setCore_ne _ _ hc

theorem logMoved_cases (bad : List Nat) : ∃ t, s.logMoved d bad = { s with tele := t } := by
  unfold State.logMoved
  split
  · exact ⟨_, rfl⟩
  · exact ⟨_, rfl⟩

end

/-- A received slot is the context's but for when it issues. -/
theorem slot_received (k at_ : CoreSt) (now due i : Nat) :
    (k.received at_ now due).slot i = { k.slot i with notBefore := due, lastIssue := now } := by
  simp only [CoreSt.slot, CoreSt.received, Vector.get_eq_getElem, Vector.getElem_map]

/-- A slot of a context that is read back and received is as its tail describes it, but for its staging registers, its streams
and when it issues. -/
theorem slot_restored (k at_ : CoreSt) (m : Memory) (base now due i : Nat) :
    let t := (k.slot i).reload m (base + 0x1F000 + 1024 * (i % 4))
    let u := ((k.reload m base).received at_ now due).slot i
    u.x = t.x ∧ u.v = t.v ∧ u.pc = t.pc ∧ u.active = t.active ∧ u.h = t.h ∧ u.loop = t.loop := by
  intro t u
  have hu : u = _ := slot_received (k.reload m base) at_ now due i
  simp only [hu, CoreSt.slot, CoreSt.reload, Vector.get_eq_getElem, Vector.getElem_ofFn]
  exact ⟨rfl, rfl, rfl, rfl, rfl, rfl⟩

/-- The registers that a tail gives a slot (R206, R209). -/
theorem reg_reload (t : Slot) (m : Memory) (base : Nat) (r : Reg) :
    (r ≠ 0 → (t.reload m base).reg (.x r) = (m.word (base + 8 * r.toNat)).setWidth 128) ∧
    (t.reload m base).reg (.v r) = BitVec.ofNat 128 (m.num (base + 0x100 + 16 * r.toNat) 16) := by
  refine ⟨fun h => ?_, ?_⟩
  · have h0 : r.toNat ≠ 0 := fun h0 => h (BitVec.eq_of_toNat_eq (by simpa using h0))
    simp only [Slot.reg, if_neg h, Slot.reload, Vector.get_eq_getElem, Vector.getElem_ofFn, BitVec.val_toFin, if_neg h0]
  · simp only [Slot.reg, Slot.reload, Vector.get_eq_getElem, Vector.getElem_ofFn, BitVec.val_toFin]

section
variable {s : State} {n c pa size : Nat} {img : Image} {x : Launch}

/-- The core on which the engine has loaded an image (R14, R209). -/
theorem core_loadImage (hp : s.disp.savepool = some (pa, size)) : ∃ at_ now, (s.loadImage n c img).core c =
    (img.core.reload s.mem (pa % 2 ^ 42 + 0x5C000 * img.slot)).received at_ now (s.cycle + 4858) := by
  simp only [State.loadImage, hp]
  exact ⟨_, _, (core_setPlace ..).trans (core_modCore_self ..)⟩

/-- The image has gone, the memory is as it was, and the context's place is the core. -/
theorem loadImage_frame (hx : find s.launches img.launch = some x) :
    find (s.loadImage n c img).images n = none ∧ (s.loadImage n c img).mem = s.mem ∧
      (find (s.loadImage n c img).launches img.launch).bind (fun y => find y.places img.origin) = some (.transit c) := by
  simp only [State.loadImage]
  generalize CoreSt.marks _ = bad
  obtain ⟨t, ht⟩ := logMoved_cases s c bad
  refine ⟨?_, ?_, ?_⟩
  · rw [State.setPlace, images_modLaunch]
    exact find_del ..
  · rw [State.setPlace, mem_modLaunch]
    show ((s.logMoved c bad).turnFor c img.launch).mem = s.mem
    rw [mem_turnFor, ht]
  · refine place_setPlace (x := x) ?_
    show find ((s.logMoved c bad).turnFor c img.launch).launches img.launch = some x
    rw [launches_turnFor, ht]
    exact hx

end

/-! ### Restores (R207) -/

theorem exec_restore (s : State) (n c : Nat) : exec (.restore n c) s = .next (s.restoreImage n c) := rfl

/-- The cores of a restore are kept for its images. -/
theorem foldl_keepFor (ps : List (Nat × Nat × Nat)) (s : State) : ps.foldl (fun (s : State) p => s.keepFor p.1 p.2.2) s =
    ps.foldl (fun (u : State) p => u.modCore p.2.2 (fun k => { k with stage := .loading p.1 s.cycle })) s := by
  have key : ∀ (ps : List (Nat × Nat × Nat)) (u : State), u.cycle = s.cycle →
      ps.foldl (fun (s : State) p => s.keepFor p.1 p.2.2) u =
      ps.foldl (fun (u : State) p => u.modCore p.2.2 (fun k => { k with stage := .loading p.1 s.cycle })) u := by
    intro ps
    induction ps with
    | nil => exact fun _ _ => rfl
    | cons p ps ih =>
      intro u hu
      have hp : u.keepFor p.1 p.2.2 = u.modCore p.2.2 (fun k => { k with stage := .loading p.1 s.cycle }) := by
        rw [State.keepFor, hu]
      rw [List.foldl_cons, List.foldl_cons, ← hp]
      exact ih (u.keepFor p.1 p.2.2) hu
  exact key ps s rfl

section
variable {s : State} {n c : Nat} {img : Image}

/-- What a restore does on a core that is kept for an image. -/
theorem restoreImage_loading {m since : Nat} (hst : (s.core c).stage = .loading m since) (hi : find s.images n = some img) :
    s.restoreImage n c = if m = n && s.engineNext c then s.loadImage n c img else s := by
  simp only [State.restoreImage, hst, hi]

/-- What it does on another. -/
theorem restoreImage_keeping (hst : ∀ m since, (s.core c).stage ≠ .loading m since) (hi : find s.images n = some img) :
    s.restoreImage n c = if s.restorable n c img then
      (s.restoredWith c img).foldl (fun (s : State) p => s.keepFor p.1 p.2.2) s else s := by
  unfold State.restoreImage
  cases hs : (s.core c).stage with
  | loading m since => exact absurd hs (hst m since)
  | _ => simp only [hi]

/-- A core whose image has gone is free again. -/
theorem restoreImage_gone {since : Nat} (hst : (s.core c).stage = .loading n since) (hi : find s.images n = none) :
    s.restoreImage n c = s.modCore c (fun k => { k with stage := .running }) := by
  simp only [State.restoreImage, hst, hi, if_true]

end

/-! ### The generation of a launch (R210) -/

theorem genOf_modLaunch (s : State) (l m : Nat) {f : Launch → Launch} (h : ∀ x, (f x).gen = x.gen) :
    (s.modLaunch l f).genOf m = s.genOf m := (State.Steady.modLaunch s l h).gens m

theorem genOf_setPlace (s : State) (l o : Nat) (w : Where) (m : Nat) : (s.setPlace l o w).genOf m = s.genOf m :=
  genOf_modLaunch s l m fun _ => rfl

theorem genOf_congr {s t : State} (h : t.launches = s.launches) (m : Nat) : t.genOf m = s.genOf m := by
  rw [State.genOf, State.genOf, h]

theorem genOf_setCore (s : State) (c : Nat) (k : CoreSt) (m : Nat) : (s.setCore c k).genOf m = s.genOf m := rfl

theorem genOf_turnFor (s : State) (d l m : Nat) : (s.turnFor d l).genOf m = s.genOf m :=
  genOf_congr (launches_turnFor s d l) m

theorem genOf_halted (s : State) (c m : Nat) : ((s.halt c).logContext c).genOf m = s.genOf m :=
  ((State.Steady.halt s c).trans (.logContext _ c)).gens m

theorem genOf_saveImage (s : State) (c l m : Nat) : (s.saveImage c l).genOf m = s.genOf m := by
  rw [← genOf_halted s c m]
  unfold State.saveImage
  generalize (s.halt c).logContext c = u
  dsimp only
  rw [genOf_setCore, genOf_setPlace]
  rfl

theorem genOf_moveContext (s : State) (c d l m : Nat) : (s.moveContext c d l).genOf m = s.genOf m := by
  rw [← genOf_halted s c m]
  unfold State.moveContext
  generalize (s.halt c).logContext c = u
  dsimp only
  split
  · rw [genOf_setPlace, genOf_setCore]
  · refine (genOf_modLaunch (f := fun x => { x with acks := [] }) _ l m fun _ => rfl).trans ?_
    rw [genOf_setPlace, State.modCore, genOf_setCore, genOf_turnFor, genOf_setCore]

/-- A step of a stopping core leaves every launch's generation. -/
theorem genOf_stopStep (s : State) (c m : Nat) : (s.stopStep c).genOf m = s.genOf m := by
  rw [← (State.Steady.settling s c).gens m]
  have hdef : s.settling c = ((s.drainAll c).endRun c).partCore c := rfl
  unfold State.stopStep
  simp only [← hdef]
  split
  · split
    · rfl
    · split
      · exact genOf_saveImage ..
      · split
        · exact genOf_moveContext ..
        · rfl
  · rfl

theorem genOf_leaveFor (s : State) (l : Nat) (p : Nat × Nat × Nat) (m : Nat) : (s.leaveFor l p).genOf m = s.genOf m := by
  simp only [State.leaveFor]
  exact (genOf_setPlace _ _ _ _ m).trans (genOf_congr rfl m)

theorem genOf_leaveAll (all : List (Nat × Nat × Nat)) (s : State) (l m : Nat) :
    (all.foldl (fun (s : State) p => s.leaveFor l p) s).genOf m = s.genOf m := by
  induction all generalizing s with
  | nil => rfl
  | cons p all ih => exact (ih _).trans (genOf_leaveFor s l p m)

theorem exec_liveMigration (s : State) (c d : Nat) : exec (.liveMigration c d) s = .next (s.migrateLive c d) := rfl

/-- A live migration that begins raises the launch's generation (R210). -/
theorem genOf_migrateLive {s : State} {c d l : Nat} {x : Launch} (hcd : c ≠ d) (hst : (s.core c).stage = .running)
    (hl : (s.core c).launch = some l) (hx : find s.launches l = some x) (hpr : (s.core d).stage ≠ .promised c)
    (hpool : s.disp.savepool.isSome = true) (hmay : s.mayMove l (s.core c).origin d = true)
    (hlw : (s.leaveWith l (s.core c).origin d).isSome = true) : (s.migrateLive c d).genOf l = some (x.gen + 1) := by
  obtain ⟨all, hall⟩ := Option.isSome_iff_exists.mp hlw
  have hgen : (all.foldl (fun (s : State) p => s.leaveFor l p) s).genOf l = some x.gen := by
    rw [genOf_leaveAll, State.genOf, hx]
    rfl
  obtain ⟨y, hy, hyg⟩ := Option.map_eq_some_iff.mp hgen
  have hm : s.migrateLive c d = ((all.foldl (fun (s : State) p => s.leaveFor l p) s).modLaunch l
      (fun x => { x with gen := x.gen + 1 })).stopStep c := by
    simp [State.migrateLive, hst, hl, hpr, hpool, hmay, hall, hcd]
  rw [hm, genOf_stopStep, State.genOf, find_modLaunch_self _ hy]
  exact congrArg (fun g => some (g + 1)) hyg

/-! ### The engines' order while a core settles (R192) -/

theorem mem_put {α : Type} {l : List (Nat × α)} {n : Nat} {x : α} {p : Nat × α} (h : p ∈ put l n x) : p = (n, x) ∨ p ∈ l := by
  induction l with
  | nil => exact .inl (List.mem_singleton.mp h)
  | cons q r ih =>
    obtain ⟨k, v⟩ := q
    simp only [put] at h
    split at h
    · exact List.mem_cons.mp h
    · split at h
      · exact (List.mem_cons.mp h).imp_right (List.mem_cons_of_mem _)
      · rcases List.mem_cons.mp h with h | h
        · exact .inr (h ▸ List.mem_cons_self)
        · exact (ih h).imp_right (List.mem_cons_of_mem _)

section
variable {s : State} {c : Nat} {k : CoreSt} {n : List Msg}

/-- A core's change that keeps its context and its standing still changes no request for the engines. -/
theorem asksEngine_setCore (hc : k.context = (s.core c).context) (hs : k.still s.cycle = (s.core c).still s.cycle) (d : Nat) :
    ({ s.setCore c k with net := n } : State).asksEngine d = s.asksEngine d := by
  obtain ⟨-, -, hst, -⟩ := context_eq_iff.mp hc
  have hstage : (({ s.setCore c k with net := n } : State).core d).stage = (s.core d).stage ∧
      (({ s.setCore c k with net := n } : State).core d).still s.cycle = (s.core d).still s.cycle := by
    rw [core_net]
    by_cases hd : c = d
    · rw [← hd, core_setCore_self]
      exact ⟨hst, hs⟩
    · rw [core_setCore_ne _ _ hd]
      exact ⟨rfl, rfl⟩
  unfold State.asksEngine
  rw [hstage.1]
  split
  · rfl
  · rfl
  · exact if_congr (by rw [← hstage.2]; rfl) rfl rfl
  · rfl

/-- The engines that would serve a core next still do. -/
theorem engineNext_setCore (hc : k.context = (s.core c).context) (hs : k.still s.cycle = (s.core c).still s.cycle)
    (hidle : k.streams = false) (h : s.engineNext c = true) : ({ s.setCore c k with net := n } : State).engineNext c = true := by
  have hcores : ∀ p ∈ put s.cores c k, p = (c, k) ∨ p ∈ s.cores := fun p hp => mem_put hp
  have hengine : ∀ d, s.engineIdle d = true → ({ s.setCore c k with net := n } : State).engineIdle d = true := by
    intro d hd
    simp only [State.engineIdle, State.setCore, List.all_eq_true] at hd ⊢
    intro p hp
    rcases hcores p hp with rfl | hp
    · simp [hidle]
    · exact hd p hp
  simp only [State.engineNext, asksEngine_setCore hc hs] at h ⊢
  split
  · next ha => simp [ha] at h
  · next a ha =>
    simp only [ha, Bool.and_eq_true, List.all_eq_true] at h ⊢
    refine ⟨fun d hd => hengine d (h.1 d hd), fun p hp => ?_⟩
    rcases hcores p hp with rfl | hp
    · simp
    · exact h.2 p hp

end

/-- A resting core that composes no caravan settles: the engines that would serve it still do. -/
theorem engineNext_settling {s : State} {c d since : Nat} (h : s.Rests c) (hst : (s.core c).stage = .stopping (some d) since)
    (hw : ∀ i d m g, (s.slot c i).wait ≠ .compose d m g) (hn : s.engineNext c = true) : (s.settling c).engineNext c = true := by
  have hend : (s.endRun c).engineNext c = true := by
    rcases endRun_cases s c with he | ⟨k, n, he, hk, -⟩
    · rwa [he]
    · have hcore : (s.endRun c).core c = k := by rw [he]; exact core_setCore_self s c k
      have hstill := h.endRun.1.still
      rw [hcore, (State.Steady.endRun s c).cycle] at hstill
      obtain ⟨-, -, hstage, -⟩ := context_eq_iff.mp hk.context
      rw [he]
      exact engineNext_setCore hk.context (hstill.trans h.still.symm) (by rw [CoreSt.streams, hstage, hst]) hn
  obtain ⟨hr, hk⟩ := h.endRun
  have hpart : (s.endRun c).partCore c = s.endRun c := partCore_eq_self hr.caravan hr.alone fun i d m g hc => by
    rcases (hk.slots i).wait with hi | hi
    · exact hw i d m g (hi.symm.trans hc)
    · exact Wait.noConfusion (hi.symm.trans hc)
  have hs : s.settling c = s.endRun c := by rw [State.settling, h.drainAll, hpart]
  rw [hs]
  exact hend

/-! ### A context moves (R210) -/

/-- A resting core's context moves to another core, and leaves a forwarding entry. -/
theorem moveContext_rests {s : State} {c d l : Nat} {x : Launch} (hcd : c ≠ d) (h : s.Rests c)
    (hx : find s.launches l = some x) :
    ∃ k : CoreSt, k.context = (s.core c).context ∧ (∀ i, (s.slot c i).Halted (k.slot i)) ∧
      ((s.moveContext c d l).core c).launch = none ∧
      ((s.moveContext c d l).core c).forwards = (s.core c).forwards ++ [(l, (s.core c).origin, d)] ∧
      (∃ at_, (s.moveContext c d l).core d = k.received at_ s.cycle (s.cycle + 4858)) ∧
      (find (s.moveContext c d l).launches l).bind (fun y => find y.places (s.core c).origin) = some (.transit d) := by
  have hsteady : s.Steady ((s.halt c).logContext c) := (State.Steady.halt s c).trans (.logContext _ c)
  obtain ⟨k, hk, hslots⟩ := h.halt
  obtain ⟨-, horigin, -, hforwards⟩ := context_eq_iff.mp (hsteady.context c)
  obtain ⟨y, hy⟩ := hsteady.launch hx
  unfold State.moveContext
  generalize (s.halt c).logContext c = u at *
  simp only [if_neg hcd.symm]
  have hc : ∀ v : State, ∀ f g, ((((v.turnFor d l).modCore d f).setPlace l (u.core c).origin (.transit d)).modLaunch l g).core c =
      v.core c := fun v f g => by
    rw [core_modLaunch, core_setPlace, State.modCore, core_setCore_ne _ _ hcd.symm, core_turnFor_ne _ _ _ hcd.symm]
  have hd : ∀ v : State, ∀ f g, ((((v.turnFor d l).modCore d f).setPlace l (u.core c).origin (.transit d)).modLaunch l g).core d =
      f ((v.turnFor d l).core d) := fun v f g => by
    rw [core_modLaunch, core_setPlace, core_modCore_self]
  have hplace : ∀ v : State, ∀ f, find v.launches l = some y →
      (find ((((v.turnFor d l).modCore d f).setPlace l (u.core c).origin (.transit d)).modLaunch l
        (fun x => { x with acks := [] })).launches l).bind (fun y => find y.places (u.core c).origin) = some (.transit d) :=
    fun v f hv => by
      have hv' : find ((v.turnFor d l).modCore d f).launches l = some y := by rwa [launches_modCore, launches_turnFor]
      rw [State.setPlace, find_modLaunch_self _ (find_modLaunch_self _ hv')]
      exact find_put_self ..
  refine ⟨u.core c, hsteady.context c, fun i => ?_, ?_, ?_, ?_, ?_⟩
  · rw [hk, slot_writeTails]
    exact hslots i
  · rw [hc, core_setCore_self]
    rfl
  · rw [hc, core_setCore_self, ← hforwards, ← horigin]
    rfl
  · rw [hd, ← hsteady.cycle]
    exact ⟨_, rfl⟩
  · rw [← horigin]
    exact hplace _ _ hy

/-- A resting core whose context the engines move: the old core, the new one, and what it received. -/
theorem migrateLive_rests {s : State} {c d l since : Nat} {x : Launch} (hcd : c ≠ d) (h : s.Rests c)
    (hst : (s.core c).stage = .stopping (some d) since) (hl : (s.core c).launch = some l) (hx : find s.launches l = some x)
    (hw : ∀ i d m g, (s.slot c i).wait ≠ .compose d m g) (hn : s.engineNext c = true) :
    ∃ k : CoreSt, k.context = (s.core c).context ∧ (∀ i, (s.slot c i).Halted (k.slot i)) ∧
      ((s.migrateLive c d).core c).launch = none ∧
      ((s.migrateLive c d).core c).forwards = (s.core c).forwards ++ [(l, (s.core c).origin, d)] ∧
      (∃ at_, (s.migrateLive c d).core d = k.received at_ s.cycle (s.cycle + 4858)) ∧
      (find (s.migrateLive c d).launches l).bind (fun y => find y.places (s.core c).origin) = some (.transit d) := by
  have hsteady := State.Steady.settling s c
  obtain ⟨hrests, hkeeps⟩ := h.settling
  obtain ⟨y, hy⟩ := hsteady.launch hx
  have hm : s.migrateLive c d = (s.settling c).moveContext c d l := by
    rw [← (stopStep_rests h hl).2 d hst (engineNext_settling h hst hw hn)]
    simp only [State.migrateLive, hst, beq_self_eq_true, if_true]
  obtain ⟨k, hk, hslots, hmoved⟩ := moveContext_rests hcd hrests hy
  obtain ⟨-, horigin, -, hforwards⟩ := context_eq_iff.mp (hsteady.context c)
  rw [horigin, hforwards, hsteady.cycle, ← hm] at hmoved
  exact ⟨k, hk.trans (hsteady.context c), fun i => (hslots i).of_keeps (hkeeps.slots i), hmoved⟩

/-! ### Acknowledgements of a generation (R210) -/

theorem exec_newGenerationAck (s : State) (l c : Nat) : exec (.newGenerationAck l c) s = .next (s.ackGeneration l c) := rfl

/-- A core without the forwarding entries of a launch. -/
def CoreSt.unforwarded (l : Nat) (k : CoreSt) : CoreSt := { k with forwards := k.forwards.filter (fun f => f.1 != l) }

/-- The acknowledgement of a core of the launch is kept, and the last one frees the forwarding entries. -/
theorem ackGeneration_eq {s : State} {l c : Nat} {x : Launch} (hx : find s.launches l = some x) (hc : c ∈ x.sites) {acks : List Nat}
    (ha : acks = if x.acks.contains c then x.acks else x.acks ++ [c]) :
    let t := s.modLaunch l (fun x => { x with acks })
    s.ackGeneration l c = if x.sites.all acks.contains then
      { t with cores := t.cores.map (fun p => (p.1, p.2.unforwarded l)) } else t := by
  have hin : (!x.sites.contains c) = false := by simpa using hc
  simp only [State.ackGeneration, hx, hin, Bool.false_eq_true, if_false, ← ha]
  rfl

/-- Every core loses its entries of the launch. -/
theorem core_unforwarded (s : State) (l d : Nat) :
    ({ s with cores := s.cores.map (fun p => (p.1, p.2.unforwarded l)) } : State).core d = (s.core d).unforwarded l :=
  core_mapCores s (g := fun _ => CoreSt.unforwarded l) rfl

end Sys2Proof.Machine
end

section
/-!
CERTIFICATE. A context that comes back from the save pool, or moves to another core (09_traps R207 to R211).
-/
namespace Sys2Proof.Proofs
open Sys2Proof.Machine

/-- Settles O42, by what a core receives of a context, and what the steps of a stopping core keep of it. -/
theorem restoreAndMigration : Obligations.RestoreAndMigration := by
  unfold Obligations.RestoreAndMigration
  refine ⟨fun s n c img x hi hx => ⟨?_, ?_, fun hst => ⟨?_, ?_⟩⟩, ?_, ?_, ?_, ?_⟩
  · intro pa size since hst hn hp base
    obtain ⟨at_, now, hcore⟩ := core_loadImage (n := n) (c := c) (img := img) hp
    obtain ⟨hgone, hmem, hplace⟩ := loadImage_frame (n := n) (c := c) hx
    have hexec : exec (.restore n c) s = .next (s.loadImage n c img) := by
      rw [exec_restore, restoreImage_loading hst hi, hn, Bool.and_true, decide_eq_true rfl, if_pos rfl]
    refine ⟨_, hexec, hgone, by rw [hcore]; rfl, by rw [hcore]; rfl, hplace, fun j hj => ?_, hmem, fun i h4 => ?_⟩
    · rw [hcore]
      exact read_slice s.mem hj
    · have ht : (s.loadImage n c img).slot c i = ((img.core.reload s.mem base).received at_ now (s.cycle + 4858)).slot i :=
        congrArg (CoreSt.slot · i) hcore
      obtain ⟨hx, hv, hpc, hactive, hh, hloop⟩ := slot_restored img.core at_ s.mem base now (s.cycle + 4858) i
      rw [Nat.mod_eq_of_lt h4] at hx hv hpc hactive hh hloop
      have hreg := reg_reload (img.core.slot i) s.mem (base + 0x1F000 + 1024 * i)
      rw [ht]
      exact ⟨fun r hr => (reg_congr hx hv _).trans ((hreg r).1 hr), fun r => (reg_congr hx hv _).trans (hreg r).2, hpc, hactive,
        hh, hloop⟩
  · intro m since hst hno
    have : (m = n && s.engineNext c) = false := by
      rcases hno with h | h <;> simp [h]
    rw [exec_restore, restoreImage_loading hst hi, this, if_neg Bool.false_ne_true]
  · intro hr
    rw [exec_restore, restoreImage_keeping hst hi, hr, if_neg Bool.false_ne_true]
  · intro hr
    rw [exec_restore, restoreImage_keeping hst hi, hr, if_pos rfl, foldl_keepFor]
  · intro s n c since hi hst
    rw [exec_restore, restoreImage_gone hst hi]
  · intro s c d l x hcd hst hl hx hpr hpool hmay hlw
    exact ⟨_, exec_liveMigration s c d, genOf_migrateLive hcd hst hl hx hpr hpool hmay hlw⟩
  · intro s c d l since x hcd hst hl hx hwb hstill hcv hdq hmq hn hs
    have hr : s.Rests c := .of_slots hwb hstill hcv hdq hmq fun i h4 =>
      ⟨(hs i h4).1, (hs i h4).2.1, (hs i h4).2.2.1⟩
    have hw : ∀ i d m g, (s.slot c i).wait ≠ .compose d m g := fun i => by
      rw [State.slot, slot_mod]
      exact (hs (i % 4) (Nat.mod_lt i (by omega))).2.2.2
    obtain ⟨k, hk, hslots, hfree, hforwards, ⟨at_, hcore⟩, hplace⟩ := migrateLive_rests hcd hr hst hl hx hw hn
    obtain ⟨hlaunch, horigin, -, -⟩ := context_eq_iff.mp hk
    refine ⟨_, exec_liveMigration s c d, hfree, hforwards, ?_, ?_, by rw [hcore]; rfl, hplace, fun i _ => ?_⟩
    · rw [hcore, ← hl, ← hlaunch]
      rfl
    · rw [hcore, ← horigin]
      rfl
    · have ht : (s.migrateLive c d).slot d i = _ := (congrArg (CoreSt.slot · i) hcore).trans (slot_received ..)
      rw [ht]
      exact ⟨(hslots i).pc, fun r => (reg_congr rfl rfl r).trans ((hslots i).reg r)⟩
  · intro s l c x hx hc acks
    have heq := ackGeneration_eq hx hc (acks := acks) rfl
    refine ⟨fun hall => ⟨_, exec_newGenerationAck s l c, fun d => ?_⟩, fun hall => ⟨_, exec_newGenerationAck s l c, ?_, fun d => ?_⟩⟩
    · rw [heq, if_pos hall, core_unforwarded, core_modLaunch]
      rfl
    · rw [heq, if_neg (by rw [hall]; exact Bool.false_ne_true), find_modLaunch_self _ hx]
      rfl
    · rw [heq, if_neg (by rw [hall]; exact Bool.false_ne_true), core_modLaunch]

end Sys2Proof.Proofs
end

section
/-!
SUPPORT. The decoder against the encoder (03_encoding R49, R60 to R66): what each decoder answers is an instruction whose fields
are the ones it was given.
-/
namespace Sys2Proof

/-! ### Answers of the decoder -/

theorem need_eq_ok {z : Bool} {i j : Instr} : need z i = .ok j ↔ z = true ∧ i = j := by
  cases z <;> simp [need]

theorem field_eq_ok {α : Type} {e : Illegal} {o : Option α} {x : α} : field e o = .ok x ↔ o = some x := by
  cases o <;> simp [field]

theorem bind_eq_ok {α β : Type} {x : Except Illegal α} {g : α → Except Illegal β} {y : β} :
    (x >>= g) = .ok y ↔ ∃ a, x = .ok a ∧ g a = .ok y := by
  cases x <;> simp [bind, Except.bind]

theorem lane_eq_ok {f : Fields} {t : LaneType} : f.lane = .ok t ↔ LaneType.ofCode f.ty = some t := field_eq_ok

theorem eq_ofNat_of_toNat {w : Nat} {v : BitVec w} {n : Nat} (h : v.toNat = n) : v = BitVec.ofNat w n := by
  rw [← h, BitVec.ofNat_toNat, BitVec.setWidth_eq]

/-! ### Codes -/

theorem LaneType.code_of_ofCode : ∀ {c : BitVec 4} {t : LaneType}, LaneType.ofCode c = some t → t.code = c := by
  intro c; revert c; decide

theorem KeyType.code_of_ofCode : ∀ {c : BitVec 3} {t : KeyType}, KeyType.ofCode c = some t → t.code = c := by
  intro c; revert c; decide

theorem RedOp.code_of_ofCode : ∀ {c : BitVec 2} {t : RedOp}, RedOp.ofCode c = some t → t.code = c := by
  intro c; revert c; decide

theorem AmoOp.code_of_ofCode : ∀ {c : BitVec 4} {t : AmoOp}, AmoOp.ofCode c = some t → t.code = c := by
  intro c; revert c; decide

theorem FenceKind.code_of_ofCode : ∀ {c : BitVec 2} {t : FenceKind}, FenceKind.ofCode c = some t → t.code = c := by
  intro c; revert c; decide

theorem PathClass.code_of_ofCode : ∀ {c : BitVec 4} {t : PathClass}, PathClass.ofCode c = some t → t.code = c := by
  intro c; revert c; decide

theorem Scope.code_ofCode (c : BitVec 3) : (Scope.ofCode c).code = c := by revert c; decide
theorem VCond.code_ofCode (c : BitVec 3) : (VCond.ofCode c).code = c := by revert c; decide


/-! ### Fields cut and put together again -/

/-- A lane type's code with the two bits below it is the fn that they were cut from. -/
theorem fnT_cut {fn : BitVec 6} {t : LaneType} {q m : Bool} (h : LaneType.ofCode (fn.extractLsb' 2 4) = some t)
    (hq : fn.getLsbD 1 = q) (hm : fn.getLsbD 0 = m) : fnT t q m = fn := by
  rw [fnT, LaneType.code_of_ofCode h, ← hq, ← hm]
  clear h hq hm
  revert fn
  decide

theorem fnS_self (fn : BitVec 6) : fnS (fn.extractLsb' 1 5) (fn.getLsbD 0) = fn := by revert fn; decide

theorem fnS_cut {fn : BitVec 6} {n : Nat} {m : Bool} (h : (fn.extractLsb' 1 5).toNat = n) (hm : fn.getLsbD 0 = m) :
    fnS (BitVec.ofNat 5 n) m = fn := by
  rw [← eq_ofNat_of_toNat h, ← hm, fnS_self]

/-- The imm11 of format I, cut into its fields. -/
theorem fI_imm11 (k : Bool) (op : BitVec 6) (a b c : Reg) (fn : BitVec 6) :
    fI k op a b (c ++ fn) = ⟨k, op, a, b, c, fn⟩ := by
  simp (disch := decide) only [fI, -Nat.reduceAdd, BitVec.extractLsb'_append_eq_of_le, BitVec.extractLsb'_append_eq_of_add_le, Nat.reduceSub,
    BitVec.extractLsb'_eq_self]

theorem fU_imm16 (op : BitVec 6) (a b c : Reg) (fn : BitVec 6) :
    fU op a (b ++ c ++ fn) = ⟨false, op, a, b, c, fn⟩ := by
  simp (disch := decide) only [fU, -Nat.reduceAdd, BitVec.extractLsb'_append_eq_of_le, BitVec.extractLsb'_append_eq_of_add_le, Nat.reduceSub,
    BitVec.extractLsb'_eq_self]

theorem fJ_off21 (op : BitVec 6) (a b c : Reg) (fn : BitVec 6) :
    fJ op (a ++ b ++ c ++ fn) = ⟨false, op, a, b, c, fn⟩ := by
  simp (disch := decide) only [fJ, -Nat.reduceAdd, BitVec.extractLsb'_append_eq_of_le, BitVec.extractLsb'_append_eq_of_add_le, Nat.reduceSub,
    BitVec.extractLsb'_eq_self]

theorem fB2_cut (op : BitVec 6) (a b c : Reg) (fn : BitVec 6) :
    fB2 op a (c.extractLsb' 4 1 ++ b) (c.extractLsb' 0 4 ++ fn) = ⟨false, op, a, b, c, fn⟩ := by
  simp (disch := decide) only [fB2, -Nat.reduceAdd, BitVec.extractLsb'_append_eq_of_le, BitVec.extractLsb'_append_eq_of_add_le, Nat.reduceSub,
    BitVec.extractLsb'_eq_self]
  rw [show c.extractLsb' 4 1 ++ c.extractLsb' 0 4 = c from
    (BitVec.extractLsb'_append_extractLsb'_eq_extractLsb' rfl).trans BitVec.extractLsb'_eq_self]

/-- VCMP's condition is the opcode's low bit and fn's. -/
theorem vcmp_cut {hi : BitVec 1} {a b c : Reg} {fn : BitVec 6} {t : LaneType} (h : LaneType.ofCode (fn.extractLsb' 2 4) = some t) :
    encodeFields (.vcmp (.ofCode (hi ++ fn.extractLsb' 0 2)) t a b c) = some ⟨true, 14#5 ++ hi, a, b, c, fn⟩ := by
  simp only [encodeFields, VCond.code_ofCode, LaneType.code_of_ofCode h, fA, Option.some.injEq, Fields.mk.injEq, true_and]
  clear h
  revert hi fn
  decide

theorem rpt_cut {a c : Reg} {fn : BitVec 6} (h : fn.extractLsb' 0 4 = 0) :
    encodeFields (.rpt a (c.extractLsb' 2 3) (c.extractLsb' 0 2 ++ fn.extractLsb' 4 2)) = some ⟨false, 0x1D, a, 0, c, fn⟩ := by
  have hfn : ∀ v : BitVec 6, v.extractLsb' 0 4 = 0 → v.extractLsb' 4 2 ++ 0#4 = v := by decide
  have hc : c.extractLsb' 2 3 ++ c.extractLsb' 0 2 = c := by revert c; decide
  simp only [encodeFields, fC, BitVec.extractLsb'_append_eq_left, BitVec.extractLsb'_append_eq_right, hc, hfn fn h]

theorem tabort_cut {c : Reg} {fn : BitVec 6} (h : c.extractLsb' 2 3 = 0) :
    encodeFields (.tabort (c.extractLsb' 0 2 ++ fn)) = some ⟨false, 0x1F, 0, 0, c, fn⟩ := by
  have hc : ∀ v : Reg, v.extractLsb' 2 3 = 0 → 0#3 ++ v.extractLsb' 0 2 = v := by decide
  simp only [encodeFields, fC, BitVec.extractLsb'_append_eq_left, BitVec.extractLsb'_append_eq_right, hc c h]

theorem st4_cut {a b c : Reg} {fn : BitVec 6} :
    encodeFields (.st4 a b (c ++ fn.extractLsb' 1 5) (fn.getLsbD 0)) = some ⟨false, 0x2D, a, b, c, fn⟩ := by
  simp only [encodeFields, fC, Option.some.injEq, Fields.mk.injEq, true_and,
    BitVec.extractLsb'_append_eq_left, BitVec.extractLsb'_append_eq_right]
  exact fnS_self fn

theorem scope0_cut {fn : BitVec 6} (h : fn.extractLsb' 3 3 = 0) : 0#3 ++ (Scope.ofCode (fn.extractLsb' 0 3)).code = fn := by
  rw [Scope.code_ofCode]
  revert fn
  decide

theorem scope1_cut {fn : BitVec 6} (h : fn.extractLsb' 4 2 = 0) :
    0#2 ++ (Scope.ofCode (fn.extractLsb' 1 3)).code ++ BitVec.ofBool (fn.getLsbD 0) = fn := by
  rw [Scope.code_ofCode]
  revert fn
  decide

theorem ty_cut {fn : BitVec 6} {v : BitVec 4} (h : v = fn.extractLsb' 2 4) :
    v ++ BitVec.ofBool (fn.getLsbD 1) ++ BitVec.ofBool (fn.getLsbD 0) = fn := by
  rw [h]
  clear h
  revert fn
  decide

theorem fence_cut {fn : BitVec 6} {v : BitVec 2} (h : v = fn.extractLsb' 3 2) (hz : fn.getLsbD 5 = false) :
    0#1 ++ v ++ (Scope.ofCode (fn.extractLsb' 0 3)).code = fn := by
  rw [Scope.code_ofCode, h]
  clear h
  revert fn
  decide

theorem fencex_cut {c : Reg} {fn : BitVec 6} {ca cb : PathClass} (ha : ca.code = fn.extractLsb' 0 4)
    (hb : cb.code = c.extractLsb' 0 2 ++ fn.extractLsb' 4 2) :
    encodeFields (.fencex ca cb (.ofCode (c.extractLsb' 2 3))) = some ⟨false, 0x33, 0, 0, c, fn⟩ := by
  have hc : c.extractLsb' 2 3 ++ c.extractLsb' 0 2 = c := by clear hb; revert c; decide
  have hfn : fn.extractLsb' 4 2 ++ fn.extractLsb' 0 4 = fn := by clear ha hb; revert fn; decide
  simp only [encodeFields, fC, ha, hb, Scope.code_ofCode,
    BitVec.extractLsb'_append_eq_left, BitVec.extractLsb'_append_eq_right, hc, hfn]

theorem tred_cut {fn : BitVec 6} {v : BitVec 4} {w : BitVec 2} (hv : v = fn.extractLsb' 2 4) (hw : w = fn.extractLsb' 0 2) :
    v ++ w = fn := by
  rw [hv, hw]
  clear hv hw
  revert fn
  decide

theorem send_cut {c : Reg} (h : c.extractLsb' 0 3 = 0) : c.extractLsb' 3 2 ++ 0#3 = c := by revert c; decide

theorem bit_cut {v : Reg} (h : v.toNat < 2) : 0#4 ++ BitVec.ofBool (v.getLsbD 0) = v := by revert v; decide

/-- A lane type in the low bits of a register field. -/
theorem code5_cut {v : Reg} {t : LaneType} (h : LaneType.ofCode (v.extractLsb' 0 4) = some t) (h4 : v.getLsbD 4 = false) :
    0#1 ++ t.code = v := by
  rw [LaneType.code_of_ofCode h]
  clear h
  revert v
  decide

/-! ### The decoders, one lemma each -/

theorem encode_decodeIaluA {a b c : Reg} {fn : BitVec 6} {i : Instr} (h : decodeIaluA ⟨true, 1, a, b, c, fn⟩ = .ok i) :
    encodeFields i = some ⟨true, 1, a, b, c, fn⟩ := by
  unfold decodeIaluA at h
  split at h
  case h_25 => cases h
  case h_22 hs | h_23 hs | h_24 hs =>
    obtain ⟨hz, rfl⟩ := need_eq_ok.mp h
    simp only [Bool.and_eq_true, beq_iff_eq, Bool.not_eq_true'] at hz
    obtain ⟨rfl, hm⟩ := hz
    exact congrArg (fun x => some (fA 1 a b 0 x)) (fnS_cut hs hm)
  all_goals
    next hs =>
    cases h
    exact congrArg (fun x => some (fA 1 a b c x)) (fnS_cut hs rfl)

theorem encode_decodeIaluC {a b c : Reg} {fn : BitVec 6} {i : Instr} (h : decodeIaluC ⟨false, 8, a, b, c, fn⟩ = .ok i) :
    encodeFields i = some ⟨false, 8, a, b, c, fn⟩ := by
  unfold decodeIaluC at h
  split at h
  case h_15 => cases h
  all_goals
    next hs =>
    obtain ⟨hm, rfl⟩ := need_eq_ok.mp h
    exact congrArg (fun x => some (fC 8 a b c x)) (fnS_cut hs (Bool.not_eq_true' _ ▸ hm))

theorem encode_decodeShift {f : Fields} {i : Instr} {shl shr sra : Reg → Reg → BitVec 6 → Instr}
    (h0 : encodeFields (shl f.a f.b f.fn) = some { f with c := 0 }) (h1 : encodeFields (shr f.a f.b f.fn) = some { f with c := 1 })
    (h2 : encodeFields (sra f.a f.b f.fn) = some { f with c := 2 }) (h : decodeShift f shl shr sra = .ok i) :
    encodeFields i = some f := by
  have hc : ∀ n : Nat, f.c.toNat = n → { f with c := BitVec.ofNat 5 n } = f := fun n hn => by
    rw [← eq_ofNat_of_toNat hn]
  unfold decodeShift at h
  split at h
  case h_4 | h_5 => cases h
  case h_1 hs => cases h; exact h0.trans (congrArg some (hc _ hs))
  case h_2 hs => cases h; exact h1.trans (congrArg some (hc _ hs))
  case h_3 hs => cases h; exact h2.trans (congrArg some (hc _ hs))

theorem encode_decodeSpecial {a b c : Reg} {fn : BitVec 6} {i : Instr} (h : decodeSpecial ⟨true, 0x23, a, b, c, fn⟩ = .ok i) :
    encodeFields i = some ⟨true, 0x23, a, b, c, fn⟩ := by
  obtain ⟨t, ht, h⟩ := bind_eq_ok.mp h
  split at h
  case h_6 => cases h
  all_goals
    next hs =>
    obtain ⟨hz, rfl⟩ := need_eq_ok.mp h
    simp only [Bool.and_eq_true, Bool.not_eq_true'] at hz
    obtain ⟨hq, hm⟩ := hz
    obtain rfl := eq_ofNat_of_toNat hs
    exact congrArg (fun x => some (fA 0x23 a b _ x)) (fnT_cut (lane_eq_ok.mp ht) hq hm)

theorem encode_decodeLogic {a b c : Reg} {fn : BitVec 6} {i : Instr} (h : decodeLogic ⟨true, 0x19, a, b, c, fn⟩ = .ok i) :
    encodeFields i = some ⟨true, 0x19, a, b, c, fn⟩ := by
  have hfn : ∀ (fn : BitVec 6) (n : Nat), (fn.extractLsb' 2 4).toNat = n → fn.getLsbD 1 = false →
      BitVec.ofNat 4 n ++ 0#1 ++ BitVec.ofBool (fn.getLsbD 0) = fn := by
    rintro fn n rfl
    rw [BitVec.ofNat_toNat, BitVec.setWidth_eq]
    revert fn
    decide
  unfold decodeLogic at h
  split at h
  case h_5 => cases h
  all_goals
    next hs =>
    obtain ⟨hq, rfl⟩ := need_eq_ok.mp h
    exact congrArg (fun x => some (fA 0x19 a b c x)) (hfn fn _ hs (Bool.not_eq_true' _ ▸ hq))

theorem encode_decodeVshl {a b c : Reg} {fn : BitVec 6} {i : Instr} (h : decodeVshl ⟨true, 0x1A, a, b, c, fn⟩ = .ok i) :
    encodeFields i = some ⟨true, 0x1A, a, b, c, fn⟩ := by
  obtain ⟨t, ht, h⟩ := bind_eq_ok.mp h
  have hfn := fun {q m} => fnT_cut (q := q) (m := m) (lane_eq_ok.mp ht)
  split at h
  case isTrue hq =>
    obtain ⟨hm, rfl⟩ := need_eq_ok.mp h
    exact congrArg (fun x => some (fA 0x1A a b c x)) (hfn hq (Bool.not_eq_true' _ ▸ hm))
  case isFalse hq =>
    cases h
    exact congrArg (fun x => some (fA 0x1A a b c x)) (hfn (Bool.eq_false_iff.mpr hq) rfl)

theorem encode_decodeVshr {a b c : Reg} {fn : BitVec 6} {i : Instr} (h : decodeVshr ⟨true, 0x1B, a, b, c, fn⟩ = .ok i) :
    encodeFields i = some ⟨true, 0x1B, a, b, c, fn⟩ := by
  obtain ⟨t, ht, h⟩ := bind_eq_ok.mp h
  have hfn := fun {q m} => fnT_cut (q := q) (m := m) (lane_eq_ok.mp ht)
  split at h <;> split at h
  case isTrue.isTrue hq | isFalse.isTrue hq =>
    obtain ⟨hm, rfl⟩ := need_eq_ok.mp h
    exact congrArg (fun x => some (fA 0x1B a b c x)) (hfn hq (Bool.not_eq_true' _ ▸ hm))
  case isTrue.isFalse hq | isFalse.isFalse hq =>
    cases h
    exact congrArg (fun x => some (fA 0x1B a b c x)) (hfn (Bool.eq_false_iff.mpr hq) rfl)

theorem encode_decodeSys {a b c : Reg} {fn : BitVec 6} {i : Instr} (h : decodeSys ⟨false, 0, a, b, c, fn⟩ = .ok i) :
    encodeFields i = some ⟨false, 0, a, b, c, fn⟩ := by
  unfold decodeSys at h
  split at h
  case h_15 => cases h
  case h_6 hs | h_9 hs =>
    obtain rfl := eq_ofNat_of_toNat hs
    obtain ⟨hz, rfl⟩ := need_eq_ok.mp h
    simp only [Bool.and_eq_true, beq_iff_eq] at hz
    obtain ⟨rfl, rfl⟩ := hz
    rfl
  case h_10 hs =>
    obtain rfl := eq_ofNat_of_toNat hs
    split at h
    case isFalse => cases h
    case isTrue ha =>
      obtain ⟨hz, rfl⟩ := need_eq_ok.mp h
      simp only [Bool.and_eq_true, beq_iff_eq] at hz
      obtain ⟨rfl, rfl⟩ := hz
      exact congrArg (fun x => some (fC 0 x 0 0 9)) (bit_cut ha)
  all_goals
    next hs =>
    obtain rfl := eq_ofNat_of_toNat hs
    obtain ⟨hz, rfl⟩ := need_eq_ok.mp h
    simp only [Bool.and_eq_true, beq_iff_eq] at hz
    obtain ⟨rfl, rfl, rfl⟩ := hz
    rfl

theorem encode_decodeEngine2 {a b c : Reg} {fn : BitVec 6} {i : Instr} (h : decodeEngine2 ⟨false, 0x3F, a, b, c, fn⟩ = .ok i) :
    encodeFields i = some ⟨false, 0x3F, a, b, c, fn⟩ := by
  unfold decodeEngine2 at h
  split at h
  case h_4 => cases h
  all_goals
    next hs =>
    obtain rfl := eq_ofNat_of_toNat hs
    obtain ⟨hz, rfl⟩ := need_eq_ok.mp h
    simp only [Bool.and_eq_true, beq_iff_eq] at hz
    simp only [hz, encodeFields]
    rfl

theorem encode_decodeEngine {a b c : Reg} {fn : BitVec 6} {i : Instr} (h : decodeEngine ⟨false, 0x3E, a, b, c, fn⟩ = .ok i) :
    encodeFields i = some ⟨false, 0x3E, a, b, c, fn⟩ := by
  have hfn : ∀ n : Nat, (fn.extractLsb' 3 3).toNat = n → BitVec.ofNat 3 n ++ fn.extractLsb' 0 3 = fn := by
    rintro n rfl
    rw [BitVec.ofNat_toNat, BitVec.setWidth_eq]
    clear h
    revert fn
    decide
  unfold decodeEngine at h
  split at h
  case h_1 hs =>
    have hcut : ∀ v : BitVec 6, v.extractLsb' 3 3 = 0 → v.getLsbD 2 = false →
        0#4 ++ BitVec.ofBool (v.getLsbD 1) ++ BitVec.ofBool (v.getLsbD 0) = v := by decide
    obtain ⟨hz, rfl⟩ := need_eq_ok.mp h
    exact congrArg (fun x => some (fC 0x3E a b c x)) (hcut fn (eq_ofNat_of_toNat hs) (Bool.not_eq_true' _ ▸ hz))
  case h_5 hs =>
    obtain ⟨ty, hty, h⟩ := bind_eq_ok.mp h
    obtain ⟨hz, rfl⟩ := need_eq_ok.mp h
    simp only [beq_iff_eq] at hz
    subst hz
    have hc := KeyType.code_of_ofCode (field_eq_ok.mp hty)
    exact congrArg (fun x => some (fC 0x3E a b 0 x)) ((congrArg (4#3 ++ ·) hc).trans (hfn _ hs))
  case h_8 => cases h
  case h_4 hs | h_6 hs =>
    obtain ⟨hz, rfl⟩ := need_eq_ok.mp h
    simp only [beq_iff_eq] at hz
    have := hfn _ hs
    rw [hz] at this
    exact congrArg (fun x => some (fC 0x3E a b c x)) this
  all_goals
    next hs =>
    obtain ⟨hz, rfl⟩ := need_eq_ok.mp h
    simp only [Bool.and_eq_true, beq_iff_eq] at hz
    obtain ⟨⟨rfl, rfl⟩, hz⟩ := hz
    have := hfn _ hs
    rw [hz] at this
    exact congrArg (fun x => some (fC 0x3E a 0 0 x)) this


/-- The A-class decoder (Table 3.7). The cases are the opcodes in the table's order. -/
theorem encode_decodeA {f : Fields} {i : Instr} (hk : f.k = true) (h : decodeA f = .ok i) : encodeFields i = some f := by
  obtain ⟨k, op, a, b, c, fn⟩ := f
  obtain rfl : k = true := hk
  have hfn : ∀ {t : LaneType} {q m : Bool}, (Fields.mk true op a b c fn).lane = .ok t → fn.getLsbD 1 = q → fn.getLsbD 0 = m →
      fnT t q m = fn := fun ht => fnT_cut (lane_eq_ok.mp ht)
  unfold decodeA at h
  split at h
  case h_40 => cases h
  all_goals
    rename_i hop
    obtain rfl := eq_ofNat_of_toNat hop
  case h_2 => exact encode_decodeIaluA h
  case h_3 | h_4 | h_5 | h_6 | h_8 =>
    cases h
    exact congrArg some (fI_imm11 ..)
  case h_7 => exact encode_decodeShift rfl rfl rfl h
  case h_9 | h_10 => cases h; rfl
  case h_21 => exact encode_decodeLogic h
  case h_22 => exact encode_decodeVshl h
  case h_23 => exact encode_decodeVshr h
  case h_31 => exact encode_decodeSpecial h
  case h_12 | h_13 | h_15 =>
    obtain ⟨t, ht, h⟩ := bind_eq_ok.mp h
    cases h
    exact congrArg (fun x => some (fA _ a b c x)) (hfn ht rfl rfl)
  case h_14 | h_16 | h_17 | h_18 | h_19 | h_28 =>
    obtain ⟨t, ht, h⟩ := bind_eq_ok.mp h
    obtain ⟨hq, rfl⟩ := need_eq_ok.mp h
    exact congrArg (fun x => some (fA _ a b c x)) (hfn ht (Bool.not_eq_true' _ ▸ hq) rfl)
  case h_20 | h_30 =>
    obtain ⟨t, ht, h⟩ := bind_eq_ok.mp h
    obtain ⟨hz, rfl⟩ := need_eq_ok.mp h
    simp only [Bool.and_eq_true, beq_iff_eq, Bool.not_eq_true'] at hz
    obtain ⟨rfl, hm⟩ := hz
    split
    · next hq => exact congrArg (fun x => some (fA _ a b 0 x)) (hfn ht hq hm)
    · next hq => exact congrArg (fun x => some (fA _ a b 0 x)) (hfn ht (Bool.eq_false_iff.mpr hq) hm)
  case h_29 | h_32 | h_37 =>
    obtain ⟨t, ht, h⟩ := bind_eq_ok.mp h
    obtain ⟨hz, rfl⟩ := need_eq_ok.mp h
    simp only [Bool.and_eq_true, beq_iff_eq, Bool.not_eq_true'] at hz
    obtain ⟨⟨rfl, hq⟩, hm⟩ := hz
    exact congrArg (fun x => some (fA _ a b 0 x)) (hfn ht hq hm)
  case h_33 | h_34 | h_38 | h_39 =>
    obtain ⟨t, ht, h⟩ := bind_eq_ok.mp h
    obtain ⟨hz, rfl⟩ := need_eq_ok.mp h
    simp only [Bool.and_eq_true, Bool.not_eq_true'] at hz
    obtain ⟨hq, hm⟩ := hz
    exact congrArg (fun x => some (fA _ a b c x)) (hfn ht hq hm)
  case h_1 =>
    obtain ⟨hz, rfl⟩ := need_eq_ok.mp h
    have hj := fJ_off21 0 a b c fn
    rw [show a ++ b ++ c ++ fn = 0 from eq_of_beq hz] at hj
    obtain ⟨-, -, rfl, rfl, rfl, rfl⟩ := Fields.mk.inj hj
    rfl
  case h_11 =>
    obtain ⟨hz, rfl⟩ := need_eq_ok.mp h
    simp only [Bool.and_eq_true, beq_iff_eq] at hz
    obtain ⟨⟨rfl, rfl⟩, hz⟩ := hz
    have hcut : ∀ v : BitVec 6, v.extractLsb' 3 3 = 0 → 0#3 ++ v.extractLsb' 0 3 = v := by decide
    exact congrArg (fun x => some (fA 0x0A a 0 0 x)) (hcut fn hz)
  case h_24 | h_25 =>
    obtain ⟨t, ht, h⟩ := bind_eq_ok.mp h
    cases h
    exact vcmp_cut (lane_eq_ok.mp ht)
  case h_26 =>
    obtain ⟨t, ht, h⟩ := bind_eq_ok.mp h
    obtain ⟨hz, rfl⟩ := need_eq_ok.mp h
    simp only [Bool.and_eq_true, Bool.not_eq_true'] at hz
    obtain ⟨hc, hm⟩ := hz
    exact congrArg₂ (fun x y => some (fA 0x1E a b x y)) (code5_cut (field_eq_ok.mp ht) hc) (by rw [← hm]; exact fnS_self fn)
  case h_27 =>
    obtain ⟨src, hs, h⟩ := bind_eq_ok.mp h
    obtain ⟨dst, ht, h⟩ := bind_eq_ok.mp h
    obtain ⟨hc, rfl⟩ := need_eq_ok.mp h
    exact congrArg₂ (fun x y => some (fA 0x1F a b x y)) (code5_cut (field_eq_ok.mp hs) (Bool.not_eq_true' _ ▸ hc))
      (hfn ht rfl rfl)
  case h_35 =>
    obtain ⟨hz, rfl⟩ := need_eq_ok.mp h
    simp only [Bool.and_eq_true, beq_iff_eq] at hz
    obtain ⟨rfl, rfl⟩ := hz
    rfl
  case h_36 =>
    obtain ⟨hz, rfl⟩ := need_eq_ok.mp h
    have hs : fn.extractLsb' 1 5 = 0 := eq_of_beq hz
    exact congrArg (fun x => some (fA 0x28 a b c x)) (fnS_cut (by rw [hs]; rfl) rfl)

/-- The C-class decoder (Table 3.10). The cases are the opcodes in the table's order. -/
theorem encode_decodeC {f : Fields} {i : Instr} (hk : f.k = false) (h : decodeC f = .ok i) : encodeFields i = some f := by
  obtain ⟨k, op, a, b, c, fn⟩ := f
  obtain rfl : k = false := hk
  unfold decodeC at h
  split at h
  case h_64 => cases h
  all_goals
    rename_i hop
    obtain rfl := eq_ofNat_of_toNat hop
  case h_1 => exact encode_decodeSys h
  case h_8 => exact encode_decodeIaluC h
  case h_13 => exact encode_decodeShift rfl rfl rfl h
  case h_62 => exact encode_decodeEngine h
  case h_63 => exact encode_decodeEngine2 h
  case h_15 | h_16 | h_17 =>
    cases h
    exact congrArg some (fU_imm16 ..)
  case h_24 | h_25 =>
    cases h
    exact congrArg some (fB2_cut ..)
  case h_26 | h_27 =>
    cases h
    exact congrArg some (fJ_off21 ..)
  case h_2 =>
    obtain ⟨hz, rfl⟩ := need_eq_ok.mp h
    simp only [Bool.and_eq_true, beq_iff_eq] at hz
    obtain ⟨rfl, rfl⟩ := hz
    exact congrArg some (fI_imm11 ..)
  case h_3 | h_30 =>
    obtain ⟨hz, rfl⟩ := need_eq_ok.mp h
    obtain rfl := eq_of_beq hz
    exact congrArg some (fI_imm11 ..)
  case h_7 =>
    split at h
    case h_3 => cases h
    all_goals
      rename_i hc
      obtain rfl := eq_ofNat_of_toNat hc
      obtain ⟨hz, rfl⟩ := need_eq_ok.mp h
      simp only [Bool.and_eq_true, beq_iff_eq] at hz
      obtain ⟨rfl, rfl⟩ := hz
      rfl
  case h_29 =>
    obtain ⟨hz, rfl⟩ := need_eq_ok.mp h
    simp only [Bool.and_eq_true, beq_iff_eq] at hz
    obtain ⟨rfl, hz⟩ := hz
    exact rpt_cut hz
  case h_31 =>
    obtain ⟨hz, rfl⟩ := need_eq_ok.mp h
    simp only [Bool.and_eq_true, beq_iff_eq] at hz
    obtain ⟨⟨rfl, rfl⟩, hz⟩ := hz
    exact tabort_cut hz
  case h_45 =>
    cases h
    exact st4_cut
  case h_46 | h_47 =>
    obtain ⟨hz, rfl⟩ := need_eq_ok.mp h
    simp only [Bool.and_eq_true, beq_iff_eq] at hz
    obtain ⟨rfl, hz⟩ := hz
    exact congrArg (fun x => some (fC _ a b 0 x)) (scope1_cut hz)
  case h_48 =>
    obtain ⟨o, ho, h⟩ := bind_eq_ok.mp h
    cases h
    exact congrArg (fun x => some (fC 0x30 a b c x)) (ty_cut (AmoOp.code_of_ofCode (field_eq_ok.mp ho)))
  case h_49 =>
    obtain ⟨hz, rfl⟩ := need_eq_ok.mp h
    exact congrArg (fun x => some (fC 0x31 a b c x)) (ty_cut (eq_of_beq hz).symm)
  case h_50 =>
    obtain ⟨kind, hkind, h⟩ := bind_eq_ok.mp h
    obtain ⟨hz, rfl⟩ := need_eq_ok.mp h
    simp only [Bool.and_eq_true, beq_iff_eq, Bool.not_eq_true'] at hz
    obtain ⟨⟨⟨rfl, rfl⟩, rfl⟩, hz⟩ := hz
    exact congrArg (fun x => some (fC 0x32 0 0 0 x)) (fence_cut (FenceKind.code_of_ofCode (field_eq_ok.mp hkind)) hz)
  case h_51 =>
    obtain ⟨ca, hca, h⟩ := bind_eq_ok.mp h
    obtain ⟨cb, hcb, h⟩ := bind_eq_ok.mp h
    obtain ⟨hz, rfl⟩ := need_eq_ok.mp h
    simp only [Bool.and_eq_true, beq_iff_eq] at hz
    obtain ⟨rfl, rfl⟩ := hz
    exact fencex_cut (PathClass.code_of_ofCode (field_eq_ok.mp hca)) (PathClass.code_of_ofCode (field_eq_ok.mp hcb))
  case h_52 | h_53 | h_58 | h_60 =>
    obtain ⟨hz, rfl⟩ := need_eq_ok.mp h
    simp only [Bool.and_eq_true, beq_iff_eq] at hz
    obtain ⟨rfl, rfl⟩ := hz
    rfl
  case h_54 =>
    obtain ⟨hz, rfl⟩ := need_eq_ok.mp h
    simp only [Bool.and_eq_true, beq_iff_eq] at hz
    obtain ⟨rfl, hz⟩ := hz
    exact congrArg (fun x => some (fC 0x36 a b 0 x)) (scope0_cut hz)
  case h_55 =>
    obtain ⟨o, ho, h⟩ := bind_eq_ok.mp h
    split at h
    case isFalse => cases h
    case isTrue ha =>
    obtain ⟨t, ht, h⟩ := bind_eq_ok.mp h
    cases h
    exact congrArg₂ (fun x y => some (fC 0x37 x b c y)) (bit_cut ha)
      (tred_cut (LaneType.code_of_ofCode (lane_eq_ok.mp ht)) (RedOp.code_of_ofCode (field_eq_ok.mp ho)))
  case h_56 =>
    obtain ⟨hz, rfl⟩ := need_eq_ok.mp h
    exact congrArg (fun x => some (fC 0x38 a b x fn)) (send_cut (eq_of_beq hz))
  case h_57 =>
    obtain ⟨hz, rfl⟩ := need_eq_ok.mp h
    simp only [Bool.and_eq_true, beq_iff_eq] at hz
    obtain ⟨rfl, hs⟩ := hz
    have hfn := fun m => fnS_cut (n := 0) (m := m) (congrArg BitVec.toNat hs)
    split
    · next hm => exact congrArg (fun x => some (fC 0x39 a b 0 x)) (hfn true hm)
    · next hm => exact congrArg (fun x => some (fC 0x39 a b 0 x)) (hfn false (Bool.eq_false_iff.mpr hm))
  case h_59 =>
    obtain ⟨hz, rfl⟩ := need_eq_ok.mp h
    obtain rfl := eq_of_beq hz
    rfl
  case h_61 =>
    obtain ⟨hz, rfl⟩ := need_eq_ok.mp h
    simp only [Bool.and_eq_true, beq_iff_eq] at hz
    obtain ⟨rfl, rfl⟩ := hz
    rfl
  all_goals
    cases h
    exact congrArg some (fI_imm11 ..)

/-! ### Whole words -/

/-- The decoder's check of what a class's map answers (R65). -/
theorem wellFormed_eq_ok {i j : Instr} (h : (if j.wellFormed = true then .ok j else .error .operand : Except Illegal Instr) = .ok i) :
    j = i ∧ i.wellFormed = true := by
  split at h
  · next hw => cases h; exact ⟨rfl, hw⟩
  · cases h

/-- What the whole decoder answers is well-formed, and its encoding is the fields. -/
theorem encode_decodeFields {f : Fields} {i : Instr} (h : decodeFields f = .ok i) :
    i.wellFormed = true ∧ encodeFields i = some f := by
  unfold decodeFields at h
  split at h
  case isTrue hk =>
    obtain ⟨j, hj, h⟩ := bind_eq_ok.mp h
    obtain ⟨rfl, hw⟩ := wellFormed_eq_ok h
    exact ⟨hw, encode_decodeA hk hj⟩
  case isFalse hk =>
    obtain ⟨j, hj, h⟩ := bind_eq_ok.mp h
    obtain ⟨rfl, hw⟩ := wellFormed_eq_ok h
    exact ⟨hw, encode_decodeC (Bool.eq_false_iff.mpr hk) hj⟩

/-- One bit as a cut of a value. -/
theorem ofBool_getLsbD {w : Nat} (v : BitVec w) (n : Nat) : BitVec.ofBool (v.getLsbD n) = v.extractLsb' n 1 := by
  refine BitVec.eq_of_getLsbD_eq fun j hj => ?_
  simp [show j = 0 by omega]

theorem getLsbD_append_high {v w : Nat} (x : BitVec v) (y : BitVec w) {n : Nat} (h : w ≤ n) :
    (x ++ y).getLsbD n = x.getLsbD (n - w) := by
  rw [BitVec.getLsbD_append, if_neg (Nat.not_lt.mpr h)]

@[simp] theorem fieldsOf_wordOf (h : Header) (f : Fields) : fieldsOf (wordOf h f) = f := by
  unfold wordOf fieldsOf
  simp (disch := decide) only [-Nat.reduceAdd, BitVec.extractLsb'_append_eq_of_le, BitVec.extractLsb'_append_eq_of_add_le,
    getLsbD_append_high, Nat.reduceSub, BitVec.extractLsb'_eq_self, BitVec.getLsbD_append]
  simp

@[simp] theorem headerOf_wordOf (h : Header) (f : Fields) : headerOf (wordOf h f) = h := by
  unfold wordOf headerOf
  simp (disch := decide) only [-Nat.reduceAdd, BitVec.extractLsb'_append_eq_of_le, BitVec.extractLsb'_append_eq_of_add_le,
    getLsbD_append_high, Nat.reduceSub, BitVec.extractLsb'_eq_self]
  simp

theorem wordOf_headerOf_fieldsOf (w : IWord) : wordOf (headerOf w) (fieldsOf w) = w := by
  simp only [wordOf, headerOf, fieldsOf, ofBool_getLsbD, BitVec.extractLsb'_append_extractLsb'_eq_extractLsb']
  exact BitVec.extractLsb'_eq_self

end Sys2Proof
end

section
/-!
CERTIFICATE. O56 and O57: words and instructions.
-/
namespace Sys2Proof.Proofs

open Sys2Proof.Laws

/-- The constructors of Laws/PerInstr, put together. An operation without a word has no encoding. -/
theorem decode_encodeFields (i : Instr) : Encoding.Statement i := by
  cases i with
  | addA d a b m => exact Encoding.addA d a b m
  | subA d a b m => exact Encoding.subA d a b m
  | andA d a b m => exact Encoding.andA d a b m
  | orA d a b m => exact Encoding.orA d a b m
  | xorA d a b m => exact Encoding.xorA d a b m
  | shlA d a b m => exact Encoding.shlA d a b m
  | shrA d a b m => exact Encoding.shrA d a b m
  | sraA d a b m => exact Encoding.sraA d a b m
  | sltA d a b m => exact Encoding.sltA d a b m
  | sltnA d a b m => exact Encoding.sltnA d a b m
  | minA d a b m => exact Encoding.minA d a b m
  | maxA d a b m => exact Encoding.maxA d a b m
  | minnA d a b m => exact Encoding.minnA d a b m
  | maxnA d a b m => exact Encoding.maxnA d a b m
  | mul d a b m => exact Encoding.mul d a b m
  | mulh d a b m => exact Encoding.mulh d a b m
  | mulhn d a b m => exact Encoding.mulhn d a b m
  | div d a b m => exact Encoding.div d a b m
  | divn d a b m => exact Encoding.divn d a b m
  | rem d a b m => exact Encoding.rem d a b m
  | remn d a b m => exact Encoding.remn d a b m
  | popc d a => exact Encoding.popc d a
  | clz d a => exact Encoding.clz d a
  | ctz d a => exact Encoding.ctz d a
  | addC d a b => exact Encoding.addC d a b
  | subC d a b => exact Encoding.subC d a b
  | andC d a b => exact Encoding.andC d a b
  | orC d a b => exact Encoding.orC d a b
  | xorC d a b => exact Encoding.xorC d a b
  | shlC d a b => exact Encoding.shlC d a b
  | shrC d a b => exact Encoding.shrC d a b
  | sraC d a b => exact Encoding.sraC d a b
  | sltC d a b => exact Encoding.sltC d a b
  | sltnC d a b => exact Encoding.sltnC d a b
  | minC d a b => exact Encoding.minC d a b
  | maxC d a b => exact Encoding.maxC d a b
  | minnC d a b => exact Encoding.minnC d a b
  | maxnC d a b => exact Encoding.maxnC d a b
  | addiA d a imm => exact Encoding.addiA d a imm
  | addiC d a imm => exact Encoding.addiC d a imm
  | andiA d a imm => exact Encoding.andiA d a imm
  | andiC d a imm => exact Encoding.andiC d a imm
  | oriA d a imm => exact Encoding.oriA d a imm
  | oriC d a imm => exact Encoding.oriC d a imm
  | xoriA d a imm => exact Encoding.xoriA d a imm
  | xoriC d a imm => exact Encoding.xoriC d a imm
  | sltiA d a imm => exact Encoding.sltiA d a imm
  | sltiC d a imm => exact Encoding.sltiC d a imm
  | shlImmA d a amount => exact Encoding.shlImmA d a amount
  | shlImmC d a amount => exact Encoding.shlImmC d a amount
  | shrImmA d a amount => exact Encoding.shrImmA d a amount
  | shrImmC d a amount => exact Encoding.shrImmC d a amount
  | sraImmA d a amount => exact Encoding.sraImmA d a amount
  | sraImmC d a amount => exact Encoding.sraImmC d a amount
  | extr d a len pos => exact Encoding.extr d a len pos
  | ins d a len pos => exact Encoding.ins d a len pos
  | widf d n => exact Encoding.widf d n
  | vadd sat t d a b m => exact Encoding.vadd sat t d a b m
  | vsub sat t d a b m => exact Encoding.vsub sat t d a b m
  | vmul t d a b m => exact Encoding.vmul t d a b m
  | vmin t d a b m => exact Encoding.vmin t d a b m
  | vmax t d a b m => exact Encoding.vmax t d a b m
  | vminn t d a b m => exact Encoding.vminn t d a b m
  | vmaxn t d a b m => exact Encoding.vmaxn t d a b m
  | vdot t d a b m => exact Encoding.vdot t d a b m
  | vshlVector t d a b m => exact Encoding.vshlVector t d a b m
  | vshrVector t d a b m => exact Encoding.vshrVector t d a b m
  | vsraVector t d a b m => exact Encoding.vsraVector t d a b m
  | vfma neg t d a b m => exact Encoding.vfma neg t d a b m
  | vabs t d a => exact Encoding.vabs t d a
  | vneg t d a => exact Encoding.vneg t d a
  | vredsum t d a => exact Encoding.vredsum t d a
  | vredmax t d a => exact Encoding.vredmax t d a
  | vredmin t d a => exact Encoding.vredmin t d a
  | vrcp t d a => exact Encoding.vrcp t d a
  | vrsq t d a => exact Encoding.vrsq t d a
  | vexp2 t d a => exact Encoding.vexp2 t d a
  | vlog2 t d a => exact Encoding.vlog2 t d a
  | vtanh t d a => exact Encoding.vtanh t d a
  | vsplat t d a => exact Encoding.vsplat t d a
  | vzmask t d a => exact Encoding.vzmask t d a
  | vand d a b m => exact Encoding.vand d a b m
  | vor d a b m => exact Encoding.vor d a b m
  | vxor d a b m => exact Encoding.vxor d a b m
  | vandn d a b m => exact Encoding.vandn d a b m
  | vperm d a b m => exact Encoding.vperm d a b m
  | vshlScalar t d a b => exact Encoding.vshlScalar t d a b
  | vshrScalar t d a b => exact Encoding.vshrScalar t d a b
  | vsraScalar t d a b => exact Encoding.vsraScalar t d a b
  | vext t d a b => exact Encoding.vext t d a b
  | vins t d a b => exact Encoding.vins t d a b
  | vcmprs t d a b => exact Encoding.vcmprs t d a b
  | vexpnd t d a b => exact Encoding.vexpnd t d a b
  | vcmp cond t d a b => exact Encoding.vcmp cond t d a b
  | vsel t d a mask => exact Encoding.vsel t d a mask
  | vcvt dst src sat sr d a => exact Encoding.vcvt dst src sat sr d a
  | vmov d a => exact Encoding.vmov d a
  | waitev a => exact Encoding.waitev a
  | asinv a => exact Encoding.asinv a
  | mswap n => exact Encoding.mswap n
  | trap code => exact Encoding.trap code
  | crr d num => exact Encoding.crr d num
  | crw a d num => exact Encoding.crw a d num
  | crs a d num => exact Encoding.crs a d num
  | crc a d num => exact Encoding.crc a d num
  | hmask ch => exact Encoding.hmask ch
  | hunmask ch => exact Encoding.hunmask ch
  | lih d imm => exact Encoding.lih d imm
  | liq d imm => exact Encoding.liq d imm
  | liw d imm => exact Encoding.liw d imm
  | beq a b off => exact Encoding.beq a b off
  | bne a b off => exact Encoding.bne a b off
  | blt a b off => exact Encoding.blt a b off
  | bge a b off => exact Encoding.bge a b off
  | bltn a b off => exact Encoding.bltn a b off
  | bgen a b off => exact Encoding.bgen a b off
  | bbs a bit off => exact Encoding.bbs a bit off
  | bbc a bit off => exact Encoding.bbc a bit off
  | j off => exact Encoding.j off
  | jal off => exact Encoding.jal off
  | jalr d b imm => exact Encoding.jalr d b imm
  | rpt a len stride => exact Encoding.rpt a len stride
  | tbegin a off => exact Encoding.tbegin a off
  | tabort code => exact Encoding.tabort code
  | ldB d b imm => exact Encoding.ldB d b imm
  | ldH d b imm => exact Encoding.ldH d b imm
  | ldW d b imm => exact Encoding.ldW d b imm
  | ldD d b imm => exact Encoding.ldD d b imm
  | ldnB d b imm => exact Encoding.ldnB d b imm
  | ldnH d b imm => exact Encoding.ldnH d b imm
  | ldnW d b imm => exact Encoding.ldnW d b imm
  | vld d b imm => exact Encoding.vld d b imm
  | stB a b imm => exact Encoding.stB a b imm
  | stH a b imm => exact Encoding.stH a b imm
  | stW a b imm => exact Encoding.stW a b imm
  | stD a b imm => exact Encoding.stD a b imm
  | vst a b imm => exact Encoding.vst a b imm
  | st4 a b off hi => exact Encoding.st4 a b off hi
  | lda dbl scope d b => exact Encoding.lda dbl scope d b
  | stl dbl scope a b => exact Encoding.stl dbl scope a b
  | amo op dbl ar d b c => exact Encoding.amo op dbl ar d b c
  | cas dbl ar a b c => exact Encoding.cas dbl ar a b c
  | fence kind scope => exact Encoding.fence kind scope
  | fencex ca cb scope => exact Encoding.fencex ca cb scope
  | swset a b => exact Encoding.swset a b
  | swwait a b => exact Encoding.swwait a b
  | bar scope a b => exact Encoding.bar scope a b
  | tred vec op t b c => exact Encoding.tred vec op t b c
  | send a b count ch => exact Encoding.send a b count ch
  | spawn a b => exact Encoding.spawn a b
  | spawnq a b => exact Encoding.spawnq a b
  | migrate a b => exact Encoding.migrate a b
  | callat a b ch => exact Encoding.callat a b ch
  | reply a b => exact Encoding.reply a b
  | chrd d ch => exact Encoding.chrd d ch
  | copy sat raise a b c => exact Encoding.copy sat raise a b c
  | gather a => exact Encoding.gather a
  | scatter a => exact Encoding.scatter a
  | dlaunch a => exact Encoding.dlaunch a
  | tskip a => exact Encoding.tskip a
  | mcst a b c => exact Encoding.mcst a b c
  | tksend a b c => exact Encoding.tksend a b c
  | bksel ty d b => exact Encoding.bksel ty d b
  | sbind a b => exact Encoding.sbind a b
  | compose a b => exact Encoding.compose a b
  | yield => exact Encoding.yield
  | endI => exact Encoding.endI
  | eret => exact Encoding.eret
  | bkpt => exact Encoding.bkpt
  | l1wb => exact Encoding.l1wb
  | l1inv => exact Encoding.l1inv
  | mwait => exact Encoding.mwait
  | release => exact Encoding.release
  | tend => exact Encoding.tend
  | alive => exact Encoding.alive
  | nopA => exact Encoding.nopA
  | nopC => exact Encoding.nopC
  | _ => intro _ f hf; cases hf

/-- Settles O56, by the lemmas of the constructors: a word's header and fields are the ones it was made of. -/
theorem encodedInstructionsDecode : Obligations.EncodedInstructionsDecode := by
  intro h i w hw he
  obtain ⟨f, hf, rfl⟩ := Option.map_eq_some_iff.mp he
  simp only [decodeWord, fieldsOf_wordOf, headerOf_wordOf, decode_encodeFields i hw f hf, bind, Except.bind]

/-- Settles O57, by what each decoder answers (`encode_decodeFields`): a word is made of its header and its fields. -/
theorem decodedWordsEncode : Obligations.DecodedWordsEncode := by
  intro h i w hd
  obtain ⟨j, hj, hw⟩ := bind_eq_ok.mp hd
  cases hw
  obtain ⟨hwf, he⟩ := encode_decodeFields hj
  exact ⟨hwf, by rw [encode, he, Option.map_some, wordOf_headerOf_fieldsOf]⟩

end Sys2Proof.Proofs
end

section
/-!
CERTIFICATE. The words of the spec's tables and examples, and the state after reset (03_encoding R65, Table 3.12).
-/
namespace Sys2Proof.Proofs
open Sys2Proof.Machine

/-- Settles O55, by evaluating the decoder on each word. -/
theorem wordsDecode : Obligations.WordsDecode := by
  unfold Obligations.WordsDecode
  decide

/-- Every slot of the part after reset is the idle one. -/
theorem slot_reset (c i : Nat) : State.reset.slot c i = idleSlot :=
  Vector.getElem_replicate (Fin.ofNat 4 i).isLt

/-- Settles O59, by evaluating the state after reset: its lists are empty or short, and every slot is the idle one. -/
theorem afterReset : Obligations.AfterReset := by
  unfold Obligations.AfterReset
  refine ⟨⟨by decide, by decide⟩, rfl, fun q => rfl, rfl, rfl, rfl, rfl, rfl, fun b => rfl, rfl, rfl, rfl,
    fun c i => ?_, fun c => ⟨rfl, rfl, rfl⟩, rfl, rfl⟩
  rw [slot_reset]
  exact ⟨rfl, rfl, rfl, rfl, rfl, rfl, rfl, rfl, rfl⟩

end Sys2Proof.Proofs
end

section
/-!
SUPPORT. The two words of a pair (03_encoding R52): what the A-word keeps back, and what the bundle leaves when its C-word
ends.
-/
namespace Sys2Proof.Machine

/-! ### The value that a word's write leaves -/

/-- What a write of a doubleword leaves in an x register, at any latency. -/
theorem settled_place_word (t : Slot) (c now : Nat) (d : Reg) (v : Word) (n : Nat) :
    (t.place c now { reg := .x d, val := v.setWidth 128, latency := n }).settled (.x d) = xValue d v := by
  rw [settled_place_self t c now { reg := .x d, val := v.setWidth 128, latency := n }]
  by_cases h0 : d = 0
  · simp [h0, xValue]
  · simp only [isX0_iff, beq_iff_eq, h0, if_false, xValue, RegName.holds]
    congr 1
    exact BitVec.setWidth_setWidth_of_le v (by decide) |>.trans (by simp)

/-! ### Retiring a bundle that has kept its A-word's effects -/

/-- A slot whose bundle has retired with a jump, or without one. -/
def Slot.leftBy (t : Slot) (now : Nat) : Option Word → Slot
  | some pc => { t.retireCount now with pc }
  | none => t.finished now

theorem settled_leftBy (t : Slot) (now : Nat) (jump : Option Word) (r : RegName) :
    (t.leftBy now jump).settled r = t.settled r := by
  cases jump with
  | none => exact settled_finished t now r
  | some pc =>
    refine .trans ?_ (settled_retireCount t now r)
    apply settled_congr <;> rfl

/-- `retired_of` for a bundle that may jump. -/
theorem retired_leftBy {s : State} {u : Slot} {ds : List RegName} (jump : Option Word)
    (hr : ∀ r, r ∉ ds → u.settled r = s.me.settled r) (hf : u.fflags = s.me.fflags)
    (hs : u.system = s.me.system) (hc : u.retired = s.me.retired) (hn : u.notBefore = s.me.notBefore)
    (hi : u.lastIssue = s.me.lastIssue) (hst : u.bundle.stall = s.me.bundle.stall) :
    Retired s (s.setSlot s.cur.1 s.cur.2 (u.leftBy s.cycle jump)) ds {} := by
  have hf' : u.fflags = s.me.fflags.or {} := by rw [hf, or_empty]
  cases jump with
  | none => exact retired_of hr hf' hs hc hn hi hst
  | some pc =>
    obtain ⟨-, registers, flags, system, count, -, next⟩ := retired_of hr hf' hs hc hn hi hst
    obtain ⟨f, g, n, h⟩ := retireCount_shape u s.cycle
    rw [me_setSlot] at registers flags system count next
    simp only [settled_finished] at registers
    rw [fflags_finished] at flags
    rw [system_finished] at system
    rw [retired_finished] at count
    rw [notBefore_finished] at next
    refine ⟨by rw [me_setSlot], ?_, ?_, ?_, ?_, ?_, by rw [me_setSlot]; exact next⟩ <;> rw [me_setSlot]
    · exact fun r h => (settled_leftBy u s.cycle (some pc) r).trans (registers r h)
    all_goals rw [Slot.leftBy, h]
    · exact flags
    · exact system
    · exact count

/-- A bundle with one write kept back retires: the write takes place, and the slot moves on. -/
theorem retire_kept {s : State} {c i : Nat} {q : Slot} {w : RegWrite} {e : AEff} (he : q.bundle.stash = some e)
    (hw : e.writes = [w]) (hf : e.flags = {}) (hg : e.gen = none) (hpp : q.bundle.popPorts = [])
    (hps : q.bundle.popStreams = []) (hin : q.writesInto w.reg) (jump : Option Word) :
    (s.setSlot c i q).retire c i jump = s.setSlot c i ((q.place c s.cycle w).leftBy s.cycle jump) := by
  have hplace : (s.setSlot c i q).writeReg c i w = s.setSlot c i (q.place c s.cycle w) := by
    rw [writeReg_of (by rw [slot_setSlot_self]; exact hin), slot_setSlot_self, setSlot_setSlot, cycle_setSlot]
  unfold State.retire
  rw [applyPops_none (by rw [slot_setSlot_self]; exact hpp) (by rw [slot_setSlot_self]; exact hps)]
  simp only [slot_setSlot_self, he, State.applyA, hw, List.foldl_cons, List.foldl_nil, hplace, modSlot_setSlot, hf, or_empty, hg,
    Option.getD_none, cycle_setSlot]
  cases jump <;> rfl

/-! ### The two words of a pair -/

/-- The running slot's bundle is a pair whose A-word comes to be executed: it meets no poisoned operand, no check of it has
failed, and it pops no link port and no stream. -/
structure Paired (s : State) : Prop where
  mode : s.me.bundle.mode = .second
  bad : s.me.bundle.bad = none
  late : s.me.bundle.late = none
  ports : s.me.bundle.popPorts = []
  streams : s.me.bundle.popStreams = []

/-- The slot whose pair keeps back what its A-word did, while its C-word is executed. -/
def Slot.keeping (t : Slot) (e : AEff) : Slot := { t with bundle := { t.bundle with stash := some e, mode := .first } }

/-- The state in which a pair's C-word is executed. -/
def State.keeping (s : State) (e : AEff) : State := s.setSlot s.cur.1 s.cur.2 (s.me.keeping e)

@[simp] theorem me_keeping (s : State) (e : AEff) : (s.keeping e).me = s.me.keeping e := me_setSlot ..

theorem X_keeping (s : State) (e : AEff) (r : Reg) : (s.keeping e).X r = s.X r := by
  simp only [State.X, me_keeping]
  rfl

theorem target_keeping {w : Nat} (s : State) (e : AEff) (off : BitVec w) : (s.keeping e).target off = s.target off := by
  simp only [State.target, me_keeping]
  rfl

section
variable {s : State} {e : Reg} {v : Word} {n : Nat} {a : Instr}

/-- A pair whose A-word writes one x register runs its C-word with that write kept back. -/
theorem runPair_effX (h : Paired s) (ha : exec a s = runA s ((effX e v n).withPoison none)) (c : Instr) :
    runPair s c a = exec c (s.keeping (effX e v n)) := by
  have : s.finishA ((effX e v n).withPoison none) =
      s.modMe (fun t => { t with bundle := { t.bundle with stash := some (effX e v n) } }) := by
    simp only [State.finishA, h.mode, if_true, h.bad]
    rfl
  simp only [runPair, ha, runA, this, modMe_eq, me_setSlot, cur_setSlot, setSlot_setSlot]
  rfl

/-- The A-word of such a pair met nothing that stops the bundle. -/
theorem aStops_keeping (h : Paired s) : (s.keeping (effX e v n)).aStops s.cur.1 s.cur.2 = none := by
  have hme : (s.keeping (effX e v n)).slot s.cur.1 s.cur.2 = s.me.keeping (effX e v n) := slot_setSlot_self ..
  have hlate : (s.me.keeping (effX e v n)).bundle.late = none := h.late
  simp only [State.aStops, hme, hlate]
  rfl

theorem finishC_keeping (h : Paired s) (t : State) :
    (s.keeping (effX e v n)).finishC (go t) = t.retire s.cur.1 s.cur.2 none := by
  simp [go, State.finishC, show (s.keeping (effX e v n)).cur = s.cur from rfl, aStops_keeping h]

theorem finishC_keeping_jump (h : Paired s) (t : State) (pc : Word) :
    (s.keeping (effX e v n)).finishC (.ok (.jump t pc)) = t.retire s.cur.1 s.cur.2 (some pc) := by
  simp [State.finishC, show (s.keeping (effX e v n)).cur = s.cur from rfl, aStops_keeping h]

theorem finishC_keeping_trap (h : Paired s) (htx : s.me.txn = none) (cause : Cause) (u : Word) :
    (s.keeping (effX e v n)).finishC (.ok (.trapAfter (s.keeping (effX e v n)) cause u)) =
      ((s.keeping (effX e v n)).retire s.cur.1 s.cur.2 none).takeTrap s.cur.1 s.cur.2 cause u s.me.bundle.next := by
  have htx' : (s.me.keeping (effX e v n)).txn = none := htx
  simp only [State.finishC, show (s.keeping (effX e v n)).cur = s.cur from rfl, aStops_keeping h, me_keeping, htx',
    Option.isSome_none, Bool.false_eq_true, if_false]
  rw [show (s.me.keeping (effX e v n)).bundle.next = s.me.bundle.next from rfl]

/-- The write that a pair keeps back takes place in a slot whose C-word has changed registers alone. -/
theorem retire_keeping (h : Paired s) (he : s.me.writesInto (.x e)) {q : Slot}
    (hq : q.bundle = (s.me.keeping (effX e v n)).bundle) (jump : Option Word) :
    (s.setSlot s.cur.1 s.cur.2 q).retire s.cur.1 s.cur.2 jump =
      s.setSlot s.cur.1 s.cur.2 ((q.place s.cur.1 s.cycle { reg := .x e, val := v.setWidth 128, latency := n }).leftBy
        s.cycle jump) := by
  refine retire_kept (by rw [hq]; rfl) rfl rfl rfl (by rw [hq]; exact h.ports) (by rw [hq]; exact h.streams) ?_ jump
  show portOf q.bundle.links e = none
  rw [hq]
  exact he

theorem setX_keeping {d : Reg} (hd : s.me.writesInto (.x d)) (u : Word) : (s.keeping (effX e v n)).setX d u =
    s.setSlot s.cur.1 s.cur.2 ((s.me.keeping (effX e v n)).place s.cur.1 s.cycle
      { reg := .x d, val := u.setWidth 128, latency := 1 }) := by
  have : ((s.keeping (effX e v n)).slot s.cur.1 s.cur.2).writesInto (.x d) := by
    rw [State.keeping, slot_setSlot_self]
    exact hd
  refine (writeReg_of this).trans ?_
  simp only [State.keeping, cur_setSlot, slot_setSlot_self, setSlot_setSlot, cycle_setSlot]

/-- A pair whose C-word writes another x register, or none (`q` is the slot after it): both writes have taken place, and
nothing else has changed but the place where the slot goes on. -/
theorem retired_keeping (h : Paired s) (he : s.me.writesInto (.x e)) {ds : List RegName} {q : Slot} (hq : ∃ x w p px pw, q =
      { s.me.keeping (effX e v n) with x := x, v := w, pend := p, poisonX := px, poisonV := pw })
    (hr : ∀ r, r ∉ ds → q.settled r = s.me.settled r) (jump : Option Word) :
    let t := (s.setSlot s.cur.1 s.cur.2 q).retire s.cur.1 s.cur.2 jump
    Retired s t (ds ++ [.x e]) {} ∧ t.me.settled (.x e) = xValue e v ∧ (∀ r, r ≠ .x e → t.me.settled r = q.settled r) ∧
      (∀ pc, jump = some pc → t.me.pc = pc) ∧ (jump = none → GoesOn s t) := by
  have hb : q.bundle = (s.me.keeping (effX e v n)).bundle := by
    obtain ⟨_, _, _, _, _, rfl⟩ := hq
    rfl
  intro t
  have ht : t = _ := retire_keeping h he hb jump
  obtain ⟨hpb, hpf, hpr, hpn, hpi, hpl⟩ := writeReg_system q s.cur.1 s.cycle { reg := .x e, val := v.setWidth 128, latency := n }
  have hne : ∀ r, r ≠ .x e →
      (q.place s.cur.1 s.cycle { reg := .x e, val := v.setWidth 128, latency := n }).settled r = q.settled r :=
    fun r h => settled_place_ne _ _ _ _ (Ne.symm h)
  rw [ht]
  refine ⟨retired_leftBy jump (fun r hnot => ?_) ?_ ?_ ?_ ?_ ?_ ?_, ?_, fun r h => ?_, fun pc hpc => ?_, fun hnone => ?_⟩
  · simp only [List.mem_append, List.mem_singleton, not_or] at hnot
    rw [hne r hnot.2, hr r hnot.1]
  case refine_8 => rw [me_setSlot, settled_leftBy, settled_place_word]
  case refine_9 => rw [me_setSlot, settled_leftBy, hne r h]
  case refine_10 => simp only [hpc, me_setSlot, Slot.leftBy]
  all_goals obtain ⟨_, _, _, _, _, rfl⟩ := hq
  · exact hpf
  · exact system_place ..
  · exact hpr
  · exact hpn
  · exact hpi
  · rw [hpb]
    rfl
  · rw [hnone]
    exact goesOn_of hpl (by rw [hpb]; rfl) (by rw [hpb]; rfl)

end

end Sys2Proof.Machine
end

section
/-!
CERTIFICATE. The two words of a pair (03_encoding R52).
-/
namespace Sys2Proof.Proofs
open Sys2Proof.Machine

/-- The slot keeps back an A-word's effects: no register has changed yet. -/
theorem settled_keeping (t : Slot) (e : AEff) (r : RegName) : (t.keeping e).settled r = t.settled r := by
  apply settled_congr <;> rfl

section
variable {s : State} {e : Reg} {v : Word} {n : Nat} {a c : Instr}

/-- A pair of a C-word and an A-word that each write an x register. -/
theorem runPair_writes {d : Reg} {u : Word} (h : Paired s) (hd : s.me.writesInto (.x d)) (he : s.me.writesInto (.x e))
    (hde : d ≠ e) (ha : exec a s = runA s ((effX e v n).withPoison none))
    (hc : exec c (s.keeping (effX e v n)) = runC (s.keeping (effX e v n)) (go ((s.keeping (effX e v n)).setX d u))) :
    ∃ t, runPair s c a = .next t ∧ Retired s t [.x d, .x e] {} ∧ GoesOn s t ∧ t.me.settled (.x d) = xValue d u ∧
      t.me.settled (.x e) = xValue e v := by
  obtain ⟨hR, hE, hrest, -, hgo⟩ := retired_keeping (v := v) (n := n) h he (ds := [.x d])
    (place_shape (s.me.keeping (effX e v n)) s.cur.1 s.cycle { reg := .x d, val := u.setWidth 128, latency := 1 })
    (fun r hr => (settled_place_ne _ _ _ _ (fun h => hr (by simp [← h]))).trans (settled_keeping ..)) none
  refine ⟨_, ?_, hR, hgo rfl, (hrest _ (by simpa using hde)).trans (settled_place_x ..), hE⟩
  rw [runPair_effX h ha, hc, runC, finishC_keeping h, setX_keeping hd]

end

/-- Settles O9: the A-word's write is kept back while the C-word runs, and takes place when the bundle retires. -/
theorem pairs : Obligations.Pairs := by
  unfold Obligations.Pairs
  refine ⟨?_, ?_⟩
  · intro s d a b e f g hm hb hl hp hs hd he hde p hp' q hq
    have h : Paired s := ⟨hm, hb, hl, hp, hs⟩
    have hq' : ∃ v n, q.2 = v ∧ exec q.1 s = runA s ((effX e v n).withPoison none) := by
      simp only [List.mem_cons, List.not_mem_nil, or_false] at hq
      obtain rfl | rfl | rfl := hq
      · exact ⟨_, 1, rfl, rfl⟩
      · exact ⟨_, 1, rfl, rfl⟩
      · refine ⟨s.X f * s.X g, 3, ?_, rfl⟩
        rw [BitVec.ofInt_mul, BitVec.ofInt_toInt, BitVec.ofInt_toInt]
    obtain ⟨v, n, hv, ha⟩ := hq'
    rw [hv]
    have hc : exec p.1 (s.keeping (effX e v n)) = runC (s.keeping (effX e v n)) (go ((s.keeping (effX e v n)).setX d p.2)) := by
      simp only [List.mem_cons, List.not_mem_nil, or_false] at hp'
      obtain rfl | rfl | rfl := hp' <;> simp only [← X_keeping s (effX e v n)] <;> rfl
    exact runPair_writes h hd he hde ha hc
  · intro s a b e f g off far code hm hb hl hp hs h1 he hne sum
    have h : Paired s := ⟨hm, hb, hl, hp, hs⟩
    have hrun := runPair_effX (e := e) (v := s.X f + s.X g) (n := 1) (a := .addA e f g false) h rfl
    have hplain := fun jump => retired_keeping (v := s.X f + s.X g) (n := 1) h he (ds := [])
      (q := s.me.keeping (effX e (s.X f + s.X g) 1)) ⟨_, _, _, _, _, rfl⟩ (fun r _ => settled_keeping ..) jump
    refine ⟨fun hab => ?_, ?_, fun htx hvec => ?_⟩
    · obtain ⟨hR, hE, -, hpc, -⟩ := hplain (some (s.target off))
      refine ⟨_, ?_, hR, hE, hpc _ rfl⟩
      rw [hrun]
      show runC _ (branch _ (_ == _) _) = _
      rw [X_keeping, X_keeping, target_keeping, hab, beq_self_eq_true]
      rw [runC, branch, if_pos rfl, finishC_keeping_jump h]
      rfl
    · obtain ⟨hR, hE, hrest, hpc, -⟩ := retired_keeping (v := s.X f + s.X g) (n := 1) h he (ds := [.x 1])
        (place_shape (s.me.keeping (effX e (s.X f + s.X g) 1)) s.cur.1 s.cycle
          { reg := .x 1, val := s.me.bundle.next.setWidth 128, latency := 1 })
        (fun r hr => (settled_place_ne _ _ _ _ (fun h => hr (by simp [← h]))).trans (settled_keeping ..)) (some (s.target far))
      refine ⟨_, ?_, hR, hE, ?_, hpc _ rfl⟩
      · rw [hrun]
        show runC _ (.ok (.jump ((s.keeping _).setX 1 _) _)) = _
        rw [runC, finishC_keeping_jump h, target_keeping, setX_keeping h1, me_keeping]
        rfl
      · rw [hrest _ (by simpa using Ne.symm hne), settled_place_x]
        rfl
    · obtain ⟨-, hE, -⟩ := hplain none
      have hfin := retire_keeping (e := e) (v := s.X f + s.X g) (n := 1) h he (q := s.me.keeping (effX e (s.X f + s.X g) 1)) rfl none
      rw [hfin] at hE
      generalize hu : ((s.me.keeping (effX e (s.X f + s.X g) 1)).place s.cur.1 s.cycle
        { reg := .x e, val := (s.X f + s.X g).setWidth 128, latency := 1 }).leftBy s.cycle none = u at hfin hE
      have hhere : (s.setSlot s.cur.1 s.cur.2 u).here.tvec = s.here.tvec := by simp [State.here]
      obtain ⟨-, hcause, hval, htpc, hpc, -, -, -, -, -, -, -, -, hregs, -⟩ := takeTrap_taken (s := s.setSlot s.cur.1 s.cur.2 u)
        (cause := .trapi) (v := zext code) (tpc := s.me.bundle.next) (by rw [hhere]; exact hvec)
      refine ⟨_, ?_, (hregs _).trans hE, hcause, hval, htpc, hpc.trans hhere⟩
      rw [hrun]
      show runC _ (.ok (.trapAfter (s.keeping _) .trapi (zext code))) = _
      rw [runC, finishC_keeping_trap h htx, State.keeping, hfin]
      rfl

end Sys2Proof.Proofs
end

section
/-!
SUPPORT. Pending writes that land in their cycle (03_encoding R55, R57): the value that a register then reads.
-/
namespace Sys2Proof.Machine

/-- By a cycle the pending writes that are due have landed, in their order. -/
theorem landFrom_fst (now : Nat) (ps : List Pending) (t : Slot) :
    (landFrom now t ps).1 = landList t (ps.filter (fun p => decide (p.due ≤ now))) := by
  induction ps generalizing t with
  | nil => rfl
  | cons p r ih =>
    by_cases h : p.due ≤ now
    · rw [landFrom, if_pos h, ih, List.filter_cons_of_pos (by simpa using h)]
      rfl
    · rw [landFrom, if_neg h, List.filter_cons_of_neg (by simpa using h)]
      exact ih t

theorem reg_land (t : Slot) (now : Nat) (r : RegName) :
    (t.land now).reg r = (landList t (t.pend.filter (fun p => decide (p.due ≤ now)))).reg r := by
  rw [← landFrom_fst]
  cases r <;> rfl

/-- What a register reads in a cycle depends on the registers and the pending writes alone. -/
theorem reg_land_congr {t u : Slot} (hx : t.x = u.x) (hv : t.v = u.v) (hp : t.pend = u.pend) (now : Nat) (r : RegName) :
    (t.land now).reg r = (u.land now).reg r := by
  rw [reg_land, reg_land, hp]
  exact reg_landList_congr _ (reg_congr hx hv r)

/-- A register that a younger write will change reads its old value until that write is due, and then the new one. -/
theorem reg_land_pending (t : Slot) (p : Pending) (now : Nat) :
    (({ t with pend := t.pend ++ [p] } : Slot).land now).reg p.reg =
      if now < p.due then (t.land now).reg p.reg else ({ t with pend := t.pend ++ [p] } : Slot).settled p.reg := by
  rw [reg_land, settled_eq]
  dsimp only
  rw [List.filter_append, landList_append, reg_setReg_self]
  by_cases h : p.due ≤ now
  · rw [List.filter_cons_of_pos (by simpa using h), List.filter_nil, landList_append, reg_setReg_self, if_neg (Nat.not_lt.mpr h)]
  · rw [List.filter_cons_of_neg (by simpa using h), List.filter_nil, List.append_nil, if_pos (Nat.lt_of_not_le h), reg_land]
    exact reg_landList_congr _ (reg_setPend t _ _)

/-- A write with a latency above 1 is read from its cycle on (R55, R57). -/
theorem reg_land_writeReg (t : Slot) (issue : Nat) (w : RegWrite) (hl : 1 < w.latency) (now : Nat) :
    ((t.writeReg issue w).land now).reg w.reg =
      if now < issue + w.latency then (t.land now).reg w.reg else (t.writeReg issue w).settled w.reg := by
  by_cases h0 : isX0 w.reg = true
  · have hx0 : ∀ u : Slot, u.reg w.reg = 0 := fun u => by
      cases hw : w.reg with
      | x d =>
        rw [hw, isX0_iff, beq_iff_eq] at h0
        simp only [Slot.reg, h0, if_true]
      | v d => rw [hw] at h0; exact absurd h0 (by simp [isX0])
    rw [hx0, hx0, settled_writeReg_self, if_pos h0, ite_self]
  · have hw : t.writeReg issue w =
        { t with pend := t.pend ++ [{ reg := w.reg, val := w.val, due := issue + w.latency }] } := by
      rw [Slot.writeReg, if_neg h0, if_neg (Nat.not_le.mpr hl)]
    rw [hw]
    exact reg_land_pending t { reg := w.reg, val := w.val, due := issue + w.latency } now

/-- The result of a lone A-word with one write of a latency above 1, in a slot that runs alone. -/
theorem reg_land_finishA {s : State} (h : Lone s) (hcv : s.me.cvsize ≤ 1) {e : AEff} {w : RegWrite} (hp : e.poison = none)
    (he : (e.renamed s.me.bundle.rename).writes = [w]) (hw : s.me.writesInto w.reg) (hl : 1 < w.latency) (now : Nat) :
    ((s.finishA e).me.land now).reg w.reg =
      if now < s.me.lastIssue + w.latency then (s.me.land now).reg w.reg else (s.finishA e).me.settled w.reg := by
  have hlen : e.writes.length ≤ 1 := by
    have := congrArg List.length he
    simp only [AEff.renamed, List.length_map, List.length_singleton] at this
    exact Nat.le_of_eq this
  generalize hu : ({ s.me with bundle := { s.me.bundle with stash := some (e.renamed s.me.bundle.rename) } } : Slot) = u
  have hu0 : (u.land now).reg w.reg = (s.me.land now).reg w.reg := by
    rw [← hu]
    apply reg_land_congr <;> rfl
  obtain ⟨y, hy, hx, hv, hpe⟩ : ∃ y : Slot, (s.finishA e).me = y.finished s.cycle ∧ y.x = (u.writeReg s.me.lastIssue w).x ∧
      y.v = (u.writeReg s.me.lastIssue w).v ∧ y.pend = (u.writeReg s.me.lastIssue w).pend := by
    refine ⟨s.me.withEff s.cur.1 s.cycle (e.renamed s.me.bundle.rename), ?_, ?_⟩
    · rw [finishA_lone h hp hlen (by rw [he]; simpa using hw), me_setSlot]
    · subst hu
      simp only [Slot.withEff, he, List.foldl_cons, List.foldl_nil, Slot.place, if_pos hcv, and_self]
  obtain ⟨l, pc, f, g, n, hfin⟩ := finished_shape y s.cycle
  have hland : ((y.finished s.cycle).land now).reg w.reg = ((u.writeReg s.me.lastIssue w).land now).reg w.reg :=
    reg_land_congr (by rw [hfin]; exact hx) (by rw [hfin]; exact hv) (by rw [hfin]; exact hpe) now w.reg
  rw [hy, hland, settled_finished, settled_congr hx hv hpe, reg_land_writeReg u s.me.lastIssue w hl now, hu0]

end Sys2Proof.Machine
end

section
/-!
CERTIFICATE. Results of a fixed latency (03_encoding R55, R57, Table 3.3).
-/
namespace Sys2Proof.Proofs
open Sys2Proof.Machine

/-- Settles O10: each word's effect is one write with its latency, which lands when it is due. -/
theorem fixedLatencyResults : Obligations.FixedLatencyResults := by
  unfold Obligations.FixedLatencyResults
  intro s ty d a b m h hcv hp16 hp8 _ v arith p hmem hinto
  obtain ⟨e, w, hexec, hpois, hwr, hreg, hlat, hlong⟩ : ∃ e w, exec p.1 s = runA s e ∧ e.poison = none ∧
      (e.renamed s.me.bundle.rename).writes = [w] ∧ w.reg = p.2.1 ∧ w.latency = p.2.2 ∧ 1 < p.2.2 := by
    have harith : 1 < arith := by
      simp only [arith]
      split <;> decide
    simp only [List.mem_cons, List.not_mem_nil, or_false] at hmem
    obtain rfl | rfl | rfl | rfl | rfl | rfl | rfl | rfl | rfl | rfl | rfl | rfl | rfl | rfl | rfl | rfl := hmem
    iterate 3 exact ⟨_, _, rfl, hp8, rfl, rfl, rfl, (by decide : 1 < 3)⟩
    iterate 5 exact ⟨_, _, rfl, hp16, rfl, rfl, rfl, harith⟩
    iterate 2 exact ⟨_, _, rfl, hp16, rfl, rfl, rfl, (by decide : 1 < 2)⟩
    · exact ⟨_, _, rfl, rfl, rfl, rfl, rfl, (by decide : 1 < 2)⟩
    · exact ⟨_, _, rfl, hp16, rfl, rfl, rfl, (by decide : 1 < 4)⟩
    iterate 2 exact ⟨_, _, rfl, rfl, rfl, rfl, rfl, (by decide : 1 < 2)⟩
    · exact ⟨_, _, rfl, hp16, rfl, rfl, rfl, (by decide : 1 < 5)⟩
    · exact ⟨_, _, rfl, rfl, rfl, rfl, rfl, (by decide : 1 < 3)⟩
  refine ⟨_, hexec, fun now => ?_⟩
  rw [← hreg, ← hlat]
  exact reg_land_finishA h hcv hpois hwr (by rw [hreg]; exact hinto) (by rw [hlat]; exact hlong) now

end Sys2Proof.Proofs
end

section
/-!
SUPPORT. Control registers (03_encoding Tables 3.12 to 3.16): what a write changes, what it leaves, and what CRW, CRS and CRC
come to (14_reference R306).
-/
namespace Sys2Proof.Machine

/-! ### Control registers after a change of a slot or a core -/

theorem launchOf_setCore {s : State} {c : Nat} {k : CoreSt} (hk : k.launch = (s.core c).launch) (d : Nat) :
    (s.setCore c k).launchOf d = s.launchOf d := by
  unfold State.launchOf
  by_cases h : c = d
  · subst h
    rw [core_setCore_self, hk]
    rfl
  · rw [core_setCore_ne _ _ h]
    rfl

theorem launchOf_modCore (s : State) (c d : Nat) (f : CoreSt → CoreSt) (hf : ∀ k, (f k).launch = k.launch) :
    (s.modCore c f).launchOf d = s.launchOf d := launchOf_setCore (hf _) d

theorem launchOf_modSlot (s : State) (c i d : Nat) (f : Slot → Slot) : (s.modSlot c i f).launchOf d = s.launchOf d :=
  launchOf_modCore s c d (fun k => k.setSlot i (f (k.slot i))) (fun _ => rfl)

/-- A write of a control register changes no other one. -/
theorem creg_setCreg_ne {s : State} {c i n m : Nat} (v : Word) (h : m ≠ n) : (s.setCreg c i n v).creg c i m = s.creg c i m := by
  unfold State.setCreg
  dsimp only
  split
  case h_24 => rfl
  case h_6 | h_19 | h_20 | h_21 | h_23 =>
    generalize hg : (fun k : CoreSt => (_ : CoreSt)) = g
    have hl : ∀ k, (g k).launch = k.launch := fun k => by rw [← hg]
    unfold State.creg State.widw State.frontOf
    rw [launchOf_modCore _ _ _ _ hl, core_modCore_self]
    subst hg
    split
    any_goals exact absurd rfl h
    all_goals rfl
  all_goals
    generalize hg : (fun t : Slot => (_ : Slot)) = g
    unfold State.creg State.widw State.frontOf
    rw [launchOf_modSlot, core_modSlot_self]
    extract_lets k t l k' t'
    have ht : t = g t' := slot_core_setSlot ..
    clear_value t
    subst hg ht
    split
    any_goals exact absurd rfl h
    all_goals rfl

/-- What a bundle's retirement leaves of a slot's control registers: all but RETIRED. -/
theorem creg_setSlot {s : State} {c i n : Nat} {u : Slot} {x v p px pv l pc r w nb b pf pt}
    (hu : u = { s.slot c i with x := x, v := v, pend := p, poisonX := px, poisonV := pv, loop := l, pc := pc, retired := r
                                wait := w, notBefore := nb, bundle := b, portFrom := pf, portTo := pt })
    (hn : n ≠ 0x061) : (s.setSlot c i u).creg c i n = s.creg c i n := by
  have hl : (s.setSlot c i u).launchOf c = s.launchOf c := launchOf_modSlot s c i c (fun _ => u)
  unfold State.creg State.widw State.frontOf
  rw [hl, core_setSlot]
  extract_lets k t l k' t'
  have ht : t = u := slot_core_setSlot ..
  clear_value t
  subst ht hu
  split
  any_goals exact absurd rfl hn
  all_goals rfl

/-! ### The values that a register keeps -/

theorem wordN_toNat (v : Word) : wordN v.toNat = v := BitVec.ofNat_toNat ..

theorem bit_getLsbD (v : Word) (k : Nat) : bit (v.getLsbD k) = v.toNat / 2 ^ k % 2 := by
  rw [BitVec.getLsbD, Nat.testBit_eq_decide_div_mod_eq, bit]
  have := Nat.mod_two_eq_zero_or_one (v.toNat / 2 ^ k)
  split <;> simp_all

theorem and_low (v : Word) (k : Nat) (hk : k ≤ 64) : v &&& BitVec.ofNat 64 (2 ^ k - 1) = BitVec.ofNat 64 (v.toNat % 2 ^ k) := by
  apply BitVec.eq_of_toNat_eq
  have hle : 2 ^ k ≤ 2 ^ 64 := Nat.pow_le_pow_right (by decide) hk
  have hpos := Nat.pow_pos (n := k) (show 0 < 2 by decide)
  have hlt := Nat.lt_of_lt_of_le (Nat.mod_lt v.toNat hpos) hle
  rw [BitVec.toNat_and, BitVec.toNat_ofNat, BitVec.toNat_ofNat, Nat.mod_eq_of_lt (by omega : 2 ^ k - 1 < 2 ^ 64),
    Nat.and_two_pow_sub_one_eq_mod, Nat.mod_eq_of_lt hlt]

theorem setWidth_and_low (v : Word) (k : Nat) (hk : k ≤ 64) :
    (v.setWidth k).setWidth 64 = v &&& BitVec.ofNat 64 (2 ^ k - 1) := by
  rw [and_low v k hk]
  apply BitVec.eq_of_toNat_eq
  simp only [BitVec.toNat_setWidth, BitVec.toNat_ofNat]

/-- FPCTL: RM and FZ, its four lowest bits (Table 3.13). -/
theorem fpctl_kept (v : Word) : wordN (8 * bit (bitAt v 3) + bits v 2 0) = v &&& 0xF := by
  refine .trans ?_ (and_low v 4 (by decide)).symm
  rw [wordN, bitAt, bit_getLsbD, bits]
  congr 1
  omega

/-- FFLAGS: the six flags (Table 3.14). -/
theorem fflags_kept (v : Word) : wordN (Flags.ofWord v).toNat = v &&& 0x3F := by
  refine .trans ?_ (and_low v 6 (by decide)).symm
  simp only [wordN, Flags.ofWord, Flags.toNat, bit_getLsbD]
  congr 1
  omega

/-- LMB: a multiple of 16 below 128 KiB. -/
theorem lmb_kept (v : Word) : wordN (bits v 16 4 * 16) = v &&& 0x1FFF0 := by
  apply BitVec.eq_of_toNat_eq
  have hlt : v.toNat / 2 ^ 4 % 2 ^ 13 * 2 ^ 4 < 2 ^ 64 := by omega
  rw [wordN, BitVec.toNat_ofNat, BitVec.toNat_and, bits]
  refine (Nat.mod_eq_of_lt hlt).trans (Nat.eq_of_testBit_eq fun k => ?_)
  rw [show (0x1FFF0 : Word).toNat = (2 ^ 13 - 1) * 2 ^ 4 from rfl, Nat.testBit_and]
  simp only [Nat.testBit_mul_two_pow, Nat.testBit_mod_two_pow, Nat.testBit_div_two_pow, Nat.testBit_two_pow_sub_one]
  by_cases hk : 4 ≤ k
  · simp [hk, Bool.and_comm]
  · simp [hk]

/-- ACCSTn: EMPTY, SAT, OF and NV (Table 6.13). -/
theorem accst_kept (b : Bank) (v : Word) : wordN (b.withStatus v).status = v &&& 0x65 := by
  have key : ∀ w : BitVec 7, BitVec.ofNat 64 (64 * bit (w.getLsbD 6) + 32 * bit (w.getLsbD 5) + 4 * bit (w.getLsbD 2) +
      bit (w.getLsbD 0)) = (w &&& 0x65).setWidth 64 := by decide
  have hv : v &&& 0x65 = (v.setWidth 7 &&& 0x65).setWidth 64 := by
    rw [BitVec.setWidth_and, setWidth_and_low v 7 (by decide), BitVec.and_assoc]
    rfl
  rw [hv, ← key]
  simp [wordN, Bank.withStatus, Bank.status, bitAt]

/-- The registers that keep every bit of the value written. -/
theorem creg_setCreg_whole (s : State) (c i : Nat) (v : Word) {n : Nat}
    (hn : n ∈ [0x002, 0x030, 0x031, 0x032, 0x033, 0x034, 0x039, 0x047, 0x050, 0x051]) :
    (s.setCreg c i n v).creg c i n = v &&& BitVec.allOnes 64 := by
  simp only [List.mem_cons, List.not_mem_nil, or_false] at hn
  rw [BitVec.and_allOnes]
  obtain rfl | rfl | rfl | rfl | rfl | rfl | rfl | rfl | rfl | rfl := hn <;>
    simp only [State.setCreg, State.creg, core_modSlot_self, core_modCore_self, slot_core_setSlot, wordN_toNat]

/-- The registers that keep some bits of it, with those bits. -/
theorem creg_setCreg_cut (s : State) (c i : Nat) (v : Word) {n : Nat} {mask : Word} (hn : (n, mask) ∈
    ([(0x000, 0xF), (0x001, 0x3F), (0x010, 0x1FFF0), (0x011, 0x1FF), (0x038, 0x807F0000FFFFFFFF), (0x040, 0xFFF), (0x041, 0xFFF),
      (0x042, 0xF), (0x043, 0x0000FFFF0003FFFF), (0x044, 0x0000FFFF0003FFFF), (0x045, 0x65), (0x046, 0x65)] :
      List (Nat × Word))) : (s.setCreg c i n v).creg c i n = v &&& mask := by
  simp only [List.mem_cons, List.not_mem_nil, or_false, Prod.mk.injEq] at hn
  obtain ⟨rfl, rfl⟩ | ⟨rfl, rfl⟩ | ⟨rfl, rfl⟩ | ⟨rfl, rfl⟩ | ⟨rfl, rfl⟩ | ⟨rfl, rfl⟩ | ⟨rfl, rfl⟩ | ⟨rfl, rfl⟩ | ⟨rfl, rfl⟩ |
    ⟨rfl, rfl⟩ | ⟨rfl, rfl⟩ | ⟨rfl, rfl⟩ := hn <;>
    simp only [State.setCreg, State.creg, core_modSlot_self, core_modCore_self, slot_core_setSlot]
  · exact fpctl_kept v
  · exact fflags_kept v
  · exact lmb_kept v
  · exact setWidth_and_low v 9 (by decide)
  · rfl
  · exact setWidth_and_low v 12 (by decide)
  · exact setWidth_and_low v 12 (by decide)
  · exact setWidth_and_low v 4 (by decide)
  · rfl
  · rfl
  · exact accst_kept _ v
  · exact accst_kept _ v

/-! ### A write beside the result's -/

/-- A slot with other registers, marks and pending writes. -/
def Slot.withRegs (t : Slot) (x : Vector Word 32) (v : Vector Vec 32) (p : List Pending) (px pv : List Reg) : Slot :=
  { t with x := x, v := v, pend := p, poisonX := px, poisonV := pv }

/-- A write of SRSEED in a bundle with no effects kept back. -/
theorem setCreg_srseed {s : State} {c i : Nat} (hst : (s.slot c i).bundle.stash = none) (v : Word) :
    s.setCreg c i 0x002 v = s.modSlot c i (fun t => { t with srseed := v, gen := seedGen v }) := by
  simp only [State.setCreg, modSlot_eq, hst, Option.map_none]
  rw [← hst]

/-- What a write of a control register leaves of its slot. -/
theorem slot_setCreg {s : State} {c i : Nat} (hst : (s.slot c i).bundle.stash = none) (n : Nat) (v : Word) :
    let u := (s.setCreg c i n v).slot c i
    u.x = (s.slot c i).x ∧ u.v = (s.slot c i).v ∧ u.pend = (s.slot c i).pend ∧ u.loop = (s.slot c i).loop ∧
      u.bundle = (s.slot c i).bundle := by
  by_cases hn : n = 0x002
  · subst hn
    rw [setCreg_srseed hst, modSlot_eq, slot_setSlot_self]
    exact ⟨rfl, rfl, rfl, rfl, rfl⟩
  unfold State.setCreg
  dsimp only
  split
  case h_3 => exact absurd rfl hn
  case h_6 | h_19 | h_20 | h_21 | h_23 =>
    rw [State.slot, core_modCore_self]
    exact ⟨rfl, rfl, rfl, rfl, rfl⟩
  case h_24 => exact ⟨rfl, rfl, rfl, rfl, rfl⟩
  all_goals
    rw [modSlot_eq, slot_setSlot_self]
    exact ⟨rfl, rfl, rfl, rfl, rfl⟩

/-- A write of a control register takes no notice of the registers, their marks and their pending writes. -/
theorem setCreg_withRegs (s : State) (c i n : Nat) (v : Word) (x w p px pw) :
    (s.setSlot c i ((s.slot c i).withRegs x w p px pw)).setCreg c i n v =
      (s.setCreg c i n v).setSlot c i (((s.setCreg c i n v).slot c i).withRegs x w p px pw) := by
  unfold State.setCreg
  dsimp only
  split
  case h_6 | h_19 | h_20 | h_21 | h_23 =>
    simp only [State.modCore, State.setSlot, State.slot, core_setCore_self, setCore_setCore]
    rfl
  case h_24 => rfl
  all_goals
    rw [modSlot_setSlot, modSlot_eq, slot_setSlot_self, setSlot_setSlot]
    rfl

theorem setCreg_cur (s : State) (c i n : Nat) (v : Word) : (s.setCreg c i n v).cur = s.cur := by
  unfold State.setCreg
  dsimp only
  split <;> rfl

/-! ### CRW, CRS and CRC -/

section
variable {s : State} {how : CrWrite} {a d : Reg} {num : BitVec 11} {v : Word}

/-- The register can be written this way (Table 3.12). -/
def CrWrite.allowed (how : CrWrite) (n : Nat) : Bool :=
  match cregAccess n with
  | some .rw => true
  | some .rc => how == .clear
  | _ => false

theorem crwRes_stall (h : s.cregWaits num.toNat true = true) : s.crwRes how a d num = .error (.wait s .stall) := by
  simp only [State.crwRes, h, if_true]

theorem crwRes_illegal (h : s.cregWaits num.toNat true = false) (hbad : how.allowed num.toNat = false ∨
    cregAccepts num.toNat (how.apply (s.creg s.cur.1 s.cur.2 num.toNat) (s.X a)) = false) :
    s.crwRes how a d num = .error (s.stopWith .illegal s.wordVal) := by
  have : (!how.allowed num.toNat ||
      !cregAccepts num.toNat (how.apply (s.creg s.cur.1 s.cur.2 num.toNat) (s.X a))) = true := by
    obtain h | h := hbad <;> simp [h]
  simp only [State.crwRes, h, Bool.false_eq_true, if_false]
  exact if_pos this

variable (h : s.cregWaits num.toNat true = false) (hal : how.allowed num.toNat = true)
  (hv : how.apply (s.creg s.cur.1 s.cur.2 num.toNat) (s.X a) = v) (hacc : cregAccepts num.toNat v = true)
include h hal hv hacc

theorem crwRes_place (hn : num.toNat = 0x011) (hbad : s.badLinkmap v = true) :
    s.crwRes how a d num = .error (s.stopWith .place v) := by
  have : ¬ (!how.allowed num.toNat || !cregAccepts num.toNat v) = true := by simp [hal, hacc]
  simp only [State.crwRes, h, hv, Bool.false_eq_true, if_false]
  exact (if_neg this).trans (if_pos ⟨hn, hbad⟩)

theorem crwRes_tage (hn : num.toNat = 0x036) : s.crwRes how a d num =
    go ((if s.X a = 0 then s else s.modMe (fun t => { t with tage := none })).setX d (s.creg s.cur.1 s.cur.2 num.toNat)) := by
  have : ¬ (!how.allowed num.toNat || !cregAccepts num.toNat v) = true := by simp [hal, hacc]
  simp only [State.crwRes, h, hv, Bool.false_eq_true, if_false]
  exact (if_neg this).trans ((if_neg (by simp [hn])).trans (if_pos hn))

theorem crwRes_write (hlm : num.toNat = 0x011 → s.badLinkmap v = false) (hn : num.toNat ≠ 0x036) : s.crwRes how a d num =
    go ((s.setX d (s.creg s.cur.1 s.cur.2 num.toNat)).setCreg s.cur.1 s.cur.2 num.toNat v) := by
  have : ¬ (!how.allowed num.toNat || !cregAccepts num.toNat v) = true := by simp [hal, hacc]
  simp only [State.crwRes, h, hv, Bool.false_eq_true, if_false]
  exact (if_neg this).trans ((if_neg (fun hp => by simp [hlm hp.1] at hp)).trans (if_neg hn))

end

/-- A lone word that leaves a value in an x register and makes another change of the state, which takes no notice of the
registers: `b` is the state after that change alone. -/
theorem finishC_beside {s b : State} (h : Lone s) {d : Reg} (hd : s.me.writesInto (.x d)) (old : Word) {g : State → State}
    (hcur : b.cur = s.cur) (hx : b.me.x = s.me.x) (hv : b.me.v = s.me.v)
    (hp : b.me.pend = s.me.pend) (hl : b.me.loop = s.me.loop) (hb : b.me.bundle = s.me.bundle)
    (hg : ∀ x w p px pw, g (s.setSlot s.cur.1 s.cur.2 (s.me.withRegs x w p px pw)) =
      b.setSlot b.cur.1 b.cur.2 (b.me.withRegs x w p px pw)) :
    let t := s.finishC (go (g (s.setX d old)))
    GoesOn s t ∧ Retired b t [.x d] {} ∧ t.me.settled (.x d) = xValue d old ∧
      ∀ m, m ≠ 0x061 → t.creg s.cur.1 s.cur.2 m = b.creg s.cur.1 s.cur.2 m := by
  obtain ⟨x, w, p, px, pw, hs⟩ := place_shape s.me s.cur.1 s.cycle { reg := .x d, val := old.setWidth 128, latency := 1 }
  have hsettled : ∀ r, (b.me.withRegs x w p px pw).settled r =
      (s.me.place s.cur.1 s.cycle { reg := .x d, val := old.setWidth 128, latency := 1 }).settled r := fun r => by
    rw [hs]
    apply settled_congr <;> rfl
  have hset : s.setX d old = s.setSlot s.cur.1 s.cur.2 (s.me.withRegs x w p px pw) :=
    (writeReg_of (by exact hd)).trans (congrArg _ hs)
  have ht : s.finishC (go (g (s.setX d old))) =
      b.setSlot b.cur.1 b.cur.2 ((b.me.withRegs x w p px pw).finished b.cycle) := by
    rw [go, finishC_go h, hset, hg, ← hcur]
    exact retire_setSlot (h.of_me hb) rfl
  intro t
  rw [show t = _ from ht]
  have hgo : GoesOn b (b.setSlot b.cur.1 b.cur.2 ((b.me.withRegs x w p px pw).finished b.cycle)) := goesOn_of rfl rfl rfl
  have hadv := advance_congr hl (congrArg Bundle.bodyLast hb) (congrArg Bundle.next hb)
  refine ⟨⟨hgo.1.trans hadv.1, hgo.2.trans hadv.2⟩,
    retired_of (fun r hr => ?_) (or_empty _).symm rfl rfl rfl rfl rfl, ?_, fun m hm => ?_⟩
  · rw [hsettled, settled_place_ne _ _ _ _ (fun h => hr (by simp [← h]))]
    exact (settled_congr hx hv hp r).symm
  · rw [me_setSlot, settled_finished, hsettled, settled_place_x]
  · obtain ⟨l, pc, f, e, n, hfin⟩ := finished_shape (b.me.withRegs x w p px pw) b.cycle
    rw [← hcur]
    exact creg_setSlot hfin hm

/-- A lone word that leaves a value in an x register and writes a control register. -/
theorem finishC_setCreg {s : State} (h : Lone s) {d : Reg} (hd : s.me.writesInto (.x d)) (old v : Word) (n : Nat) :
    let t := s.finishC (go ((s.setX d old).setCreg s.cur.1 s.cur.2 n v))
    GoesOn s t ∧ Retired (s.setCreg s.cur.1 s.cur.2 n v) t [.x d] {} ∧ t.me.settled (.x d) = xValue d old ∧
      ∀ m, m ≠ 0x061 → t.creg s.cur.1 s.cur.2 m = (s.setCreg s.cur.1 s.cur.2 n v).creg s.cur.1 s.cur.2 m := by
  have hcur := setCreg_cur s s.cur.1 s.cur.2 n v
  have hme : (s.setCreg s.cur.1 s.cur.2 n v).me = (s.setCreg s.cur.1 s.cur.2 n v).slot s.cur.1 s.cur.2 := by
    rw [State.me, hcur]
  obtain ⟨hx, hv, hp, hl, hb⟩ := slot_setCreg (s := s) (c := s.cur.1) (i := s.cur.2) h.stash n v
  refine finishC_beside (g := fun t => t.setCreg s.cur.1 s.cur.2 n v) h hd old hcur (hme ▸ hx) (hme ▸ hv) (hme ▸ hp)
    (hme ▸ hl) (hme ▸ hb) (fun x w p px pw => ?_)
  rw [hme, hcur]
  exact setCreg_withRegs s s.cur.1 s.cur.2 n v x w p px pw

end Sys2Proof.Machine
end

section
/-!
CERTIFICATE. CRW, CRS and CRC of every control register (14_reference R306).
-/
namespace Sys2Proof.Proofs
open Sys2Proof.Machine

/-- The state with its slot written back is the state, for all that a retirement says. -/
theorem retired_modMe_id {s t : State} {ds : List RegName} {fl : Flags} (h : Retired s t ds fl) :
    Retired (s.modMe (fun u => u)) t ds fl := by
  obtain ⟨elsewhere, registers, flags, system, count, waits, next⟩ := h
  have hme : (s.modMe (fun u => u)).me = s.me := me_modMe ..
  refine ⟨?_, by rwa [hme], by rwa [hme], by rwa [hme], by rwa [hme], waits, by rwa [hme]⟩
  rw [modMe_eq, cur_setSlot, setSlot_setSlot]
  exact elsewhere

/-- A value in the range that Table 14.21 states for a register. -/
theorem cregAccepts_iff (num : BitVec 11) (v : Word) : cregAccepts num.toNat v = true ↔
    (num = 0x000 → bits v 2 0 ≤ 4) ∧ (num = 0x030 → bits v 1 0 = 0) ∧ (num = 0x047 → 1 ≤ v.toNat ∧ v.toNat ≤ 16) ∧
      (num = 0x050 → v.toNat ≤ 2) ∧ (num = 0x051 → v.toNat ≤ 1024) := by
  have hnum : ∀ n : Nat, n < 2 ^ 11 → (num = BitVec.ofNat 11 n ↔ num.toNat = n) := fun n hn => by
    rw [← BitVec.toNat_inj, BitVec.toNat_ofNat, Nat.mod_eq_of_lt hn]
  rw [show (num = 0x000) = (num.toNat = 0) from propext (hnum 0 (by decide)),
    show (num = 0x030) = (num.toNat = 0x030) from propext (hnum 0x030 (by decide)),
    show (num = 0x047) = (num.toNat = 0x047) from propext (hnum 0x047 (by decide)),
    show (num = 0x050) = (num.toNat = 0x050) from propext (hnum 0x050 (by decide)),
    show (num = 0x051) = (num.toNat = 0x051) from propext (hnum 0x051 (by decide))]
  unfold cregAccepts
  split <;> simp_all

/-- The numbers of the registers that Table 3.12 lets be read and written. -/
theorem mem_of_access {num : BitVec 11} (h : cregAccess num.toNat = some .rw) : num ∈ ([0x000, 0x001, 0x002, 0x010, 0x011, 0x030,
    0x031, 0x032, 0x033, 0x034, 0x038, 0x039, 0x040, 0x041, 0x042, 0x043, 0x044, 0x045, 0x046, 0x047, 0x050, 0x051, 0x035] :
    List (BitVec 11)) := by
  have hmem : num.toNat ∈ [0x000, 0x001, 0x002, 0x010, 0x011, 0x030, 0x031, 0x032, 0x033, 0x034, 0x035, 0x038, 0x039, 0x040,
      0x041, 0x042, 0x043, 0x044, 0x045, 0x046, 0x047, 0x050, 0x051] := by
    by_contra hnot
    rw [cregAccess, if_neg hnot] at h
    split at h
    · cases h
    · split at h <;> cases h
  have hnum : num = BitVec.ofNat 11 num.toNat := by simp
  generalize num.toNat = n at hmem hnum
  subst hnum
  revert n
  decide

theorem access_rc {num : BitVec 11} (h : cregAccess num.toNat = some .rc) : num = 0x036 := by
  unfold cregAccess at h
  split at h
  · cases h
  · split at h
    · cases h
    · split at h
      · rename_i hn
        exact BitVec.eq_of_toNat_eq hn
      · cases h

/-- Settles O17, case by case of what CRW, CRS and CRC come to: a wait, a trap, TAGE, or a write of one register. -/
theorem controlRegisterWrites : Obligations.ControlRegisterWrites := by
  unfold Obligations.ControlRegisterWrites
  intro s a d num h old me core ways fits all rows
  have hways : ∀ p ∈ ways, ∃ how : CrWrite, exec p.1 s = runC s (s.crwRes how a d num) ∧
      how.apply old (s.X a) = p.2 := by
    intro p hp
    simp only [ways, List.mem_cons, List.not_mem_nil, or_false] at hp
    obtain rfl | rfl | rfl := hp
    · exact ⟨.write, rfl, rfl⟩
    · exact ⟨.set, rfl, rfl⟩
    · exact ⟨.clear, rfl, rfl⟩
  have hrows : ∀ m ∈ rows, num = m.1 → ∀ v, m.2.2 v = s.setCreg s.cur.1 s.cur.2 num.toNat v ∧
      (s.setCreg s.cur.1 s.cur.2 num.toNat v).creg s.cur.1 s.cur.2 num.toNat = v &&& m.2.1 ∧
      cregAccess num.toNat = some .rw := by
    have hwhole := fun n v hn => creg_setCreg_whole s s.cur.1 s.cur.2 v (n := n) hn
    have hcut := fun n v mask hn => creg_setCreg_cut s s.cur.1 s.cur.2 v (n := n) (mask := mask) hn
    intro m hm hn v
    simp only [rows, List.mem_cons, List.not_mem_nil, or_false] at hm
    obtain rfl | rfl | rfl | rfl | rfl | rfl | rfl | rfl | rfl | rfl | rfl | rfl | rfl | rfl | rfl | rfl | rfl | rfl | rfl | rfl |
      rfl | rfl := hm <;> subst hn
    all_goals dsimp only
    · exact ⟨rfl, hcut _ _ _ (by decide), rfl⟩
    · exact ⟨rfl, hcut _ _ _ (by decide), rfl⟩
    · refine ⟨?_, hwhole _ _ (by decide), rfl⟩
      exact (setCreg_srseed h.stash v).symm
    · refine ⟨?_, hcut _ _ _ (by decide), rfl⟩
      simp only [me, ← lmb_kept]
      rfl
    · exact ⟨rfl, hcut _ _ _ (by decide), rfl⟩
    iterate 5 exact ⟨rfl, hwhole _ _ (by decide), rfl⟩
    · exact ⟨rfl, hcut _ _ _ (by decide), rfl⟩
    · exact ⟨rfl, hwhole _ _ (by decide), rfl⟩
    iterate 7 exact ⟨rfl, hcut _ _ _ (by decide), rfl⟩
    iterate 3 exact ⟨rfl, hwhole _ _ (by decide), rfl⟩
  have hillegal : s.me.txn = none → s.here.tvec ≠ 0 → ∀ i how, exec i s = runC s (s.crwRes how a d num) →
      s.crwRes how a d num = .error (s.stopWith .illegal s.wordVal) → ∃ t : State, exec i s = .next t ∧
        TrapTaken s t .illegal (s.me.bundle.word.setWidth 64) s.me.bundle.here s.here.tvec :=
    fun htx hvec i how hexec hres => ⟨_, hexec.trans (congrArg (runC s) hres), finishC_trap htx hvec⟩
  refine ⟨?_, ?_, ?_, ?_, ?_⟩
  · intro hd hw m hm hn p hp hfit hlm
    obtain ⟨how, hexec, happly⟩ := hways p hp
    obtain ⟨hbase, hself, hacc⟩ := hrows m hm hn p.2
    have hal : how.allowed num.toNat = true := by simp [CrWrite.allowed, hacc]
    have hne : num.toNat ≠ 0x036 := fun he => absurd (he ▸ hacc) (by decide)
    have hne61 : num.toNat ≠ 0x061 := fun he => absurd (he ▸ hacc) (by decide)
    have hres := crwRes_write (d := d) hw hal happly ((cregAccepts_iff num p.2).mpr hfit)
      (fun h11 => hlm (BitVec.eq_of_toNat_eq h11)) hne
    obtain ⟨hgo, hR, hset, hcreg⟩ := finishC_setCreg h hd old p.2 num.toNat
    exact ⟨_, hexec.trans (congrArg (runC s) hres), hgo, hbase ▸ hR, hset, (hcreg _ hne61).trans hself,
      fun n hn hn61 => (hcreg n hn61).trans (creg_setCreg_ne _ hn)⟩
  · intro hd hn p hp
    obtain ⟨how, hexec, happly⟩ := hways p hp
    have hres := crwRes_write (how := how) (d := d) (s := s) (a := a) (num := num) (v := p.2) (by rw [hn]; rfl)
      (by rw [hn]; rfl) happly (by rw [hn]; rfl) (fun he => absurd (hn ▸ he) (by decide)) (by rw [hn]; decide)
    obtain ⟨hgo, hR, hset, -⟩ := finishC_setCreg h hd old p.2 num.toNat
    refine ⟨_, hexec.trans (congrArg (runC s) hres), hgo, ?_, hset⟩
    have hbase : me (fun u => { u with tabort := p.2.setWidth 8, tcode := p.2.extractLsb' 8 8 }) =
        s.setCreg s.cur.1 s.cur.2 num.toNat p.2 := by
      simp only [me, hn, BitVec.setWidth_eq_extractLsb' (show 8 ≤ 64 by decide)]
      rfl
    exact hbase ▸ hR
  · intro hd hn
    have hres := crwRes_tage (how := .clear) (d := d) (s := s) (a := a) (num := num) (by rw [hn]; rfl) (by rw [hn]; rfl) rfl
      (by rw [hn]; rfl) (by rw [hn]; rfl)
    have hexec : exec (.crc a d num) s = runC s (s.crwRes .clear a d num) := rfl
    have hold : s.creg s.cur.1 s.cur.2 num.toNat = s.me.tage.getD 0 := by
      rw [hn]
      rfl
    rw [hexec, hres, hold, runC]
    by_cases hx : s.X a = 0
    · obtain ⟨hR, hgo, hset⟩ := finishC_x h hd (s.me.tage.getD 0)
      simp only [if_pos hx]
      exact ⟨_, rfl, hgo, retired_modMe_id hR, hset⟩
    · simp only [if_neg hx]
      generalize hb : s.modMe (fun t => { t with tage := none }) = b
      have hme : b.me = { s.me with tage := none } := by rw [← hb, me_modMe]
      have hlone : Lone b := h.of_me (by rw [hme])
      have hcur : b.cur = s.cur := by rw [← hb]; rfl
      obtain ⟨hR, hgo, hset⟩ := finishC_x hlone (d := d) (by rw [hme]; exact hd) (s.me.tage.getD 0)
      have hfin : s.finishC (go (b.setX d (s.me.tage.getD 0))) = b.finishC (go (b.setX d (s.me.tage.getD 0))) := by
        rw [go, finishC_go h, finishC_go hlone, hcur]
      have hadv := advance_congr (t := b.me) (u := s.me) (by rw [hme]) (by rw [hme]) (by rw [hme])
      refine ⟨_, rfl, ?_, ?_, ?_⟩
      · rw [hfin]
        exact ⟨hgo.1.trans hadv.1, hgo.2.trans hadv.2⟩
      · rw [hfin]
        exact hb ▸ hR
      · rw [hfin]
        exact hset
  · intro htx hvec hw
    refine ⟨fun hn i hi => ?_, fun hnot p hp => ?_, fun p hp => ⟨fun hfit => ?_, fun hn hbad => ?_⟩⟩
    · simp only [List.mem_cons, List.not_mem_nil, or_false] at hi
      obtain rfl | rfl := hi
      · exact hillegal htx hvec _ .write rfl (crwRes_illegal hw (.inl (by rw [hn]; rfl)))
      · exact hillegal htx hvec _ .set rfl (crwRes_illegal hw (.inl (by rw [hn]; rfl)))
    · obtain ⟨how, hexec, -⟩ := hways p hp
      refine hillegal htx hvec _ how hexec (crwRes_illegal hw (.inl ?_))
      obtain ⟨hrow, h35, h36⟩ := hnot
      unfold CrWrite.allowed
      split
      · rename_i hacc
        have hmem : num ∈ rows.map Prod.fst ++ [0x035] := mem_of_access hacc
        exact ((List.mem_append.mp hmem).elim hrow (fun h => h35 (List.mem_singleton.mp h))).elim
      · rename_i hacc
        exact absurd (access_rc hacc) h36
      · rfl
    · obtain ⟨how, hexec, happly⟩ := hways p hp
      refine hillegal htx hvec _ how hexec (crwRes_illegal hw (.inr ?_))
      rw [happly]
      exact Bool.eq_false_iff.mpr (fun hacc => hfit ((cregAccepts_iff num p.2).mp hacc))
    · obtain ⟨how, hexec, happly⟩ := hways p hp
      have hres := crwRes_place (how := how) (d := d) hw (by rw [hn]; rfl) happly (by rw [hn]; rfl) (by rw [hn]; rfl) hbad
      exact ⟨_, hexec.trans (congrArg (runC s) hres), finishC_trap htx hvec⟩
  · intro hw p hp
    obtain ⟨how, hexec, -⟩ := hways p hp
    rw [hexec, crwRes_stall hw, runC, finishC_wait h]
    rfl

end Sys2Proof.Proofs
end

section
/-!
SUPPORT. The fetch and the issue of a bundle (08_scheduling R195, 03_encoding R50 to R53) in a slot with nothing on its way:
no loop, link port, stream, poison or pending write, and no caravan.
-/
namespace Sys2Proof.Machine

/-! ### Code of the own package -/

/-- What stands at an address does not depend on the cores, but for the launch that the fetching core holds. -/
theorem codeAt_setCore {s : State} {c : Nat} {k : CoreSt} (hk : k.launch = (s.core c).launch) (d : Nat) (va : Word) :
    (s.setCore c k).codeAt d va = s.codeAt d va := by
  have ha : (s.setCore c k).asidOf d = s.asidOf d := by simp only [State.asidOf, launchOf_setCore hk]
  unfold State.codeAt
  rw [ha]
  rfl

/-- A word of device memory homed here, which may be fetched. -/
theorem codeAt_own {s : State} {c off : Nat} {va : Word} {tr : TlbEntry} {unc : Bool} (hsp : spaceOf s.pkg va = .global)
    (htr : s.translateFor c (s.asidOf c) va.toNat TlbEntry.x = some tr) (hx : tr.x = true)
    (hh : s.homeOf (tr.phys va.toNat) tr.uncached = .own off unc) (hbad : s.memBad off 4 = false) :
    s.codeAt c va = .here (BitVec.ofNat 32 (s.mem.num off 4)) false (!unc) := by
  simp [State.codeAt, hsp, htr, hx, hh, hbad]

/-! ### Fetch -/

theorem cachedI_none {k : CoreSt} {asid va : Nat} (h : ∀ e ∈ k.l1i, e.1 = asid → e.2.1 ≠ va) : k.cachedI asid va = none := by
  have : k.l1i.find? (fun e => e.1 == asid && e.2.1 == va) = none := List.find?_eq_none.mpr (fun e he => by
    simpa using h e he)
  rw [CoreSt.cachedI, this, Option.map_none]

/-- The words that an L1 instruction cache holds after a fetch: older ones, and the one fetched. -/
theorem mem_keepI {k : CoreSt} {asid va : Nat} {w : IWord} {e : Nat × Nat × IWord} (h : e ∈ (k.keepI asid va w).l1i) :
    e ∈ k.l1i ∨ e = (asid, va, w) := by
  simp only [CoreSt.keepI] at h
  have hmem := List.mem_of_mem_drop h
  simp only [List.mem_append, List.mem_filter, List.mem_singleton] at hmem
  exact hmem.imp And.left id

theorem keepI_frame (k : CoreSt) (asid va : Nat) (w : IWord) : (k.keepI asid va w).launch = k.launch ∧
    (k.keepI asid va w).slots = k.slots ∧ (k.keepI asid va w).lm = k.lm := by
  rw [CoreSt.keepI]
  exact ⟨rfl, rfl, rfl⟩

/-- A word homed here that the cache does not hold is read from device memory. -/
theorem fetch_here {s : State} {c i : Nat} {va : Word} {w : IWord} {cached : Bool} (hcv : (s.slot c i).cvsize ≤ 1)
    (hcode : s.codeAt c va = .here w false cached) (hi : (s.core c).cachedI (s.asidOf c) va.toNat = none) :
    ∃ t, s.fetch c i va = .word t w false ∧ (t = s ∨ t = s.setCore c ((s.core c).keepI (s.asidOf c) va.toNat w)) := by
  have hm : (s.slot c i).issuer c va = c := by rw [Slot.issuer, if_pos hcv]
  unfold State.fetch
  simp only [hm, hi, hcode]
  cases cached
  · exact ⟨s, rfl, .inl rfl⟩
  · exact ⟨_, rfl, .inr rfl⟩

/-! ### The slot that issues -/

/-- A slot with nothing on its way. -/
structure Slot.Plain (t : Slot) : Prop where
  loop : t.loop = none
  linkmap : t.linkmap = 0
  streams : t.streams = []
  pend : t.pend = []
  poisonX : t.poisonX = []
  poisonV : t.poisonV = []
  alone : t.cvsize ≤ 1

/-- Two slots with the same registers, flags and PC. -/
def Slot.SameRegs (t u : Slot) : Prop := t.x = u.x ∧ t.v = u.v ∧ t.pc = u.pc ∧ t.fflags = u.fflags

section
variable {t : Slot} (h : t.Plain)
include h

theorem Slot.Plain.portsIn (fs : List RegName) : t.portsIn fs = [] := by
  refine List.filterMap_eq_nil_iff.mpr (fun f _ => ?_)
  cases f <;> simp [Slot.port, portOf, h.linkmap]

theorem Slot.Plain.streamsIn (fs : List RegName) : t.streamsIn fs = [] := by
  refine List.filterMap_eq_nil_iff.mpr (fun f _ => ?_)
  cases f <;> simp [Slot.stream, h.streams, find]

theorem Slot.Plain.badField (fs : List RegName) : t.badField fs = none := by
  induction fs with
  | nil => rfl
  | cons f fs ih => cases f <;> simp [Slot.badField, h.poisonX, h.poisonV, ih]

theorem Slot.Plain.early (now : Nat) (fs : List RegName) : t.early now fs = false := by
  simp [Slot.early, h.pend]

theorem Slot.Plain.wordFault (w : IWord) (reads writes : List RegName) : t.wordFault w reads writes = none := by
  simp [Slot.wordFault, h.portsIn, h.streamsIn, Slot.streamMisuse]

theorem Slot.Plain.renameOffset : t.renameOffset none = 0 := by simp [Slot.renameOffset, h.loop]

theorem Slot.Plain.land (now : Nat) : t.land now = t := by
  have hp := h.pend
  unfold Slot.land
  rw [hp, landFrom]
  dsimp only
  rw [← hp]

end

theorem rename_zero (r : Reg) : rename r 0 = r := by
  unfold rename
  split
  · apply BitVec.eq_of_toNat_eq
    have := r.isLt
    rw [BitVec.toNat_ofNat]
    omega
  · rfl

theorem map_renamed_zero (fs : List RegName) : fs.map (renamed 0) = fs := by
  refine (List.map_congr_left (fun f _ => ?_)).trans (List.map_id fs)
  cases f <;> simp [renamed, rename_zero]

/-! ### The words of a bundle issue -/

/-- The bundle as the issue of a plain slot leaves it. -/
def Slot.opened (t : Slot) (f : Fetched) (mode : Mode) : Bundle :=
  { here := t.pc, next := t.pc + BitVec.ofNat 64 (bundleSize f.word), word := f.word, word2 := f.word2
    stall := (headerOf f.word).stall.toNat, mode, rdX := t.x, rdV := t.v, popPorts := [], popStreams := [], stash := none
    bad := none, links := t.linkmap, rename := 0, inBody := false, bodyLast := false, pushPorts := [], late := none }

section
variable {s : State} {c i : Nat} (h : (s.slot c i).Plain)
include h

/-- A bundle whose two words write different registers breaks no rule of R51 and R69. -/
theorem bundleIllegal_plain {f : Fetched} {fs : Fields2} (hw : ∀ r ∈ fs.writeC, isX0 r = true ∨ r ∉ fs.writeA) :
    bundleIllegal (s.slot c i) false f fs = none := by
  have : fs.writeC.any (fun r => !isX0 r && fs.writeA.contains r) = false := List.any_eq_false.mpr (fun r hr => by
    obtain h | h := hw r hr <;> simp [h])
  simp only [bundleIllegal, this, h.portsIn, h.streamsIn, List.nil_append, twice, Bool.false_and, Bool.false_eq_true, if_false,
    Option.orElse_none]

theorem issueWords_lone (w : IWord) (ins : Instr) : s.issueWords c i (.lone w ins) none =
    .one ((s.modSlot c i (fun t => { t with bundle := (s.slot c i).opened (.lone w ins) .lone })).entryPort c i
      (.lone w ins)) ins := by
  have hill : bundleIllegal (s.slot c i) false (.lone w ins) (fieldsAt 0 (.lone w ins)) = none := by
    refine bundleIllegal_plain h (fun r hr => ?_)
    cases hi : ins.isA <;> simp [fieldsAt, hi] at hr ⊢
  unfold State.issueWords
  simp only [h.renameOffset, Option.isSome_none, hill, h.early, h.wordFault, h.portsIn, h.streamsIn, h.badField, CoreSt.badStream]
  simp [State.allRoom, Slot.pushesOf, State.snapshot, State.slot, Slot.opened]

theorem issueWords_pair (w w2 : IWord) (cw aw : Instr) (hw : ∀ r ∈ writesOf cw, isX0 r = true ∨ r ∉ writesOf aw) :
    s.issueWords c i (.pair w w2 cw aw) none =
      .two ((((s.modSlot c i (fun t => { t with bundle := (s.slot c i).opened (.pair w w2 cw aw) .lone })).entryPort c i
        (.pair w w2 cw aw))).modSlot c i (fun t => { t with bundle := { t.bundle with mode := .second } })) cw aw := by
  have hill : bundleIllegal (s.slot c i) false (.pair w w2 cw aw) (fieldsAt 0 (.pair w w2 cw aw)) = none :=
    bundleIllegal_plain h (by simpa only [fieldsAt, map_renamed_zero] using hw)
  unfold State.issueWords
  simp only [h.renameOffset, Option.isSome_none, hill, h.early, h.wordFault, h.portsIn, h.streamsIn, h.badField, CoreSt.badStream]
  simp [State.allRoom, Slot.pushesOf, State.snapshot, State.slot, Slot.opened]

end

/-! ### What an issue leaves -/

/-- A state in which a slot has begun to issue: the running slot is the one that issues, and in the whole part only its core
has changed, not in what the slot reads. -/
structure State.Begins (s v : State) (c i : Nat) : Prop where
  elsewhere : v = ({ s with cur := (c, i) } : State).setCore c (v.core c)
  launch : (v.core c).launch = (s.core c).launch
  lm : (v.core c).lm = (s.core c).lm
  plain : (v.slot c i).Plain
  regs : (v.slot c i).SameRegs (s.slot c i)

section
variable {s v : State} {c i : Nat}

theorem State.Begins.setCore (h : s.Begins v c i) (k : CoreSt) :
    v.setCore c k = ({ s with cur := (c, i) } : State).setCore c k :=
  (congrArg (·.setCore c k) h.elsewhere).trans (setCore_setCore ..)

theorem State.Begins.modSlot (h : s.Begins v c i) {f : Slot → Slot} (hp : (f (v.slot c i)).Plain)
    (hr : (f (v.slot c i)).SameRegs (v.slot c i)) : s.Begins (v.modSlot c i f) c i := by
  have hset := h.setCore
  obtain ⟨elsewhere, launch, lm, plain, hx, hv, hpc, hfl⟩ := h
  refine ⟨?_, by rw [core_modSlot_self]; exact launch, by rw [core_modSlot_self]; exact lm, ?_, ?_⟩
  · rw [core_modSlot_self]
    exact hset _
  · rw [modSlot_eq, slot_setSlot_self]
    exact hp
  · rw [modSlot_eq, slot_setSlot_self]
    exact ⟨hr.1.trans hx, hr.2.1.trans hv, hr.2.2.1.trans hpc, hr.2.2.2.trans hfl⟩

theorem State.Begins.keepI (h : s.Begins v c i) (asid va : Nat) (w : IWord) :
    s.Begins (v.setCore c ((v.core c).keepI asid va w)) c i := by
  have hset := h.setCore
  obtain ⟨elsewhere, launch, lm, plain, regs⟩ := h
  obtain ⟨hl, hs, hm⟩ := keepI_frame (v.core c) asid va w
  have hslot : (v.setCore c ((v.core c).keepI asid va w)).slot c i = v.slot c i := by
    rw [State.slot, core_setCore_self, CoreSt.slot, hs]
    rfl
  refine ⟨?_, by rw [core_setCore_self, hl, launch], by rw [core_setCore_self, hm, lm], hslot ▸ plain, hslot ▸ regs⟩
  rw [core_setCore_self, hset]

/-- The code at an address is what it was before the issue. -/
theorem State.Begins.codeAt (h : s.Begins v c i) (va : Word) : v.codeAt c va = s.codeAt c va := by
  rw [h.elsewhere]
  exact codeAt_setCore (s := { s with cur := (c, i) }) h.launch c va

theorem State.Begins.asidOf (h : s.Begins v c i) : v.asidOf c = s.asidOf c := by
  rw [h.elsewhere, State.asidOf, launchOf_setCore (s := { s with cur := (c, i) }) h.launch]
  rfl

/-- What a slot's issue begins with. -/
theorem begins_startIssue (hp : (s.slot c i).Plain) (hr : (s.slot c i).resetPending = false) :
    s.Begins (s.startIssue c i) c i ∧ ((s.startIssue c i).core c).l1i = (s.core c).l1i := by
  have hland : (s.slot c i).landFor s.cycle = s.slot c i := by
    simp only [Slot.landFor, hp.land, if_pos hp.alone]
  obtain ⟨q, n, is, hstart⟩ : ∃ q n is, s.startIssue c i = ({ s with cur := (c, i) } : State).setCore c
      (({ s.core c with rrIssue := q } : CoreSt).setSlot i { s.slot c i with lastIssue := n, cvIssued := is }) := by
    have hslot : ∀ f : CoreSt → List (Nat × Nat), (s.modCore c (fun k => { k with rrIssue := f k })).slot c i = s.slot c i := fun f => by
      rw [State.slot, core_modCore_self]
      rfl
    refine ⟨put (s.core c).rrIssue ((((s.core c).handler (s.slot c i).chan).map Handler.prio).getD 0) i, s.cycle, [], ?_⟩
    unfold State.startIssue
    simp only [modSlot_eq, hslot, cycle_modCore, hland, hr, Bool.false_eq_true, if_false, if_pos hp.alone, State.setSlot, core_modCore_self]
    simp only [State.modCore, setCore_setCore]
    rfl
  have hcore : (s.startIssue c i).core c =
      ({ s.core c with rrIssue := q } : CoreSt).setSlot i { s.slot c i with lastIssue := n, cvIssued := is } := by
    rw [hstart, core_setCore_self]
  have hme : (s.startIssue c i).slot c i = { s.slot c i with lastIssue := n, cvIssued := is } := by
    rw [State.slot, hcore, slot_core_setSlot]
  obtain ⟨hloop, hlink, hstr, hpend, hpx, hpv, halone⟩ := hp
  refine ⟨⟨by rw [hcore]; exact hstart, by rw [hcore]; rfl, by rw [hcore]; rfl, ?_, ?_⟩, by rw [hcore]; rfl⟩
  · rw [hme]
    exact ⟨hloop, hlink, hstr, hpend, hpx, hpv, halone⟩
  · rw [hme]
    exact ⟨rfl, rfl, rfl, rfl⟩

/-- A word of the own package comes to a slot that issues. -/
theorem State.Begins.fetch (h : s.Begins v c i) {va : Word} {w : IWord} {cached : Bool}
    (hcode : s.codeAt c va = .here w false cached) (hi : ∀ e ∈ (v.core c).l1i, e.1 = s.asidOf c → e.2.1 ≠ va.toNat) :
    ∃ t, v.fetch c i va = .word t w false ∧ s.Begins t c i ∧
      ∀ e ∈ (t.core c).l1i, e ∈ (v.core c).l1i ∨ e.2.1 = va.toNat := by
  obtain ⟨t, ht, hcase⟩ := fetch_here h.plain.alone ((h.codeAt va).trans hcode)
    (cachedI_none (by rw [h.asidOf]; exact hi))
  refine ⟨t, ht, ?_⟩
  obtain rfl | rfl := hcase
  · exact ⟨h, fun e he => .inl he⟩
  · refine ⟨h.keepI _ _ _, fun e he => ?_⟩
    rw [core_setCore_self] at he
    exact (mem_keepI he).imp id (fun heq => by rw [heq])

/-- The bundle of one word, or of none that opens a pair. -/
theorem State.Begins.fetchBundle_one (h : s.Begins v c i) {pc : Word} {w : IWord} {cached : Bool}
    (hcode : s.codeAt c pc = .here w false cached) (hi : ∀ e ∈ (v.core c).l1i, e.1 = s.asidOf c → e.2.1 ≠ pc.toNat)
    (hopen : opensPair pc w = false) : ∃ t, v.fetchBundle c i pc = (t, classify pc w none) ∧ s.Begins t c i := by
  obtain ⟨t, ht, hb, -⟩ := h.fetch hcode hi
  exact ⟨t, by simp only [State.fetchBundle, ht, hopen, Bool.false_eq_true, if_false], hb⟩

/-- The bundle of two words. -/
theorem State.Begins.fetchBundle_two (h : s.Begins v c i) {pc : Word} {w w2 : IWord} {cached cached2 : Bool}
    (hcode : s.codeAt c pc = .here w false cached) (hcode2 : s.codeAt c (pc + 4) = .here w2 false cached2)
    (hi : ∀ e ∈ (v.core c).l1i, e.1 = s.asidOf c → e.2.1 / 8 ≠ pc.toNat / 8) (hopen : opensPair pc w = true) :
    ∃ t, v.fetchBundle c i pc = (t, classify pc w (some w2)) ∧ s.Begins t c i := by
  have h8 : pc.toNat % 8 = 0 := by simpa [opensPair] using (Bool.and_eq_true_iff.mp hopen).2
  have hpc4 : (pc + 4).toNat = pc.toNat + 4 := by
    have := pc.isLt
    rw [BitVec.toNat_add]
    exact Nat.mod_eq_of_lt (by show pc.toNat + 4 < 2 ^ 64; omega)
  obtain ⟨t, ht, hb, hl⟩ := h.fetch hcode (fun e he ha hne => hi e he ha (by rw [hne]))
  obtain ⟨u, hu, hbu, -⟩ := hb.fetch hcode2 (fun e he ha hne => by
    obtain hold | hnew := hl e he
    · exact hi e hold ha (by omega)
    · omega)
  exact ⟨u, by simp only [State.fetchBundle, ht, hopen, if_true, hu], hbu⟩

/-- The slot has its bundle's address, and its words from away are used. -/
def State.atBundle (v : State) (c i : Nat) (pc : Word) : State :=
  v.modSlot c i (fun t => { t.useBrought pc with bundle := { emptyBundle with here := pc } })

theorem State.Begins.atBundle (h : s.Begins v c i) (pc : Word) : s.Begins (v.atBundle c i pc) c i := by
  have hu : (v.slot c i).useBrought pc = { v.slot c i with brought := [] } := by
    unfold Slot.useBrought
    split
    · rename_i l hl
      exact absurd (hl.symm.trans h.plain.loop) (by simp)
    · rfl
  obtain ⟨hloop, hlink, hstr, hpend, hpx, hpv, halone⟩ := h.plain
  refine h.modSlot ?_ ?_ <;> rw [hu]
  · exact ⟨hloop, hlink, hstr, hpend, hpx, hpv, halone⟩
  · exact ⟨rfl, rfl, rfl, rfl⟩

theorem State.Begins.withBundle (h : s.Begins v c i) (g : Slot → Bundle) :
    s.Begins (v.modSlot c i (fun t => { t with bundle := g t })) c i := by
  obtain ⟨hloop, hlink, hstr, hpend, hpx, hpv, halone⟩ := h.plain
  exact h.modSlot ⟨hloop, hlink, hstr, hpend, hpx, hpv, halone⟩ ⟨rfl, rfl, rfl, rfl⟩

theorem State.Begins.entryPort (h : s.Begins v c i) (f : Fetched) :
    s.Begins (v.entryPort c i f) c i ∧ ((v.entryPort c i f).slot c i).bundle = (v.slot c i).bundle := by
  obtain ⟨hloop, hlink, hstr, hpend, hpx, hpv, halone⟩ := h.plain
  have hcase : v.entryPort c i f = v.modSlot c i (fun t => t.takePort v.cycle 1) ∨ v.entryPort c i f = v := ite_eq_or_eq ..
  obtain he | he := hcase <;> rw [he]
  · refine ⟨h.modSlot ⟨hloop, hlink, hstr, hpend, hpx, hpv, halone⟩ ⟨rfl, rfl, rfl, rfl⟩, ?_⟩
    rw [modSlot_eq, slot_setSlot_self]
    rfl
  · exact ⟨h, rfl⟩

/-- What is as it was before the issue. -/
theorem State.Begins.frame (h : s.Begins v c i) : v.cur = (c, i) ∧ v.mem = s.mem ∧ v.hostMem = s.hostMem ∧
    v.here.lm = (s.core c).lm ∧ v.launches = s.launches ∧ v.net = s.net ∧ v.agenda = s.agenda ∧
    ∀ d, d ≠ c → v.core d = s.core d := by
  have hcur : v.cur = (c, i) := by rw [h.elsewhere]; rfl
  refine ⟨hcur, ?_, ?_, ?_, ?_, ?_, ?_, fun d hd => ?_⟩
  case refine_3 => rw [State.here, hcur, h.lm]
  case refine_7 =>
    rw [h.elsewhere, core_setCore_ne _ _ (Ne.symm hd)]
    rfl
  all_goals
    rw [h.elsewhere]
    rfl

/-- Slots that have begun to issue alike open their bundles alike. -/
theorem State.Begins.opened_eq {t : State} (h : s.Begins v c i) (g : s.Begins t c i) (f : Fetched) (mode : Mode) :
    (v.slot c i).opened f mode = (t.slot c i).opened f mode := by
  obtain ⟨hx, hv, hpc, -⟩ := h.regs
  obtain ⟨gx, gv, gpc, -⟩ := g.regs
  simp only [Slot.opened, hx, hv, hpc, gx, gv, gpc, h.plain.linkmap, g.plain.linkmap]

/-- The bundle of a lone word issues. -/
theorem State.Begins.issue_lone (h : s.Begins v c i) (w : IWord) (ins : Instr) : ∃ t, v.issueWords c i (.lone w ins) none =
    .one t ins ∧ s.Begins t c i ∧ (t.slot c i).bundle = (t.slot c i).opened (.lone w ins) .lone := by
  obtain ⟨hb, hbun⟩ := (h.withBundle (fun _ => (v.slot c i).opened (.lone w ins) .lone)).entryPort (.lone w ins)
  refine ⟨_, issueWords_lone h.plain w ins, hb, ?_⟩
  rw [hbun, modSlot_eq, slot_setSlot_self]
  exact h.opened_eq hb _ _

/-- The bundle of a pair issues. -/
theorem State.Begins.issue_pair (h : s.Begins v c i) (w w2 : IWord) {cw aw : Instr}
    (hw : ∀ r ∈ writesOf cw, isX0 r = true ∨ r ∉ writesOf aw) : ∃ t, v.issueWords c i (.pair w w2 cw aw) none = .two t cw aw ∧
    s.Begins t c i ∧ (t.slot c i).bundle = (t.slot c i).opened (.pair w w2 cw aw) .second := by
  obtain ⟨hb, hbun⟩ := (h.withBundle (fun _ => (v.slot c i).opened (.pair w w2 cw aw) .lone)).entryPort (.pair w w2 cw aw)
  have hb2 := hb.withBundle (fun t => { t.bundle with mode := .second })
  refine ⟨_, issueWords_pair h.plain w w2 cw aw hw, hb2, ?_⟩
  refine .trans ?_ (h.opened_eq hb2 _ _)
  rw [modSlot_eq, slot_setSlot_self]
  dsimp only
  rw [hbun, modSlot_eq, slot_setSlot_self]
  rfl

/-- A slot with nothing on its way issues the bundle that it has fetched. -/
theorem issue_fetched (hl : (s.slot c i).loop = none) {f : Fetched}
    (hf : (s.startIssue c i).fetchBundle c i (s.slot c i).pc = (v, f)) :
    (∀ w ins, f = .lone w ins → s.issue c i = (v.atBundle c i (s.slot c i).pc).issueWords c i f none) ∧
    (∀ w w2 cw aw, f = .pair w w2 cw aw → s.issue c i = (v.atBundle c i (s.slot c i).pc).issueWords c i f none) ∧
    (∀ w, f = .illegal w → s.issue c i = .one (v.atBundle c i (s.slot c i).pc) (.illegalEncoding w)) := by
  have hloop : s.loopIndex c i = .found none := by simp [State.loopIndex, hl]
  unfold State.issue
  simp only [hloop, hf]
  refine ⟨?_, ?_, ?_⟩
  · rintro w ins rfl
    rfl
  · rintro w w2 cw aw rfl
    rfl
  · rintro w rfl
    rfl

end

end Sys2Proof.Machine
end

section
/-!
CERTIFICATE. A step (00_scope R3, 08_scheduling R195).
-/
namespace Sys2Proof.Proofs
open Sys2Proof.Machine

theorem step_of_event {s : State} {e : Instr} {r : List Instr} (h : ¬ (s.stopped = true ∧ s.launches = []))
    (ha : s.agenda = e :: r) : step s = exec e { s with agenda := r } := by
  have : ¬ (s.stopped && s.launches == []) = true := by simpa using h
  rw [step, if_neg this, ha]

theorem step_of_slot {s : State} {c i : Nat} (h : ¬ (s.stopped = true ∧ s.launches = [])) (ha : s.agenda = [])
    (hn : s.nextCore = some (c, i)) : step s = runIssued (({ s with turn := s.nextTurn c i } : State).issue c i) := by
  have : ¬ (s.stopped && s.launches == []) = true := by simpa using h
  rw [step, if_neg this, ha, hn]

theorem step_of_end {s : State} (h : ¬ (s.stopped = true ∧ s.launches = [])) (ha : s.agenda = []) (hn : s.nextCore = none) :
    step s = .next s.endCycle := by
  have : ¬ (s.stopped && s.launches == []) = true := by simpa using h
  rw [step, if_neg this, ha, hn]

/-- A decoded word's header is that of its two fields. -/
theorem header_of_decodeWord {w : IWord} {h : Header} {i : Instr} (hd : decodeWord w = .ok (h, i)) : h = headerOf w := by
  unfold decodeWord at hd
  cases hf : decodeFields (fieldsOf w) with
  | error e => rw [hf] at hd; cases hd
  | ok j => rw [hf] at hd; cases hd; rfl

/-- Settles O54: the branches of the step, and what the issue of a plain slot leaves. -/
theorem stepRunsTheDecodedInstruction : Obligations.StepRunsTheDecodedInstruction := by
  unfold Obligations.StepRunsTheDecodedInstruction
  intro s off
  refine ⟨?_, ?_, ?_, ?_, ?_⟩
  · intro hoff hp
    obtain ⟨h1, h2⟩ := hoff
    simp [step, h1, h2, hp]
  · intro inp r hoff hp
    obtain ⟨h1, h2⟩ := hoff
    simp [step, h1, h2, hp]
  · intro e r hoff ha
    exact step_of_event hoff ha
  · intro hoff ha hn
    exact step_of_end hoff ha hn
  · intro c i tr off' unc hstop ha hn hi u pc asid hsp htr hx hh hbad hl1 hloop hlink hstr hpend hpx hpv hreset hcv w ready
    have hplain : (s.slot c i).Plain := ⟨hloop, hlink, hstr, hpend, hpx, hpv, hcv⟩
    have hstep : step s = runIssued (({ s with turn := s.nextTurn c i } : State).issue c i) :=
      step_of_slot (fun hoff => by simp [hstop] at hoff) ha hn
    generalize hS : ({ s with turn := s.nextTurn c i } : State) = S at hstep
    have hframe : ∀ v : State, S.Begins v c i → v.me.SameRegs u ∧ v.cur = (c, i) ∧ v.mem = s.mem ∧ v.hostMem = s.hostMem ∧
        v.here.lm = (s.core c).lm ∧ v.launches = s.launches ∧ v.net = s.net ∧ v.agenda = [] ∧
        ∀ d, d ≠ c → v.core d = s.core d := fun v hv => by
      obtain ⟨hcur, hmem, hhost, hlm, hlau, hnet, hag, hcores⟩ := hv.frame
      subst hS
      exact ⟨by rw [State.me, hcur]; exact hv.regs, hcur, hmem, hhost, hlm, hlau, hnet, hag.trans ha, hcores⟩
    have hready : ∀ (v : State) (f : Fetched) (mode : Mode) (size : Nat), S.Begins v c i → f.word = w → size = bundleSize w →
        v.me.bundle = (v.slot c i).opened f mode → ready v size ∧ v.me.bundle.mode = mode ∧
          v.me.bundle.stall = (headerOf w).stall.toNat := by
      intro v f mode size hv hf hsize hb
      obtain ⟨⟨hx, hvv, hpc, hfl⟩, hcur, hmem, hhost, hlm, hlau, hnet, hag, hcores⟩ := hframe v hv
      have hme : v.slot c i = v.me := by rw [State.me, hcur]
      rw [hme] at hb
      refine ⟨⟨hcur, ?_, ?_, ?_, ?_, ?_, ?_, ?_, ?_, ?_, hx, hvv, hpc, hfl, hmem, hhost, hlm, hlau, hnet, hag, hcores⟩, ?_, ?_⟩
      all_goals rw [hb]
      all_goals simp only [Slot.opened, hf, hx, hvv, hpc, hsize, pc]
    have hcode : S.codeAt c pc = .here w false (!unc) := by
      subst hS
      exact codeAt_own hsp htr hx hh hbad
    have hSplain : (S.slot c i).Plain := by
      subst hS
      exact hplain
    have hSpc : (S.slot c i).pc = pc := by
      subst hS
      rfl
    obtain ⟨hbegin, hcache⟩ := begins_startIssue hSplain (by subst hS; exact hreset)
    have hclean : ∀ e ∈ ((S.startIssue c i).core c).l1i, e.1 = S.asidOf c → e.2.1 / 8 ≠ pc.toNat / 8 := by
      rw [hcache]
      subst hS
      exact hl1
    refine ⟨?_, ?_, ?_⟩
    · intro h ins hdec hlone
      have h31 : w.getLsbD 31 = true := by rw [← hlone, header_of_decodeWord hdec]; rfl
      obtain ⟨t, ht, hb⟩ := hbegin.fetchBundle_one hcode (fun e he h1 h2 => hclean e he h1 (by rw [h2])) (by simp [opensPair, h31])
      have hcl : classify pc w none = .lone w ins := by simp [classify, decodeOr, h31, hdec]
      rw [hcl] at ht
      obtain ⟨v, hv, hbv, hbun⟩ := (hb.atBundle pc).issue_lone w ins
      have hissue := (issue_fetched hSplain.loop (by rw [hSpc]; exact ht)).1 w ins rfl
      rw [hSpc, hv] at hissue
      obtain ⟨hr, hmode, hstall⟩ := hready v (.lone w ins) .lone 4 hbv rfl (by simp [bundleSize, h31])
        (by rw [State.me, hbv.frame.1]; exact hbun)
      exact ⟨v, by rw [hstep, hissue]; rfl, hr, hmode, by rw [hstall, header_of_decodeWord hdec]⟩
    · intro e h31 hdec
      obtain ⟨t, ht, hb⟩ := hbegin.fetchBundle_one hcode (fun e he h1 h2 => hclean e he h1 (by rw [h2])) (by simp [opensPair, h31])
      have hcl : classify pc w none = .illegal w := by simp [classify, decodeOr, h31, hdec]
      rw [hcl] at ht
      have hbv := hb.atBundle pc
      have hissue := (issue_fetched hSplain.loop (by rw [hSpc]; exact ht)).2.2 w rfl
      rw [hSpc] at hissue
      obtain ⟨⟨hxx, -⟩, hcur, hmem, -⟩ := hframe _ hbv
      refine ⟨t.atBundle c i pc, by rw [hstep, hissue]; rfl, hcur, ?_, hxx, hmem⟩
      rw [State.me, hcur, State.atBundle, modSlot_eq, slot_setSlot_self]
    · intro tr2 unc2 h hA cw aw htr2 hx2 hsp2 hh2 hbad2 h8 w2 hdec hlone h27 hrpt hdec2 htag hw
      have h31 : w.getLsbD 31 = false := by rw [← hlone, header_of_decodeWord hdec]; rfl
      have hcode2 : S.codeAt c (pc + 4) = .here w2 false (!unc2) := by
        subst hS
        exact codeAt_own hsp2 htr2 hx2 hh2 hbad2
      obtain ⟨t, ht, hb⟩ := hbegin.fetchBundle_two hcode hcode2 hclean (by simp only [opensPair, h31, h27, h8]; rfl)
      have hcl : classify pc w (some w2) = .pair w w2 cw aw := by
        simp only [classify, decodeOr, h31, h27, h8, hdec, hdec2, hrpt, htag, Bool.false_eq_true, if_false, ne_eq,
          not_true_eq_false]
      rw [hcl] at ht
      obtain ⟨v, hv, hbv, hbun⟩ := (hb.atBundle pc).issue_pair w w2 hw
      have hissue := (issue_fetched hSplain.loop (by rw [hSpc]; exact ht)).2.1 w w2 cw aw rfl
      rw [hSpc, hv] at hissue
      obtain ⟨hr, hmode, -⟩ := hready v (.pair w w2 cw aw) .second 8 hbv rfl (by simp only [bundleSize, h31]; rfl)
        (by rw [State.me, hbv.frame.1]; exact hbun)
      exact ⟨v, by rw [hstep, hissue]; rfl, hr, hmode⟩

end Sys2Proof.Proofs
end

section
/-!
SUPPORT. ERET (09_traps R201), the traps that a slot holds (R196, R199), and the watchdog (R214).
-/
namespace Sys2Proof.Machine

/-! ### The ends of a lone word that jumps or aborts -/

/-- A lone bundle whose slot was changed, but not its bundle, retires with a jump. -/
theorem retire_setSlot_jump {s : State} (h : Lone s) {u : Slot} (hb : u.bundle = s.me.bundle) (pc : Word) :
    (s.setSlot s.cur.1 s.cur.2 u).retire s.cur.1 s.cur.2 (some pc) = s.setSlot s.cur.1 s.cur.2 (u.leftBy s.cycle (some pc)) := by
  obtain ⟨hm, hs, -, hpp, hps⟩ := h
  unfold State.retire
  rw [applyPops_none (by rw [slot_setSlot_self, hb, hpp]) (by rw [slot_setSlot_self, hb, hps])]
  simp [hb, hs, Slot.leftBy]

/-- A lone C-word that jumps. -/
theorem finishC_jump {s : State} (h : Lone s) (t : State) (pc : Word) :
    s.finishC (.ok (.jump t pc)) = t.retire s.cur.1 s.cur.2 (some pc) := by
  have : (s.slot s.cur.1 s.cur.2).bundle.stash = none := h.stash
  simp [State.finishC, State.aStops, this]

/-- A slot after its transaction's abort (R169). -/
def Slot.aborted (t : Slot) (x : Txn) (why : Abort) (code now : Nat) : Slot :=
  { t with
    x := x.shadowX, v := x.shadowV, poisonX := x.shadowPX, poisonV := x.shadowPV, pend := [], txn := none, pc := x.target
    loop := none, wait := .none, tabort := BitVec.ofNat 8 why.code, tcode := BitVec.ofNat 8 code
    notBefore := max t.notBefore (now + 1) }

theorem abortTxn_open {s : State} {c i : Nat} (why : Abort) (code : Nat) {x : Txn} (h : (s.slot c i).txn = some x) :
    s.abortTxn c i why code = s.setSlot c i ((s.slot c i).aborted x why code s.cycle) := by
  rw [abortTxn_eq, slot_abortTxn s c i why code x h]
  rfl

/-- Nothing was kept back in a lone bundle. -/
theorem keepFlags_lone {s : State} (h : Lone s) : s.keepFlags s.cur.1 s.cur.2 = s.setSlot s.cur.1 s.cur.2 s.me := by
  have hst : s.me.bundle.stash = none := h.stash
  simp only [State.keepFlags, modSlot_eq, me_eq, hst, Option.map_none, Option.getD_none, Option.bind_none, or_empty]

/-- A lone C-word that aborts its slot's transaction. -/
theorem finishC_abort {s : State} (h : Lone s) (why : Abort) (code : Nat) {x : Txn} (hx : s.me.txn = some x) :
    s.finishC (.error (.abort why code)) = s.setSlot s.cur.1 s.cur.2 (s.me.aborted x why code s.cycle) := by
  simp only [State.finishC, keepFlags_lone h]
  split
  · exact abortTxn_open why code hx
  · rw [abortTxn_open why code (x := x) (by rw [slot_setSlot_self, hx]), slot_setSlot_self, setSlot_setSlot, cycle_setSlot]

/-- The loop that RPTST and RPTPC describe (R70, R310). -/
theorem loop_saved (st pc : Word) : (if bitAt st 63 = true then loopOf st pc else none) = if st.getLsbD 63 = true then
    some { pass := bits st 15 0, count := bits st 31 16, len := bits st 54 52 + 1, stride := bits st 51 48, body := pc }
    else none := by
  unfold loopOf bitAt
  split <;> rfl

/-- A slot that ERET takes out of its handler (R201). -/
def Slot.returned (t : Slot) : Slot :=
  { t with loop := if bitAt t.rptst 63 then loopOf t.rptst t.rptpc else none, h := false, pc := t.tpc }

theorem finishC_eret {s : State} (h : Lone s) (htx : s.me.txn = none) (hpc : s.me.tpc.toNat % 4 = 0) :
    s.finishC s.eretRes = s.setSlot s.cur.1 s.cur.2 (s.me.returned.leftBy s.cycle (some s.me.tpc)) := by
  have hret : s.trapReturn s.cur.1 s.cur.2 = s.setSlot s.cur.1 s.cur.2 s.me.returned := rfl
  have hres : s.eretRes = .ok (.jump (s.trapReturn s.cur.1 s.cur.2) s.me.tpc) := by
    simp [State.eretRes, noTxn_ok htx, hpc, bind, Except.bind]
  have hbun : s.me.returned.bundle = s.me.bundle := rfl
  rw [hres, finishC_jump h, hret, retire_setSlot_jump h hbun]

/-- A retirement does not look at H. -/
theorem leftBy_withH (t : Slot) (now : Nat) (pc : Word) (b : Bool) :
    { t.leftBy now (some pc) with h := b } = ({ t with h := b } : Slot).leftBy now (some pc) := by
  simp only [Slot.leftBy, Slot.retireCount]
  split <;> rfl

/-! ### Held traps -/

theorem lowestTrap_cons (p : Cause × Word) (r : List (Cause × Word)) : ∃ q ∈ p :: r, lowestTrap (p :: r) = some q ∧
    ∀ o ∈ p :: r, q.1.code ≤ o.1.code := by
  induction r generalizing p with
  | nil => exact ⟨p, List.mem_cons_self, rfl, by simp⟩
  | cons a r ih =>
    obtain ⟨q, hq, hlow, hle⟩ := ih a
    rw [lowestTrap, hlow]
    dsimp only
    by_cases hlt : q.1.code < p.1.code
    · rw [if_pos hlt]
      refine ⟨q, List.mem_cons_of_mem _ hq, rfl, fun o ho => ?_⟩
      obtain rfl | ho := List.mem_cons.mp ho
      · exact hlt.le
      · exact hle o ho
    · rw [if_neg hlt]
      refine ⟨p, List.mem_cons_self, rfl, fun o ho => ?_⟩
      obtain rfl | ho := List.mem_cons.mp ho
      · exact le_refl _
      · exact (Nat.le_of_not_lt hlt).trans (hle o ho)

/-- The held trap of the lowest code, where all others have a higher one. -/
theorem lowestTrap_eq {ps : List (Cause × Word)} {p : Cause × Word} (hp : p ∈ ps)
    (hlow : ∀ q ∈ ps, p.1.code < q.1.code ∨ q = p) : lowestTrap ps = some p := by
  cases ps with
  | nil => cases hp
  | cons a r =>
    obtain ⟨q, hq, hsome, hle⟩ := lowestTrap_cons a r
    obtain hlt | heq := hlow q hq
    · exact absurd (hle p hp) (Nat.not_le.mpr hlt)
    · rw [hsome, heq]

/-! ### What a held trap leaves -/

/-- A slot that has taken a trap at a vector (R197). -/
def Slot.trapped (t : Slot) (cause : Cause) (value tpc vec : Word) (now : Nat) : Slot :=
  { t.landAll with
    wait := .none, tcause := BitVec.ofNat 64 cause.code, tval := value, tpc := tpc, rptst := rptstOf t.loop
    rptpc := (t.loop.map LoopSt.body).getD 0, loop := none, h := true, pc := vec
    notBefore := max t.notBefore (now + 1) }

theorem takeTrap_vector {s : State} {c i : Nat} {t : Slot} (cause : Cause) (v tpc : Word) (h : (s.core c).tvec ≠ 0) :
    (s.setSlot c i t).takeTrap c i cause v tpc = s.setSlot c i (t.trapped cause v tpc (s.core c).tvec s.cycle) := by
  obtain ⟨x, w, px, pv, hl⟩ := landAll_shape t
  simp only [State.takeTrap, modSlot_setSlot, core_setSlot, tvec_setSlot, h, if_false, hl, cycle_setSlot, Slot.trapped]

/-- The launch of a core without a vector ends, by a cause other than a checker's or the watchdog's (R197). -/
theorem takeTrap_ends {s : State} {c i : Nat} {t : Slot} {cause : Cause} (v tpc : Word) (h : (s.core c).tvec = 0)
    (hchk : cause ≠ .chk) (hwdog : cause ≠ .wdog) : ∃ u : State, (s.setSlot c i t).takeTrap c i cause v tpc =
      u.endLaunchOf c .fault cause.code ∧ (u.core c).launch = (s.core c).launch ∧ u.launches = s.launches ∧ u.mem = s.mem := by
  refine ⟨s.setSlot c i { t.landAll with wait := .none }, ?_, by rw [core_setSlot]; rfl, rfl, rfl⟩
  cases cause
  case chk => exact absurd rfl hchk
  case wdog => exact absurd rfl hwdog
  all_goals simp only [State.takeTrap, modSlot_setSlot, core_setSlot, tvec_setSlot, h, if_true]

/-- A launch that has not begun to end does so with the status and the cause. -/
theorem endLaunchOf_ending {s : State} {c l : Nat} {x : Launch} (hl : (s.core c).launch = some l)
    (hx : find s.launches l = some x) (he : x.ending = none) (st : Status) (cause : Nat) :
    (find (s.endLaunchOf c st cause).launches l).map Launch.ending = some (some (st, cause)) ∧
      (∀ m, m ≠ l → find (s.endLaunchOf c st cause).launches m = find s.launches m) ∧
      (s.endLaunchOf c st cause).cores = s.cores ∧ (s.endLaunchOf c st cause).mem = s.mem := by
  have heq : s.endLaunchOf c st cause = { s with launches := put s.launches l { x with ending := some (st, cause) } } := by
    simp [State.endLaunchOf, hl, State.endLaunch, State.modLaunch, hx, he]
  rw [heq]
  exact ⟨by rw [find_put_self]; rfl, fun m hm => find_put_ne _ _ (Ne.symm hm), rfl, rfl⟩

/-! ### A slot that takes the lowest trap it holds -/

/-- What the abandoning of a slot's blocked bundle leaves of the rest (R196, R269). -/
def State.left (s : State) (c i : Nat) : State :=
  (s.unissued c i).modCore c (fun k => { k with chrdWaiters := k.chrdWaiters.filter (fun w => w.1 != i) })

theorem slot_left (s : State) (c i : Nat) : (s.left c i).slot c i = s.slot c i ∧ ((s.left c i).core c).tvec = (s.core c).tvec ∧
    ((s.left c i).core c).launch = (s.core c).launch := by
  rw [State.left, State.slot, core_modCore_self, unissued_core]
  exact ⟨rfl, rfl, rfl⟩

theorem left_kept (s : State) (c i : Nat) : (s.left c i).cycle = s.cycle ∧ (s.left c i).mem = s.mem := by
  have hkept : (s.unissued c i).cycle = s.cycle ∧ (s.unissued c i).mem = s.mem := by
    unfold State.unissued
    split
    · exact ⟨cycle_modLaunch .., mem_modLaunch ..⟩
    · exact ⟨rfl, rfl⟩
  exact hkept

theorem ending_unissue (x : Launch) (m : Msg) : (x.unissue m).ending = x.ending := by
  unfold Launch.unissue
  split <;> rfl

theorem left_ending {s : State} {c i l : Nat} {x : Launch} (hl : (s.core c).launch = some l) (hx : find s.launches l = some x) :
    ∃ y, find (s.left c i).launches l = some y ∧ y.ending = x.ending := by
  show ∃ y, find (s.unissued c i).launches l = some y ∧ y.ending = x.ending
  unfold State.unissued
  split
  · rename_i m k hw hk
    obtain rfl : l = k := Option.some_injective _ (hl.symm.trans hk)
    exact ⟨_, find_modLaunch_self _ hx, ending_unissue x m⟩
  · exact ⟨x, hx, rfl⟩

/-- The slot that waits for nothing more and no longer holds a trap. -/
def Slot.leaving (t : Slot) (p : Cause × Word) : Slot := { t with wait := .none, heldTraps := t.heldTraps.erase p }

theorem takeHeld_eq {s : State} {c i : Nat} {p : Cause × Word} (hact : (s.slot c i).active = true) (hh : (s.slot c i).h = false)
    (hb : (s.slot c i).atBoundary = true) (hpart : s.parting c i = false)
    (hlow : lowestTrap (s.slot c i).heldTraps = some p) :
    ((s.slot c i).txn = none → s.takeHeld c i =
      ((s.left c i).setSlot c i ((s.slot c i).leaving p)).takeTrap c i p.1 p.2 (s.slot c i).pc) ∧
    (∀ x, (s.slot c i).txn = some x → s.takeHeld c i =
      ((s.left c i).setSlot c i (((s.slot c i).leaving p).aborted x .preempt 0 s.cycle)).takeTrap c i p.1 p.2 x.target) := by
  obtain ⟨hslot, -, -⟩ := slot_left s c i
  obtain ⟨cause, v⟩ := p
  have hgo : (!(s.slot c i).active || (s.slot c i).h || !(s.slot c i).atBoundary || s.parting c i) = false := by
    simp [hact, hh, hb, hpart]
  have hleave : (s.leaveWait c i).modSlot c i (fun t => { t with heldTraps := t.heldTraps.erase (cause, v) }) =
      (s.left c i).setSlot c i ((s.slot c i).leaving (cause, v)) := by
    rw [State.leaveWait, ← State.left, modSlot_eq (s.left c i), hslot, modSlot_setSlot]
    rfl
  unfold State.takeHeld
  simp only [hgo, Bool.false_eq_true, if_false, hlow, hleave]
  constructor
  · intro htx
    simp only [htx, Option.isSome_none, Bool.false_eq_true, if_false, slot_setSlot_self]
    rfl
  · intro x htx
    rw [htx, Option.isSome_some, if_pos rfl, abortTxn_open (x := x) .preempt 0 (by rw [slot_setSlot_self]; exact htx),
      slot_setSlot_self, setSlot_setSlot, slot_setSlot_self]
    rw [cycle_setSlot, (left_kept s c i).1]
    rfl

/-- A held trap stays held where the slot is in a handler, holds none, stands at no bundle boundary, or its caravan parts. -/
theorem takeHeld_stays {s : State} {c i : Nat} (h : (s.slot c i).h = true ∨ (s.slot c i).heldTraps = [] ∨ s.parting c i = true ∨
    (s.slot c i).atBoundary = false) : s.takeHeld c i = s := by
  unfold State.takeHeld
  dsimp only
  split
  · rfl
  · rename_i hgo
    obtain h | h | h | h := h
    · simp [h] at hgo
    · rw [h, lowestTrap]
    · simp [h] at hgo
    · simp [h] at hgo

/-! ### The watchdog -/

theorem watchdog_waits {s : State} {c i : Nat} (h : s.watchReached c i = false) : s.watchdog c i = s := by
  simp [State.watchdog, h]

theorem watchdog_raises {s : State} {c i n : Nat} (h : s.watchReached c i = true) (hf : (s.slot c i).wdogFired = false)
    (hvec : (s.core c).tvec ≠ 0) (hn : s.limitOf c = some n) : s.watchdog c i = s.setSlot c i { s.slot c i with
      watch := 0, wdogFired := true, heldTraps := (s.slot c i).heldTraps ++ [(.wdog, BitVec.ofNat 64 n)] } := by
  have hgo : ((s.slot c i).wdogFired || (s.core c).tvec == 0) = false := by simpa [hf] using hvec
  simp only [State.watchdog, h, hgo, Bool.not_true, Bool.false_eq_true, if_false, hn, Option.getD_some, State.raiseAsync, modSlot_eq s,
    modSlot_setSlot]

theorem watchdog_ends {s : State} {c i : Nat} (h : s.watchReached c i = true)
    (hf : (s.slot c i).wdogFired = true ∨ (s.core c).tvec = 0) :
    s.watchdog c i = (s.log evHung c [i]).endLaunchOf c .hung 8 := by
  have hend : ((s.slot c i).wdogFired || (s.core c).tvec == 0) = true := by simpa using hf
  simp only [State.watchdog, h, hend, Bool.not_true, Bool.false_eq_true, if_false, if_true]
  rfl

theorem watchReached_eq {s : State} {c i n : Nat} (hact : (s.slot c i).active = true) (hn : s.limitOf c = some n) :
    s.watchReached c i = decide (n ≤ (s.slot c i).watch) := by
  simp [State.watchReached, hact, hn]

end Sys2Proof.Machine
end

section
/-!
CERTIFICATE. ERET, the traps a slot holds, and the watchdog (09_traps R196 to R201, R214).
-/
namespace Sys2Proof.Proofs
open Sys2Proof.Machine

/-- Settles O14: ERET is a jump that leaves the handler; a held trap is R197's trap on the slot that has left its wait; the
watchdog ends its core's launch or holds a trap. -/
theorem heldTrapsAndReturns : Obligations.HeldTrapsAndReturns := by
  unfold Obligations.HeldTrapsAndReturns
  refine ⟨fun s h => ⟨fun htx hpc => ?_, fun htx hpc hvec => ?_, fun x htx => ?_⟩, fun s c i hi hact => ?_⟩
  · obtain ⟨f, g, n, hs⟩ := retireCount_shape s.me.returned s.cycle
    have hfin := finishC_eret h htx hpc
    refine ⟨_, congrArg Host.Outcome.next hfin, ?_, ?_, ?_, ?_⟩
    · rw [me_setSlot]
      rfl
    · rw [me_setSlot, Slot.leftBy, hs]
      rfl
    · rw [modMe_eq, me_setSlot, cur_setSlot, setSlot_setSlot, leftBy_withH]
      refine retired_leftBy _ (fun r _ => ?_) rfl rfl rfl rfl rfl rfl
      apply settled_congr <;> rfl
    · rw [me_setSlot, Slot.leftBy, hs]
      exact loop_saved s.me.rptst s.me.rptpc
  · refine ⟨_, ?_, finishC_trap htx hvec⟩
    show runC s s.eretRes = _
    simp [State.eretRes, noTxn_ok htx, hpc, bind, Except.bind, runC]
  · have hres : s.eretRes = .error (.abort .illegal 0) := by simp [State.eretRes, State.noTxn, htx, bind, Except.bind]
    have hfin : s.finishC s.eretRes = s.setSlot s.cur.1 s.cur.2 (s.me.aborted x .illegal 0 s.cycle) := by
      rw [hres, finishC_abort h .illegal 0 htx]
    refine ⟨_, congrArg Host.Outcome.next hfin, ?_⟩
    rw [me_setSlot]
    exact ⟨rfl, rfl, rfl, rfl, rfl, rfl, rfl, rfl, rfl, rfl, rfl, rfl, rfl, rfl, rfl⟩
  · obtain ⟨hslot, htvec, hlaunch⟩ := slot_left s c i
    refine ⟨fun cause v hmem hlow hh hwait hpart => ?_, fun hstay => ?_, unissued_of_not_list, fun hn => ?_, fun n hn => ?_⟩
    · have hlowest := lowestTrap_eq hmem hlow
      refine ⟨fun hvec htx => ?_, fun x hvec htx hcom => ?_, fun l x hvec htx hchk hwdog hl hx he => ?_⟩
      · have hb : (s.slot c i).atBoundary = true := by simp [Slot.atBoundary, hwait, htx]
        have hvec' : ((s.left c i).core c).tvec ≠ 0 := by rw [htvec]; exact hvec
        obtain ⟨lx, lv, px, pv, hland⟩ := landAll_shape ((s.slot c i).leaving (cause, v))
        refine ⟨_, _, congrArg Host.Outcome.next (((takeHeld_eq hact hh hb hpart hlowest).1 htx).trans
          (takeTrap_vector cause v _ hvec')), rfl, ?_⟩
        rw [Slot.trapped, hland, htvec]
        refine ⟨rfl, rfl, rfl, rfl, rfl, rfl, rfl, rfl, rfl, rfl, rfl, rfl, rfl, fun r => ?_, rfl⟩
        rw [settled_of_pend_nil rfl]
        have hsame : ((s.slot c i).leaving (cause, v)).settled r = (s.slot c i).settled r := by
          apply settled_congr <;> rfl
        rw [← hsame, Slot.settled, hland]
        exact reg_congr rfl rfl r
      · have hb : (s.slot c i).atBoundary = true := by simp [Slot.atBoundary, hwait, htx, hcom]
        have hvec' : ((s.left c i).core c).tvec ≠ 0 := by rw [htvec]; exact hvec
        refine ⟨_, _, congrArg Host.Outcome.next (((takeHeld_eq hact hh hb hpart hlowest).2 x htx).trans
          (takeTrap_vector cause v _ hvec')), rfl, ?_⟩
        have hland : (((s.slot c i).leaving (cause, v)).aborted x .preempt 0 s.cycle).landAll =
            { ((s.slot c i).leaving (cause, v)).aborted x .preempt 0 s.cycle with landed := [] } := rfl
        rw [Slot.trapped, hland, htvec]
        exact ⟨rfl, rfl, rfl, rfl, rfl, rfl, rfl, rfl, rfl, rfl, rfl⟩
      · have hb : (s.slot c i).atBoundary = true := by simp [Slot.atBoundary, hwait, htx]
        obtain ⟨u, hu, hul, hulaunches, humem⟩ := takeTrap_ends (t := (s.slot c i).leaving (cause, v)) v (s.slot c i).pc
          (htvec.trans hvec) hchk hwdog
        obtain ⟨y, hy, hye⟩ := left_ending (i := i) hl hx
        obtain ⟨hend, -, -, hmem⟩ := endLaunchOf_ending (hul.trans (hlaunch.trans hl)) (by rw [hulaunches]; exact hy)
          (hye.trans he) .fault cause.code
        exact ⟨_, congrArg Host.Outcome.next (((takeHeld_eq hact hh hb hpart hlowest).1 htx).trans hu), hend,
          hmem.trans (humem.trans (left_kept s c i).2)⟩
    · refine congrArg Host.Outcome.next (takeHeld_stays ?_)
      obtain hh | hnone | hpart | hwait | ⟨x, htx, hcom⟩ := hstay
      · exact .inl hh
      · exact .inr (.inl hnone)
      · exact .inr (.inr (.inl hpart))
      · exact .inr (.inr (.inr (by simp [Slot.atBoundary, hwait])))
      · exact .inr (.inr (.inr (by simp [Slot.atBoundary, htx, hcom])))
    · exact congrArg Host.Outcome.next (watchdog_waits (by simp [State.watchReached, hn]))
    · have hr := watchReached_eq hact hn
      refine ⟨fun hw => ?_, fun hw hf hvec => ?_, fun hw hf l x hl hx he => ?_⟩
      · exact congrArg Host.Outcome.next (watchdog_waits (hr.trans (decide_eq_false (Nat.not_le.mpr hw))))
      · exact congrArg Host.Outcome.next (watchdog_raises (hr.trans (decide_eq_true hw)) hf hvec hn)
      · obtain ⟨hend, hother, hcores, hmem⟩ := endLaunchOf_ending (s := s.log evHung c [i]) hl hx he .hung 8
        exact ⟨_, congrArg Host.Outcome.next (watchdog_ends (hr.trans (decide_eq_true hw)) hf), hend, hother, hcores, hmem⟩

end Sys2Proof.Proofs
end

section
/-!
SUPPORT. Link ports and bound streams at a bundle's retirement (03_instructions R67, R68), the descriptors and the events of the
streams (06_engines R131 to R133).
-/
namespace Sys2Proof.Machine

/-! ### Changes of two cores -/

theorem put_comm {α : Type} (l : List (Nat × α)) {n m : Nat} (x y : α) (h : n ≠ m) :
    put (put l n x) m y = put (put l m y) n x := by
  induction l with
  | nil => grind [put]
  | cons p r ih => grind [put]

theorem setCore_comm (s : State) {c d : Nat} (k l : CoreSt) (h : c ≠ d) :
    (s.setCore c k).setCore d l = (s.setCore d l).setCore c k := by
  simp only [State.setCore, put_comm _ _ _ h]

theorem core_modCore_ne (s : State) {c d : Nat} (f : CoreSt → CoreSt) (h : c ≠ d) : (s.modCore c f).core d = s.core d :=
  core_setCore_ne _ _ h

/-- A slot's write and another core's change come to the same in either order. -/
theorem setSlot_modCore_ne (s : State) {c n : Nat} (i : Nat) (u : Slot) (f : CoreSt → CoreSt) (h : n ≠ c) :
    (s.setSlot c i u).modCore n f = (s.modCore n f).setSlot c i u := by
  rw [State.modCore, State.setSlot, core_setCore_ne _ _ h.symm, setCore_comm _ _ _ h.symm, State.setSlot, core_modCore_ne _ _ h,
    State.modCore]

/-- A slot's write and a change of its core beside its slots come to the same in either order. -/
theorem setSlot_modCore_self (s : State) (c i : Nat) (u : Slot) {f : CoreSt → CoreSt}
    (h : ∀ k : CoreSt, f (k.setSlot i u) = (f k).setSlot i u) : (s.setSlot c i u).modCore c f = (s.modCore c f).setSlot c i u := by
  rw [State.modCore, State.setSlot, core_setCore_self, setCore_setCore, h, State.setSlot, core_modCore_self, State.modCore,
    setCore_setCore]

/-! ### Link ports -/

theorem opposite_opposite : ∀ p < 4, opposite (opposite p) = p := by decide

theorem portSite_of_core {s t : State} {c : Nat} (hlaunch : (t.core c).launch = (s.core c).launch)
    (horigin : (t.core c).origin = (s.core c).origin) (hl : t.launches = s.launches) (p : Nat) : t.portSite c p = s.portSite c p := by
  simp only [State.portSite, hlaunch, horigin, State.siteOf, hl]

/-- A push reaches the core on which the neighbour's context stands. -/
theorem pushPort_of_portSite {s : State} {c p n : Nat} (h : s.portSite c p = some n) (w : Word) :
    s.pushPort c p w = s.modCore n (fun k => k.portIn (opposite p) w) := by
  unfold State.portSite at h
  unfold State.pushPort
  dsimp only at h ⊢
  split at h
  · rename_i l o hl ho
    unfold State.siteOf at h
    split at h
    · rename_i m hm
      obtain rfl : m = n := Option.some_injective _ h
      simp only [hm]
    · cases h
  · cases h

/-- A C-word's write to a mapped register (R67). -/
theorem setX_port {s : State} {d : Reg} {p n : Nat} (hp : portOf s.me.bundle.links d = some p)
    (h : s.portSite s.cur.1 p = some n) (v : Word) : s.setX d v = s.modCore n (fun k => k.portIn (opposite p) v) := by
  have hp' : portOf (s.slot s.cur.1 s.cur.2).bundle.links d = some p := hp
  have hv : (v.setWidth 128).setWidth 64 = v := by rw [BitVec.setWidth_setWidth_of_le _ (by decide), BitVec.setWidth_eq]
  simp only [State.setX, State.writeReg, hp', pushPort_of_portSite h, hv]

theorem me_modCore_ne (s : State) {n : Nat} (f : CoreSt → CoreSt) (h : n ≠ s.cur.1) : (s.modCore n f).me = s.me :=
  congrArg (CoreSt.slot · s.cur.2) (core_modCore_ne s f h)

/-- A core whose port has lost its oldest word. -/
def CoreSt.popped (k : CoreSt) (p : Nat) (r : List Word) : CoreSt := { k with ports := put k.ports p r }

theorem portSite_popped (s : State) (c i p : Nat) (r : List Word) (u : Slot) (q : Nat) :
    ((s.modCore c (fun k => k.popped p r)).setSlot c i u).portSite c q = s.portSite c q := by
  apply portSite_of_core
  · rw [core_setSlot, core_modCore_self]
    rfl
  · rw [core_setSlot, core_modCore_self]
    rfl
  · rfl

theorem me_modCore_popped (s : State) (p : Nat) (r : List Word) : (s.modCore s.cur.1 (fun k => k.popped p r)).me = s.me := by
  show ((s.modCore s.cur.1 (fun k => k.popped p r)).core s.cur.1).slot s.cur.2 = s.me
  rw [core_modCore_self]
  rfl

theorem popPort_kept {s : State} {c i p : Nat} {w : Word} {r : List Word} (hp : listOf (s.core c).ports p = w :: r)
    (hf : (s.slot c i).bundle.links.getLsbD (4 + p) = false) : s.popPort c i p = s.modCore c (fun k => k.popped p r) := by
  have hf' : ((s.core c).slot i).bundle.links.getLsbD (4 + p) = false := hf
  simp only [State.popPort, hp, hf', Bool.false_eq_true, if_false]
  rfl

theorem popPort_forwarded {s : State} {c i p : Nat} {w : Word} {r : List Word} (hp : listOf (s.core c).ports p = w :: r)
    (hf : (s.slot c i).bundle.links.getLsbD (4 + p) = true) :
    s.popPort c i p = (s.modCore c (fun k => k.popped p r)).pushPort c (opposite p) w := by
  have hf' : ((s.core c).slot i).bundle.links.getLsbD (4 + p) = true := hf
  simp only [State.popPort, hp, hf', if_true]
  rfl

theorem applyPops_port {s : State} {c i p : Nat} (hp : (s.slot c i).bundle.popPorts = [p])
    (hs : (s.slot c i).bundle.popStreams = []) : s.applyPops c i = s.popPort c i p := by simp [State.applyPops, hp, hs]

theorem applyPops_stream {s : State} {c i r : Nat} (hp : (s.slot c i).bundle.popPorts = [])
    (hs : (s.slot c i).bundle.popStreams = [r]) : s.applyPops c i = s.popStream c i r := by simp [State.applyPops, hp, hs]

/-- A C-word that writes an x register, in a state in which its bundle's pops have made of the rest of the part what `t` is. -/
theorem retire_popped_x {s t : State} {d : Reg} (v : Word) (hst : s.me.bundle.stash = none) (hd : s.me.writesInto (.x d))
    (hcur : t.cur = s.cur) (hme : t.me = s.me)
    (hpop : ∀ u : Slot, u.bundle = s.me.bundle →
      (s.setSlot s.cur.1 s.cur.2 u).applyPops s.cur.1 s.cur.2 = t.setSlot s.cur.1 s.cur.2 u) :
    Retired t (s.finishC (go (s.setX d v))) [.x d] {} ∧ (s.finishC (go (s.setX d v))).me.settled (.x d) = xValue d v := by
  have hw : s.setX d v = s.setSlot s.cur.1 s.cur.2 (s.me.place s.cur.1 s.cycle
      { reg := .x d, val := v.setWidth 128, latency := 1 }) := writeReg_of (by exact hd)
  obtain ⟨hb, hf, hr, hn, hi, hl⟩ := writeReg_system s.me s.cur.1 s.cycle { reg := .x d, val := v.setWidth 128, latency := 1 }
  have hfin : s.finishC (go (s.setX d v)) = t.setSlot t.cur.1 t.cur.2 ((s.me.place s.cur.1 s.cycle
      { reg := .x d, val := v.setWidth 128, latency := 1 }).finished t.cycle) := by
    rw [finishC_go_of_stash hst, hw, State.retire, hpop _ hb, hcur]
    simp only [slot_setSlot_self, hb, hst, modSlot_setSlot, cycle_setSlot]
    rfl
  rw [hfin]
  refine ⟨retired_of (fun r hr => ?_) ?_ ?_ ?_ ?_ ?_ ?_, ?_⟩
  · rw [hme]
    exact settled_place_ne _ _ _ _ (fun h => hr (by simp [← h]))
  · rw [hme, hf, or_empty]
  · rw [hme, system_place]
  · rw [hme, hr]
  · rw [hme, hn]
  · rw [hme, hi]
  · rw [hme, hb]
  · rw [me_setSlot, settled_finished, settled_place_x]

/-! ### A-words whose register is bound to a stream, or that read one -/

/-- The running slot with an A-word's effects kept in its bundle. -/
def Slot.stashing (t : Slot) (e : AEff) : Slot := { t with bundle := { t.bundle with stash := some e } }

/-- A lone A-word that writes one v register, outside an RPT body. -/
theorem finishA_stashing {s : State} (hm : s.me.bundle.mode = .lone) (hb : s.me.bundle.bad = none) (hr : s.me.bundle.rename = 0)
    (d : Reg) (v : Vec) (n : Nat) : s.finishA (effV d v n) =
      (s.setSlot s.cur.1 s.cur.2 (s.me.stashing (effV d v n))).retire s.cur.1 s.cur.2 none := by
  simp only [State.finishA, Slot.stashing, effV, hm, hb, hr, List.map_cons, List.map_nil, rename_zero, reduceCtorEq, if_false,
    modMe_eq]

/-- A bundle that has kept the write of one register retires: its pops, then what the write makes of its slot. -/
theorem retire_stashed {s t : State} {c i : Nat} {q u : Slot} {e : AEff} {w : RegWrite}
    (hpop : t.applyPops c i = s.setSlot c i q) (he : q.bundle.stash = some e) (hw : e.writes = [w]) (hf : e.flags = {}) (hg : e.gen = none)
    (hwrite : (s.setSlot c i q).writeReg c i w = s.setSlot c i u) : t.retire c i none = s.setSlot c i (u.finished s.cycle) := by
  unfold State.retire
  simp only [hpop, slot_setSlot_self, he, State.applyA, hw, List.foldl_cons, List.foldl_nil, hwrite, modSlot_setSlot, hf, or_empty,
    hg, Option.getD_none, cycle_setSlot]
  rfl

theorem V_unrenamed {s : State} (h : s.me.bundle.rename = 0) (a : Reg) : s.V a = s.me.bundle.rdV.get a.toFin := by
  rw [State.V, State.vName, h, rename_zero]

/-- The running slot with a stream bound to a v register. -/
def Slot.binding (t : Slot) (r : Nat) (x : StreamSt) : Slot := { t with streams := put t.streams r x }

theorem popStream_eq {s : State} {c i r : Nat} {x : StreamSt} (h : find (s.slot c i).streams r = some x) :
    s.popStream c i r = s.setSlot c i ((s.slot c i).binding r { x with next := x.next + 1, ahead := x.ahead.drop 1 }) := by
  simp only [State.popStream, modSlot_eq, h]
  rfl

theorem writeReg_bound {s : State} {c i : Nat} {w : RegWrite} {d : Reg} {x : StreamSt} (hw : w.reg = .v d)
    (h : find (s.slot c i).streams d.toNat = some x) : s.writeReg c i w = s.setSlot c i ((s.slot c i).binding d.toNat
      { x with next := x.next + 1, unwritten := x.unwritten ++ [(x.next, w.val)] }) := by
  simp only [State.writeReg, hw, Slot.stream, h]
  rfl

/-- A slot retires after a change of a binding and of registers: what `Retired` asks beside the changed binding. -/
theorem retired_binding {s : State} {u : Slot} {ds : List RegName} {r : Nat} {y : StreamSt}
    (hr : ∀ q, q ∉ ds → u.settled q = s.me.settled q) (hf : u.fflags = s.me.fflags) (hs : u.system = (s.me.binding r y).system)
    (hc : u.retired = s.me.retired) (hn : u.notBefore = s.me.notBefore) (hi : u.lastIssue = s.me.lastIssue)
    (hst : u.bundle.stall = s.me.bundle.stall) :
    Retired (s.modMe (fun t => t.binding r y)) (s.setSlot s.cur.1 s.cur.2 (u.finished s.cycle)) ds {} := by
  have hfin : s.setSlot s.cur.1 s.cur.2 (u.finished s.cycle) = (s.modMe (fun t => t.binding r y)).setSlot
      (s.modMe (fun t => t.binding r y)).cur.1 (s.modMe (fun t => t.binding r y)).cur.2
      (u.finished (s.modMe (fun t => t.binding r y)).cycle) := by
    simp only [modMe_eq, cur_setSlot, cycle_setSlot, setSlot_setSlot]
  have hbound : ∀ q, (s.me.binding r y).settled q = s.me.settled q := fun q => by apply settled_congr <;> rfl
  rw [hfin]
  refine retired_of (fun q hq => ?_) ?_ ?_ ?_ ?_ ?_ ?_ <;> rw [me_modMe]
  · rw [hbound, hr q hq]
  · rw [hf, or_empty]
    rfl
  · exact hs
  · exact hc
  · exact hn
  · exact hi
  · exact hst

/-- VMOV from a register that a read stream is bound to (R68). -/
theorem vmov_reads {s : State} {d a : Reg} {x : StreamSt} (hm : s.me.bundle.mode = .lone) (hb : s.me.bundle.bad = none)
    (hpp : s.me.bundle.popPorts = []) (hr : s.me.bundle.rename = 0) (hps : s.me.bundle.popStreams = [a.toNat])
    (hd : s.me.writesInto (.v d)) (hda : d ≠ a) (hx : find s.me.streams a.toNat = some x) :
    Retired (s.modMe (fun u => u.binding a.toNat { x with next := x.next + 1, ahead := x.ahead.drop 1 }))
        (s.finishA (effV d (s.V a) 2)) [.v d] {} ∧
      (s.finishA (effV d (s.V a) 2)).me.settled (.v d) = s.me.bundle.rdV.get a.toFin := by
  generalize hv : s.V a = v
  generalize hw : ({ reg := .v d, val := v, latency := 2 } : RegWrite) = w
  generalize hy : ({ x with next := x.next + 1, ahead := x.ahead.drop 1 } : StreamSt) = y
  generalize hq : (s.me.stashing (effV d v 2)).binding a.toNat y = q
  have hpop : (s.setSlot s.cur.1 s.cur.2 (s.me.stashing (effV d v 2))).applyPops s.cur.1 s.cur.2 =
      s.setSlot s.cur.1 s.cur.2 q := by
    rw [applyPops_stream (by rw [slot_setSlot_self]; exact hpp) (by rw [slot_setSlot_self]; exact hps),
      popStream_eq (x := x) (by rw [slot_setSlot_self]; exact hx), slot_setSlot_self, setSlot_setSlot, hy, hq]
  have hin : q.writesInto w.reg := by
    have hne : a.toNat ≠ d.toNat := fun h => hda (BitVec.eq_of_toNat_eq h.symm)
    rw [← hq, ← hw]
    exact (find_put_ne _ _ hne).trans hd
  have hwrite : (s.setSlot s.cur.1 s.cur.2 q).writeReg s.cur.1 s.cur.2 w =
      s.setSlot s.cur.1 s.cur.2 (q.place s.cur.1 s.cycle w) := by
    rw [writeReg_of (by rw [slot_setSlot_self]; exact hin), slot_setSlot_self, setSlot_setSlot, cycle_setSlot]
  have hfin : s.finishA (effV d v 2) = s.setSlot s.cur.1 s.cur.2 ((q.place s.cur.1 s.cycle w).finished s.cycle) := by
    rw [finishA_stashing hm hb hr]
    exact retire_stashed hpop (by rw [← hq]; rfl) (by rw [← hw]; rfl) rfl rfl hwrite
  obtain ⟨hbun, hf, hret, hn, hi, -⟩ := writeReg_system q s.cur.1 s.cycle w
  rw [hfin]
  refine ⟨retired_binding (fun r hrd => ?_) ?_ ?_ ?_ ?_ ?_ ?_, ?_⟩
  · rw [settled_place_ne _ _ _ _ (fun h => hrd (by simp [← h, ← hw])), ← hq]
    apply settled_congr <;> rfl
  · rw [hf, ← hq]
    rfl
  · rw [system_place, ← hq]
    rfl
  · rw [hret, ← hq]
    rfl
  · rw [hn, ← hq]
    rfl
  · rw [hi, ← hq]
    rfl
  · rw [hbun, ← hq]
    rfl
  · rw [me_setSlot, settled_finished, ← V_unrenamed hr, hv]
    have := settled_place_self q s.cur.1 s.cycle w
    rw [← hw] at this ⊢
    exact this

/-- VMOV to a register that a stream is bound to: the element waits to be written (R68, R133). -/
theorem vmov_appends {s : State} {d a : Reg} {x : StreamSt} (hm : s.me.bundle.mode = .lone) (hb : s.me.bundle.bad = none)
    (hpp : s.me.bundle.popPorts = []) (hr : s.me.bundle.rename = 0) (hps : s.me.bundle.popStreams = [])
    (hx : find s.me.streams d.toNat = some x) :
    Retired (s.modMe (fun u => u.binding d.toNat { x with
      next := x.next + 1, unwritten := x.unwritten ++ [(x.next, s.me.bundle.rdV.get a.toFin)] }))
        (s.finishA (effV d (s.V a) 2)) [] {} := by
  rw [V_unrenamed hr]
  generalize s.me.bundle.rdV.get a.toFin = v
  have hpop : (s.setSlot s.cur.1 s.cur.2 (s.me.stashing (effV d v 2))).applyPops s.cur.1 s.cur.2 =
      s.setSlot s.cur.1 s.cur.2 (s.me.stashing (effV d v 2)) :=
    applyPops_none (by rw [slot_setSlot_self]; exact hpp) (by rw [slot_setSlot_self]; exact hps)
  have hwrite : (s.setSlot s.cur.1 s.cur.2 (s.me.stashing (effV d v 2))).writeReg s.cur.1 s.cur.2
      { reg := .v d, val := v, latency := 2 } = s.setSlot s.cur.1 s.cur.2 ((s.me.stashing (effV d v 2)).binding d.toNat
        { x with next := x.next + 1, unwritten := x.unwritten ++ [(x.next, v)] }) := by
    rw [writeReg_bound rfl (by rw [slot_setSlot_self]; exact hx), slot_setSlot_self, setSlot_setSlot]
  rw [finishA_stashing hm hb hr, retire_stashed hpop rfl rfl rfl rfl hwrite]
  refine retired_binding (fun r _ => ?_) rfl rfl rfl rfl rfl rfl
  apply settled_congr <;> rfl

/-! ### Descriptors and the streams' events -/

/-- A lone bundle has nothing of a binding to settle (R52, R68). -/
theorem settleStream_lone {s : State} (h : Lone s) (r : Reg) : s.settleStream r = s.setSlot s.cur.1 s.cur.2 s.me := by
  obtain ⟨hm, hst, hb, hpp, hps⟩ := h
  have hsame : ({ s.me with bundle := { s.me.bundle with popStreams := [], stash := none } } : Slot) = s.me := by
    rw [← hst, ← hps]
  simp only [State.settleStream, hps, hst, List.contains_nil, Bool.false_eq_true, if_false, List.foldl_nil, modMe_eq,
    List.filter_nil, Option.map_none, hsame]

theorem modMe_setSlot_me (s : State) (f : Slot → Slot) : (s.setSlot s.cur.1 s.cur.2 s.me).modMe f = s.modMe f := by
  simp only [modMe_eq, cur_setSlot, me_setSlot, setSlot_setSlot]

/-- With nothing to settle and nothing to write, SBIND only changes the binding. -/
theorem sbind_settled {s : State} (h : Lone s) {r : Reg} (hp : s.streamPending s.cur.1 s.cur.2 r.toNat = 0) (f : Slot → Slot) :
    (((s.settleStream r).streamFlush s.cur.1 s.cur.2 r.toNat
      ((s.settleStream r).streamPending s.cur.1 s.cur.2 r.toNat)).modMe f) = s.modMe f := by
  have hpend : (s.setSlot s.cur.1 s.cur.2 s.me).streamPending s.cur.1 s.cur.2 r.toNat = 0 := by
    rw [← hp]
    simp only [State.streamPending, slot_setSlot_self, me_eq]
  rw [settleStream_lone h, hpend, State.streamFlush, modMe_setSlot_me]

theorem sbindRes_unbind {s : State} (h : Lone s) {r : Reg} (hr : 24 ≤ r.toNat)
    (hp : s.streamPending s.cur.1 s.cur.2 r.toNat = 0) :
    s.sbindRes r 0 = go (s.modMe (fun t => { t with streams := del t.streams r.toNat })) := by
  simp only [State.sbindRes, Nat.not_lt.mpr hr, if_false, if_true, sbind_settled h hp]

theorem sbindRes_bind {s : State} (h : Lone s) {r b : Reg} {off : Nat} {x : StreamSt} (hr : 24 ≤ r.toNat)
    (hp : s.streamPending s.cur.1 s.cur.2 r.toNat = 0) (hb : b ≠ 0) (hc : s.checkMem (s.X b) 32 .waitev = .ok ⟨.lm off, none⟩)
    (hbad : s.here.lmBad off 32 = false) (hx : s.streamDesc off = some x) :
    s.sbindRes r b = go (s.modMe (fun t => { t with streams := put t.streams r.toNat x })) := by
  simp only [State.sbindRes, Nat.not_lt.mpr hr, if_false, hb, hc, bind, Except.bind, hbad, Bool.false_eq_true, hx,
    sbind_settled h hp]

theorem sbindRes_refused {s : State} {r b : Reg} {off : Nat} (hr : 24 ≤ r.toNat) (hb : b ≠ 0)
    (hc : s.checkMem (s.X b) 32 .waitev = .ok ⟨.lm off, none⟩) (hbad : s.here.lmBad off 32 = false)
    (hx : s.streamDesc off = none) : s.sbindRes r b = .error (s.stopWith .stream (s.X b)) := by
  simp only [State.sbindRes, Nat.not_lt.mpr hr, if_false, hb, hc, bind, Except.bind, hbad, Bool.false_eq_true, hx]

/-- An accepted descriptor gives base and direction of a stream that has not begun (R131). -/
theorem streamDesc_fields {s : State} {off : Nat} {x : StreamSt} (h : s.streamDesc off = some x) :
    x.base = s.here.lm.word off ∧ x.next = 0 ∧ x.ahead = [] ∧ x.unwritten = [] ∧
      x.isWrite = bitAt (s.here.lm.word (off + 24)) 32 := by
  obtain ⟨-, h⟩ := Option.ite_none_right_eq_some.mp h
  obtain rfl := Option.some_injective _ h
  exact ⟨rfl, rfl, rfl, rfl, rfl⟩

/-- A vector stored at an element of own LM changes its 16 bytes. -/
theorem read_streamStore (k : CoreSt) (v : Vec) {a : Int} {off : Nat} (ha : a = ((0xF000000000000000 + off : Nat) : Int))
    (hoff : off < 0x20000) (y : Nat) : (k.streamStore a v).lm.read y =
      if off ≤ y ∧ y < off + 16 then BitVec.ofNat 8 (v.toNat / 256 ^ (y - off)) else k.lm.read y := by
  have hspace : (0xF000000000000000 + off) / 2 ^ 56 = 0xF0 := by omega
  have hplace : (0xF000000000000000 + off) % 2 ^ 56 = off := by omega
  have hstore : (k.streamStore a v).lm = k.lm.setNum off 16 v.toNat := by
    simp only [CoreSt.streamStore, ha, Int.toNat_natCast, hspace, hplace, if_true, lm_lmWrite]
    rfl
  rw [hstore, Memory.read_setNum]

theorem streamFlushOne_cons {s : State} {c i r n : Nat} {v : Vec} {rest : List (Nat × Vec)} {x : StreamSt}
    (hx : find (s.slot c i).streams r = some x) (hu : x.unwritten = (n, v) :: rest) : s.streamFlushOne c i r =
      (s.modCore c (fun k => k.streamStore (x.addr n) v)).modSlot c i (fun t =>
        { t with streams := put t.streams r { x with unwritten := rest } }) := by
  simp only [State.streamFlushOne, hx, hu]

theorem streamAhead_reads {s : State} {c i r : Nat} {x : StreamSt} (hx : find (s.slot c i).streams r = some x)
    (hread : x.isWrite = false) (hroom : x.ahead.length < 4) (hmore : x.next + x.ahead.length < x.total)
    (hgood : (s.core c).badElement (x.addr (x.next + x.ahead.length)).toNat = false) : s.streamAhead c i r =
      s.modSlot c i (fun u => { u with streams := put u.streams r (
        { x with ahead := x.ahead ++ [(s.core c).streamRead (x.addr (x.next + x.ahead.length))] } : StreamSt) }) := by
  simp only [State.streamAhead, hx, hread, hroom, hmore, hgood, decide_true, Bool.not_false, Bool.and_self, if_true]

end Sys2Proof.Machine
end

section
/-!
CERTIFICATE. Link ports, bound streams and SBIND (03_instructions R67, R68, 06_engines R131 to R133).
-/
namespace Sys2Proof.Proofs
open Sys2Proof.Machine

/-- Settles O11: a push changes another core, a pop the own core's port or the slot's binding, and the slot then retires as
without them; SBIND on a lone bundle has nothing to settle. -/
theorem portsAndStreams : Obligations.PortsAndStreams := by
  unfold Obligations.PortsAndStreams
  refine ⟨fun s d a b p n hm hst hb hps hp hn => ⟨fun hpp hport hsite => ?_,
      fun w r hpp hd hw => ⟨fun hf => ?_, fun hf hsite => ?_⟩⟩,
    fun s d a x hm hst hb hpp hr => ⟨fun hps hd hda hx => ?_, fun hps hx => ?_⟩,
    fun s r b off h htx hr hp => ⟨?_, fun hb0 hc hbad => ⟨fun x hx => ?_, fun hx hvec => ?_⟩⟩,
    fun s c i r x hx => ⟨fun hread hroom hmore hgood => ?_, fun n v rest off hu ha hoff => ?_⟩⟩
  · have hlone : Lone s := ⟨hm, hst, hb, hpp, hps⟩
    have hset : s.setX d (s.X a + s.X b) = s.modCore n (fun k => k.portIn (opposite p) (s.X a + s.X b)) :=
      setX_port hport hsite _
    refine ⟨_, congrArg Host.Outcome.next ?_, (retired_self (hlone.of_me (congrArg Slot.bundle (me_modCore_ne _ _ hn)))).1⟩
    rw [State.scalarRes, finishC_go_of_stash hst, hset]
    rfl
  · obtain ⟨hret, hval⟩ := retire_popped_x (t := s.modCore s.cur.1 (fun k => k.popped p r)) (s.X a + s.X b) hst hd rfl
      (me_modCore_popped s p r) (fun u hu => by
        rw [applyPops_port (by rw [slot_setSlot_self, hu, hpp]) (by rw [slot_setSlot_self, hu, hps]),
          popPort_kept (w := w) (r := r) (by rw [core_setSlot]; exact hw) (by rw [slot_setSlot_self, hu, hf])]
        exact setSlot_modCore_self _ _ _ _ (fun _ => rfl))
    exact ⟨_, rfl, hret, hval⟩
  · have hsite' : ∀ u, ((s.modCore s.cur.1 (fun k => k.popped p r)).setSlot s.cur.1 s.cur.2 u).portSite s.cur.1 (opposite p) =
        some n := fun u => (portSite_popped ..).trans hsite
    obtain ⟨hret, hval⟩ := retire_popped_x (t := (s.modCore s.cur.1 (fun k => k.popped p r)).modCore n (fun k => k.portIn p w))
      (s.X a + s.X b) hst hd rfl ((me_modCore_ne (s.modCore s.cur.1 (fun k => k.popped p r)) _ hn).trans (me_modCore_popped s p r))
      (fun u hu => by
        rw [applyPops_port (by rw [slot_setSlot_self, hu, hpp]) (by rw [slot_setSlot_self, hu, hps]),
          popPort_forwarded (w := w) (r := r) (by rw [core_setSlot]; exact hw) (by rw [slot_setSlot_self, hu, hf]),
          setSlot_modCore_self _ _ _ _ (fun _ => rfl), pushPort_of_portSite (hsite' u), opposite_opposite p hp,
          setSlot_modCore_ne _ _ _ _ hn])
    exact ⟨_, rfl, hret, hval⟩
  · exact ⟨_, rfl, vmov_reads hm hb hpp hr hps hd hda hx⟩
  · exact ⟨_, rfl, vmov_appends hm hb hpp hr hps hx⟩
  · exact ⟨_, rfl, by rw [sbindRes_unbind h hr hp]; exact finishC_goesOn h rfl (by rw [me_modMe]) (by rw [me_modMe])⟩
  · obtain ⟨hbase, hnext, hahead, hunwritten, hwrite⟩ := streamDesc_fields hx
    refine ⟨hbase, hnext, hahead, hunwritten, hwrite, _, rfl, ?_⟩
    rw [sbindRes_bind h hr hp hb0 hc hbad hx]
    exact finishC_goesOn h rfl (by rw [me_modMe]) (by rw [me_modMe])
  · refine ⟨_, rfl, ?_⟩
    rw [sbindRes_refused hr hb0 hc hbad hx]
    exact finishC_trap htx hvec
  · exact congrArg Host.Outcome.next (streamAhead_reads hx hread hroom hmore hgood)
  · refine ⟨_, congrArg Host.Outcome.next (streamFlushOne_cons hx hu), ?_, fun y => ?_⟩
    · rw [modSlot_eq, slot_setSlot_self, find_put_self]
      rfl
    · rw [modSlot_eq, core_setSlot, core_modCore_self]
      exact read_streamStore _ _ ha hoff y

end Sys2Proof.Proofs
end

section
/-!
SUPPORT. Numbers of the floating-point formats, and how they round (04_arithmetic R80 to R88).
-/
namespace Sys2Proof.Machine

/-! ### The numbers that a format holds (R80, Tables 4.1 and 4.2) -/

/-- A floating-point lane is a sign, an exponent field and a fraction. -/
theorem laneWidth_float {t : LaneType} (h : t.isInt = false) : laneWidth t = (layout t).1 + fracBits t + 1 := by
  revert h
  cases t <;> decide

/-- What is not one of a format's special encodings lies at or below its largest finite magnitude. -/
theorem le_maxFinite {t : LaneType} (h : t.isInt = false) {E f : Nat} (hE : E < 2 ^ (layout t).1) (hf : f < 2 ^ fracBits t)
    (hn : ¬ (t = .e4m3 ∧ E = 15 ∧ f = 7)) (hs : ¬ (hasInf t = true ∧ E = 2 ^ (layout t).1 - 1)) :
    E * 2 ^ fracBits t + f ≤ maxFinite t := by
  cases t <;> simp_all [layout, fracBits, hasInf, maxFinite, LaneType.isInt] <;> omega

/-- The bits of a lane by their fields. -/
theorem eq_signBits_add {t : LaneType} {b : Nat} (hi : t.isInt = false) (hb : b < 2 ^ laneWidth t) :
    b = signBits t (b / 2 ^ (laneWidth t - 1) % 2 == 1) +
      (b / 2 ^ fracBits t % 2 ^ (layout t).1 * 2 ^ fracBits t + b % 2 ^ fracBits t) := by
  have hlow : b / 2 ^ fracBits t % 2 ^ (layout t).1 * 2 ^ fracBits t + b % 2 ^ fracBits t = b % 2 ^ (laneWidth t - 1) := by
    rw [laneWidth_float hi, Nat.add_sub_cancel, Nat.add_comm (layout t).1, Nat.pow_add, Nat.mod_mul, Nat.mul_comm, Nat.add_comm]
  have hpow : 2 ^ laneWidth t = 2 ^ (laneWidth t - 1) * 2 := by rw [← Nat.pow_succ, laneWidth_float hi]; rfl
  have htop : b / 2 ^ (laneWidth t - 1) < 2 := Nat.div_lt_of_lt_mul (hpow ▸ hb)
  have hsum := Nat.div_add_mod b (2 ^ (laneWidth t - 1))
  rw [hlow, signBits]
  rcases Nat.le_one_iff_eq_zero_or_eq_one.mp (Nat.lt_succ_iff.mp htop) with h0 | h0
  all_goals
    rw [h0] at hsum ⊢
    simpa using hsum.symm

/-- A number is m units of one of a format's binades, the k-th from below: its bits are the sign, and k times the hidden
bit with m; m has the hidden bit, but in the lowest binade. -/
structure InFormat (t : LaneType) (b : Nat) (n : Bool) (m : Nat) (e : Int) (k : Nat) : Prop where
  bits : b = signBits t n + (k * 2 ^ fracBits t + m)
  exp : e = eMin t + k - fracBits t
  lt : m < 2 ^ (fracBits t + 1)
  hidden : k = 0 ∨ 2 ^ fracBits t ≤ m
  le_max : k * 2 ^ fracBits t + m ≤ maxFinite t

/-- The bits that decode to a number hold it. -/
theorem inFormat_of_decodeF {t : LaneType} {b : Nat} {n : Bool} {m : Nat} {e : Int} (hi : t.isInt = false)
    (hb : b < 2 ^ laneWidth t) (h : decodeF t b = .num n m e) : ∃ k, InFormat t b n m e k := by
  have hbits := eq_signBits_add hi hb
  simp only [decodeF, show (layout t).2.1 = fracBits t from rfl] at h
  have hf : b % 2 ^ fracBits t < 2 ^ fracBits t := Nat.mod_lt _ (by positivity)
  have hE : b / 2 ^ fracBits t % 2 ^ (layout t).1 < 2 ^ (layout t).1 := Nat.mod_lt _ (by positivity)
  generalize b % 2 ^ fracBits t = f, b / 2 ^ fracBits t % 2 ^ (layout t).1 = E at *
  have hpow : 2 ^ (fracBits t + 1) = 2 * 2 ^ fracBits t := by rw [Nat.pow_succ, Nat.mul_comm]
  split at h
  · cases h
  next hn =>
  split at h
  · split at h <;> cases h
  next hs =>
  have hmax := le_maxFinite hi hE hf hn hs
  split at h
  next h0 =>
    obtain ⟨rfl, rfl, rfl⟩ := FVal.num.inj h
    subst h0
    exact ⟨0, hbits, by simp [eMin], by omega, .inl rfl, hmax⟩
  next h0 =>
    obtain ⟨rfl, rfl, rfl⟩ := FVal.num.inj h
    obtain ⟨k, rfl⟩ := Nat.exists_eq_succ_of_ne_zero h0
    have hk : k.succ * 2 ^ fracBits t + f = k * 2 ^ fracBits t + (f + 2 ^ fracBits t) := by rw [Nat.succ_mul]; omega
    exact ⟨k, hk ▸ hbits, by simp [eMin]; ring, by omega, .inr (Nat.le_add_left ..), hk ▸ hmax⟩

/-- A format's largest finite magnitude is a number of the format. -/
theorem inFormat_maxFinite {t : LaneType} (h : t.isInt = false) : ∃ m e k, decodeF t (maxFinite t) = .num false m e ∧
    InFormat t (maxFinite t) false m e k := by
  have hdec : ∃ m e, decodeF t (maxFinite t) = .num false m e ∧ maxFinite t < 2 ^ laneWidth t := by
    cases t <;> simp only [LaneType.isInt, reduceCtorEq] at h <;> exact ⟨_, _, rfl, by decide⟩
  obtain ⟨m, e, hnum, hlt⟩ := hdec
  obtain ⟨k, hk⟩ := inFormat_of_decodeF h hlt hnum
  exact ⟨m, e, k, hnum, hk⟩

/-! ### Rounding what is exact (R84, R85) -/

/-- A magnitude that is a multiple of the unit is not rounded. -/
theorem roundAt_of_le (c : Rounding) (neg : Bool) (m : Nat) {e l : Int} (h : l ≤ e) :
    roundAt c neg m e false l = (m * 2 ^ (e - l).toNat, false) := if_pos h

namespace InFormat
variable {t : LaneType} {b : Nat} {n : Bool} {m : Nat} {e : Int} {k : Nat} (h : InFormat t b n m e k)
include h

/-- A number of the format does not overflow: its binade is the largest number's, and then its units are no more, or lies
below. -/
theorem not_exceeds (hi : t.isInt = false) : exceeds t m e = false := by
  obtain ⟨m0, e0, k0, hnum, hmax⟩ := inFormat_maxFinite hi
  have hle : k * 2 ^ fracBits t + m ≤ k0 * 2 ^ fracBits t + m0 := by
    have := hmax.bits
    simp only [signBits] at this
    exact h.le_max.trans_eq (by simpa using this)
  have hlt := h.lt
  have hlt0 := hmax.lt
  rw [Nat.pow_succ] at hlt hlt0
  have hk : k ≤ k0 := by
    by_contra hk
    have hmul : (k0 + 1) * 2 ^ fracBits t ≤ k * 2 ^ fracBits t := Nat.mul_le_mul_right _ (by omega)
    have := h.hidden
    rw [Nat.add_mul] at hmul
    omega
  simp only [exceeds, hnum, h.exp, hmax.exp]
  obtain rfl | hk := hk.eq_or_lt
  · simpa using hle
  · have hpow : m0 * 2 ^ 1 ≤ m0 * 2 ^ (k0 - k) := Nat.mul_le_mul_left _ (Nat.pow_le_pow_right (by decide) (by omega))
    have := hmax.hidden
    rw [if_neg (by omega), show (eMin t + k0 - fracBits t - (eMin t + k - fracBits t)).toNat = k0 - k by omega]
    simpa using by omega

/-- The unit of a number of the format is the unit that its magnitude is rounded to. -/
theorem unit_eq (hm : m ≠ 0) : max ((Nat.log2 m : Int) + e - fracBits t) (eMin t - fracBits t) = e := by
  have hlog : Nat.log2 m < fracBits t + 1 := (Nat.log2_lt hm).mpr h.lt
  have hexp := h.exp
  rcases h.hidden with hk | hk
  · omega
  · have := (Nat.le_log2 hm).mpr hk
    omega

/-- A number of the format is rounded to itself without a flag, when a subnormal is not flushed. -/
theorem roundTo_eq (hi : t.isInt = false) {c : Rounding} (hz : c.fz = false) : roundTo t c n m e = (b, {}) := by
  by_cases hm : m = 0
  · have hk : k = 0 := by
      have := h.hidden
      have := Nat.two_pow_pos (fracBits t)
      omega
    have hb : b = signBits t n := by simpa [hm, hk] using h.bits
    simp [roundTo, hm, hb]
  · have hbin : (e - (eMin t - fracBits t)).toNat = k := by have := h.exp; omega
    simp [roundTo, hm, h.unit_eq hm, roundAt_of_le, h.not_exceeds hi, hz, hbin, h.bits]

end InFormat

end Sys2Proof.Machine
end

section
/-!
Rounding a number that the format holds (04_arithmetic R85).
-/
namespace Sys2Proof.Proofs
open Sys2Proof.Machine

/-- Settles O5: what decodes to a number lies in the format, and its unit is the one that rounding takes. -/
theorem roundingKeepsWhatTheFormatHolds : Obligations.RoundingKeepsWhatTheFormatHolds := by
  intro ty c b n m e hi hb hz hd
  obtain ⟨k, hk⟩ := inFormat_of_decodeF hi hb hd
  exact hk.roundTo_eq hi hz

end Sys2Proof.Proofs
end

section
/-!
SUPPORT. Sums of numbers in different units, and the group sum whose terms lie inside its window (04_arithmetic R83, R85,
R96).
-/
namespace Sys2Proof.Machine

/-! ### One magnitude in two units (R85) -/

/-- A magnitude of whole units is not rounded. -/
theorem roundAt_of_dvd (c : Rounding) (neg : Bool) (q : Nat) {e l : Int} {sh : Nat} (h : (l - e).toNat = sh + 1) :
    roundAt c neg (2 ^ (sh + 1) * q) e false l = (q, false) := by
  have hhalf : ((0 : Nat) == 2 ^ sh) = false := by simp [(Nat.two_pow_pos sh).ne]
  simp only [roundAt, if_neg (show ¬ l ≤ e by omega), h, Nat.mul_mod_right, Nat.add_sub_cancel, hhalf,
    Nat.mul_div_cancel_left _ (Nat.two_pow_pos (sh + 1)), bne_self_eq_false, Bool.or_self, Bool.false_and, Bool.and_false,
    not_lt_zero, decide_false, Prod.mk.injEq, and_true]
  refine if_neg ?_
  split
  · exact Bool.false_ne_true
  · split <;> exact Bool.false_ne_true

/-- Rounding a magnitude at a unit does not depend on the unit that the magnitude is given in. -/
theorem roundAt_scale (c : Rounding) (neg : Bool) (m d : Nat) (e l : Int) :
    roundAt c neg (2 ^ d * m) (e - d) false l = roundAt c neg m e false l := by
  rcases le_or_gt l e with hle | hgt
  · rw [roundAt_of_le c neg m hle]
    rcases le_or_gt l (e - d) with hle' | hgt'
    · rw [roundAt_of_le c neg _ hle', show (e - l).toNat = d + (e - d - l).toNat by omega, Nat.pow_add]
      ring_nf
    · obtain ⟨sh, hsh, hd⟩ : ∃ sh, (l - (e - d)).toNat = sh + 1 ∧ d = (sh + 1) + (e - l).toNat :=
        ⟨(l - (e - d)).toNat - 1, by omega, by omega⟩
      have hm : 2 ^ d * m = 2 ^ (sh + 1) * (m * 2 ^ (e - l).toNat) := by
        conv_lhs => rw [hd, Nat.pow_add]
        ring
      rw [hm, roundAt_of_dvd c neg _ hsh]
  · obtain ⟨sh, hsh, hsh'⟩ : ∃ sh, (l - e).toNat = sh + 1 ∧ (l - (e - d)).toNat = d + (sh + 1) :=
        ⟨(l - e).toNat - 1, by omega, by omega⟩
    have hpos : 0 < 2 ^ d := Nat.two_pow_pos _
    have hhalf : 2 ^ (d + (sh + 1) - 1) = 2 ^ d * 2 ^ sh := by rw [← Nat.pow_add]; rfl
    have hdraw (r : Nat) : 2 ^ d * r * 2 ^ 32 / (2 ^ d * 2 ^ (sh + 1)) = r * 2 ^ 32 / 2 ^ (sh + 1) := by
      rw [Nat.mul_assoc, Nat.mul_div_mul_left _ _ hpos]
    have heq (r h : Nat) : (2 ^ d * r == 2 ^ d * h) = (r == h) := by simp [Nat.mul_right_inj hpos.ne']
    have hne (r : Nat) : (2 ^ d * r != 0) = (r != 0) := by simp [bne]
    simp only [roundAt, if_neg (Int.not_le.mpr hgt), if_neg (show ¬ l ≤ e - d by omega), hsh, hsh', hhalf, Nat.pow_add 2 d,
      Nat.mul_div_mul_left _ _ hpos, Nat.mul_mod_mul_left, hdraw, heq, hne, Nat.mul_lt_mul_left hpos, Nat.add_sub_cancel]

theorem log2_two_pow_mul {m : Nat} (hm : m ≠ 0) (d : Nat) : Nat.log2 (2 ^ d * m) = d + Nat.log2 m := by
  induction d with
  | zero => simp
  | succ d ih => rw [Nat.pow_succ', Nat.mul_assoc, Nat.log2_two_mul (by positivity), ih]; omega

/-- The result of a rounding does not depend on the unit that the magnitude is given in. -/
theorem roundTo_scale (t : LaneType) (c : Rounding) (neg : Bool) (m d : Nat) (e : Int) :
    roundTo t c neg (2 ^ d * m) (e - d) = roundTo t c neg m e := by
  by_cases hm : m = 0
  · simp [roundTo, hm]
  · have hlog : (Nat.log2 (2 ^ d * m) : Int) + (e - d) = Nat.log2 m + e := by
      rw [log2_two_pow_mul hm]
      push_cast
      ring
    have hne : 2 ^ d * m ≠ 0 := by positivity
    simp only [roundTo, hlog, roundAt_scale, hm, hne]

/-! ### Exact sums of numbers (R83) -/

/-- Terms that are numbers other than zero, all of them multiples of the unit 2^u. -/
def InUnits (u : Int) (ts : List FVal) : Prop := ∀ t ∈ ts, ∃ n m e, t = .num n m e ∧ m ≠ 0 ∧ u ≤ e

theorem inUnits_cons {u : Int} {n : Bool} {m : Nat} {e : Int} {ts : List FVal} :
    InUnits u (.num n m e :: ts) ↔ (m ≠ 0 ∧ u ≤ e) ∧ InUnits u ts := by
  rw [InUnits, List.forall_mem_cons]
  refine and_congr_left fun _ => ⟨?_, fun h => ⟨n, m, e, rfl, h⟩⟩
  rintro ⟨n, m, e, heq, h⟩
  cases heq
  exact h

/-- The terms of a list in units, one after another. -/
theorem InUnits.cons_num {u : Int} {t : FVal} {ts : List FVal} (h : InUnits u (t :: ts)) :
    ∃ n m e, t = .num n m e ∧ m ≠ 0 ∧ u ≤ e ∧ InUnits u ts := by
  obtain ⟨n, m, e, rfl, hm, he⟩ := h t (by simp)
  exact ⟨n, m, e, rfl, hm, he, (inUnits_cons.mp h).2⟩

/-- A sum in a coarser unit that its terms are multiples of. -/
theorem sumAt_scale {u : Int} {d : Nat} {ts : List FVal} (h : InUnits (u + d) ts) :
    sumAt u ts = 2 ^ d * sumAt (u + d) ts := by
  induction ts with
  | nil => simp [sumAt]
  | cons t ts ih =>
    obtain ⟨n, m, e, rfl, -, he, hts⟩ := h.cons_num
    have hexp : (e - u).toNat = d + (e - (u + d)).toNat := by omega
    simp only [sumAt, ih hts, hexp, Nat.pow_add]
    push_cast
    split <;> ring

/-- Every term is a multiple of the unit of the least exponent. -/
theorem InUnits.minExp {u : Int} {ts : List FVal} (h : InUnits u ts) : InUnits (minExp ts) ts := by
  induction ts with
  | nil => simp [InUnits]
  | cons t ts ih =>
    obtain ⟨n, m, e, rfl, hm, -, hts⟩ := h.cons_num
    cases ts with
    | nil => exact inUnits_cons.mpr ⟨⟨hm, le_rfl⟩, by simp [InUnits]⟩
    | cons t' ts =>
      refine inUnits_cons.mpr ⟨⟨hm, min_le_left ..⟩, fun x hx => ?_⟩
      obtain ⟨n, m, f, hx', hm', hf⟩ := ih hts x hx
      exact ⟨n, m, f, hx', hm', (min_le_right ..).trans hf⟩

/-- A unit of all the terms is no more than the least exponent. -/
theorem InUnits.le_minExp {u : Int} {t : FVal} {ts : List FVal} (h : InUnits u (t :: ts)) : u ≤ Machine.minExp (t :: ts) := by
  induction ts generalizing t with
  | nil =>
    obtain ⟨n, m, e, rfl, -, he, -⟩ := h.cons_num
    exact he
  | cons t' ts ih =>
    obtain ⟨n, m, e, rfl, -, he, hts⟩ := h.cons_num
    exact le_min he (ih hts)

/-- Terms of one sign add up with that sign, and to at least a unit for each. -/
theorem sumAt_of_sign {u : Int} {ts : List FVal} {neg : Bool} (h : InUnits u ts) (hs : ∀ n m e, .num n m e ∈ ts → n = neg) :
    ∃ v : Nat, ts.length ≤ v ∧ sumAt u ts = if neg then -(v : Int) else v := by
  induction ts with
  | nil => exact ⟨0, le_rfl, by simp [sumAt]⟩
  | cons t ts ih =>
    obtain ⟨n, m, e, rfl, hm, -, hts⟩ := h.cons_num
    obtain rfl := hs n m e (by simp)
    obtain ⟨v, hlen, hv⟩ := ih hts fun n m e hx => hs n m e (by simp [hx])
    have hpos : 0 < m * 2 ^ (e - u).toNat := by positivity
    refine ⟨m * 2 ^ (e - u).toNat + v, by rw [List.length_cons]; omega, ?_⟩
    rw [sumAt, hv]
    split <;> push_cast <;> ring

/-- The sign of the zero that terms of both signs make (R83). -/
theorem zeroSign_mixed {rm : Nat} {ts : List FVal} {m m' : Nat} {e e' : Int} (hp : .num false m e ∈ ts)
    (hn : .num true m' e' ∈ ts) : zeroSign rm ts = (rm == 2) := by
  refine (if_neg fun h => ?_).trans (if_pos ?_)
  · have hall := (Bool.and_eq_true_iff.mp h).1
    exact Bool.false_ne_true (List.all_eq_true.mp hall false (List.mem_map.mpr ⟨_, hp, rfl⟩))
  · exact List.any_eq_true.mpr ⟨true, List.mem_map.mpr ⟨_, hn, rfl⟩, rfl⟩

/-- Terms other than zero whose sum is zero have both signs. -/
theorem zeroSign_of_sum_zero {u : Int} {rm : Nat} {ts : List FVal} (h : InUnits u ts) (hne : ts ≠ []) (h0 : sumAt u ts = 0) :
    zeroSign rm ts = (rm == 2) := by
  have hlen : 0 < ts.length := List.length_pos_iff.mpr hne
  have hmem (neg : Bool) : ∃ m e, .num (!neg) m e ∈ ts := by
    by_contra hno
    obtain ⟨v, hv, hsum⟩ := sumAt_of_sign (neg := neg) h fun n m e hx => by
      by_contra hn
      exact hno ⟨m, e, (Bool.eq_not.mpr hn) ▸ hx⟩
    rw [h0] at hsum
    cases neg <;> simp at hsum <;> omega
  obtain ⟨⟨m, e, hp⟩, ⟨m', e', hn⟩⟩ := And.intro (hmem true) (hmem false)
  exact zeroSign_mixed hp hn

/-- Terms in units hold no NaN, no infinity and no zero. -/
theorem InUnits.finite {u : Int} {ts : List FVal} (h : InUnits u ts) : ts.any FVal.isSig = false ∧ ts.any FVal.isNaN = false ∧
    (∀ n, ts.any (· == .inf n) = false) ∧ ts.filter (fun t => !t.isZero) = ts := by
  simp only [List.any_eq_false, List.filter_eq_self]
  refine ⟨fun t ht => ?_, fun t ht => ?_, fun n t ht => ?_, fun t ht => ?_⟩ <;>
  · obtain ⟨n, m, e, rfl, hm, -⟩ := h t ht
    simp [FVal.isSig, FVal.isNaN, FVal.isZero, hm]

/-- The exact sum of numbers other than zero, rounded, in any unit of them. -/
theorem roundVal_sumF {u : Int} {t : LaneType} {c : Rounding} {ts : List FVal} (h : InUnits u ts) (hne : ts ≠ []) :
    roundVal t c (sumF c.rm ts) = if sumAt u ts = 0 then (signBits t (c.rm == 2), {}) else
      roundTo t c (decide (sumAt u ts < 0)) (sumAt u ts).natAbs u := by
  obtain ⟨hsig, hnan, hinf, -⟩ := h.finite
  obtain ⟨x, xs, rfl⟩ := List.exists_cons_of_ne_nil hne
  obtain ⟨d, hd⟩ := Int.le.dest h.le_minExp
  have hmin := h.minExp
  simp only [sumF, hsig, hnan, hinf, Bool.false_or, Bool.and_false, Bool.false_eq_true, if_false]
  rw [← hd] at hmin ⊢
  rw [sumAt_scale hmin]
  have hpos : (0 : Int) < 2 ^ d := by positivity
  by_cases h0 : sumAt (u + d) (x :: xs) = 0
  · simp [h0, roundVal, roundTo, zeroSign_of_sum_zero hmin hne h0]
  · have hneg : (2 ^ d * sumAt (u + d) (x :: xs) < 0) = (sumAt (u + d) (x :: xs) < 0) := by
      simp [mul_neg_iff, hpos, hpos.le.not_gt]
    have habs : (2 ^ d * sumAt (u + d) (x :: xs)).natAbs = 2 ^ d * (sumAt (u + d) (x :: xs)).natAbs := by
      simp [Int.natAbs_mul, Int.natAbs_pow]
    have hu := roundTo_scale t c (decide (sumAt (u + d) (x :: xs) < 0)) (sumAt (u + d) (x :: xs)).natAbs d (u + d)
    rw [Int.add_sub_cancel] at hu
    simp only [h0, if_false, roundVal, mul_eq_zero, hpos.ne', or_self, hneg, habs, hu]

/-! ### The group sum inside its window (R96) -/

/-- The largest exponent is that of a term. -/
theorem maxExpOf_le {ts : List FVal} {b : Int} (hne : ts ≠ []) (h : ∀ t ∈ ts, expOf t ≤ b) : maxExpOf ts ≤ b := by
  induction ts with
  | nil => exact absurd rfl hne
  | cons t ts ih =>
    cases ts with
    | nil => exact h t (by simp)
    | cons t' ts => exact max_le (h t (by simp)) (ih (by simp) fun x hx => h x (by simp [hx]))

/-- Terms that end inside the window lose nothing: their contributions add up to their exact sum. -/
theorem sum_windowTerm {emax : Int} {w : Nat} {ts : List FVal} (h : InUnits (emax - w) ts) :
    (ts.map (windowTerm emax w)).sum = sumAt (emax - w - 1) ts := by
  induction ts with
  | nil => rfl
  | cons t ts ih =>
    obtain ⟨n, m, e, rfl, -, he, hts⟩ := h.cons_num
    have hexp : (e - (emax - w - 1)).toNat = (e - (emax - w)).toNat + 1 := by omega
    rw [List.map_cons, List.sum_cons, ih hts, sumAt, hexp]
    simp only [windowTerm, if_pos he, Nat.pow_succ]
    congr 2 <;> push_cast <;> ring

/-- A group sum whose terms lie inside the window is the exact sum, rounded once (R96). -/
theorem groupSum_exact {r : Rounding} {win : Nat} {acc : FVal} {ps : List FVal}
    (h : ∀ t ∈ acc :: ps, ∃ n m e, t = .num n m e ∧ m ≠ 0 ∧
      ∀ n' m' e', .num n' m' e' ∈ acc :: ps → (Nat.log2 m' : Int) + e' - win ≤ e) :
    (groupSum r win acc ps).bits = (roundVal .fp32 r (sumF r.rm (acc :: ps))).1 := by
  have hin : InUnits (maxExpOf (acc :: ps) - win) (acc :: ps) := by
    intro t ht
    obtain ⟨n, m, e, rfl, hm, hwin⟩ := h t ht
    refine ⟨n, m, e, rfl, hm, sub_le_iff_le_add.mpr (maxExpOf_le (by simp) fun x hx => ?_)⟩
    obtain ⟨n', m', e', rfl, -⟩ := h x hx
    exact sub_le_iff_le_add.mp (hwin n' m' e' hx)
  have hin' : InUnits (maxExpOf (acc :: ps) - win - 1) (acc :: ps) := fun t ht => by
    obtain ⟨n, m, e, rfl, hm, he⟩ := hin t ht
    exact ⟨n, m, e, rfl, hm, by omega⟩
  obtain ⟨n, m, e, rfl, -⟩ := hin.cons_num
  obtain ⟨hsig, hnan, hinf, hnz⟩ := hin.finite
  simp only [groupSum, hsig, hnan, hinf, hnz, Bool.false_or, Bool.and_false, Bool.false_eq_true, if_false, reduceCtorEq,
    sum_windowTerm hin, roundVal_sumF hin' (by simp)]
  split <;> rfl

end Sys2Proof.Machine
end

section
/-!
SUPPORT. The elements of an accumulator bank, and values of one group, chain link or block (04_arithmetic R95 to R99,
06_engines R142).
-/
namespace Sys2Proof.Machine

/-! ### Steps that write apart -/

/-- What no step of a fold changes. -/
theorem foldl_keeps {σ α ν : Type} {step : σ → α → σ} {val : σ → ν} {as : List α}
    (h : ∀ s, ∀ a ∈ as, val (step s a) = val s) (s : σ) : val (as.foldl step s) = val s := by
  induction as generalizing s with
  | nil => rfl
  | cons a as ih => rw [List.foldl_cons, ih fun s x hx => h s x (by simp [hx]), h s a (by simp)]

/-- Where each step of a fold leaves what the others write, the value at one step's place is what that step makes of the
first value. -/
theorem foldl_apart {σ α ν : Type} {step : σ → α → σ} (val : σ → α → ν) {as : List α} (hnd : as.Nodup)
    (hne : ∀ s, ∀ a ∈ as, ∀ b ∈ as, a ≠ b → val (step s a) b = val s b) (s : σ) {a : α} (ha : a ∈ as) :
    ∃ s', val s' a = val s a ∧ val (as.foldl step s) a = val (step s' a) a := by
  obtain ⟨bs, cs, rfl⟩ := List.append_of_mem ha
  rw [List.nodup_append, List.nodup_cons] at hnd
  obtain ⟨-, ⟨hcs, -⟩, hapart⟩ := hnd
  refine ⟨bs.foldl step s, foldl_keeps (val := (val · a)) (fun s b hb => ?_) s, ?_⟩
  · exact hne s b (by simp [hb]) a ha (hapart b hb a (by simp))
  · rw [List.foldl_append, List.foldl_cons]
    exact foldl_keeps (val := (val · a)) (fun s x hx => hne s x (by simp [hx]) a ha (ne_of_mem_of_not_mem hx hcs)) _

/-! ### Elements of a bank (R142) -/

/-- Element (i, j) of a bank as a kind reads it. -/
def Bank.cell (b : Bank) (kind : BankKind) (i j : Nat) : Nat := b.data.num (bankPlace kind i j).1 (bankPlace kind i j).2

theorem Bank.cell_of_ne {kind : BankKind} (h : kind ≠ .fp64) (b : Bank) (i j : Nat) :
    b.cell kind i j = b.data.num (256 * i + 4 * j) 4 := by
  rw [Bank.cell, bankPlace, if_neg h]

/-- Numbers of a memory that nothing has written are zero (log 2). -/
@[simp] theorem num_nil (a n : Nat) : Memory.num [] a n = 0 := by
  have hbytes : Memory.bytes [] a n = List.replicate n 0 := by simp [Memory.bytes, Memory.read, Memory.unlisted]
  rw [Memory.num, hbytes]
  clear hbytes
  induction n with
  | zero => rfl
  | succ n ih => rw [List.replicate_succ, natOfBytes, ih]; rfl

@[simp] theorem cell_emptyBank (kind : BankKind) (i j : Nat) : emptyBank.cell kind i j = 0 := num_nil ..

theorem cell_updateElement_self (kind : BankKind) (b : Bank) (i j : Nat) (f : Nat → Acc) :
    (updateElement kind b i j f).1.cell kind i j = (f (b.cell kind i j)).bits % 256 ^ (bankPlace kind i j).2 :=
  Memory.num_setNum ..

/-- Two elements of a bank's 64 columns do not share a byte. -/
theorem bankPlace_apart {kind : BankKind} {i j i' j' : Nat} (hj : j < 64) (hj' : j' < 64) (h : i ≠ i' ∨ j ≠ j') :
    (bankPlace kind i' j').1 + (bankPlace kind i' j').2 ≤ (bankPlace kind i j).1 ∨
      (bankPlace kind i j).1 + (bankPlace kind i j).2 ≤ (bankPlace kind i' j').1 := by
  unfold bankPlace
  split <;> simp only <;> omega

theorem cell_updateElement_ne {kind : BankKind} (b : Bank) {i j i' j' : Nat} (hj : j < 64) (hj' : j' < 64)
    (h : i ≠ i' ∨ j ≠ j') (f : Nat → Acc) : (updateElement kind b i j f).1.cell kind i' j' = b.cell kind i' j' :=
  Memory.num_setNum_of_disjoint _ _ _ _ _ _ (bankPlace_apart hj hj' h)

/-- A command's rectangle fits: its columns are columns of the bank. -/
theorem col_lt_of_fits {e : MEntry} {kind : BankKind} (h : e.fits kind = true) {j : Nat} (hj : j < e.cols) :
    e.col0 + j < 64 := by
  simp only [MEntry.fits, Bool.and_eq_true, decide_eq_true_eq] at h
  omega

/-- Each element of a command's rectangle is replaced by what its function makes of it. -/
theorem cell_updateTile {e : MEntry} {kind : BankKind} (hfit : e.fits kind = true) (b : Bank) (f : Nat → Nat → Nat → Acc)
    {i j : Nat} (hi : i < e.rows) (hj : j < e.cols) : (updateTile e kind b f).1.cell kind (e.row0 + i) (e.col0 + j) =
      (f i j (b.cell kind (e.row0 + i) (e.col0 + j))).bits % 256 ^ (bankPlace kind (e.row0 + i) (e.col0 + j)).2 := by
  have hcols : 0 < e.cols := by omega
  have hmod (n : Nat) : e.col0 + n % e.cols < 64 := col_lt_of_fits hfit (Nat.mod_lt _ hcols)
  have hn : i * e.cols + j ∈ List.range (e.rows * e.cols) := by
    have := Nat.mul_le_mul_right e.cols hi
    rw [Nat.succ_mul] at this
    exact List.mem_range.mpr (by omega)
  have hplace : (i * e.cols + j) / e.cols = i ∧ (i * e.cols + j) % e.cols = j := by
    rw [Nat.mul_comm, Nat.mul_add_div hcols, Nat.mul_add_mod, Nat.div_eq_of_lt hj, Nat.mod_eq_of_lt hj]
    simp
  obtain ⟨s', hs', hfold⟩ := foldl_apart
    (val := fun (p : Bank × Acc) n => p.1.cell kind (e.row0 + n / e.cols) (e.col0 + n % e.cols))
    (step := fun (p : Bank × Acc) n =>
      let i := n / e.cols
      let j := n % e.cols
      let (b, r) := updateElement kind p.1 (e.row0 + i) (e.col0 + j) (f i j)
      (b, Acc.also r p.2)) List.nodup_range
    (fun p n _ n' _ hne => cell_updateElement_ne p.1 (hmod n) (hmod n') (by
      by_contra hno
      push Not at hno
      exact hne (Nat.ext_div_mod (n := e.cols) (by omega) (by omega))) _)
    ({ b with kind }, .pure 0) hn
  simp only [hplace] at hs' hfold
  have hcell : s'.1.cell kind (e.row0 + i) (e.col0 + j) = b.cell kind (e.row0 + i) (e.col0 + j) := hs'
  exact hfold.trans ((cell_updateElement_self ..).trans (by rw [hcell]))

/-! ### Values of one group, chain link and block (R95 to R98) -/

/-- The k of at most one group are one group. -/
theorem groupsOf_one {g k : Nat} (h1 : 1 ≤ k) (hg : k ≤ g) : groupsOf g 0 k = [List.range k] := by
  have hceil : ceilDiv k g = 1 := by
    rw [ceilDiv, show k + g - 1 = k - 1 + 1 * g by omega, Nat.add_mul_div_right _ _ (by omega), Nat.div_eq_of_lt (by omega)]
  simp [groupsOf, hceil, hg]

/-- A value of w bits in two's complement. -/
theorem toInt_ofNat_eq {w : Nat} (hw : 1 ≤ w) (v : Nat) : (BitVec.ofNat w v).toInt =
    if 2 ^ (w - 1) ≤ v % 2 ^ w then ((v % 2 ^ w : Nat) : Int) - (2 ^ w : Nat) else (v % 2 ^ w : Nat) := by
  have hpow : 2 ^ w = 2 * 2 ^ (w - 1) := by rw [← Nat.pow_succ', Nat.succ_eq_add_one, Nat.sub_add_cancel hw]
  rw [BitVec.toInt, BitVec.toNat_ofNat]
  split <;> split <;> omega

/-- The value of a signed lane. -/
theorem intOf_signed {t : LaneType} (h : t.isSigned = true) (v : Nat) : intOf t v = (BitVec.ofNat (laneWidth t) v).toInt := by
  have hw : 1 ≤ laneWidth t := by cases t <;> decide
  simp only [toInt_ofNat_eq hw, intOf, h, Bool.true_and, decide_eq_true_eq, Nat.cast_pow, Nat.cast_ofNat]

/-- A mantissa's value (R94). -/
theorem bfpInt_eq {m : Nat} (hm : 1 ≤ m) (v : Nat) : bfpInt m v = (BitVec.ofNat m v).toInt := by
  rw [toInt_ofNat_eq hm]
  rfl

theorem bitsOfInt_eq (w : Nat) (v : Int) : bitsOfInt w v = (BitVec.ofInt w v).toNat := by
  rw [BitVec.toNat_ofInt, bitsOfInt]

/-- An integer that is clamped to the I32 range. -/
theorem packInt_i32 (v : Int) : (packInt .i32 true v).1 = (BitVec.ofInt 32 (max (-2 ^ 31) (min (2 ^ 31 - 1) v))).toNat := by
  have hr : intRange .i32 = (-2 ^ 31, 2 ^ 31 - 1) := rfl
  simp only [packInt, hr, Bool.true_and, decide_eq_true_eq, bitsOfInt_eq, show laneWidth .i32 = 32 from rfl]
  split
  · rw [show max (-2 ^ 31) (min (2 ^ 31 - 1) v) = -2 ^ 31 by omega]
  · split
    · rw [show max (-2 ^ 31) (min (2 ^ 31 - 1) v) = 2 ^ 31 - 1 by omega]
    · rw [show max (-2 ^ 31) (min (2 ^ 31 - 1) v) = v by omega]

/-- The value of one integer group (R97). -/
theorem bits_intGroup (c : Nat) (ps : List Int) : (intGroup c ps).bits =
    (BitVec.ofInt 32 (max (-2 ^ 31) (min (2 ^ 31 - 1) ((BitVec.ofNat 32 c).toInt + ps.sum)))).toNat := by
  rw [← packInt_i32, ← show intOf .i32 c = (BitVec.ofNat 32 c).toInt from intOf_signed rfl c, intGroup]

/-- A sum with a NaN is a NaN. -/
theorem sumF_nan (rm : Nat) (s : Bool) (p : FVal) : ∃ q, sumF rm [.nan s, p] = .nan q := by
  cases s <;> cases p <;> simp [sumF, FVal.isSig, FVal.isNaN]

/-- The value of one link of the FP64 chain (R95). -/
theorem bits_chainStep (c : Nat) (p : FVal) : (chainStep c p).bits =
    (roundVal .fp64 { rm := 0, fz := false } (sumF 0 [decodeF .fp64 c, p])).1 := by
  cases hx : decodeF .fp64 c with
  | nan s =>
    obtain ⟨q, hq⟩ := sumF_nan 0 false p
    obtain ⟨q', hq'⟩ := sumF_nan 0 s p
    simp only [chainStep, hx, hq, hq', roundVal]
  | inf n | num n m e =>
    simp only [chainStep, hx]
    generalize sumF 0 _ = v
    cases v <;> rfl

/-- The value of one block of the CIM path (R98). -/
theorem bits_blockStep (r : Rounding) (m c : Nat) (p : Int) (ea eb : Nat) : (blockStep r m c p ea eb).bits =
    if ea = 255 ∨ eb = 255 then canonNaN .fp32 else if ea = 0 ∨ eb = 0 then c
    else (roundVal .fp32 r (sumF r.rm [operandF .fp32 r.fz c,
      .num (decide (p < 0)) p.natAbs ((ea : Int) - 127 - (m - 2) + ((eb : Int) - 127 - 6))])).1 := by
  unfold blockStep
  split
  · rfl
  split
  · rfl
  cases hx : operandF .fp32 r.fz c with
  | nan s =>
    dsimp only
    generalize FVal.num (decide (p < 0)) p.natAbs _ = x
    obtain ⟨q, hq⟩ := sumF_nan r.rm false x
    obtain ⟨q', hq'⟩ := sumF_nan r.rm s x
    simp only [hq, hq', roundVal, Acc.pure]
  | inf n | num n m e =>
    dsimp only
    generalize sumF r.rm _ = v
    cases v <;> rfl

end Sys2Proof.Machine
end

section
/-!
SUPPORT. A matrix command at the head of its queue: what its start has checked, and the core that its one step leaves
(06_engines R135, R136, R139, R142).
-/
namespace Sys2Proof.Machine

/-! ### What a start has checked -/

/-- The head of a core's matrix queue is a record that passes the checks of its start. -/
structure State.Starts (s : State) (c : Nat) (e : MEntry) (rest : List MEntry) (cycles : Nat) : Prop where
  queue : (s.core c).mq = e :: rest
  works : (s.core c).works = true
  marker : e.marker = none
  run : e.run = none
  bad : e.bad = false
  start : (s.core c).startOf e (s.slot c e.slot).sample = .ok cycles

section
variable {k : CoreSt} {e : MEntry} {s : MSample} {cycles : Nat}

theorem startWith_ok {ok : Bool} {spans : List Span} {n : Nat} (h : k.startWith ok spans n = .ok cycles) : ok = true := by
  unfold CoreSt.startWith at h
  split at h
  · cases h
  next hno =>
  cases ok
  · simp at hno
  · rfl

theorem withTile_ok {kind : BankKind} {rows : List Nat} {r : MStart} (h : k.withTile e kind rows r = .ok cycles) :
    ∃ n, r = .ok n := by
  unfold CoreSt.withTile at h
  split at h
  · exact ⟨_, rfl⟩
  · exact ⟨_, h⟩

/-- A record that starts has its fields and its sync word in order, and passes the checks of its code. -/
theorem startOf_ok (h : k.startOf e s = .ok cycles) :
    (e.code = 0x12 → k.startMmab e s = .ok cycles) ∧ (e.code = 0x13 → k.startMadp e s = .ok cycles) ∧
      (e.code = 0x10 ∨ e.code = 0x11 → k.startMma e s = .ok cycles) := by
  unfold CoreSt.startOf at h
  split at h
  · split at h
    · cases h
    · refine ⟨fun hc => ?_, fun hc => ?_, fun hc => ?_⟩
      · simpa only [hc] using h
      · simpa only [hc] using h
      · rcases hc with hc | hc <;> simpa only [hc] using h
  · cases h

/-- MMA and MMAS start with k to add, and a tile that fits the bank of their class. -/
theorem startMma_ok {p : Pairing} (hp : pairing s.fmtA s.fmtB = some p) (h : k.startMma e s = .ok cycles) :
    1 ≤ e.k ∧ e.fits p.cls.kind = true := by
  unfold CoreSt.startMma at h
  split at h
  case h_1 => cases h
  case h_2 q hq =>
  cases Option.some.inj (hp.symm.trans hq)
  obtain ⟨n, hn⟩ := withTile_ok h
  have hok := startWith_ok hn
  simp only [Bool.and_eq_true, decide_eq_true_eq, and_assoc] at hok
  obtain ⟨hk, hfit, -⟩ := hok
  exact ⟨hk, hfit⟩

/-- MMAB starts with k to add, a mantissa of at least two bits, and a tile that fits. -/
theorem startMmab_ok (h : k.startMmab e s = .ok cycles) : 1 ≤ e.k ∧ 2 ≤ bfpm s.fmtA ∧ e.fits .fp32 = true := by
  unfold CoreSt.startMmab at h
  dsimp only at h
  split at h
  case h_2 hno => exact absurd h (hno _)
  case h_1 r n hn =>
  obtain ⟨n', hn'⟩ := withTile_ok hn
  have hok := startWith_ok hn'
  simp only [Bool.and_eq_true, decide_eq_true_eq, and_assoc] at hok
  obtain ⟨-, hm, -, -, hk, -, -, -, -, hfit, -⟩ := hok
  exact ⟨hk, hm, hfit⟩

/-- MADP starts with a tile that fits. -/
theorem startMadp_ok (h : k.startMadp e s = .ok cycles) : e.fits .fp32 = true := by
  unfold CoreSt.startMadp at h
  split at h
  case h_2 => cases h
  split at h
  case h_1 => cases h
  obtain ⟨n, hn⟩ := withTile_ok h
  have hok := startWith_ok hn
  simp only [Bool.and_eq_true, decide_eq_true_eq, and_assoc] at hok
  obtain ⟨-, -, -, -, -, -, -, -, -, -, -, hfit, -⟩ := hok
  exact hfit

end

/-! ### The bank that the zero bit clears (Table 6.3) -/

/-- What reads nothing of the working banks is the same after the zero bit has cleared one. -/
theorem clearFirst_congr {α : Type} (f : CoreSt → α) (h : ∀ k a b, f { k with acc0w := a, acc1w := b } = f k) (k : CoreSt)
    (e : MEntry) : f (k.clearFirst e) = f k := by
  unfold CoreSt.clearFirst CoreSt.setWorking
  split
  · split
    · exact h k k.acc0w emptyBank
    · exact h k emptyBank k.acc1w
  · rfl

theorem setWorking_congr {α : Type} (f : CoreSt → α) (h : ∀ k a b, f { k with acc0w := a, acc1w := b } = f k) (k : CoreSt)
    (acc : Bool) (b : Bank) : f (k.setWorking acc b) = f k := by
  unfold CoreSt.setWorking
  split
  · exact h k k.acc0w b
  · exact h k b k.acc1w

@[simp] theorem working_setWorking (k : CoreSt) (acc : Bool) (b : Bank) : (k.setWorking acc b).working acc = b := by
  cases acc <;> rfl

@[simp] theorem working_setWorking_other (k : CoreSt) (acc : Bool) (b : Bank) :
    (k.setWorking acc b).working (!acc) = k.working (!acc) := by
  cases acc <;> rfl

@[simp] theorem lm_clearFirst (k : CoreSt) (e : MEntry) : (k.clearFirst e).lm = k.lm :=
  clearFirst_congr CoreSt.lm (fun _ _ _ => rfl) k e

@[simp] theorem abuf_clearFirst (k : CoreSt) (e : MEntry) : (k.clearFirst e).abuf = k.abuf :=
  clearFirst_congr CoreSt.abuf (fun _ _ _ => rfl) k e

@[simp] theorem wbuf_clearFirst (k : CoreSt) (e : MEntry) : (k.clearFirst e).wbuf = k.wbuf :=
  clearFirst_congr CoreSt.wbuf (fun _ _ _ => rfl) k e

@[simp] theorem visible_clearFirst (k : CoreSt) (e : MEntry) (acc : Bool) : (k.clearFirst e).visible acc = k.visible acc :=
  clearFirst_congr (fun k => k.visible acc) (fun _ _ _ => rfl) k e

@[simp] theorem visible_setWorking (k : CoreSt) (acc acc' : Bool) (b : Bank) :
    (k.setWorking acc b).visible acc' = k.visible acc' :=
  setWorking_congr (fun k => k.visible acc') (fun _ _ _ => rfl) k acc b

@[simp] theorem working_clearFirst_other (k : CoreSt) (e : MEntry) :
    (k.clearFirst e).working (!e.acc) = k.working (!e.acc) := by
  unfold CoreSt.clearFirst
  split
  · exact working_setWorking_other ..
  · rfl

/-- An element that a command finds in its bank: zero if its zero bit clears that first. -/
theorem cell_clearFirst (k : CoreSt) (e : MEntry) (kind : BankKind) (i j : Nat) :
    ((k.clearFirst e).working e.acc).cell kind i j = if e.zero then 0 else (k.working e.acc).cell kind i j := by
  unfold CoreSt.clearFirst
  split
  · rw [working_setWorking, cell_emptyBank]
  · rfl

/-! ### The step of a command -/

@[simp] theorem lm_setHead (k : CoreSt) (e : MEntry) : (k.setHead e).lm = k.lm := rfl
@[simp] theorem wbuf_setHead (k : CoreSt) (e : MEntry) : (k.setHead e).wbuf = k.wbuf := rfl
@[simp] theorem working_setHead (k : CoreSt) (e : MEntry) (acc : Bool) : (k.setHead e).working acc = k.working acc := rfl
@[simp] theorem visible_setHead (k : CoreSt) (e : MEntry) (acc : Bool) : (k.setHead e).visible acc = k.visible acc := rfl

/-- No work is left of a command whose run has finished. -/
theorem workOn_setHead (k : CoreSt) {e : MEntry} {r : MRun} (he : e.run = some r) (hr : r.finished = true) (now n : Nat) :
    (k.setHead e).workOn now n = k.setHead e := by
  cases n with
  | zero => rfl
  | succ n => simp only [CoreSt.workOn, CoreSt.setHead, he, hr, Bool.true_or, if_true]

/-- The run that a command starts with. -/
def State.firstRun (s : State) (c : Nat) (e : MEntry) (cycles : Nat) : MRun :=
  newRun (s.slot c e.slot).sample (s.cycle + cycles) (cycles - startCycles e.code)

/-- A command that starts and whose first work is all its work leaves the core of that work. -/
theorem core_runMatrix {s : State} {c code : Nat} {e e' : MEntry} {rest : List MEntry} {cycles : Nat}
    (h : s.Starts c e rest cycles) (hc : e.code = code) {k : CoreSt} {r : MRun}
    (hw : ((s.core c).clearFirst e).work e (s.firstRun c e cycles) = k.setHead e') (he : e'.run = some r)
    (hr : r.finished = true) : (s.runMatrix c code).core c = k.setHead e' := by
  subst hc
  have hstart : (s.core c).startOf e ((s.core c).slot e.slot).sample = .ok cycles := h.start
  have hw' : ((s.core c).clearFirst e).work e
      (newRun ((s.core c).slot e.slot).sample (s.cycle + cycles) (cycles - startCycles e.code)) = k.setHead e' := hw
  have hgo : (e.marker.isSome || e.code != e.code || !(s.core c).works) = false := by simp [h.marker, h.works]
  simp only [State.runMatrix, h.queue, hgo, h.run, h.bad, hstart, hw', workOn_setHead k he hr, core_setCore_self,
    Bool.false_eq_true, if_false]

end Sys2Proof.Machine
end

section
/-!
SUPPORT. What the commands that accumulate leave in their bank: MMA, MMAS and MMAB (04_arithmetic R95 to R98, 06_engines
R145).
-/
namespace Sys2Proof.Machine

/-! ### One chunk (R202) -/

/-- A chunk of all the k of a command replaces its tile, and ends its run. -/
theorem chunk_all (k : CoreSt) {e : MEntry} {r : MRun} (kind : BankKind) (f : Nat → Nat → Nat → Nat → Nat → Acc)
    (hk : e.k ≤ 64) (hr : r.kDone = 0) : ∃ r' : MRun, r'.finished = true ∧ k.chunk e r kind f =
      (k.setWorking e.acc (updateTile e kind (k.working e.acc) (f 0 e.k)).1).setHead { e with run := some r' } := by
  have hmin : min e.k (0 + 64) = e.k := by omega
  refine ⟨{ r.record (updateTile e kind (k.working e.acc) (f 0 e.k)).2 with kDone := e.k, finished := true }, rfl, ?_⟩
  simp only [CoreSt.chunk, hr, hmin, le_refl, decide_true]

section
variable {s : State} {c code : Nat} {e : MEntry} {rest : List MEntry} {cycles : Nat}

/-- The element that a command of at most 64 k finds in its bank. -/
def State.oldCell (s : State) (c : Nat) (e : MEntry) (kind : BankKind) (i j : Nat) : Nat :=
  if e.zero then 0 else ((s.core c).working e.acc).cell kind (e.row0 + i) (e.col0 + j)

/-- The element that it leaves. -/
def State.newCell (s : State) (c : Nat) (e : MEntry) (kind : BankKind) (i j : Nat) : Nat :=
  ((s.core c).working e.acc).cell kind (e.row0 + i) (e.col0 + j)

/-- A command that starts, and whose work is one chunk, makes each element of its tile of the element before. -/
theorem newCell_chunk (h : s.Starts c e rest cycles) (hc : e.code = code) {kind : BankKind}
    {f : Nat → Nat → Nat → Nat → Nat → Acc} (hfit : e.fits kind = true) (hk : e.k ≤ 64)
    (hw : ((s.core c).clearFirst e).work e (s.firstRun c e cycles) =
      ((s.core c).clearFirst e).chunk e (s.firstRun c e cycles) kind f) {i j : Nat} (hi : i < e.rows) (hj : j < e.cols) :
    (s.runMatrix c code).newCell c e kind i j =
      (f 0 e.k i j (s.oldCell c e kind i j)).bits % 256 ^ (bankPlace kind (e.row0 + i) (e.col0 + j)).2 := by
  obtain ⟨r', hfin, hchunk⟩ := chunk_all ((s.core c).clearFirst e) kind f hk (r := s.firstRun c e cycles) rfl
  rw [State.newCell, core_runMatrix h hc (hw.trans hchunk) rfl hfin]
  change ((((s.core c).clearFirst e).setWorking e.acc _).working e.acc).cell kind _ _ = _
  rw [working_setWorking, cell_updateTile hfit _ _ hi hj, cell_clearFirst]
  rfl

/-- Elements of four bytes hold a value of 32 bits. -/
theorem bankPlace_width {kind : BankKind} (h : kind ≠ .fp64) (i j : Nat) : 256 ^ (bankPlace kind i j).2 = 2 ^ 32 := by
  simp [bankPlace, h]

/-! ### MMA and MMAS (R337, R338) -/

/-- The group and the bank kind of a class (Table 6.9, R142). -/
theorem rateClass_group {t : LaneType} {cls : RateClass} (h : rateClass t = some cls) : cls.group ≤ 8 ∧
    (cls.id = 0 → cls.kind = .fp64 ∧ cls.group = 1) ∧ (cls.id = 4 → cls.kind = .i32 ∧ cls.group = 8) ∧
    (cls.id ≠ 0 → cls.id ≠ 4 → cls.kind = .fp32) := by
  cases t <;> cases h <;> decide

theorem pairing_group {a b : BitVec 12} {p : Pairing} (h : pairing a b = some p) : p.cls.group ≤ 8 ∧
    (p.cls.id = 0 → p.cls.kind = .fp64 ∧ p.cls.group = 1) ∧ (p.cls.id = 4 → p.cls.kind = .i32 ∧ p.cls.group = 8) ∧
    (p.cls.id ≠ 0 → p.cls.id ≠ 4 → p.cls.kind = .fp32) := by
  unfold pairing at h
  split at h
  case h_2 => cases h
  split at h
  case h_2 => cases h
  case h_1 ca cb hca hcb =>
  split at h
  case isFalse => cases h
  cases h
  exact rateClass_group hca

/-- The k that MMA or MMAS adds. -/
def CoreSt.liveKs (k : CoreSt) (e : MEntry) : List Nat := (List.range e.k).filter (k.live e)

/-- Every k counts for MMA. -/
theorem liveKs_mma (k : CoreSt) (hc : e.code = 0x10) : k.liveKs e = List.range e.k :=
  List.filter_eq_self.mpr fun _ _ => if_pos hc

/-- The k that the bitmap in LM names count for MMAS (R338). -/
theorem liveKs_mmas (k : CoreSt) (hc : e.code = 0x11) (hmap : bitAt (e.w 3) 17 = false) : k.liveKs e =
    (List.range e.k).filter fun x => (k.lm.read (bits (e.w 3) 16 0 + x / 8)).getLsbD (x % 8) := by
  refine List.filter_congr fun x _ => ?_
  simp only [CoreSt.live, hc, hmap, Bool.false_eq_true, if_false, Nat.reduceEqDiff]

@[simp] theorem product_clearFirst (k : CoreSt) (e : MEntry) : (k.clearFirst e).product = k.product :=
  clearFirst_congr (fun k => k.product) (fun _ _ _ => rfl) k e

@[simp] theorem intProduct_clearFirst (k : CoreSt) (e : MEntry) : (k.clearFirst e).intProduct = k.intProduct :=
  clearFirst_congr (fun k => k.intProduct) (fun _ _ _ => rfl) k e

@[simp] theorem live_clearFirst (k : CoreSt) (e : MEntry) : (k.clearFirst e).live = k.live :=
  clearFirst_congr (fun k => k.live) (fun _ _ _ => rfl) k e

section
variable {k : CoreSt} {sm : MSample} {p : Pairing} (h1 : 1 ≤ e.k) (hg : e.k ≤ p.cls.group)
include h1 hg

theorem mmaElement_i32 (hkind : p.cls.kind = .i32) (i j a : Nat) : (k.mmaElement e sm p 0 e.k i j a).bits =
    (intGroup a ((k.liveKs e).map (k.intProduct e p i j))).bits := by
  simp [CoreSt.mmaElement, groupsOf_one h1 hg, hkind, accFold, Acc.also, Acc.pure, CoreSt.liveKs]

theorem mmaElement_fp32 (hkind : p.cls.kind = .fp32) (i j a : Nat) : (k.mmaElement e sm p 0 e.k i j a).bits =
    (groupSum { rm := sm.rm, fz := sm.fz } (if p.cls.id = 1 then 64 else 48) (operandF .fp32 sm.fz a)
      ((k.liveKs e).map (k.product e sm p i j))).bits := by
  simp [CoreSt.mmaElement, groupsOf_one h1 hg, hkind, accFold, Acc.also, Acc.pure, CoreSt.liveKs]

theorem mmaElement_fp64 (hkind : p.cls.kind = .fp64) (i j a : Nat) : (k.mmaElement e sm p 0 e.k i j a).bits =
    (accFold chainStep (.pure a) ((k.liveKs e).map (k.product e sm p i j))).bits := by
  simp [CoreSt.mmaElement, groupsOf_one h1 hg, hkind, CoreSt.liveKs]

end

/-- The work of MMA and of MMAS with a live k is a chunk; without one, MMAS leaves its bank. -/
theorem work_mma {k : CoreSt} {r : MRun} {p : Pairing} (hc : e.code = 0x10 ∨ e.code = 0x11)
    (hp : pairing r.sample.fmtA r.sample.fmtB = some p) (hr : r.kDone = 0) : k.work e r =
      if k.liveKs e = [] then k.setHead { e with run := some { r with empty := true, finished := true } }
      else k.chunk e r p.cls.kind (k.mmaElement e r.sample p) := by
  have hlive : (k.liveCount e = 0 ∧ r.kDone = 0) = (k.liveKs e = []) := by
    simp [CoreSt.liveCount, CoreSt.liveKs, hr]
  rcases hc with hc | hc <;>
  · unfold CoreSt.work
    simp only [hc, hlive, hp]

/-- What MMA and MMAS leave of an element, over at most one group. -/
theorem newCell_mma (h : s.Starts c e rest cycles) (hc : e.code = code) (hcode : code = 0x10 ∨ code = 0x11) {p : Pairing}
    (hp : pairing (s.slot c e.slot).sample.fmtA (s.slot c e.slot).sample.fmtB = some p) (hg : e.k ≤ p.cls.group)
    {i j : Nat} (hi : i < e.rows) (hj : j < e.cols) : 1 ≤ e.k ∧ (s.runMatrix c code).newCell c e p.cls.kind i j =
      if (s.core c).liveKs e = [] then s.oldCell c e p.cls.kind i j
      else (((s.core c).clearFirst e).mmaElement e (s.slot c e.slot).sample p 0 e.k i j (s.oldCell c e p.cls.kind i j)).bits %
        256 ^ (bankPlace p.cls.kind (e.row0 + i) (e.col0 + j)).2 := by
  obtain ⟨h1, hfit⟩ := startMma_ok hp ((startOf_ok h.start).2.2 (hc ▸ hcode))
  have hlive : ((s.core c).clearFirst e).liveKs e = (s.core c).liveKs e := by rw [CoreSt.liveKs, live_clearFirst, CoreSt.liveKs]
  have hw := work_mma (k := (s.core c).clearFirst e) (r := s.firstRun c e cycles) (hc ▸ hcode) hp rfl
  rw [hlive] at hw
  refine ⟨h1, ?_⟩
  split
  next hno =>
    rw [if_pos hno] at hw
    rw [State.newCell, core_runMatrix h hc hw rfl rfl]
    exact cell_clearFirst ..
  next hsome =>
    rw [if_neg hsome] at hw
    have := (pairing_group hp).1
    exact newCell_chunk h hc hfit (by omega) hw hi hj

theorem oldCell_lt {kind : BankKind} (hkind : kind ≠ .fp64) (i j : Nat) : s.oldCell c e kind i j < 2 ^ 32 := by
  unfold State.oldCell
  split
  · decide
  · exact Bank.cell_of_ne hkind .. ▸ Memory.num_lt ..

theorem bits_intGroup_lt (a : Nat) (ps : List Int) : (intGroup a ps).bits < 2 ^ 32 := bits_intGroup a ps ▸ BitVec.isLt _

/-- An integer group without products leaves its element. -/
theorem bits_intGroup_nil {a : Nat} (ha : a < 2 ^ 32) : (intGroup a []).bits = a := by
  have hlo := BitVec.le_toInt (BitVec.ofNat 32 a)
  have hhi := BitVec.toInt_lt (x := BitVec.ofNat 32 a)
  rw [bits_intGroup, List.sum_nil, Int.add_zero, Int.min_eq_right (by omega), Int.max_eq_right (by omega), BitVec.ofInt_toInt,
    BitVec.toNat_ofNat, Nat.mod_eq_of_lt ha]

section
variable (h : s.Starts c e rest cycles) {p : Pairing}
  (hp : pairing (s.slot c e.slot).sample.fmtA (s.slot c e.slot).sample.fmtB = some p) {i j : Nat} (hi : i < e.rows)
  (hj : j < e.cols)
include h hp hi hj

/-- MMA and MMAS over one integer group (R97). -/
theorem newCell_mma_i32 (hc : e.code = code) (hcode : code = 0x10 ∨ code = 0x11) (hid : p.cls.id = 4) (hk : e.k ≤ 8) :
    (s.runMatrix c code).newCell c e .i32 i j =
      (intGroup (s.oldCell c e .i32 i j) (((s.core c).liveKs e).map ((s.core c).intProduct e p i j))).bits := by
  obtain ⟨hkind, hgroup⟩ := (pairing_group hp).2.2.1 hid
  obtain ⟨h1, hcell⟩ := newCell_mma h hc hcode hp (by omega) hi hj
  rw [hkind] at hcell
  rw [hcell]
  split
  next hno => rw [hno, List.map_nil, bits_intGroup_nil (oldCell_lt (by decide) ..)]
  next =>
    rw [mmaElement_i32 h1 (by omega) hkind, bankPlace_width (by decide), Nat.mod_eq_of_lt (bits_intGroup_lt ..),
      intProduct_clearFirst, CoreSt.liveKs, live_clearFirst, CoreSt.liveKs]

/-- MMA over one floating-point group (R96). -/
theorem newCell_mma_fp32 (hc : e.code = 0x10) (h0 : p.cls.id ≠ 0) (h4 : p.cls.id ≠ 4) (hk : e.k ≤ p.cls.group) :
    (s.runMatrix c 0x10).newCell c e .fp32 i j = (groupSum { rm := (s.slot c e.slot).rm, fz := (s.slot c e.slot).fz }
      (if p.cls.id = 1 then 64 else 48) (operandF .fp32 (s.slot c e.slot).fz (s.oldCell c e .fp32 i j))
      ((List.range e.k).map ((s.core c).product e (s.slot c e.slot).sample p i j))).bits % 2 ^ 32 := by
  have hkind := (pairing_group hp).2.2.2 h0 h4
  obtain ⟨h1, hcell⟩ := newCell_mma h hc (.inl rfl) hp hk hi hj
  have hsome : (s.core c).liveKs e ≠ [] := by rw [liveKs_mma _ hc]; simp; omega
  rw [if_neg hsome, hkind, mmaElement_fp32 h1 hk hkind, bankPlace_width (by decide), product_clearFirst, liveKs_mma _ hc] at hcell
  exact hcell

/-- MMA over one k of FP64: a link of the chain (R95). -/
theorem newCell_mma_fp64 (hc : e.code = 0x10) (h0 : p.cls.id = 0) (hk : e.k = 1) :
    (s.runMatrix c 0x10).newCell c e .fp64 i j = (roundVal .fp64 { rm := 0, fz := false } (sumF 0
      [decodeF .fp64 (s.oldCell c e .fp64 i j), (s.core c).product e (s.slot c e.slot).sample p i j 0])).1 % 2 ^ 64 := by
  obtain ⟨hkind, hgroup⟩ := (pairing_group hp).2.1 h0
  obtain ⟨h1, hcell⟩ := newCell_mma h hc (.inl rfl) hp (by omega) hi hj
  have hsome : (s.core c).liveKs e ≠ [] := by rw [liveKs_mma _ hc]; simp; omega
  rw [if_neg hsome, hkind, mmaElement_fp64 h1 (by omega) hkind, product_clearFirst, liveKs_mma _ hc, hk] at hcell
  exact hcell.trans (congrArg (· % 2 ^ 64) (bits_chainStep ..))

end

/-! ### MMAB (R339) -/

/-- Operand A of the space that one bit of a record names. -/
theorem space_bit (k : CoreSt) (w : Word) : k.space (bits w 17 17) = if bits w 17 17 = 1 then k.lm else k.abuf := by
  have hlt : bits w 17 17 < 2 := Nat.mod_lt _ (by decide)
  obtain h | h : bits w 17 17 = 0 ∨ bits w 17 17 = 1 := by omega
  all_goals rw [h]; rfl

@[simp] theorem mmabElement_clearFirst (k : CoreSt) (e : MEntry) : (k.clearFirst e).mmabElement = k.mmabElement :=
  clearFirst_congr (fun k => k.mmabElement) (fun _ _ _ => rfl) k e

/-- The exact sum of products of one block: a row of mantissas of m bits with a column of the weights (R98). -/
def CoreSt.blockDot (k : CoreSt) (e : MEntry) (m i j : Nat) : Int :=
  let mant := (if bits (e.w 1) 17 17 = 1 then k.lm else k.abuf).num (bits (e.w 1) 16 0 + i * bits (e.w 1) 47 32) (4 * m)
  ((List.range e.k).map (fun q => (BitVec.ofNat m (mant / 2 ^ (m * q))).toInt *
    (k.wbuf.read (4096 * bits (e.w 2) 3 0 + 64 * q + j)).toInt)).sum

/-- The two exponents of one block. -/
def CoreSt.blockExps (k : CoreSt) (e : MEntry) (i j : Nat) : Nat × Nat :=
  ((k.lm.read (bits (e.w 5) 16 0 + i * bits (e.w 5) 47 32)).toNat, (((find k.cimExp (bits (e.w 2) 3 0)).getD []).read j).toNat)

/-- MMAB's k of at most one block are that block. -/
theorem mmabElement_block {k : CoreSt} {sm : MSample} (h1 : 1 ≤ e.k) (h32 : e.k ≤ 32) (hm : 2 ≤ bfpm sm.fmtA)
    (i j a : Nat) : (k.mmabElement e sm 0 e.k i j a).bits = (blockStep { rm := sm.rm, fz := sm.fz } (bfpm sm.fmtA) a
      (k.blockDot e (bfpm sm.fmtA) i j) (k.blockExps e i j).1 (k.blockExps e i j).2).bits := by
  have hblocks : ceilDiv e.k 32 = 1 := by rw [ceilDiv]; omega
  have hbyte (b : Byte) : bfpInt 8 b.toNat = b.toInt := by rw [bfpInt_eq (by decide), BitVec.ofNat_toNat, BitVec.setWidth_eq]
  have hm1 : 1 ≤ bfpm sm.fmtA := by omega
  simp [CoreSt.mmabElement, CoreSt.blockDot, CoreSt.blockExps, hblocks, accFold, Acc.also, Acc.pure, MEntry.macros, space_bit,
    h32, bfpInt_eq hm1, hbyte]

/-- MMAB over one block (R98): the NaN of a NaN exponent, the element before under a zero one, else the exact sum added to
it and rounded once. -/
theorem newCell_mmab (h : s.Starts c e rest cycles) (hc : e.code = 0x12) (hk : e.k ≤ 32) {i j : Nat} (hi : i < e.rows)
    (hj : j < e.cols) :
    let r : Rounding := { rm := (s.slot c e.slot).rm, fz := (s.slot c e.slot).fz }
    let m := bfpm (s.slot c e.slot).mfmta
    let ea := ((s.core c).blockExps e i j).1
    let eb := ((s.core c).blockExps e i j).2
    let sum := (s.core c).blockDot e m i j
    (s.runMatrix c 0x12).newCell c e .fp32 i j = if ea = 255 ∨ eb = 255 then canonNaN .fp32
      else if ea = 0 ∨ eb = 0 then s.oldCell c e .fp32 i j
      else (roundVal .fp32 r (sumF r.rm [operandF .fp32 r.fz (s.oldCell c e .fp32 i j),
        .num (decide (sum < 0)) sum.natAbs ((ea : Int) - 127 - (m - 2) + ((eb : Int) - 127 - 6))])).1 % 2 ^ 32 := by
  intro r m ea eb sum
  obtain ⟨h1, hm, hfit⟩ := startMmab_ok ((startOf_ok h.start).1 hc)
  have hw : ((s.core c).clearFirst e).work e (s.firstRun c e cycles) = ((s.core c).clearFirst e).chunk e
      (s.firstRun c e cycles) .fp32 (((s.core c).clearFirst e).mmabElement e (s.slot c e.slot).sample) := by
    unfold CoreSt.work
    rw [hc]
    rfl
  have hcell := newCell_chunk h hc hfit (by omega) hw hi hj
  rw [bankPlace_width (by decide), mmabElement_clearFirst, mmabElement_block h1 hk hm, bits_blockStep] at hcell
  rw [hcell]
  split
  · rfl
  split
  · exact Nat.mod_eq_of_lt (oldCell_lt (by decide) ..)
  · rfl

end

end Sys2Proof.Machine
end

section
/-!
SUPPORT. What MADP, MZERO and MLDW leave (04_arithmetic R99, 06_engines R144, and R327, R336, R343).
-/
namespace Sys2Proof.Machine

/-! ### One row of MADP (R99, R327) -/

section
variable {k : CoreSt} {e : MEntry} {sm : MSample} {ta tb : LaneType}

/-- An element of a row of FP32 replaced, with the events. -/
def MEntry.colStep (e : MEntry) (row : Nat) (f : Nat → Nat → Acc) (p : Bank × Acc) (j : Nat) : Bank × Acc :=
  let q := updateElement .fp32 p.1 row (e.col0 + j) (f j)
  (q.1, q.2.also p.2)

theorem colStep_fst (row : Nat) (f : Nat → Nat → Acc) (p : Bank × Acc) (j : Nat) :
    (e.colStep row f p j).1 = (updateElement .fp32 p.1 row (e.col0 + j) (f j)).1 := rfl

theorem cell_colStep_self (row : Nat) (f : Nat → Nat → Acc) (p : Bank × Acc) (j : Nat) :
    (e.colStep row f p j).1.cell .fp32 row (e.col0 + j) = (f j (p.1.cell .fp32 row (e.col0 + j))).bits % 2 ^ 32 := by
  rw [colStep_fst, cell_updateElement_self, bankPlace_width (by decide)]

theorem cell_colStep_ne (hfit : e.fits .fp32 = true) {row row' j j' : Nat} (hj : j < e.cols) (hj' : j' < e.cols)
    (h : row ≠ row' ∨ j ≠ j') (f : Nat → Nat → Acc) (p : Bank × Acc) :
    (e.colStep row f p j).1.cell .fp32 row' (e.col0 + j') = p.1.cell .fp32 row' (e.col0 + j') := by
  rw [colStep_fst]
  exact cell_updateElement_ne _ (col_lt_of_fits hfit hj) (col_lt_of_fits hfit hj') (h.imp_right (by omega)) _

/-- The elements of one row replaced in turn: each by what its function makes of it. -/
theorem cell_foldl_colStep (hfit : e.fits .fp32 = true) (f : Nat → Nat → Acc) (row : Nat) (p : Bank × Acc) {j : Nat}
    (hj : j < e.cols) : ((List.range e.cols).foldl (e.colStep row f) p).1.cell .fp32 row (e.col0 + j) =
      (f j (p.1.cell .fp32 row (e.col0 + j))).bits % 2 ^ 32 := by
  obtain ⟨s', hs', hfold⟩ := foldl_apart (val := fun (p : Bank × Acc) j => p.1.cell .fp32 row (e.col0 + j))
    (step := e.colStep row f) List.nodup_range (fun p j hj j' hj' hne =>
      cell_colStep_ne hfit (List.mem_range.mp hj) (List.mem_range.mp hj') (.inr hne) f p) p (List.mem_range.mpr hj)
  rw [hfold, cell_colStep_self, hs']

/-- The other rows stay. -/
theorem cell_foldl_colStep_ne (hfit : e.fits .fp32 = true) (f : Nat → Nat → Acc) {row row' : Nat} (hrow : row ≠ row')
    (p : Bank × Acc) {j : Nat} (hj : j < e.cols) :
    ((List.range e.cols).foldl (e.colStep row f) p).1.cell .fp32 row' (e.col0 + j) = p.1.cell .fp32 row' (e.col0 + j) :=
  foldl_keeps (val := fun p : Bank × Acc => p.1.cell .fp32 row' (e.col0 + j)) (fun p _ hj' =>
    cell_colStep_ne hfit (List.mem_range.mp hj') hj (.inl hrow) f p) p

/-- Element (row, n) of an operand of MADP. -/
def CoreSt.madpElem (k : CoreSt) (fz : Bool) (t : LaneType) (x : Span) (row n : Nat) : FVal :=
  operandF t fz (element (k.space x.space) t (x.off + row * x.stride) n)

/-- The intermediate elements of a row, A's row times the columns of Down, each times α and rounded, with its events (R99). -/
def CoreSt.madpScaled (k : CoreSt) (e : MEntry) (sm : MSample) (ta tb : LaneType) (d : Span) (i : Nat) : List (Nat × Acc) :=
  ((List.range e.rank).map fun q => sumR96 sm (ta == .fp32 && tb == .fp32) 0
    ((List.range e.k).map fun x => mulF (k.madpElem sm.fz ta (e.spanA ta) i x) (k.madpElem sm.fz tb d x q))).map fun h =>
      let x := roundVal .fp32 { rm := sm.rm, fz := sm.fz } (mulF (operandF .fp32 sm.fz (bits (e.w 5) 63 32))
        (operandF .fp32 sm.fz h.bits))
      (x.1, { bits := x.1, nv := h.nv || x.2.nv, of := h.of || x.2.of, sat := false })

/-- Element j of a row's bank after the scaled elements times a column of Up. -/
def CoreSt.madpUp (k : CoreSt) (e : MEntry) (sm : MSample) (ta tb : LaneType) (d u : Span) (i j a : Nat) : Acc :=
  sumR96 sm (ta == .fp32 && tb == .fp32) a ((List.range e.rank).map fun q =>
    mulF (operandF .fp32 sm.fz ((k.madpScaled e sm ta tb d i).getD q (0, .pure 0)).1) (k.madpElem sm.fz tb u q j))

/-- The work of a row without an adapter. -/
theorem madpRow_none (b : Bank) {i : Nat} (h : k.adapter e i = none) : k.madpRow e sm ta tb b i = (b, .pure 0) := by
  rw [CoreSt.madpRow, h]
  rfl

/-- The work of a row with an adapter: the row's elements in turn. -/
theorem madpRow_some (b : Bank) {i : Nat} {d u : Span} (h : (k.adapter e i).bind (k.adapterSpans e tb) = some (d, u)) :
    ∃ events, k.madpRow e sm ta tb b i =
      (List.range e.cols).foldl (e.colStep (e.row0 + i) (k.madpUp e sm ta tb d u i)) (b, events) := by
  rw [CoreSt.madpRow, h]
  exact ⟨_, rfl⟩

/-- A row's work leaves the other rows. -/
theorem cell_madpRow_ne (hfit : e.fits .fp32 = true) (b : Bank) {i i' j : Nat} (hi : i ≠ i') (hj : j < e.cols) :
    (k.madpRow e sm ta tb b i).1.cell .fp32 (e.row0 + i') (e.col0 + j) = b.cell .fp32 (e.row0 + i') (e.col0 + j) := by
  cases h : (k.adapter e i).bind (k.adapterSpans e tb) with
  | none => rw [CoreSt.madpRow, h]
  | some x =>
    obtain ⟨events, hrow⟩ := madpRow_some (sm := sm) (ta := ta) b h
    rw [hrow]
    exact cell_foldl_colStep_ne hfit _ (by omega) _ hj

/-- A sum of one term is one group sum (R96). -/
theorem bits_sumR96_one (sm : MSample) (full : Bool) (a : Nat) (x : FVal) : (sumR96 sm full a [x]).bits =
    (groupSum { rm := sm.rm, fz := sm.fz } (if full then 64 else 48) (operandF .fp32 sm.fz a) [x]).bits := by
  have hgroup : groupsOf (if full then 4 else 8) 0 1 = [[0]] := groupsOf_one le_rfl (by split <;> omega)
  simp [sumR96, hgroup, accFold, Acc.also, Acc.pure]

/-- The two products of a row over one k and at rank 1 (R99). -/
theorem bits_madpUp_one (hk : e.k = 1) (hrank : e.rank = 1) (d u : Span) (i j a : Nat) :
    let r : Rounding := { rm := sm.rm, fz := sm.fz }
    let win := if ta = .fp32 ∧ tb = .fp32 then 64 else 48
    let h := (groupSum r win (operandF .fp32 sm.fz 0)
      [mulF (k.madpElem sm.fz ta (e.spanA ta) i 0) (k.madpElem sm.fz tb d 0 0)]).bits
    let v := (roundVal .fp32 r (mulF (operandF .fp32 sm.fz (bits (e.w 5) 63 32)) (operandF .fp32 sm.fz h))).1
    (k.madpUp e sm ta tb d u i j a).bits =
      (groupSum r win (operandF .fp32 sm.fz a) [mulF (operandF .fp32 sm.fz v) (k.madpElem sm.fz tb u 0 j)]).bits := by
  have hwin : (if (ta == .fp32 && tb == .fp32) = true then 64 else 48) = if ta = .fp32 ∧ tb = .fp32 then 64 else 48 := by simp
  simp only [CoreSt.madpUp, CoreSt.madpScaled, hk, hrank, List.range_one, List.map_cons, List.map_nil, bits_sumR96_one, hwin,
    List.getD_cons_zero]

/-! ### MADP -/

@[simp] theorem madpRow_clearFirst (k : CoreSt) (e : MEntry) : (k.clearFirst e).madpRow = k.madpRow :=
  clearFirst_congr (fun k => k.madpRow) (fun _ _ _ => rfl) k e

/-- The rows of MADP in turn. -/
def CoreSt.madpRows (k : CoreSt) (e : MEntry) (sm : MSample) (ta tb : LaneType) (b : Bank) : Bank × Acc :=
  (List.range e.rows).foldl (fun p i => ((k.madpRow e sm ta tb p.1 i).1, (k.madpRow e sm ta tb p.1 i).2.also p.2))
    ({ b with kind := .fp32 }, .pure 0)

/-- An element of a row is what the row's own work makes of it. -/
theorem cell_madpRows (hfit : e.fits .fp32 = true) (b : Bank) {i j : Nat} (hi : i < e.rows) (hj : j < e.cols) :
    ∃ b' : Bank, b'.cell .fp32 (e.row0 + i) (e.col0 + j) = b.cell .fp32 (e.row0 + i) (e.col0 + j) ∧
      (k.madpRows e sm ta tb b).1.cell .fp32 (e.row0 + i) (e.col0 + j) =
        (k.madpRow e sm ta tb b' i).1.cell .fp32 (e.row0 + i) (e.col0 + j) := by
  obtain ⟨p, hp, hfold⟩ := foldl_apart (val := fun (p : Bank × Acc) i => p.1.cell .fp32 (e.row0 + i) (e.col0 + j))
    (step := fun p i => ((k.madpRow e sm ta tb p.1 i).1, (k.madpRow e sm ta tb p.1 i).2.also p.2))
    List.nodup_range (fun p i _ i' _ hne => cell_madpRow_ne hfit p.1 hne hj)
    ({ b with kind := .fp32 }, .pure 0) (List.mem_range.mpr hi)
  exact ⟨p.1, hp, hfold⟩

/-- The work of MADP under two formats (R327). -/
theorem work_madp {r : MRun} (hc : e.code = 0x13) {fa fb : Nat} (hA : fmtOf r.sample.fmtA = some (ta, fa))
    (hB : fmtOf r.sample.fmtB = some (tb, fb)) : ∃ r' : MRun, r'.finished = true ∧ k.work e r =
      (k.setWorking e.acc (k.madpRows e r.sample ta tb (k.working e.acc)).1).setHead { e with run := some r' } := by
  unfold CoreSt.work
  rw [hc]
  dsimp only
  rw [hA, hB]
  exact ⟨_, rfl, rfl⟩

/-- Formats that are not assigned leave the bank. -/
theorem work_madp_none {r : MRun} (hc : e.code = 0x13) (h : fmtOf r.sample.fmtA = none ∨ fmtOf r.sample.fmtB = none) :
    ∃ r' : MRun, r'.finished = true ∧ k.work e r = k.setHead { e with run := some r' } := by
  unfold CoreSt.work
  rw [hc]
  dsimp only
  rcases h with h | h
  · rw [h]
    exact ⟨_, rfl, rfl⟩
  · rw [h]
    cases fmtOf r.sample.fmtA <;> exact ⟨_, rfl, rfl⟩

variable {s : State} {c : Nat} {rest : List MEntry} {cycles : Nat} (h : s.Starts c e rest cycles) (hc : e.code = 0x13)
  {i j : Nat} (hi : i < e.rows) (hj : j < e.cols)
include h hc hi hj

/-- What MADP leaves of an element is what the row's work makes of a bank that holds the element before. -/
theorem newCell_madp {fa fb : Nat} (hA : fmtOf (s.slot c e.slot).mfmta = some (ta, fa))
    (hB : fmtOf (s.slot c e.slot).mfmtb = some (tb, fb)) :
    ∃ b : Bank, b.cell .fp32 (e.row0 + i) (e.col0 + j) = s.oldCell c e .fp32 i j ∧
      (s.runMatrix c 0x13).newCell c e .fp32 i j =
        ((s.core c).madpRow e (s.slot c e.slot).sample ta tb b i).1.cell .fp32 (e.row0 + i) (e.col0 + j) := by
  have hfit := startMadp_ok ((startOf_ok h.start).2.1 hc)
  obtain ⟨r', hfin, hw⟩ := work_madp (k := (s.core c).clearFirst e) (r := s.firstRun c e cycles) hc hA hB
  obtain ⟨b, hb, hcell⟩ := cell_madpRows (k := (s.core c).clearFirst e) (sm := (s.slot c e.slot).sample) (ta := ta) (tb := tb)
    hfit (((s.core c).clearFirst e).working e.acc) hi hj
  refine ⟨b, hb.trans (cell_clearFirst ..), ?_⟩
  rw [State.newCell, core_runMatrix h hc hw rfl hfin, ← madpRow_clearFirst _ e, ← hcell]
  exact congrArg (fun b : Bank => b.cell .fp32 (e.row0 + i) (e.col0 + j)) (working_setWorking ..)

/-- A row without an adapter is left (R327). -/
theorem newCell_madp_none (hno : (s.core c).adapter e i = none) :
    (s.runMatrix c 0x13).newCell c e .fp32 i j = s.oldCell c e .fp32 i j := by
  by_cases hf : fmtOf (s.slot c e.slot).mfmta = none ∨ fmtOf (s.slot c e.slot).mfmtb = none
  · obtain ⟨r', hfin, hw⟩ := work_madp_none (k := (s.core c).clearFirst e) (r := s.firstRun c e cycles) hc hf
    rw [State.newCell, core_runMatrix h hc hw rfl hfin]
    exact cell_clearFirst ..
  · rw [not_or] at hf
    obtain ⟨⟨ta, fa⟩, hA⟩ := Option.ne_none_iff_exists'.mp hf.1
    obtain ⟨⟨tb, fb⟩, hB⟩ := Option.ne_none_iff_exists'.mp hf.2
    obtain ⟨b, hb, hcell⟩ := newCell_madp h hc hi hj hA hB
    rw [hcell, madpRow_none b hno, hb]

/-- A row with an adapter gets its two products (R99). -/
theorem newCell_madp_some {fa fb : Nat} (hA : fmtOf (s.slot c e.slot).mfmta = some (ta, fa))
    (hB : fmtOf (s.slot c e.slot).mfmtb = some (tb, fb)) {d u : Span}
    (hsome : ((s.core c).adapter e i).bind ((s.core c).adapterSpans e tb) = some (d, u)) :
    (s.runMatrix c 0x13).newCell c e .fp32 i j =
      ((s.core c).madpUp e (s.slot c e.slot).sample ta tb d u i j (s.oldCell c e .fp32 i j)).bits % 2 ^ 32 := by
  have hfit := startMadp_ok ((startOf_ok h.start).2.1 hc)
  obtain ⟨b, hb, hcell⟩ := newCell_madp h hc hi hj hA hB
  obtain ⟨events, hrow⟩ := madpRow_some (sm := (s.slot c e.slot).sample) (ta := ta) b hsome
  rw [hcell, hrow, cell_foldl_colStep hfit _ _ _ hj, hb]

/-- A row that names an adapter, over one k and at rank 1 (R99). -/
theorem newCell_madp_one {fa fb : Nat} (hA : fmtOf (s.slot c e.slot).mfmta = some (ta, fa))
    (hB : fmtOf (s.slot c e.slot).mfmtb = some (tb, fb)) (hk : e.k = 1) (hrank : bits (e.w 5) 19 16 = 0) {a : Nat}
    (hname : (s.core c).adapter e i = some a) {d u : Span} (hspan : (s.core c).adapterSpans e tb a = some (d, u)) :
    let r : Rounding := { rm := (s.slot c e.slot).rm, fz := (s.slot c e.slot).fz }
    let as32 := fun b => operandF .fp32 r.fz b
    let win := if ta = .fp32 ∧ tb = .fp32 then 64 else 48
    let x := (groupSum r win (as32 0)
      [mulF ((s.core c).madpElem r.fz ta (e.spanA ta) i 0) ((s.core c).madpElem r.fz tb d 0 0)]).bits
    let v := (roundVal .fp32 r (mulF (as32 (bits (e.w 5) 63 32)) (as32 x))).1
    (s.runMatrix c 0x13).newCell c e .fp32 i j = (groupSum r win (as32 (s.oldCell c e .fp32 i j))
      [mulF (as32 v) ((s.core c).madpElem r.fz tb u 0 j)]).bits % 2 ^ 32 := by
  intro r as32 win x v
  have hbind : ((s.core c).adapter e i).bind ((s.core c).adapterSpans e tb) = some (d, u) := by
    rw [hname, Option.bind_some, hspan]
  have hone : e.rank = 1 := by rw [MEntry.rank, hrank]
  rw [newCell_madp_some h hc hi hj hA hB hbind, bits_madpUp_one hk hone]
  rfl

end

/-! ### MZERO and MLDW (R144) -/

/-- One row loaded into the W buffer (R336). -/
theorem wbuf_loadWeights_row {k : CoreSt} {e : MEntry} (hcim : bitAt (e.w 4) 0 = false) (hk : e.k = 1) :
    (k.loadWeights e).wbuf = k.wbuf.writeBytes (bits (e.w 2) 15 0)
      ((if bits (e.w 1) 17 17 = 1 then k.lm else k.abuf).bytes (bits (e.w 1) 16 0) (bits (e.w 4) 31 16)) := by
  simp [CoreSt.loadWeights, hcim, hk, CoreSt.wbufWrite, space_bit]

section
variable {s : State} {c : Nat} {e : MEntry} {rest : List MEntry} {cycles : Nat} (h : s.Starts c e rest cycles)
include h

/-- MZERO empties its working bank, and leaves the other banks (R343). -/
theorem bank_mzero (hc : e.code = 0x01) : let k' := (s.runMatrix c 0x01).core c
    k'.working e.acc = emptyBank ∧ k'.working (!e.acc) = (s.core c).working (!e.acc) ∧
      ∀ acc, k'.visible acc = (s.core c).visible acc := by
  have hw : ∃ r' : MRun, r'.finished = true ∧ ((s.core c).clearFirst e).work e (s.firstRun c e cycles) =
      (((s.core c).clearFirst e).setWorking e.acc emptyBank).setHead { e with run := some r' } := by
    unfold CoreSt.work
    rw [hc]
    exact ⟨_, rfl, rfl⟩
  obtain ⟨r', hfin, hw⟩ := hw
  rw [core_runMatrix h hc hw rfl hfin]
  simp

/-- MLDW of one row leaves its bytes in the W buffer, and every other byte of it (R336). -/
theorem read_wbuf_mldw (hc : e.code = 0x02) (hcim : bitAt (e.w 4) 0 = false) (hk : e.k = 1) (x : Nat) :
    ((s.runMatrix c 0x02).core c).wbuf.read x =
      if bits (e.w 2) 15 0 ≤ x ∧ x < bits (e.w 2) 15 0 + bits (e.w 4) 31 16
      then (if bitAt (e.w 1) 17 then (s.core c).lm else (s.core c).abuf).read (bits (e.w 1) 16 0 + (x - bits (e.w 2) 15 0))
      else (s.core c).wbuf.read x := by
  have hw : ∃ r' : MRun, r'.finished = true ∧ ((s.core c).clearFirst e).work e (s.firstRun c e cycles) =
      (((s.core c).clearFirst e).loadWeights e).setHead { e with run := some r' } := by
    unfold CoreSt.work
    rw [hc]
    exact ⟨_, rfl, rfl⟩
  have hbit : (bits (e.w 1) 17 17 = 1) = (bitAt (e.w 1) 17 = true) := by
    have := bit_getLsbD (e.w 1) 17
    unfold bits bitAt
    rw [show 17 + 1 - 17 = 1 from rfl, Nat.pow_one, ← this]
    cases (e.w 1).getLsbD 17 <;> decide
  obtain ⟨r', hfin, hw⟩ := hw
  rw [core_runMatrix h hc hw rfl hfin, wbuf_setHead, wbuf_loadWeights_row hcim hk, Memory.read_writeBytes, Memory.length_bytes]
  simp only [lm_clearFirst, abuf_clearFirst, wbuf_clearFirst, hbit]
  split
  next hx => exact Memory.getD_bytes _ _ _ _ (by omega)
  next => rfl

end

end Sys2Proof.Machine
end

section
/-!
SUPPORT. What MDRAIN leaves (06_engines R146, R147, and R332, R333).
-/
namespace Sys2Proof.Machine

/-! ### A number in a number's bytes (R1) -/

/-- Bytes from the o-th on of a number's bytes. -/
theorem num_setNum_part (m : Memory) (a v : Nat) {n o w : Nat} (h : o + w ≤ n) :
    (m.setNum a n v).num (a + o) w = v / 256 ^ o % 256 ^ w := by
  have hread (x : Nat) (hx : x < w) : (m.setNum a n v).read (a + o + x) = BitVec.ofNat 8 (v / 256 ^ o / 256 ^ x) := by
    rw [Memory.read_setNum, if_pos (by omega), Nat.div_div_eq_div_mul, ← Nat.pow_add]
    congr 3
    omega
  rw [← Memory.natOfBytes_bytesOfNat, Memory.num]
  congr 1
  refine List.ext_getElem (by simp) fun x h1 h2 => ?_
  rw [Memory.length_bytes] at h1
  have hget := Memory.getD_bytesOfNat w (v / 256 ^ o) x h1
  rw [List.getD_eq_getElem _ _ h2] at hget
  rw [hget, ← hread x h1]
  simp [Memory.bytes]

/-- A lane of packed lanes. -/
theorem packLanes_lane (w : Nat) {vs : List Nat} {j : Nat} (h : j < vs.length) :
    packLanes w vs / 2 ^ (w * j) % 2 ^ w = vs[j] % 2 ^ w := by
  induction vs generalizing j with
  | nil => cases h
  | cons x r ih =>
    have hx : x % 2 ^ w < 2 ^ w := Nat.mod_lt _ (by positivity)
    cases j with
    | zero => simp [packLanes]
    | succ j =>
      have hrest : packLanes w (x :: r) / 2 ^ w = packLanes w r := by
        rw [packLanes, Nat.add_mul_div_left _ _ (by positivity), Nat.div_eq_of_lt hx, Nat.zero_add]
      rw [Nat.mul_succ, Nat.add_comm, Nat.pow_add, ← Nat.div_div_eq_div_mul, hrest]
      exact ih (by simpa using h)

/-! ### The rows that MDRAIN stores (R332) -/

section
variable {k : CoreSt} {e : MEntry} {sm : MSample} {ty : LaneType}

/-- The output bits of row i. -/
def CoreSt.outRow (k : CoreSt) (e : MEntry) (sm : MSample) (ty : LaneType) (i : Nat) : List Nat :=
  (k.drainRow e sm ty i).map Prod.fst

@[simp] theorem length_outRow (i : Nat) : (k.outRow e sm ty i).length = e.cols := by
  simp [CoreSt.outRow, CoreSt.drainRow]

/-- A core whose LM has gained some rows of output, each from its own offset. -/
def CoreSt.storeRows (k : CoreSt) (e : MEntry) (ty : LaneType) (rows : Nat → List Nat) : CoreSt :=
  (List.range e.rows).foldl (fun (k : CoreSt) i =>
    k.lmWrite (bits (e.w 3) 16 0 + i * bits (e.w 3) 47 32) (outBytes ty (rows i))) k

/-- MDRAIN to LM without the zero detector stores its rows. -/
theorem drain_fst (hty : LaneType.ofCode sm.fmtC = some ty) (hmap : bitAt (e.w 4) 19 = false) (hlm : bits (e.w 3) 17 17 = 0) :
    (k.drain e sm).1 = k.storeRows e ty (k.outRow e sm ty) := by
  have hrow (i : Nat) (hi : i ∈ List.range e.rows) : ((((List.range e.rows).map (k.drainRow e sm ty)).map
      fun r => r.map Prod.fst).getD i []) = k.outRow e sm ty i := by
    simp [List.getD, List.mem_range.mp hi, CoreSt.outRow]
  simp only [CoreSt.drain, hty, hmap, MEntry.spanOut, hlm, Bool.false_eq_true, if_false, CoreSt.storeSpace, if_true]
  exact List.foldl_ext _ _ _ fun a i hi => by rw [hrow i hi]

/-- The output element (i, j) of whole bytes, as it stands in the LM. -/
def CoreSt.outElem (k : CoreSt) (e : MEntry) (ty : LaneType) (i j : Nat) : Nat :=
  k.lm.num (bits (e.w 3) 16 0 + i * bits (e.w 3) 47 32 + j * (laneWidth ty / 8)) (laneWidth ty / 8)

theorem outElem_setHead (k : CoreSt) (e' : MEntry) (i j : Nat) : (k.setHead e').outElem e ty i j = k.outElem e ty i j := rfl

/-- Rows of elements of whole bytes. -/
theorem laneWidth_bytes (h : 8 ≤ laneWidth ty) : laneWidth ty = 8 * (laneWidth ty / 8) := by
  revert h
  cases ty <;> decide

theorem rowBytes_eq (h : 8 ≤ laneWidth ty) (n : Nat) : rowBytes ty n = n * (laneWidth ty / 8) := by
  have hw := laneWidth_bytes h
  rw [rowBytes]
  conv_lhs => rw [hw, Nat.mul_left_comm]
  omega

/-- A row of output elements of whole bytes is one number of the LM. -/
theorem lm_storeRow (hw : 8 ≤ laneWidth ty) {vs : List Nat} (hlen : vs.length = e.cols) (off : Nat) :
    (k.lmWrite off (outBytes ty vs)).lm = k.lm.setNum off (e.cols * (laneWidth ty / 8)) (packLanes (laneWidth ty) vs) := by
  rw [lm_lmWrite, outBytes, hlen, rowBytes_eq hw, Memory.setNum]

section
variable {rows : Nat → List Nat} (hw : 8 ≤ laneWidth ty) (hlen : ∀ i, (rows i).length = e.cols)
include hw hlen

/-- The elements that were stored, where the rows do not overlap. -/
theorem num_storeRows (hstride : e.cols * (laneWidth ty / 8) ≤ bits (e.w 3) 47 32 ∨ e.rows = 1) {i j : Nat} (hi : i < e.rows)
    (hj : j < (rows i).length) :
    (k.storeRows e ty rows).outElem e ty i j = (rows i)[j] % 2 ^ laneWidth ty := by
  have hin {j : Nat} (hj : j < e.cols) : j * (laneWidth ty / 8) + laneWidth ty / 8 ≤ e.cols * (laneWidth ty / 8) := by
    rw [← Nat.succ_mul]
    exact Nat.mul_le_mul_right _ hj
  have hj' : j < e.cols := hlen i ▸ hj
  obtain ⟨k', -, hfold⟩ := foldl_apart (val := fun (k : CoreSt) i => k.outElem e ty i j)
    (step := fun k i => k.lmWrite (bits (e.w 3) 16 0 + i * bits (e.w 3) 47 32) (outBytes ty (rows i))) List.nodup_range
    (fun k a ha b hb hab => by
      rw [CoreSt.outElem, lm_storeRow hw (hlen a)]
      refine Memory.num_setNum_of_disjoint _ _ _ _ _ _ ?_
      have hfar {a b : Nat} (h : a < b) : a * bits (e.w 3) 47 32 + bits (e.w 3) 47 32 ≤ b * bits (e.w 3) 47 32 := by
        rw [← Nat.succ_mul]
        exact Nat.mul_le_mul_right _ h
      have := hin hj'
      have := List.mem_range.mp ha
      have := List.mem_range.mp hb
      rcases Nat.lt_or_gt_of_ne hab with h | h <;> have := hfar h <;> omega) k (List.mem_range.mpr hi)
  refine hfold.trans ?_
  have hpow (n : Nat) : 256 ^ n = 2 ^ (8 * n) := by rw [Nat.pow_mul]
  rw [CoreSt.outElem, lm_storeRow hw (hlen i), num_setNum_part _ _ _ (hin hj'), hpow, hpow, ← laneWidth_bytes hw,
    show 8 * (j * (laneWidth ty / 8)) = laneWidth ty * j by
      rw [Nat.mul_left_comm, ← laneWidth_bytes hw, Nat.mul_comm]]
  exact packLanes_lane _ hj

/-- The bytes before the first row and after the last stay. -/
theorem read_storeRows {x : Nat} (hx : x < bits (e.w 3) 16 0 ∨
    bits (e.w 3) 16 0 + (e.rows - 1) * bits (e.w 3) 47 32 + e.cols * (laneWidth ty / 8) ≤ x) :
    (k.storeRows e ty rows).lm.read x = k.lm.read x := by
  refine foldl_keeps (val := fun k : CoreSt => k.lm.read x) (fun k i hi => ?_) k
  have hrow : i * bits (e.w 3) 47 32 ≤ (e.rows - 1) * bits (e.w 3) 47 32 :=
    Nat.mul_le_mul_right _ (by have := List.mem_range.mp hi; omega)
  rw [lm_storeRow hw (hlen i), Memory.read_setNum, if_neg (by omega)]

end

/-! ### The values (R147) -/

/-- Element j of an output row: the bank's element after bias and ReLU, converted. -/
theorem getElem_outRow {i j : Nat} (hj : j < (k.outRow e sm ty i).length) : (k.outRow e sm ty i)[j] =
    (convertLane (k.visible e.acc).kind.lane ty { rm := sm.rm, fz := sm.fz, sat := bitAt (e.w 4) 21 }
      (drainValue (k.visible e.acc).kind { rm := sm.rm, fz := sm.fz }
        (if bitAt (e.w 4) 17 then some (k.lm.num (bits (e.w 4) 16 0 + j * (laneWidth (k.visible e.acc).kind.lane / 8))
          (laneWidth (k.visible e.acc).kind.lane / 8)) else none) (bitAt (e.w 4) 18)
        ((k.visible e.acc).cell (k.visible e.acc).kind i j)).1).1 := by
  simp [CoreSt.outRow, CoreSt.drainRow, Bank.cell]

/-- An integer clamped to the I32 range. -/
def clampI32 (v : Int) : Int := max (-2 ^ 31) (min (2 ^ 31 - 1) v)

theorem clampI32_range (v : Int) : -2 ^ 31 ≤ clampI32 v ∧ clampI32 v < 2 ^ 31 := by
  unfold clampI32
  omega

theorem clampI32_of_range {v : Int} (h : -2 ^ 31 ≤ v ∧ v < 2 ^ 31) : clampI32 v = v := by
  unfold clampI32
  omega

theorem intOf_i32_range (v : Nat) : -2 ^ 31 ≤ intOf .i32 v ∧ intOf .i32 v < 2 ^ 31 :=
  intOf_signed (t := .i32) rfl v ▸ ⟨BitVec.le_toInt _, BitVec.toInt_lt⟩

theorem intOf_packInt (v : Int) : intOf .i32 (packInt .i32 true v).1 = clampI32 v := by
  obtain ⟨hlo, hhi⟩ := clampI32_range v
  rw [packInt_i32, intOf_signed rfl]
  change (BitVec.ofNat 32 (BitVec.ofInt 32 (clampI32 v)).toNat).toInt = _
  rw [BitVec.ofNat_toNat, BitVec.setWidth_eq, BitVec.toInt_ofInt_eq_self (by decide) hlo hhi]

/-- An element without bias and ReLU are as they are. -/
theorem drainValue_plain (kind : BankKind) (c : Rounding) (v : Nat) : (drainValue kind c none false v).1 = v := rfl

/-- An I32 element after bias and ReLU. -/
theorem intOf_drainValue (c : Rounding) (bias : Option Nat) (relu : Bool) (v : Nat) :
    intOf .i32 (drainValue .i32 c bias relu v).1 =
      let x := clampI32 (intOf .i32 v + (bias.map (intOf .i32)).getD 0)
      if relu then max 0 x else x := by
  have hbias : intOf .i32 (drainValue .i32 c bias false v).1 = clampI32 (intOf .i32 v + (bias.map (intOf .i32)).getD 0) := by
    cases bias with
    | none => rw [drainValue_plain, Option.map_none, Option.getD_none, Int.add_zero, clampI32_of_range (intOf_i32_range v)]
    | some b => exact intOf_packInt _
  have hrelu : (drainValue .i32 c bias true v).1 = if 0 < intOf .i32 (drainValue .i32 c bias false v).1
      then (drainValue .i32 c bias false v).1 else 0 := rfl
  cases relu
  · simpa using hbias
  · rw [hrelu, ← hbias]
    split
    next hpos => simp [hpos.le]
    next hneg => simp [show intOf .i32 0 = 0 from rfl, Int.not_lt.mp hneg]

/-- An I32 element drained as I32 is not changed. -/
theorem convertLane_i32 (c : Rounding) (v : Nat) : (convertLane .i32 .i32 c v).1 = (BitVec.ofInt 32 (intOf .i32 v)).toNat := by
  have hconv : convertLane .i32 .i32 c v = packInt .i32 c.sat (intOf .i32 v) := rfl
  rw [hconv]
  cases c.sat
  · exact bitsOfInt_eq 32 _
  · rw [packInt_i32]
    exact congrArg (fun x => (BitVec.ofInt 32 x).toNat) (clampI32_of_range (intOf_i32_range v))

end

/-! ### MDRAIN -/

section
variable {s : State} {c : Nat} {e : MEntry} {rest : List MEntry} {cycles : Nat}

@[simp] theorem outRow_clearFirst (k : CoreSt) (e : MEntry) : (k.clearFirst e).outRow = k.outRow :=
  clearFirst_congr (fun k => k.outRow) (fun _ _ _ => rfl) k e

/-- MDRAIN to LM leaves the core with its output rows. -/
theorem core_mdrain (h : s.Starts c e rest cycles) (hc : e.code = 0x20) {ty : LaneType}
    (hty : LaneType.ofCode (s.slot c e.slot).mfmtc = some ty) (hmap : bitAt (e.w 4) 19 = false) (hlm : bits (e.w 3) 17 17 = 0) :
    ∃ e', (s.runMatrix c 0x20).core c =
      (((s.core c).clearFirst e).storeRows e ty ((s.core c).outRow e (s.slot c e.slot).sample ty)).setHead e' := by
  have hw : ∃ r' : MRun, r'.finished = true ∧ ((s.core c).clearFirst e).work e (s.firstRun c e cycles) =
      (((s.core c).clearFirst e).drain e (s.slot c e.slot).sample).1.setHead { e with run := some r' } := by
    unfold CoreSt.work
    rw [hc]
    exact ⟨_, rfl, rfl⟩
  obtain ⟨r', hfin, hw⟩ := hw
  have hdrain := drain_fst (k := (s.core c).clearFirst e) (sm := (s.slot c e.slot).sample) hty hmap hlm
  rw [outRow_clearFirst] at hdrain
  exact ⟨_, (core_runMatrix h hc hw rfl hfin).trans (by rw [hdrain])⟩

/-- Rows of output leave the visible banks. -/
theorem visible_storeRows (k : CoreSt) (e : MEntry) (ty : LaneType) (rows : Nat → List Nat) (acc : Bool) :
    (k.storeRows e ty rows).visible acc = k.visible acc :=
  foldl_keeps (val := fun k : CoreSt => k.visible acc)
    (fun k i _ => show (k.lmWrite (bits (e.w 3) 16 0 + i * bits (e.w 3) 47 32) (outBytes ty (rows i))).visible acc = _ from rfl) k

section
variable (h : s.Starts c e rest cycles) (hc : e.code = 0x20) {ty : LaneType}
  (hty : LaneType.ofCode (s.slot c e.slot).mfmtc = some ty) (hmap : bitAt (e.w 4) 19 = false) (hlm : bits (e.w 3) 17 17 = 0)
include h hc hty hmap hlm

/-- MDRAIN leaves the visible banks (R332). -/
theorem visible_mdrain (acc : Bool) : ((s.runMatrix c 0x20).core c).visible acc = (s.core c).visible acc := by
  obtain ⟨e', hcore⟩ := core_mdrain h hc hty hmap hlm
  rw [hcore, visible_setHead, visible_storeRows, visible_clearFirst]

/-- MDRAIN leaves the LM before its first row and after its last (R332). -/
theorem read_mdrain (hw : 8 ≤ laneWidth ty) {x : Nat} (hx : x < bits (e.w 3) 16 0 ∨
    bits (e.w 3) 16 0 + (e.rows - 1) * bits (e.w 3) 47 32 + e.cols * (laneWidth ty / 8) ≤ x) :
    ((s.runMatrix c 0x20).core c).lm.read x = (s.core c).lm.read x := by
  obtain ⟨e', hcore⟩ := core_mdrain h hc hty hmap hlm
  rw [hcore, lm_setHead, read_storeRows hw (fun _ => length_outRow _) hx, lm_clearFirst]

variable (hstride : e.cols * (laneWidth ty / 8) ≤ bits (e.w 3) 47 32 ∨ e.rows = 1) {i j : Nat} (hi : i < e.rows)
  (hj : j < e.cols)
include hstride hi hj

/-- An output element in the LM (R147). -/
theorem num_mdrain (hw : 8 ≤ laneWidth ty) {kind : BankKind} (hkind : ((s.core c).visible e.acc).kind = kind) :
    ((s.runMatrix c 0x20).core c).outElem e ty i j =
      (convertLane kind.lane ty { rm := (s.slot c e.slot).rm, fz := (s.slot c e.slot).fz, sat := bitAt (e.w 4) 21 }
        (drainValue kind { rm := (s.slot c e.slot).rm, fz := (s.slot c e.slot).fz }
          (if bitAt (e.w 4) 17 then some ((s.core c).lm.num (bits (e.w 4) 16 0 + j * (laneWidth kind.lane / 8))
            (laneWidth kind.lane / 8)) else none) (bitAt (e.w 4) 18)
          (((s.core c).visible e.acc).cell kind i j)).1).1 % 2 ^ laneWidth ty := by
  obtain ⟨e', hcore⟩ := core_mdrain h hc hty hmap hlm
  subst hkind
  have hjlen : j < ((s.core c).outRow e (s.slot c e.slot).sample ty i).length := length_outRow (ty := ty) i ▸ hj
  rw [hcore, outElem_setHead, num_storeRows (rows := (s.core c).outRow e (s.slot c e.slot).sample ty) hw
    (fun _ => length_outRow _) hstride hi hjlen, getElem_outRow hjlen]
  rfl

/-- An I32 bank drained as I32: the sum with the bias, clamped, and of that what ReLU leaves (R147). -/
theorem num_mdrain_i32 (hkind : ((s.core c).visible e.acc).kind = .i32) (ht : ty = .i32) :
    ((s.runMatrix c 0x20).core c).outElem e ty i j =
      let x := clampI32 ((BitVec.ofNat 32 (((s.core c).visible e.acc).cell .i32 i j)).toInt + if bitAt (e.w 4) 17
        then (BitVec.ofNat 32 ((s.core c).lm.num (bits (e.w 4) 16 0 + 4 * j) 4)).toInt else 0)
      (BitVec.ofInt 32 (if bitAt (e.w 4) 18 then max 0 x else x)).toNat := by
  subst ht
  have hlane : laneWidth BankKind.i32.lane / 8 = 4 := rfl
  have hint (v : Nat) : intOf .i32 v = (BitVec.ofNat 32 v).toInt := intOf_signed rfl v
  rw [num_mdrain h hc hty hmap hlm hstride hi hj (by decide) hkind, hlane, Nat.mul_comm j]
  refine (congrArg (· % 2 ^ 32) (convertLane_i32 _ _)).trans ((Nat.mod_eq_of_lt (BitVec.isLt _)).trans ?_)
  rw [intOf_drainValue, hint]
  split <;> simp only [hint, Option.map_some, Option.map_none, Option.getD_some, Option.getD_none]

/-- An FP32 bank drained without bias and ReLU: the elements, converted (R147). -/
theorem num_mdrain_fp32 (hw : 8 ≤ laneWidth ty) (hkind : ((s.core c).visible e.acc).kind = .fp32)
    (hbias : bitAt (e.w 4) 17 = false) (hrelu : bitAt (e.w 4) 18 = false) :
    ((s.runMatrix c 0x20).core c).outElem e ty i j =
      (convertLane .fp32 ty { rm := (s.slot c e.slot).rm, fz := (s.slot c e.slot).fz, sat := bitAt (e.w 4) 21 }
        (((s.core c).visible e.acc).cell .fp32 i j)).1 % 2 ^ laneWidth ty := by
  rw [num_mdrain h hc hty hmap hlm hstride hi hj hw hkind, hbias, hrelu, if_neg Bool.false_ne_true, drainValue_plain]
  rfl

end

end

end Sys2Proof.Machine
end

section
/-!
SUPPORT. The completion of a matrix command (04_arithmetic R101, 06_engines R135).
-/
namespace Sys2Proof.Machine

/-- What a core whose LM a raise has changed keeps. -/
theorem raised_keeps (k : CoreSt) (lm : Memory) (arrivals : List (Place × Nat × Nat × Nat)) :
    let k' := ({ k with lm, barArrivals := arrivals } : CoreSt).seeEvents
    k'.lm = lm ∧ k'.mq = k.mq ∧ ∀ acc, k'.working acc = k.working acc := ⟨rfl, rfl, fun _ => rfl⟩

/-- What a raise leaves of its core: the LM with the sync word raised, the queue and the banks (R114). -/
theorem core_raise (s : State) (c o n : Nat) : ((s.raise c o n).core c).lm = raiseLm (s.core c).lm o n ∧
    ((s.raise c o n).core c).mq = (s.core c).mq ∧
    (∀ acc, ((s.raise c o n).core c).working acc = (s.core c).working acc) ∧ (s.raise c o n).mem = s.mem := by
  unfold State.raise
  obtain ⟨net, hnet⟩ := foldl_post_net (c := c) (f := fun s (a : Place × Nat × Nat × Nat) =>
    { s.msgFrom c 0 a.1 (.wake a.2.1 o (BitVec.ofNat 32 a.2.2.2)) with slot := a.2.1 }) (by simp [State.msgFrom]) _ _
  dsimp only
  rw [hnet, core_net, core_setCore_self]
  obtain ⟨hlm, hmq, hbank⟩ := raised_keeps (s.core c) (raiseLm (s.core c).lm o n) _
  exact ⟨hlm, hmq, hbank, rfl⟩

/-- What the flags of an engine leave: all of the core but its slots. -/
theorem core_engineFlags {α : Type} (f : CoreSt → α) (hf : ∀ k i t, f (k.setSlot i t) = f k) (s : State) (c i act : Nat)
    (fl : Flags) : f ((s.engineFlags c i act fl).core c) = f (s.core c) := by
  rcases engineFlags_cases s c i act fl with h | h
  · rw [h]
  · rw [h, core_modSlot_self, hf]

theorem mem_engineFlags (s : State) (c i act : Nat) (fl : Flags) : (s.engineFlags c i act fl).mem = s.mem := by
  unfold State.engineFlags
  split <;> rfl

/-- The LM after a head command's events are recorded. -/
theorem lm_headDone (k : CoreSt) (e : MEntry) (r : MRun) : (k.headDone e r).lm = k.lm := by
  unfold CoreSt.headDone CoreSt.recordEvents
  split
  · rfl
  · exact setWorking_congr CoreSt.lm (fun _ _ _ => rfl) k e.acc _

/-- The invalid operations of a command that adds to its bank stand in the bank's status (R101). -/
theorem nv_headDone (k : CoreSt) {e : MEntry} (hc : e.code ≠ 0x20 ∧ e.code ≠ 0x02) (r : MRun) :
    ((k.headDone e r).working e.acc).nv = ((k.working e.acc).nv || r.nv) := by
  have hdone : (k.headDone e r).working e.acc = (k.recordEvents e r).working e.acc := rfl
  rw [hdone, CoreSt.recordEvents, if_neg (not_or.mpr hc), working_setWorking]

section
variable {s : State} {c : Nat} {e : MEntry} {rest : List MEntry} {r : MRun} (hq : (s.core c).mq = e :: rest)
  (hr : e.run = some r)
include hq hr

/-- A head command that has finished completes once it is due: its events are recorded, and it raises its sync word. -/
theorem completeMatrix_due (hf : r.finished = true) (hd : r.due ≤ s.cycle) : s.completeMatrix c =
    let t := (s.modCore c (fun k => k.headDone e r)).engineFlags c e.slot e.act r.flags
    if e.raises then t.raise c (16 * e.sw) 1 else t := by
  simp only [State.completeMatrix, hq, hr, hf, hd, decide_true, Bool.and_self, if_true]
  rfl

/-- It waits until then. -/
theorem completeMatrix_waits (h : r.finished = false ∨ s.cycle < r.due) : s.completeMatrix c = s := by
  have hno : (r.finished && decide (r.due ≤ s.cycle)) = false := by
    rcases h with h | h
    · simp [h]
    · simp [Nat.not_le.mpr h]
  simp only [State.completeMatrix, hq, hr, hno, Bool.false_eq_true, if_false]

/-- What a completion leaves: the rest of the queue, the LM with the sync word raised, and the banks with the events. -/
theorem core_completeMatrix (hf : r.finished = true) (hd : r.due ≤ s.cycle) :
    ((s.completeMatrix c).core c).mq = rest ∧
    ((s.completeMatrix c).core c).lm = (if e.raises then raiseLm (s.core c).lm (16 * e.sw) 1 else (s.core c).lm) ∧
    (∀ acc, ((s.completeMatrix c).core c).working acc = ((s.core c).headDone e r).working acc) ∧
    (s.completeMatrix c).mem = s.mem := by
  rw [completeMatrix_due hq hr hf hd]
  generalize ht : (s.modCore c (fun k => k.headDone e r)).engineFlags c e.slot e.act r.flags = t
  have hcore {α : Type} (f : CoreSt → α) (hf : ∀ k i t, f (k.setSlot i t) = f k) :
      f (t.core c) = f ((s.core c).headDone e r) := by
    rw [← ht, core_engineFlags f hf, core_modCore_self]
  have hmq : (t.core c).mq = rest := (hcore CoreSt.mq fun _ _ _ => rfl).trans (by rw [CoreSt.headDone, hq]; rfl)
  have hlm : (t.core c).lm = (s.core c).lm := (hcore CoreSt.lm fun _ _ _ => rfl).trans (lm_headDone ..)
  have hmem : t.mem = s.mem := ht ▸ mem_engineFlags ..
  have hbank (acc : Bool) := hcore (fun k => k.working acc) fun _ _ _ => rfl
  dsimp only
  split
  · obtain ⟨hrlm, hrmq, hrbank, hrmem⟩ := core_raise t c (16 * e.sw) 1
    exact ⟨hrmq.trans hmq, by rw [hrlm, hlm], fun acc => (hrbank acc).trans (hbank acc), hrmem.trans hmem⟩
  · exact ⟨hmq, hlm, hbank, hmem⟩

end

end Sys2Proof.Machine
end

section
/-!
The results of the matrix commands (04_arithmetic R95 to R101, 06_engines R135 to R147).
-/
namespace Sys2Proof.Proofs
open Sys2Proof.Machine

/-- Settles O38, by what each command's one step leaves of an element (`newCell_mma_i32` to `num_mdrain_fp32`), the group sum
whose terms lie inside its window (`groupSum_exact`), and the completion (`core_completeMatrix`). -/
theorem matrixResults : Obligations.MatrixResults := by
  unfold Obligations.MatrixResults
  refine ⟨?_, ?_, fun r win acc ps h => groupSum_exact h, ?_⟩
  · intro s c e rest cycles hq hworks hmark hrun hbad hstart w k
    have h : s.Starts c e rest cycles := ⟨hq, hworks, hmark, hrun, hbad, hstart⟩
    refine ⟨fun hc => ?_, fun hc hcim hk => ⟨_, rfl, read_wbuf_mldw h hc hcim hk⟩, fun p hc hp hid hk => ?_⟩
    · obtain ⟨hempty, hother, hvisible⟩ := bank_mzero h hc
      exact ⟨_, rfl, congrArg Bank.kind hempty, fun x => congrArg (fun b : Bank => b.data.read x) hempty, hother,
        hvisible false, hvisible true⟩
    · refine ⟨_, rfl, fun i j hi hj => ?_⟩
      have hcell := newCell_mma_i32 h hp hi hj hc (.inl rfl) hid hk
      rw [bits_intGroup, liveKs_mma _ hc] at hcell
      exact hcell
  · intro s c e rest cycles hq hworks hmark hrun hbad sm hstart w k acc depth place old now r as32
    have h : s.Starts c e rest cycles := ⟨hq, hworks, hmark, hrun, hbad, hstart⟩
    refine ⟨fun p hc hp hid hk hmap => ?_, fun p hc hp => ⟨fun h0 h4 hk => ?_, fun h0 hk => ?_⟩, fun hc hk => ?_,
      fun hc => ?_, fun hc hmap hlm ty hty => ?_⟩
    · refine ⟨_, rfl, fun i j hi hj => ?_⟩
      have hcell := newCell_mma_i32 h hp hi hj hc (.inr rfl) hid hk
      rw [bits_intGroup, liveKs_mmas _ hc hmap] at hcell
      exact hcell
    · exact ⟨_, rfl, fun i j hi hj => newCell_mma_fp32 h hp hi hj hc h0 h4 hk⟩
    · exact ⟨_, rfl, fun i j hi hj => newCell_mma_fp64 h hp hi hj hc h0 hk⟩
    · exact ⟨_, rfl, fun i j hi hj => newCell_mmab h hc hk hi hj⟩
    · refine ⟨_, rfl, fun i j hi hj => ⟨fun hno => newCell_madp_none h hc hi hj (if_pos hno), ?_⟩⟩
      intro ta tb d u hname hA hB hk hrank hspan
      exact newCell_madp_one h hc hi hj hA hB hk hrank (if_neg hname) hspan
    · intro bank value first stride width hstride
      refine ⟨_, rfl, visible_mdrain h hc hty hmap hlm false, visible_mdrain h hc hty hmap hlm true,
        fun hw x hx => read_mdrain h hc hty hmap hlm hw hx,
        fun i j hi hj => ⟨fun hkind ht => ?_, fun hkind ht hbias hrelu => ?_⟩⟩
      · exact num_mdrain_i32 h hc hty hmap hlm hstride hi hj hkind ht
      · have hw : ∀ t ∈ [LaneType.fp32, .fp16, .bf16, .e4m3, .e5m2], 8 ≤ laneWidth t := by decide
        exact num_mdrain_fp32 h hc hty hmap hlm hstride hi hj (hw ty ht) hkind hbias hrelu
  · intro s c e rest r hq hr
    refine ⟨fun hf hd => ?_, fun hno => congrArg Host.Outcome.next (completeMatrix_waits hq hr hno)⟩
    obtain ⟨hmq, hlm, hbank, hmem⟩ := core_completeMatrix hq hr hf hd
    refine ⟨_, rfl, hmq, hlm, hmem, fun hc => ?_⟩
    have hcode : e.code = 0x10 := hc
    exact (congrArg Bank.nv (hbank e.acc)).trans (nv_headDone _ (by rw [hcode]; decide) r)

end Sys2Proof.Proofs
end

section
/-!
SUPPORT. What a step may answer with canonical memories (O58), and how that goes through tests, matches and folds.
-/
namespace Sys2Proof.Machine

/-! ### What a step may answer -/

/-- The states of a stop have canonical memories. -/
def Stop.memOk : Stop → Prop
  | .wait s _ => s.memOk
  | _ => True

/-- The state that a C-word leaves has canonical memories. -/
def Done.memOk : Done → Prop
  | .go s | .jump s _ | .ended s | .trapAfter s _ _ | .abortAfter s _ _ => s.memOk

/-- A property of what an option holds. -/
def OptOk {α : Type} (p : α → Prop) : Option α → Prop
  | some a => p a
  | none => True

/-- A property of an answer, and one of an error. -/
def ExcOk {ε α : Type} (q : ε → Prop) (p : α → Prop) : Except ε α → Prop
  | .ok a => p a
  | .error e => q e

/-- The next state of a step has canonical memories. -/
def OutOk : Host.Outcome State Fault Refusal → Prop
  | .next t => t.memOk
  | _ => True

/-- The state that an issue leaves has canonical memories. -/
def Issued.memOk : Issued → Prop
  | .done s | .one s _ | .two s _ _ => s.memOk

/-- The state that a fetch leaves has canonical memories. -/
def Got.memOk : Got → Prop
  | .word s _ _ => s.memOk
  | _ => True

/-- The state that the read of a copy's piece leaves has canonical memories. -/
def Piece.memOk : Piece → Prop
  | .got s _ | .wait s => s.memOk
  | .fault _ => True

theorem OutOk.of_next {t : State} (h : t.memOk) : OutOk (.next t) := h

theorem OptOk.of_eq {α : Type} {p : α → Prop} {o : Option α} {a : α} (e : o = some a) (h : OptOk p o) : p a := by
  subst e; exact h

theorem ExcOk.of_ok {ε α : Type} {q : ε → Prop} {p : α → Prop} {x : Except ε α} {a : α} (e : x = .ok a)
    (h : ExcOk q p x) : p a := by subst e; exact h

theorem ExcOk.of_error {ε α : Type} {q : ε → Prop} {p : α → Prop} {x : Except ε α} {a : ε} (e : x = .error a)
    (h : ExcOk q p x) : q a := by subst e; exact h

theorem memOk_of_pair {α : Type} {r : State × α} {t : State} {a : α} (e : r = (t, a)) (h : r.1.memOk) : t.memOk := by
  subst e; exact h

theorem ExcOk.bind {ε α β : Type} {q : ε → Prop} {p : α → Prop} {p' : β → Prop} {x : Except ε α} {f : α → Except ε β}
    (hx : ExcOk q p x) (hf : ∀ a, p a → ExcOk q p' (f a)) : ExcOk q p' (x >>= f) := by
  cases x with
  | ok a => exact hf a hx
  | error e => exact hx

theorem ExcOk.map {ε α β : Type} {q : ε → Prop} {p : α → Prop} {p' : β → Prop} {x : Except ε α} {f : α → β}
    (hx : ExcOk q p x) (hf : ∀ a, p a → p' (f a)) : ExcOk q p' (x.map f) := by
  cases x with
  | ok a => exact hf a hx
  | error e => exact hx

theorem ExcOk.ite {ε α : Type} {q : ε → Prop} {p : α → Prop} {c : Prop} [Decidable c] {x y : Except ε α} (hx : ExcOk q p x)
    (hy : ExcOk q p y) : ExcOk q p (if c then x else y) := by
  split
  · exact hx
  · exact hy

theorem ExcOk.ite_bind {ε α β : Type} {q : ε → Prop} {p : α → Prop} {p' : β → Prop} {c : Prop} [Decidable c]
    {x y : Except ε α} {f : α → Except ε β} (hx : ExcOk q p x) (hy : ExcOk q p y) (hf : ∀ a, p a → ExcOk q p' (f a)) :
    ExcOk q p' (if c then x >>= f else y >>= f) := by
  split
  · exact hx.bind hf
  · exact hy.bind hf

theorem OptOk.map {α β : Type} {p : α → Prop} {p' : β → Prop} {o : Option α} {f : α → β} (h : OptOk p o)
    (hf : ∀ a, p a → p' (f a)) : OptOk p' (o.map f) := by
  cases o with
  | none => trivial
  | some a => exact hf a h

theorem OptOk.bind {α β : Type} {p : α → Prop} {p' : β → Prop} {o : Option α} {f : α → Option β} (h : OptOk p o)
    (hf : ∀ a, p a → OptOk p' (f a)) : OptOk p' (o.bind f) := by
  cases o with
  | none => trivial
  | some a => exact hf a h

theorem OptOk.getD {α : Type} {p : α → Prop} {o : Option α} {a : α} (h : OptOk p o) (ha : p a) : p (o.getD a) := by
  cases o with
  | none => exact ha
  | some a => exact h

theorem memOk_setCore {s : State} {c : Nat} {k : CoreSt} (h : s.memOk) : (s.setCore c k).memOk := h
theorem memOk_modCore {s : State} {c : Nat} {f : CoreSt → CoreSt} (h : s.memOk) : (s.modCore c f).memOk := h
theorem memOk_setSlot {s : State} {c i : Nat} {t : Slot} (h : s.memOk) : (s.setSlot c i t).memOk := h
theorem memOk_modSlot {s : State} {c i : Nat} {f : Slot → Slot} (h : s.memOk) : (s.modSlot c i f).memOk := h
theorem memOk_modMe {s : State} {f : Slot → Slot} (h : s.memOk) : (s.modMe f).memOk := h
theorem memOk_modHere {s : State} {f : CoreSt → CoreSt} (h : s.memOk) : (s.modHere f).memOk := h
theorem memOk_log {s : State} {e c : Nat} {vs : List Nat} (h : s.memOk) : (s.log e c vs).memOk := h
theorem memOk_modDir {s : State} {off : Nat} {f : DirEntry → DirEntry} (h : s.memOk) : (s.modDir off f).memOk := h
theorem memOk_askHost {s : State} {w : Bool} {a n : Nat} (h : s.memOk) : (s.askHost w a n).memOk := h

theorem Issued.memOk_of_done {s : State} {x : Issued}
    (e : x = .done s) (h : x.memOk) : s.memOk := by
  subst e
  exact h

theorem Issued.memOk_of_one {s : State} {i : Instr} {x : Issued}
    (e : x = .one s i) (h : x.memOk) : s.memOk := by
  subst e
  exact h

theorem Issued.memOk_of_two {s : State} {c a : Instr} {x : Issued}
    (e : x = .two s c a) (h : x.memOk) : s.memOk := by
  subst e
  exact h

theorem Got.memOk_of_word {s : State} {w : IWord} {b : Bool} {x : Got}
    (e : x = .word s w b) (h : x.memOk) : s.memOk := by
  subst e
  exact h

theorem Piece.memOk_of_got {s : State} {bs : List (Byte × Bool)} {x : Piece}
    (e : x = .got s bs) (h : x.memOk) : s.memOk := by
  subst e
  exact h

theorem Piece.memOk_of_wait {s : State} {x : Piece}
    (e : x = .wait s) (h : x.memOk) : s.memOk := by
  subst e
  exact h

/-- An update of other fields than the memories keeps them. -/
theorem memOk_with {s : State} {cycle cores launches disp memPoison dir asidBase tlb pkg net rounds fab tele images answers stopped
    agenda turn cur fresh serial} (h : s.memOk) : State.memOk ⟨cycle, cores, launches, disp, s.mem, s.hostMem, memPoison, dir,
      asidBase, tlb, pkg, net, rounds, fab, tele, images, answers, stopped, agenda, turn, cur, fresh, serial⟩ := h

/-- So does one that gives the host's memory another canonical form. -/
theorem memOk_withHost {s : State} {cycle cores launches disp hostMem memPoison dir asidBase tlb pkg net rounds fab tele images
    answers stopped agenda turn cur fresh serial} (h : s.memOk) (hm : hostMem.wf = true) : State.memOk ⟨cycle, cores, launches,
      disp, s.mem, hostMem, memPoison, dir, asidBase, tlb, pkg, net, rounds, fab, tele, images, answers, stopped, agenda, turn,
      cur, fresh, serial⟩ := ⟨h.1, hm⟩

theorem memOk_ite {c : Prop} [Decidable c] {s t : State} (hs : s.memOk) (ht : t.memOk) : (if c then s else t).memOk := by
  split
  · exact hs
  · exact ht

theorem memOk_fst_ite {α : Type} {c : Prop} [Decidable c] {x y : State × α} (hx : x.1.memOk) (hy : y.1.memOk) :
    (if c then x else y).1.memOk := by
  split
  · exact hx
  · exact hy

theorem OptOk.bind_any {α β : Type} {p : β → Prop} {o : Option α} {f : α → Option β} (hf : ∀ a, OptOk p (f a)) :
    OptOk p (o.bind f) := by
  cases o with
  | none => trivial
  | some a => exact hf a

theorem OptOk.map_any {α β : Type} {p : β → Prop} {o : Option α} {f : α → β} (hf : ∀ a, p (f a)) : OptOk p (o.map f) := by
  cases o with
  | none => trivial
  | some a => exact hf a

theorem ExcOk.pure_bind {ε α β : Type} {q : ε → Prop} {p : β → Prop} {a : α} {f : α → Except ε β} (h : ExcOk q p (f a)) :
    ExcOk q p (pure a >>= f) := h

/-- A fold of steps that keep the memories canonical keeps them canonical. -/
theorem memOk_foldl {α : Type} {f : State → α → State} {l : List α} {s : State} (h : s.memOk)
    (step : ∀ t x, t.memOk → (f t x).memOk) : (l.foldl f s).memOk := by
  induction l generalizing s with
  | nil => exact h
  | cons x r ih => exact ih (step s x h)

end Sys2Proof.Machine
end

section
/-!
SUPPORT. The memories stay canonical (O58): the operations on registers, queues and streams, traps and retirement.
-/
namespace Sys2Proof.Machine

variable {s : State}

theorem memOk_modLaunch {l : Nat} {f : Launch → Launch} (h : s.memOk) : (s.modLaunch l f).memOk := by
  unfold State.modLaunch
  split <;> exact h

theorem memOk_overLinks {f : State → State} (h : s.memOk) (hf : ∀ t, t.memOk → (f t).memOk) :
    (s.overLinks f).memOk := memOk_ite (hf s h) h

theorem memOk_overCxl {f : State → State} (h : s.memOk) (hf : ∀ t, t.memOk → (f t).memOk) :
    (s.overCxl f).memOk := memOk_ite (hf s h) h

theorem memOk_logMoved {c : Nat} {bad : List Nat} (h : s.memOk) : (s.logMoved c bad).memOk := by
  unfold State.logMoved
  exact memOk_ite h h

theorem memOk_pushPort {c p : Nat} {w : Word} (h : s.memOk) : (s.pushPort c p w).memOk := by
  unfold State.pushPort
  dsimp only
  split
  · split
    · exact h
    · exact h
    · exact h
    · split <;> exact h
    · exact h
  · exact h

theorem memOk_popPort {c i p : Nat} (h : s.memOk) : (s.popPort c i p).memOk := by
  unfold State.popPort
  dsimp only
  split
  · exact h
  · exact memOk_ite (memOk_pushPort h) h

theorem memOk_popStream {c i r : Nat} (h : s.memOk) : (s.popStream c i r).memOk := h

theorem memOk_writeReg {c i : Nat} {w : RegWrite} (h : s.memOk) : (s.writeReg c i w).memOk := by
  unfold State.writeReg
  dsimp only
  split
  · split
    · exact memOk_pushPort h
    · exact h
  · split <;> exact h

theorem memOk_setX {d : Reg} {v : Word} (h : s.memOk) : (s.setX d v).memOk := by
  unfold State.setX
  exact memOk_writeReg h

theorem memOk_setV {d : Reg} {v : Vec} (h : s.memOk) : (s.setV d v).memOk := by
  unfold State.setV
  exact memOk_writeReg h

theorem memOk_endLaunch {l : Nat} {st : Status} {cause : Nat} (h : s.memOk) : (s.endLaunch l st cause).memOk := by
  unfold State.endLaunch
  exact memOk_modLaunch h

theorem memOk_endLaunchOf {c : Nat} {st : Status} {cause : Nat} (h : s.memOk) : (s.endLaunchOf c st cause).memOk := by
  unfold State.endLaunchOf
  split
  · exact memOk_endLaunch h
  · exact h

theorem memOk_takeTrap {c i : Nat} {cause : Cause} {value tpc : Word} (h : s.memOk) :
    (s.takeTrap c i cause value tpc).memOk := by
  unfold State.takeTrap
  dsimp only
  split
  · split
    · exact h
    · exact memOk_endLaunchOf h
    · exact memOk_endLaunchOf h
  · exact h

theorem memOk_trapReturn {c i : Nat} (h : s.memOk) : (s.trapReturn c i).memOk := h

theorem memOk_raiseAsync {c i : Nat} {cause : Cause} {value : Word} (h : s.memOk) :
    (s.raiseAsync c i cause value).memOk :=
  h

theorem memOk_abortTxn {c i : Nat} {why : Abort} {code : Nat} (h : s.memOk) : (s.abortTxn c i why code).memOk := h
theorem memOk_keepFlags {c i : Nat} (h : s.memOk) : (s.keepFlags c i).memOk := h

theorem memOk_applyA {c i : Nat} {e : AEff} (h : s.memOk) : (s.applyA c i e).memOk := by
  unfold State.applyA
  dsimp only
  exact memOk_modSlot (memOk_foldl h (fun _ _ ht => memOk_writeReg ht))

theorem memOk_applyPops {c i : Nat} (h : s.memOk) : (s.applyPops c i).memOk := by
  unfold State.applyPops
  dsimp only
  exact memOk_foldl (memOk_foldl h (fun _ _ ht => memOk_popPort ht)) (fun _ _ ht => memOk_popStream ht)

theorem memOk_retire {c i : Nat} {jump : Option Word} (h : s.memOk) : (s.retire c i jump).memOk := by
  unfold State.retire
  dsimp only
  refine memOk_modSlot ?_
  split
  · exact memOk_applyA (memOk_applyPops h)
  · exact memOk_applyPops h

end Sys2Proof.Machine
end

section
/-!
SUPPORT. The memories stay canonical (O58): the translation and the checks of an address.
-/
namespace Sys2Proof.Machine

variable {s : State}

theorem memOk_cacheLeaf {t : TlbEntry} (h : s.memOk) : (s.cacheLeaf t).memOk := by
  unfold State.cacheLeaf
  dsimp only
  exact memOk_ite h h

theorem memOk_stopWith {cause : Cause} {v : Word} : (s.stopWith cause v).memOk := by
  unfold State.stopWith
  split <;> trivial
theorem memOk_error {α : Type} {p : α → Prop} {cause : Cause} {v : Word} :
    ExcOk Stop.memOk p (.error (s.stopWith cause v)) := memOk_stopWith

theorem memOk_checkMem {a : Word} {size : Nat} {u : Use} :
    ExcOk Stop.memOk (fun _ => True) (s.checkMem a size u) := by
  unfold State.checkMem
  extract_lets sp leaf
  refine ExcOk.ite trivial (ExcOk.ite memOk_error (ExcOk.ite memOk_error (ExcOk.ite memOk_error
    (ExcOk.ite memOk_error ?_))))
  clear_value sp leaf
  split
  · exact memOk_stopWith
  · exact ExcOk.ite memOk_error (ExcOk.ite memOk_error trivial)
  · exact ExcOk.ite memOk_error trivial

end Sys2Proof.Machine
end

section
/-!
SUPPORT. The memories stay canonical (O58): posting, sending and raising.
-/
namespace Sys2Proof.Machine

variable {s : State}

theorem memOk_checkPlace {p : Word} : ExcOk Stop.memOk (fun _ => True) (s.checkPlace p) := by
  unfold State.checkPlace
  split
  · trivial
  · exact memOk_stopWith

theorem memOk_sendPacket {id : StreamId} {die : Nat} {m : Msg} (h : s.memOk) : (s.sendPacket id die m).memOk := h

theorem memOk_postAccess {c : Nat} {m : Msg} (h : s.memOk) : (s.postAccess c m).memOk := by
  unfold State.postAccess
  dsimp only
  split
  · exact h
  · exact memOk_ite h h

theorem memOk_post {c : Nat} {m : Msg} (h : s.memOk) : (s.post c m).memOk := by
  unfold State.post
  dsimp only
  split
  · split
    · exact memOk_postAccess h
    · exact h
  · exact h

theorem memOk_groupOf {die g : Nat} (h : s.memOk) : OptOk (fun r => r.1.memOk) (s.groupOf die g) := by
  unfold State.groupOf
  dsimp only
  split
  · split
    · exact h
    · trivial
  · split
    · split
      · exact h
      · trivial
    · trivial

theorem memOk_postMcast {c i : Nat} {g off : Nat} {bytes : List Byte} {bad : List Nat} {sw members : Nat}
    (h : s.memOk) : (s.postMcast c i g off bytes bad sw members).memOk :=
  h

theorem memOk_sendMcast {m : Msg} {g sw : Nat} (h : s.memOk) : (s.sendMcast m g sw).memOk := h

theorem memOk_discardMsg {m : Msg} (h : s.memOk) : (s.discardMsg m).memOk := by
  unfold State.discardMsg
  split
  · exact h
  split
  · split
    · exact memOk_endLaunch h
    · exact h
  · exact h

theorem memOk_leave {m : Msg} (h : s.memOk) : (s.leave m).memOk := by
  unfold State.leave
  split
  · exact memOk_sendMcast h
  · exact memOk_ite (memOk_sendPacket h) (memOk_discardMsg h)

theorem memOk_raise {c o n : Nat} (h : s.memOk) : (s.raise c o n).memOk := by
  unfold State.raise
  exact memOk_foldl (memOk_setCore h) (fun _ _ ht => memOk_post ht)

theorem memOk_raiseMulticast {c o : Nat} {a : McAnswer} (h : s.memOk) : (s.raiseMulticast c o a).memOk := by
  unfold State.raiseMulticast
  exact memOk_raise (memOk_modCore h)

end Sys2Proof.Machine
end

section
/-!
SUPPORT. The memories stay canonical (O58): write-backs, transactions, loads, stores and atomics.
-/
namespace Sys2Proof.Machine

variable {s : State}

theorem memOk_dropLines {w : Writer} {lines : List Nat} (h : s.memOk) : (s.dropLines w lines).memOk := h

theorem memOk_grantLines {w : Writer} {lines : List Nat} (h : s.memOk) : (s.grantLines w lines).memOk := by
  unfold State.grantLines
  split
  · exact memOk_foldl h (fun _ _ ht => ht)
  · exact h
  · exact h

theorem memOk_claimLines {w : Writer} {off n : Nat} (h : s.memOk) : (s.claimLines w off n).memOk := by
  unfold State.claimLines
  dsimp only
  exact memOk_dropLines (memOk_grantLines h)

theorem memOk_homeWrite {w : Writer} {off : Nat} {bs : List Byte} (h : s.memOk) : (s.homeWrite w off bs).memOk :=
  memOk_claimLines ⟨Memory.wf_writeBytes h.1 _ _, h.2⟩

theorem memOk_atomicWrite {off : Nat} {bs : List Byte} (h : s.memOk) : (s.atomicWrite off bs).memOk := by
  unfold State.atomicWrite
  exact memOk_homeWrite h

theorem memOk_atomicDone {off n : Nat} {x : Option (List Byte)} (h : s.memOk) : (s.atomicDone off n x).memOk := by
  unfold State.atomicDone
  split
  · exact memOk_atomicWrite h
  · exact memOk_claimLines h

theorem memOk_snoop {off : Nat} (h : s.memOk) : (s.snoop off).memOk := h

theorem memOk_snoopRange {off n : Nat} (h : s.memOk) : (s.snoopRange off n).memOk := by
  unfold State.snoopRange
  exact memOk_foldl h (fun _ _ ht => memOk_ite ht (memOk_snoop ht))

theorem memOk_plainAccess {tile : Nat} {isWrite : Bool} {self : Option (Nat × Nat)} (h : s.memOk) :
    OptOk State.memOk (s.plainAccess tile isWrite self) := by
  unfold State.plainAccess
  dsimp only
  split
  · split
    · trivial
    · exact memOk_foldl h (fun _ _ ht => memOk_abortTxn ht)
  · split
    · trivial
    · exact memOk_foldl h (fun _ _ ht => memOk_abortTxn ht)

theorem memOk_touchTiles {isWrite : Bool} {tiles : List Nat} {self : Option (Nat × Nat)} (h : s.memOk) :
    OptOk State.memOk (s.touchTiles isWrite tiles self) := by
  induction tiles generalizing s with
  | nil => exact h
  | cons t r ih => exact OptOk.bind (memOk_plainAccess h) (fun _ ht => ih ht)

theorem memOk_agentWrite {off : Nat} {bs : List Byte} (h : s.memOk) :
    ExcOk State.memOk State.memOk (s.agentWrite off bs) := by
  unfold State.agentWrite
  split
  · exact memOk_snoopRange h
  split
  · next e =>
      have ht := OptOk.of_eq e (memOk_touchTiles h)
      exact memOk_homeWrite ht
  · exact h

theorem memOk_contend {tile : Nat} {q : Request} (h : s.memOk) : ExcOk Stop.memOk State.memOk (s.contend tile q) := by
  unfold State.contend
  dsimp only
  split
  · exact h
  split
  · trivial
  split
  · exact h
  · exact memOk_foldl h (fun _ _ ht => memOk_abortTxn ht)

theorem memOk_versionPlace {tile : Nat} (h : s.memOk) : ExcOk Stop.memOk State.memOk (s.versionPlace tile) := by
  unfold State.versionPlace
  dsimp only
  split
  · exact h
  split
  · split
    · trivial
    · exact memOk_abortTxn h
  · exact h

theorem memOk_forgetTile {tile : Nat} (h : s.memOk) : (s.forgetTile tile).memOk := h

theorem memOk_txnTouch {tile : Nat} {q : Request} (h : s.memOk) :
    ExcOk Stop.memOk State.memOk (s.txnTouch tile q) := by
  unfold State.txnTouch
  split
  · exact h
  dsimp only
  refine ExcOk.ite h (ExcOk.bind (memOk_contend h) (fun t ht => ?_))
  split
  · exact ExcOk.ite (memOk_modMe ht) (ExcOk.ite trivial (memOk_forgetTile (memOk_modMe ht)))
  · refine ExcOk.ite trivial (ExcOk.ite_bind (p := State.memOk) ht (memOk_versionPlace ht) (fun u hu => ?_))
    split
    · exact memOk_modMe hu
    · exact memOk_modMe hu

theorem memOk_txnLoad {off n : Nat} (h : s.memOk) : ExcOk Stop.memOk (fun r => r.1.memOk) (s.txnLoad off n) := by
  unfold State.txnLoad
  refine ExcOk.bind (memOk_txnTouch h) (fun t ht => ?_)
  split <;> exact ht

theorem memOk_txnStore {off : Nat} {bs : List Byte} (h : s.memOk) :
    ExcOk Stop.memOk State.memOk (s.txnStore off bs) := by
  unfold State.txnStore
  exact ExcOk.bind (memOk_txnTouch h) (fun _ ht => ht)

theorem memOk_cachedRead {c va pa n : Nat} (h : s.memOk) : (s.cachedRead c va pa n).1.memOk := by
  unfold State.cachedRead
  dsimp only
  split <;> exact h

theorem memOk_drainEntry {c : Nat} {e : WbEntry} (h : s.memOk) : OptOk State.memOk (s.drainEntry c e) := by
  unfold State.drainEntry
  dsimp only
  split
  · trivial
  · exact OptOk.map (memOk_plainAccess h) (fun _ ht => memOk_foldl (memOk_foldl ht
      (fun _ _ ht1 => memOk_homeWrite ht1)) (fun _ _ ht1 => ht1))

theorem memOk_drainPoison {e : WbEntry} (h : s.memOk) : (s.drainPoison e).memOk := h

theorem memOk_drainNth {c n : Nat} (h : s.memOk) : OptOk State.memOk (s.drainNth c n) := by
  unfold State.drainNth
  split
  · trivial
  · exact OptOk.map (memOk_drainEntry h) (fun _ ht => memOk_modCore (memOk_drainPoison ht))

theorem memOk_snoopWb {c : Nat} (h : s.memOk) : (s.snoopWb c).memOk := by
  unfold State.snoopWb
  exact memOk_foldl h (fun _ _ ht => memOk_ite ht (memOk_snoop ht))

theorem memOk_drainSteps {c n : Nat} (h : s.memOk) : (s.drainSteps c n).memOk := by
  induction n generalizing s with
  | zero => exact h
  | succ n ih =>
    unfold State.drainSteps
    split
    · next e => exact ih (OptOk.of_eq e (memOk_drainNth h))
    · exact memOk_snoopWb h

theorem memOk_drainAll {c : Nat} (h : s.memOk) : (s.drainAll c).memOk := by
  unfold State.drainAll
  exact memOk_drainSteps h

theorem memOk_drained {w : Wait} (h : s.memOk) : ExcOk Stop.memOk State.memOk (s.drained w) := by
  unfold State.drained
  dsimp only
  split
  · exact memOk_keepFlags (memOk_drainAll h)
  · split <;> exact memOk_drainAll h

theorem memOk_enterWb {va pa : Nat} {bs : List Byte} (h : s.memOk) :
    ExcOk Stop.memOk State.memOk (s.enterWb va pa bs) := by
  unfold State.enterWb
  dsimp only
  split
  · exact h
  split
  · next e =>
      have ht := OptOk.of_eq e (memOk_drainNth h)
      exact ht
  · exact memOk_snoopWb h

theorem memOk_performed {sc : Scope} (h : s.memOk) : ExcOk Stop.memOk State.memOk (s.performed sc) := by
  unfold State.performed
  split
  · exact h
  split
  · exact memOk_foldl h (fun _ _ ht => ht)
  · exact h

theorem memOk_releaseAll {sc : Scope} (h : s.memOk) : ExcOk Stop.memOk State.memOk (s.releaseAll sc) := by
  unfold State.releaseAll
  exact ExcOk.bind (memOk_drained h) (fun _ ht => memOk_performed ht)

theorem memOk_release {sc : Scope} (h : s.memOk) : ExcOk Stop.memOk State.memOk (s.release sc) := by
  unfold State.release
  split
  · exact h
  · exact memOk_releaseAll h

theorem memOk_dropL1 {c : Nat} {sc : Scope} (h : s.memOk) : (s.dropL1 c sc).memOk := by
  unfold State.dropL1
  exact memOk_ite h h

theorem memOk_acquireAt {c i : Nat} {sc : Scope} (h : s.memOk) : (s.acquireAt c i sc).memOk := by
  unfold State.acquireAt
  exact memOk_ite h (memOk_dropL1 h)

theorem memOk_acquire {sc : Scope} (h : s.memOk) : (s.acquire sc).memOk := by
  unfold State.acquire
  exact memOk_acquireAt h

theorem memOk_askRemote {p : Place} {op : RemoteOp} {off : Nat} {a : Word} {land : Landing} {acq : Option Scope}
    (h : s.memOk) : ExcOk Stop.memOk (fun r => r.1.memOk) (s.askRemote p op off a land acq) := by
  unfold State.askRemote
  split
  · exact h
  · exact memOk_post h

theorem memOk_askHome {pkg : Nat} {op : RemoteOp} {off : Nat} {a : Word} {land : Landing} {acq : Option Scope}
    (h : s.memOk) : ExcOk Stop.memOk (fun r => r.1.memOk) (s.askHome pkg op off a land acq) := by
  unfold State.askHome
  split
  · exact h
  · exact memOk_post h

theorem memOk_load {a : Word} {n : Nat} {k : Checked} {land : Landing} {acq : Option Scope} (h : s.memOk) :
    ExcOk Stop.memOk (fun r => r.1.memOk) (s.load a n k land acq) := by
  unfold State.load
  dsimp only
  split
  · split
    · trivial
    · exact h
  · split
    · trivial
    · exact h
  · split
    · trivial
    · exact h
  · exact memOk_askRemote h
  · split
    · exact memOk_askHost (memOk_cacheLeaf h)
    · split
      · trivial
      · exact memOk_askHome (memOk_cacheLeaf h)
    · split
      · trivial
      split
      · exact memOk_txnLoad (memOk_cacheLeaf h)
      split
      · exact memOk_cacheLeaf h
      next e =>
        have ht := OptOk.of_eq e (memOk_plainAccess (memOk_cacheLeaf h))
        split
        · exact ht
        · exact memOk_cachedRead ht
  · exact memOk_stopWith

theorem memOk_storeQueue {off : Nat} {bs : List Byte} (h : s.memOk) :
    ExcOk Stop.memOk State.memOk (s.storeQueue off bs) := by
  unfold State.storeQueue
  dsimp only
  split
  · exact h
  · split <;> exact h

theorem memOk_hold {v : Word} {m : Msg} (h : s.memOk) : ExcOk Stop.memOk State.memOk (s.hold v m) := by
  unfold State.hold
  split
  · exact memOk_stopWith
  · exact h

theorem memOk_storeRemote {a : Word} {r : RemoteAddr} {op : RemoteOp} (h : s.memOk) :
    ExcOk Stop.memOk State.memOk (s.storeRemote a r op) := by
  unfold State.storeRemote
  dsimp only
  split
  · exact memOk_hold h
  split
  · exact memOk_post h
  split
  · exact h
  · exact memOk_post h

theorem memOk_storeHome {va : Nat} {pa off : Nat} {uncached : Bool} {bs : List Byte} (h : s.memOk) :
    ExcOk Stop.memOk State.memOk (s.storeHome va pa off uncached bs) := by
  unfold State.storeHome
  split
  · exact memOk_txnStore h
  split
  · exact memOk_enterWb h
  split
  · exact memOk_snoop h
  split
  · exact h
  next e =>
    have ht := OptOk.of_eq e (memOk_plainAccess h)
    exact memOk_modMe (memOk_homeWrite ht)

theorem memOk_store {a : Word} {bs : List Byte} {k : Checked} {isVst : Bool} (h : s.memOk) :
    ExcOk Stop.memOk State.memOk (s.store a bs k isVst) := by
  unfold State.store
  dsimp only
  split
  · exact h
  · exact h
  · exact h
  · exact memOk_storeQueue h
  · exact memOk_storeRemote h
  · split
    · exact memOk_modMe (memOk_withHost (memOk_askHost (memOk_cacheLeaf h)) (Memory.wf_writeBytes
        (memOk_cacheLeaf h).2 _ _))
    · split
      · trivial
      · exact ExcOk.map (memOk_askHome (memOk_cacheLeaf h)) (fun _ ht => ht)
    · exact memOk_storeHome (memOk_cacheLeaf h)
  · exact memOk_stopWith

theorem memOk_beforeAtomic {a : Word} (h : s.memOk) : ExcOk Stop.memOk State.memOk (s.beforeAtomic a) := by
  unfold State.beforeAtomic
  exact ExcOk.bind (memOk_drained h) (fun _ ht => ht)

theorem memOk_atomic {a : Word} {n : Nat} {k : Checked} {f : List Byte → Option (List Byte)} {op : RemoteOp}
    {land : Landing} {acq : Option Scope} (h : s.memOk) : ExcOk Stop.memOk (fun r => r.1.memOk)
      (s.atomic a n k f op land acq) := by
  unfold State.atomic
  dsimp only
  split
  · split
    · trivial
    · split <;> exact h
  · exact h
  · exact h
  · exact memOk_askRemote h
  · split
    · exact memOk_stopWith
    · split
      · trivial
      · exact memOk_askHome (memOk_cacheLeaf h)
    · split
      · split
        · trivial
        refine ExcOk.bind (memOk_txnLoad (memOk_cacheLeaf h)) (fun x ht => ?_)
        split
        · exact ExcOk.bind (memOk_txnStore ht) (fun _ ht1 => ht1)
        · exact ht
      · refine ExcOk.bind (memOk_beforeAtomic (memOk_cacheLeaf h)) (fun t ht => ?_)
        split
        · trivial
        split
        · exact memOk_snoop ht
        split
        · exact ht
        next e =>
          have ht1 := OptOk.of_eq e (memOk_plainAccess ht)
          exact memOk_ite (memOk_modMe (memOk_atomicDone ht1)) (memOk_atomicDone ht1)
  · exact memOk_stopWith

end Sys2Proof.Machine
end

section
/-!
SUPPORT. The memories stay canonical (O58): completing a slot's bundle.
-/
namespace Sys2Proof.Machine

variable {s : State}

theorem memOk_freeCaravan {c i : Nat} (h : s.memOk) : (s.freeCaravan c i).memOk := h

theorem memOk_handBackFirst {α : Type} {p : α → Prop} (h : s.memOk) :
    ExcOk Stop.memOk p (State.handBackFirst s) := h

theorem memOk_part {c i : Nat} (h : s.memOk) : (s.part c i).memOk := h
theorem memOk_handedBack {c i : Nat} (h : s.memOk) : (s.handedBack c i).memOk := h

theorem memOk_freeSlot {c i : Nat} (h : s.memOk) : (s.freeSlot c i).memOk := by
  unfold State.freeSlot
  dsimp only
  exact memOk_modSlot (memOk_ite h h)

theorem memOk_bearHeld {c : Nat} {x : MsgBody} (h : s.memOk) : (s.bearHeld c x).memOk := by
  unfold State.bearHeld
  split <;> exact h

theorem memOk_departHeld {c i n : Nat} (h : s.memOk) : (s.departHeld c i n).1.memOk := by
  induction n generalizing s with
  | zero => exact h
  | succ n ih =>
    unfold State.departHeld
    dsimp only
    split
    · exact h
    split
    · exact h
    split
    · exact ih (memOk_bearHeld (memOk_post (memOk_modSlot h)))
    · exact memOk_post (memOk_modSlot h)

theorem memOk_depart {c i : Nat} (h : s.memOk) : (s.depart c i).1.memOk := by
  unfold State.depart
  split
  · next e =>
      have ht := memOk_of_pair e (memOk_departHeld h)
      split
      · split <;> exact ht
      · exact ht
  · exact memOk_departHeld h

theorem memOk_endActivation {c i : Nat} (h : s.memOk) : (s.endActivation c i).memOk := by
  unfold State.endActivation
  dsimp only
  refine memOk_freeSlot ?_
  refine memOk_modSlot ?_
  split
  · exact memOk_post (memOk_ite (memOk_freeCaravan h) h)
  · exact memOk_ite (memOk_freeCaravan h) h

theorem memOk_redeliver {c tries : Nat} (h : s.memOk) : (s.redeliver c tries).memOk := by
  unfold State.redeliver
  dsimp only
  exact memOk_ite (memOk_endLaunchOf h) h

theorem memOk_discardHeld {c i : Nat} (h : s.memOk) : (s.discardHeld c i).memOk := by
  unfold State.discardHeld
  split
  · exact memOk_foldl h (fun _ _ ht => memOk_modLaunch ht)
  · exact h

theorem memOk_rollback {c i : Nat} (h : s.memOk) : (s.rollback c i).memOk := by
  unfold State.rollback
  dsimp only
  exact memOk_freeSlot (memOk_redeliver (memOk_setCore (memOk_modCore (memOk_discardHeld (memOk_ite
    (memOk_freeCaravan h) h)))))

theorem memOk_consumePoison {c i : Nat} {v : Word} (h : s.memOk) : (s.consumePoison c i v).memOk := by
  unfold State.consumePoison
  dsimp only
  exact memOk_ite (memOk_abortTxn h) (memOk_ite (memOk_rollback h) (memOk_takeTrap h))

theorem memOk_trapNow {c i : Nat} {cause : Cause} {v tpc : Word} (h : s.memOk) :
    (s.trapNow c i cause v tpc).memOk := by
  unfold State.trapNow
  exact memOk_ite (memOk_abortTxn h) (memOk_takeTrap h)

theorem memOk_aStops {c i : Nat} (h : s.memOk) : OptOk State.memOk (s.aStops c i) := by
  unfold State.aStops
  refine OptOk.bind_any (fun x => ?_)
  split
  · exact memOk_abortTxn h
  · exact memOk_trapNow h
  · exact OptOk.map_any (fun _ => memOk_consumePoison h)

theorem memOk_finishA {e : AEff} (h : s.memOk) : (s.finishA e).memOk := by
  unfold State.finishA
  dsimp only
  split
  · exact h
  split
  · exact memOk_consumePoison h
  · exact memOk_retire h

theorem memOk_finishC {r : Res} (h : s.memOk) (hr : ExcOk Stop.memOk Done.memOk r) : (s.finishC r).memOk := by
  unfold State.finishC
  dsimp only
  split
  · exact memOk_trapNow h
  · exact memOk_abortTxn (memOk_ite h (memOk_keepFlags h))
  · exact memOk_consumePoison h
  · split
    · next e => exact OptOk.of_eq e (memOk_aStops h)
    · exact memOk_modSlot hr
  · split
    · next e => exact OptOk.of_eq e (memOk_aStops h)
    split
    · exact memOk_retire hr
    · exact memOk_retire hr
    · exact memOk_endActivation (memOk_retire hr)
    · exact memOk_ite (memOk_abortTxn (memOk_keepFlags hr)) (memOk_takeTrap (memOk_retire hr))
    · exact memOk_ite (memOk_part (memOk_abortTxn (memOk_keepFlags hr))) (memOk_abortTxn (memOk_keepFlags hr))

theorem memOk_completeWait {c i : Nat} (h : s.memOk) : (s.completeWait c i).memOk := by
  unfold State.completeWait
  exact memOk_retire h

theorem memOk_runA {e : AEff} (h : s.memOk) : OutOk (runA s e) := by
  unfold runA
  exact memOk_finishA h

theorem memOk_runC {r : Res} (h : s.memOk) (hr : ExcOk Stop.memOk Done.memOk r) : OutOk (runC s r) := by
  unfold runC
  exact memOk_finishC h hr

end Sys2Proof.Machine
end

section
/-!
SUPPORT. The memories stay canonical (O58): fetch and issue.
-/
namespace Sys2Proof.Machine

variable {s : State}

theorem memOk_fetch {c i : Nat} {va : Word} (h : s.memOk) : (s.fetch c i va).memOk := by
  unfold State.fetch
  dsimp only
  split
  · split
    · exact h
    split
    · split
      · exact h
      · exact h
    · exact h
  · exact h
  · trivial
  · exact memOk_ite (memOk_modCore h) h
  · split
    · exact h
    · trivial

theorem memOk_askCode {c i : Nat} {va : Word} {hm : Home} {land : Landing} (h : s.memOk) :
    (s.askCode c i va hm land).memOk := by
  unfold State.askCode
  split
  · exact memOk_ite h (memOk_modSlot (memOk_post h))
  · exact h
  · exact h

theorem memOk_fetchBundle {c i : Nat} {pc : Word} (h : s.memOk) : (s.fetchBundle c i pc).1.memOk := by
  unfold State.fetchBundle
  split
  · exact h
  · exact h
  · next e => exact Got.memOk_of_word e (memOk_fetch h)
  · next e =>
    have ht := Got.memOk_of_word e (memOk_fetch h)
    split
    · split
      · exact ht
      · exact ht
      · next e' => exact Got.memOk_of_word e' (memOk_fetch ht)
      · next e' => exact Got.memOk_of_word e' (memOk_fetch ht)
    · exact ht

theorem memOk_takeLate {c i : Nat} {x : Late} (h : s.memOk) : (s.takeLate c i x).memOk := by
  unfold State.takeLate
  split
  · exact memOk_abortTxn h
  · exact memOk_trapNow h

theorem memOk_entryPort {c i : Nat} {f : Fetched} (h : s.memOk) : (s.entryPort c i f).memOk := by
  unfold State.entryPort
  dsimp only
  exact memOk_ite h h

theorem memOk_issueWords {c i : Nat} {f : Fetched} {index : Option Nat} (h : s.memOk) :
    (s.issueWords c i f index).memOk := by
  unfold State.issueWords
  extract_lets t pc offset fs illegal ports writes streams snap bad late b u mine puts w
  have hu : u.memOk := memOk_modSlot h
  have hw : w.memOk := memOk_entryPort hu
  clear_value illegal late
  split
  · exact hu
  split
  · exact memOk_trapNow hu
  split
  · exact memOk_takeLate hu
  split
  · exact memOk_consumePoison hu
  split
  · exact memOk_takeLate hu
  split
  · exact memOk_modSlot hu
  split
  · exact hw
  · exact memOk_modSlot hw
  · exact hw

theorem memOk_startIssue {c i : Nat} (h : s.memOk) : (s.startIssue c i).memOk := h

theorem memOk_issue {c i : Nat} (h : s.memOk) : (s.issue c i).memOk := by
  unfold State.issue
  dsimp only
  split
  · exact memOk_askCode h
  split
  · exact memOk_askCode h
  next e1 =>
    have ht := memOk_of_pair e1 (memOk_fetchBundle (memOk_startIssue h))
    split
    · exact ht
    · exact ht
    · exact memOk_trapNow ht
    · exact ht
    · exact memOk_issueWords ht

end Sys2Proof.Machine
end

section
/-!
SUPPORT. The memories stay canonical (O58): scalar C-words.
-/
namespace Sys2Proof.Machine

variable {s : State}

theorem memOk_scalarRes {f : Word → Word → Word} {d a b : Reg} (h : s.memOk) :
    ExcOk Stop.memOk Done.memOk (s.scalarRes f d a b) := by
  unfold State.scalarRes
  exact memOk_setX h

theorem memOk_immRes {f : Word → Word → Word} {d a : Reg} {imm : Word} (h : s.memOk) :
    ExcOk Stop.memOk Done.memOk (s.immRes f d a imm) := by
  unfold State.immRes
  exact memOk_setX h

end Sys2Proof.Machine
end

section
/-!
SUPPORT. The memories stay canonical (O58): branches, loops, masks and barriers of the control unit.
-/
namespace Sys2Proof.Machine

variable {s : State}

theorem memOk_branch {taken : Bool} {pc : Word} (h : s.memOk) : ExcOk Stop.memOk Done.memOk (branch s taken pc) := by
  unfold branch
  split <;> exact h

theorem memOk_noTxn : ExcOk Stop.memOk (fun _ => True) s.noTxn := by
  unfold State.noTxn
  split <;> trivial

theorem memOk_rptRes {a : Reg} {len : BitVec 3} {stride : BitVec 4} (h : s.memOk) :
    ExcOk Stop.memOk Done.memOk (s.rptRes a len stride) := by
  unfold State.rptRes
  dsimp only
  split
  · exact memOk_stopWith
  split
  · split
    · exact h
    · exact memOk_askCode h
  · exact h

theorem memOk_jalrRes {d b : Reg} {imm : BitVec 11} (h : s.memOk) :
    ExcOk Stop.memOk Done.memOk (s.jalrRes d b imm) := by
  unfold State.jalrRes
  dsimp only
  split
  · exact memOk_stopWith
  · exact memOk_setX h

theorem memOk_trapRes {c : Cause} {v : Word} (h : s.memOk) : ExcOk Stop.memOk Done.memOk (s.trapRes c v) := h

theorem memOk_eretRes (h : s.memOk) : ExcOk Stop.memOk Done.memOk s.eretRes := by
  unfold State.eretRes
  refine ExcOk.bind memOk_noTxn (fun x ht => ?_)
  split
  · exact memOk_stopWith
  · exact memOk_trapReturn h

theorem memOk_endRes (h : s.memOk) : ExcOk Stop.memOk Done.memOk s.endRes := by
  unfold State.endRes
  refine ExcOk.bind memOk_noTxn (fun _ _ => ?_)
  split
  · split
    · exact memOk_stopWith
    · exact memOk_modMe h
  split
  · exact memOk_handBackFirst h
  split
  · next e => exact memOk_of_pair e (memOk_depart h)
  · next e => exact memOk_of_pair e (memOk_depart h)

theorem memOk_maskRes {ch : BitVec 6} {m : Bool} (h : s.memOk) : ExcOk Stop.memOk Done.memOk (s.maskRes ch m) := h
theorem memOk_yieldRes (h : s.memOk) : ExcOk Stop.memOk Done.memOk s.yieldRes := h

theorem memOk_releaseRes (h : s.memOk) : ExcOk Stop.memOk Done.memOk s.releaseRes := by
  unfold State.releaseRes
  split
  · exact h
  split
  · exact h
  · exact memOk_handBackFirst h

theorem memOk_fenceRes {kind : FenceKind} {sc : Scope} (h : s.memOk) :
    ExcOk Stop.memOk Done.memOk (s.fenceRes kind sc) := by
  unfold State.fenceRes
  split
  · exact h
  split
  · exact ExcOk.bind (memOk_release h) (fun _ ht => memOk_acquire ht)
  · exact ExcOk.bind (memOk_release h) (fun _ ht => ht)
  · exact memOk_acquire h

theorem memOk_discard {cb : PathClass} {sc : Scope} (h : s.memOk) : (s.discard cb sc).memOk := by
  unfold State.discard
  dsimp only
  split
  · exact memOk_dropL1 h
  · exact h
  · exact h

theorem memOk_fencexRes {ca cb : PathClass} {sc : Scope} (h : s.memOk) :
    ExcOk Stop.memOk Done.memOk (s.fencexRes ca cb sc) := by
  unfold State.fencexRes
  dsimp only
  split
  · refine ExcOk.bind (memOk_releaseAll h) (fun t ht => ?_)
    split
    · exact memOk_discard ht
    · exact ht
  · refine ExcOk.pure_bind ?_
    split
    · exact memOk_discard h
    · exact h

end Sys2Proof.Machine
end

section
/-!
SUPPORT. The memories stay canonical (O58): control registers.
-/
namespace Sys2Proof.Machine

variable {s : State}

theorem memOk_setCreg {c i n : Nat} {v : Word} (h : s.memOk) : (s.setCreg c i n v).memOk := by
  unfold State.setCreg
  dsimp only
  split <;> exact h

theorem memOk_crrRes {d : Reg} {num : BitVec 11} (h : s.memOk) : ExcOk Stop.memOk Done.memOk (s.crrRes d num) := by
  unfold State.crrRes
  dsimp only
  split
  · exact h
  split
  · exact memOk_stopWith
  · exact memOk_setX h

theorem memOk_crwRes {how : CrWrite} {a d : Reg} {num : BitVec 11} (h : s.memOk) :
    ExcOk Stop.memOk Done.memOk (s.crwRes how a d num) := by
  unfold State.crwRes
  extract_lets n
  refine ExcOk.ite h (ExcOk.ite memOk_error (ExcOk.ite memOk_error ?_))
  split
  · exact memOk_setX (memOk_ite h (memOk_modMe h))
  · exact memOk_setCreg (memOk_setX h)

end Sys2Proof.Machine
end

section
/-!
SUPPORT. The memories stay canonical (O58): transactions.
-/
namespace Sys2Proof.Machine

variable {s : State}

theorem memOk_tbeginRes {a : Reg} {off : BitVec 11} (h : s.memOk) :
    ExcOk Stop.memOk Done.memOk (s.tbeginRes a off) := by
  unfold State.tbeginRes
  dsimp only
  split
  · split
    · trivial
    · exact ExcOk.bind (memOk_drained h) (fun _ ht => memOk_modMe (memOk_acquire ht))
  · split
    · exact h
    · trivial

theorem memOk_tabortRes {code : BitVec 8} (h : s.memOk) : ExcOk Stop.memOk Done.memOk (s.tabortRes code) := by
  unfold State.tabortRes
  split <;> exact h

theorem memOk_advanceFront {c : Nat} (h : s.memOk) : (s.advanceFront c).memOk := by
  unfold State.advanceFront
  split
  · exact memOk_modLaunch h
  · exact h

theorem memOk_tskipRes {a : Reg} (h : s.memOk) : ExcOk Stop.memOk Done.memOk (s.tskipRes a) := by
  unfold State.tskipRes
  dsimp only
  split
  · exact h
  split
  · exact h
  split
  · exact memOk_advanceFront h
  split
  · exact memOk_modLaunch h
  · exact h

theorem memOk_snoopTxn {x : Txn} (h : s.memOk) : (s.snoopTxn x).memOk := by
  unfold State.snoopTxn
  dsimp only
  exact memOk_foldl h (fun _ _ ht => memOk_ite ht (memOk_snoop ht))

theorem memOk_commitWrites {x : Txn} (h : s.memOk) : (s.commitWrites x).memOk := by
  unfold State.commitWrites
  dsimp only
  exact memOk_foldl (memOk_with (memOk_foldl h (fun _ _ ht => memOk_homeWrite ht))) (fun _ _ ht => memOk_homeWrite ht)

theorem memOk_captureLine {c : Nat} {own : Bool} {parts : List (Nat × Nat)} {self : Option (Nat × Nat)}
    (h : s.memOk) : OptOk (fun r => r.1.memOk) (s.captureLine c own parts self) := by
  unfold State.captureLine
  exact OptOk.map (memOk_touchTiles h) (fun _ ht => ht)

theorem memOk_releaseHeld {c i : Nat} {x : HeldOp} (h : s.memOk) : OptOk State.memOk (s.releaseHeld c i x) := by
  unfold State.releaseHeld
  split
  · split
    · trivial
    · exact h
  · split
    · trivial
    · exact h
  · split
    · trivial
    · exact OptOk.map (memOk_captureLine h) (fun _ ht => memOk_postMcast (memOk_logMoved ht))

theorem memOk_releaseOps {c i : Nat} {x : List HeldOp} (h : s.memOk) : (s.releaseOps c i x).1.memOk := by
  induction x generalizing s with
  | nil => exact h
  | cons o r ih =>
    unfold State.releaseOps
    split
    · next e => exact ih (OptOk.of_eq e (memOk_releaseHeld h))
    · exact h

theorem memOk_endTxn {c i : Nat} {x : Txn} (h : s.memOk) : (s.endTxn c i x).memOk := by
  unfold State.endTxn
  dsimp only
  exact memOk_ite (memOk_advanceFront h) h

theorem memOk_commitOps {c i : Nat} {x : Txn} (h : s.memOk) : ExcOk Stop.memOk State.memOk (s.commitOps c i x) := by
  unfold State.commitOps
  split
  · next e =>
      have ht := memOk_of_pair e (memOk_releaseOps h)
      split
      · exact memOk_endTxn ht
      · exact ht

theorem memOk_commitNow {c i : Nat} {x : Txn} (h : s.memOk) : ExcOk Stop.memOk State.memOk (s.commitNow c i x) := by
  unfold State.commitNow
  dsimp only
  split
  · exact memOk_commitOps h
  split
  · exact memOk_keepFlags (memOk_drainAll h)
  split
  · exact memOk_drainAll h
  split
  · exact memOk_snoopTxn (memOk_drainAll h)
  · exact memOk_commitOps (memOk_commitWrites (memOk_drainAll h))

theorem memOk_commit {c i : Nat} {x : Txn} (h : s.memOk) : ExcOk Stop.memOk State.memOk (s.commit c i x) := by
  unfold State.commit
  split
  · split
    · exact memOk_commitNow h
    split
    · exact h
    · trivial
  · exact memOk_commitNow h

theorem memOk_tendRes (h : s.memOk) : ExcOk Stop.memOk Done.memOk s.tendRes := by
  unfold State.tendRes
  split
  · trivial
  split
  · exact h
  · exact ExcOk.bind (memOk_commit h) (fun _ ht => ht)

end Sys2Proof.Machine
end

section
/-!
SUPPORT. The memories stay canonical (O58): loads, stores, fences and waits.
-/
namespace Sys2Proof.Machine

variable {s : State}

theorem memOk_landed {land : Landing} {acq : Option Scope} {bs : List Byte} (h : s.memOk) :
    (s.landed land acq bs).memOk := by
  unfold State.landed
  dsimp only
  split
  · refine memOk_setX ?_
    split
    · exact memOk_acquire h
    · exact h
  · refine memOk_setV ?_
    split
    · exact memOk_acquire h
    · exact h
  · split
    · exact memOk_acquire h
    · exact h

theorem memOk_loadRes {a : Word} {size : Nat} {land : Landing} {acq : Option Scope} (h : s.memOk) :
    ExcOk Stop.memOk Done.memOk (s.loadRes a size land acq) := by
  unfold State.loadRes
  exact ExcOk.bind memOk_checkMem (fun _ _ => ExcOk.bind (memOk_load h) (fun _ ht1 => memOk_landed ht1))

theorem memOk_ldRes {d b : Reg} {imm : BitVec 11} {size : Nat} {signed : Bool} (h : s.memOk) :
    ExcOk Stop.memOk Done.memOk (s.ldRes d b imm size signed) := by
  unfold State.ldRes
  exact memOk_loadRes h

theorem memOk_storeRes {a : Word} {bs : List Byte} {u : Use} {isVst : Bool} (h : s.memOk) :
    ExcOk Stop.memOk Done.memOk (s.storeRes a bs u isVst) := by
  unfold State.storeRes
  exact ExcOk.bind memOk_checkMem (fun _ _ => ExcOk.bind (memOk_store h) (fun _ ht1 => ht1))

theorem memOk_stRes {a b : Reg} {imm : BitVec 11} {size : Nat} {u : Use} (h : s.memOk) :
    ExcOk Stop.memOk Done.memOk (s.stRes a b imm size u) := by
  unfold State.stRes
  exact memOk_storeRes h

theorem memOk_stlRes {dbl : Bool} {sc : Scope} {a b : Reg} (h : s.memOk) :
    ExcOk Stop.memOk Done.memOk (s.stlRes dbl sc a b) := by
  unfold State.stlRes
  exact ExcOk.bind memOk_checkMem (fun _ _ => ExcOk.bind (memOk_release h) (fun _ ht1 => ExcOk.bind
    (memOk_store ht1) (fun _ ht2 => ht2)))

theorem memOk_st4Res {a b : Reg} {off : BitVec 10} {hi : Bool} (h : s.memOk) :
    ExcOk Stop.memOk Done.memOk (s.st4Res a b off hi) := by
  unfold State.st4Res
  dsimp only
  refine ExcOk.bind memOk_checkMem (fun x ht => ?_)
  split
  · exact ExcOk.bind (memOk_storeRemote h) (fun _ ht1 => ht1)
  · exact ExcOk.bind (memOk_atomic h) (fun _ ht1 => ht1)

theorem memOk_amoRes {a : Word} {dbl ar : Bool} {op : RemoteOp} {d : Reg} {signed : Bool} (h : s.memOk) :
    ExcOk Stop.memOk Done.memOk (s.amoRes a dbl ar op d signed) := by
  unfold State.amoRes
  dsimp only
  refine ExcOk.bind memOk_checkMem (fun x ht => ?_)
  split
  · exact ExcOk.pure_bind (ExcOk.bind (memOk_atomic h) (fun _ ht1 => memOk_landed (memOk_ite (memOk_dropL1 ht1) ht1)))
  split
  · split
    · exact ExcOk.bind (memOk_releaseAll h) (fun _ ht1 => ExcOk.bind (memOk_atomic ht1) (fun _ ht2 => memOk_landed
        (memOk_ite (memOk_dropL1 ht2) ht2)))
    · exact ExcOk.bind (memOk_release h) (fun _ ht1 => ExcOk.bind (memOk_atomic ht1) (fun _ ht2 => memOk_landed
        (memOk_ite (memOk_dropL1 ht2) ht2)))
  · split
    · exact ExcOk.bind (memOk_releaseAll h) (fun _ ht1 => ExcOk.bind (memOk_atomic ht1) (fun _ ht2 => memOk_landed
        (memOk_ite (memOk_dropL1 ht2) ht2)))
    · exact ExcOk.bind (memOk_release h) (fun _ ht1 => ExcOk.bind (memOk_atomic ht1) (fun _ ht2 => memOk_landed
        (memOk_ite (memOk_dropL1 ht2) ht2)))

theorem memOk_tredTxn {off : Nat} {op : RedOp} {ty : LaneType} {v : List Byte} (h : s.memOk) :
    ExcOk Stop.memOk State.memOk (s.tredTxn off op ty v) := by
  unfold State.tredTxn
  exact ExcOk.bind (memOk_txnTouch h) (fun _ ht => ht)

theorem memOk_tredRes {vec : Bool} {op : RedOp} {ty : LaneType} {b c : Reg} (h : s.memOk) :
    ExcOk Stop.memOk Done.memOk (s.tredRes vec op ty b c) := by
  unfold State.tredRes
  dsimp only
  refine ExcOk.bind memOk_checkMem (fun x ht => ?_)
  split
  · exact ExcOk.bind (memOk_tredTxn (OptOk.getD (OptOk.map_any (fun _ => memOk_cacheLeaf h)) h)) (fun _ ht1 => ht1)
  · exact ExcOk.bind (memOk_atomic h) (fun _ ht1 => ht1)

theorem memOk_swsetRes {a b : Reg} (h : s.memOk) : ExcOk Stop.memOk Done.memOk (s.swsetRes a b) := by
  unfold State.swsetRes
  dsimp only
  refine ExcOk.bind memOk_checkMem (fun x ht => ?_)
  split
  · exact h
  · exact ExcOk.bind (memOk_storeRemote h) (fun _ ht1 => ht1)
  · exact memOk_stopWith

theorem memOk_swwaitRes {a b : Reg} (h : s.memOk) : ExcOk Stop.memOk Done.memOk (s.swwaitRes a b) := by
  unfold State.swwaitRes
  dsimp only
  refine ExcOk.bind memOk_noTxn (fun x ht => ?_)
  refine ExcOk.bind memOk_checkMem (fun x1 ht1 => ?_)
  split
  · split
    · trivial
    split
    · exact h
    · exact memOk_setX (memOk_acquire h)
  · exact memOk_stopWith

theorem memOk_barDone {sc : Scope} (h : s.memOk) : (s.barDone sc).memOk := by
  unfold State.barDone
  exact memOk_acquire h

theorem memOk_barAwait {sc : Scope} {sp : Space} (h : s.memOk) : ExcOk Stop.memOk Done.memOk (s.barAwait sc sp) := by
  unfold State.barAwait
  dsimp only
  split
  · split
    · exact memOk_barDone h
    · exact h
  · split
    · exact memOk_barDone h
    · exact h

theorem memOk_arrive {c o n : Nat} (h : s.memOk) : (s.arrive c o n).1.memOk := by
  unfold State.arrive
  dsimp only
  exact memOk_raise (memOk_modCore h)

theorem memOk_barRes {sc : Scope} {a b : Reg} (h : s.memOk) : ExcOk Stop.memOk Done.memOk (s.barRes sc a b) := by
  unfold State.barRes
  dsimp only
  refine ExcOk.bind memOk_noTxn (fun x ht => ?_)
  split
  · exact memOk_stopWith
  refine ExcOk.bind memOk_checkMem (fun x1 ht1 => ?_)
  split
  · exact memOk_barAwait h
  refine ExcOk.bind (memOk_release h) (fun t ht2 => ?_)
  split
  · exact memOk_barAwait (memOk_modMe (memOk_modMe (memOk_arrive ht2)))
  · split
    · exact memOk_modMe ht2
    refine memOk_post ?_
    exact memOk_modMe ht2
  · exact memOk_stopWith

theorem memOk_waitevRes {a : Reg} (h : s.memOk) : ExcOk Stop.memOk Done.memOk (s.waitevRes a) := by
  unfold State.waitevRes
  generalize s.here.lm.word = word
  refine ExcOk.bind memOk_noTxn (fun _ _ => ExcOk.bind memOk_checkMem (fun _ _ => ?_))
  split
  · exact ExcOk.ite (memOk_modMe (memOk_modHere h)) h
  · exact memOk_stopWith

theorem memOk_writtenBack (h : s.memOk) : ExcOk Stop.memOk State.memOk s.writtenBack := by
  unfold State.writtenBack
  dsimp only
  split
  · exact h
  · split <;> exact memOk_drainAll h

theorem memOk_l1wbRes (h : s.memOk) : ExcOk Stop.memOk Done.memOk s.l1wbRes := by
  unfold State.l1wbRes
  exact ExcOk.bind (memOk_writtenBack h) (fun _ ht => ht)

theorem memOk_l1invRes (h : s.memOk) : ExcOk Stop.memOk Done.memOk s.l1invRes := by
  unfold State.l1invRes
  exact ExcOk.bind (memOk_writtenBack h) (fun _ ht => ht)

theorem memOk_drainAsid {asid : Nat} (h : s.memOk) : (s.drainAsid asid).memOk := by
  unfold State.drainAsid
  exact memOk_foldl h (fun _ _ ht => memOk_ite (memOk_drainAll ht) ht)

theorem memOk_abortCore {c : Nat} (h : s.memOk) : (s.abortCore c).memOk := by
  unfold State.abortCore
  exact memOk_foldl h (fun _ _ ht => memOk_ite (memOk_abortTxn ht) ht)

theorem memOk_asinvRes {a : Reg} (h : s.memOk) : ExcOk Stop.memOk Done.memOk (s.asinvRes a) := by
  unfold State.asinvRes
  refine ExcOk.bind memOk_noTxn (fun _ _ => ExcOk.bind (memOk_drained h) (fun t ht => ?_))
  extract_lets c u v w x
  have hv : v.memOk := memOk_with (memOk_modCore ht)
  have hx : x.memOk := memOk_drainAsid (memOk_ite (memOk_abortCore hv) hv)
  split
  · exact hx
  · exact hx

end Sys2Proof.Machine
end

section
/-!
SUPPORT. The memories stay canonical (O58): sends, spawns, calls and channels.
-/
namespace Sys2Proof.Machine

variable {s : State}

theorem memOk_popRes {d : Reg} {ch : Nat} (h : s.memOk) : ExcOk Stop.memOk Done.memOk (s.popRes d ch) := by
  unfold State.popRes
  dsimp only
  split
  · split
    · split
      · exact memOk_consumePoison h
      · trivial
    · exact memOk_setX h
  · exact h

theorem memOk_chrdRes {d : Reg} {ch : BitVec 6} (h : s.memOk) : ExcOk Stop.memOk Done.memOk (s.chrdRes d ch) := by
  unfold State.chrdRes
  dsimp only
  refine ExcOk.bind memOk_noTxn (fun x ht => ?_)
  split
  · exact memOk_popRes h
  · exact h

theorem memOk_sendMsg {v : Word} {t : Place} {body : MsgBody} (h : s.memOk) :
    ExcOk Stop.memOk State.memOk (s.sendMsg v t body) := by
  unfold State.sendMsg
  split
  · split
    · exact ExcOk.bind (memOk_hold h) (fun _ _ => ExcOk.bind (memOk_release h) (fun _ ht1 => memOk_hold ht1))
    refine ExcOk.bind (memOk_release h) (fun t1 ht => ?_)
    split
    · exact memOk_modMe (memOk_post ht)
    · exact ht

theorem memOk_sendRes {a b : Reg} {count : BitVec 2} {ch : BitVec 6} (h : s.memOk) :
    ExcOk Stop.memOk Done.memOk (s.sendRes a b count ch) := by
  unfold State.sendRes
  exact ExcOk.bind memOk_noTxn (fun _ _ => ExcOk.bind memOk_checkPlace (fun _ _ => ExcOk.bind (memOk_sendMsg h)
    (fun _ ht2 => ht2)))

theorem memOk_checkPc {pc : Word} : ExcOk Stop.memOk (fun _ => True) (s.checkPc pc) := by
  unfold State.checkPc
  split
  · exact memOk_stopWith
  · trivial

theorem memOk_bear (h : s.memOk) : s.bear.memOk := h

theorem memOk_spawnQueued {p : Word} {t : Place} {pc : Word} (h : s.memOk) :
    ExcOk Stop.memOk Done.memOk (s.spawnQueued p t pc) := by
  unfold State.spawnQueued
  exact ExcOk.bind (memOk_sendMsg h) (fun _ ht => memOk_ite ht (memOk_bear ht))

theorem memOk_inlineChild {pc : Word} (h : s.memOk) : (s.inlineChild pc).memOk := h

theorem memOk_spawnRes {a b : Reg} {queued : Bool} (h : s.memOk) :
    ExcOk Stop.memOk Done.memOk (s.spawnRes a b queued) := by
  unfold State.spawnRes
  refine ExcOk.bind memOk_noTxn (fun _ _ => ExcOk.bind memOk_checkPlace (fun _ _ =>
    ExcOk.bind memOk_checkPc (fun _ _ => ?_)))
  dsimp only
  split
  · exact memOk_spawnQueued h
  refine ExcOk.bind (memOk_release h) (fun t ht => ?_)
  split
  · exact memOk_spawnQueued ht
  split
  · exact (ht : (t.inlineChild (s.X b)).memOk)
  split
  · exact memOk_post ht
  · exact ht

theorem memOk_sendAfter {m : Msg} (h : s.memOk) : ExcOk Stop.memOk State.memOk (s.sendAfter m) := by
  unfold State.sendAfter
  dsimp only
  refine ExcOk.bind (memOk_release h) (fun t ht => ?_)
  split
  · exact memOk_post ht
  · exact ht

theorem memOk_migrateRes {a b : Reg} (h : s.memOk) : ExcOk Stop.memOk Done.memOk (s.migrateRes a b) := by
  unfold State.migrateRes
  refine ExcOk.bind memOk_noTxn (fun _ _ => ExcOk.bind memOk_checkPlace (fun _ _ =>
    ExcOk.bind memOk_checkPc (fun _ _ => ?_)))
  dsimp only
  split
  · exact ExcOk.bind (p := fun _ => False) h (fun _ hn => hn.elim)
  split
  · exact ExcOk.bind memOk_checkPc (fun _ _ => ExcOk.bind (memOk_sendAfter h) (fun _ ht => ht))
  split
  · next e => exact ExcOk.bind (memOk_sendAfter (memOk_of_pair e (memOk_depart h))) (fun _ ht => ht)
  · next e => exact memOk_of_pair e (memOk_depart h)

theorem memOk_callatRes {a b : Reg} {ch : BitVec 6} (h : s.memOk) :
    ExcOk Stop.memOk Done.memOk (s.callatRes a b ch) := by
  unfold State.callatRes
  exact ExcOk.bind memOk_noTxn (fun _ _ => ExcOk.bind memOk_checkPlace (fun _ _ => ExcOk.bind memOk_checkPc
    (fun _ _ => ExcOk.bind (memOk_sendMsg h) (fun _ ht3 => ht3))))

theorem memOk_replyRes {a b : Reg} (h : s.memOk) : ExcOk Stop.memOk Done.memOk (s.replyRes a b) := by
  unfold State.replyRes
  dsimp only
  refine ExcOk.bind memOk_noTxn (fun x ht => ?_)
  split
  · exact memOk_stopWith
  · exact ExcOk.bind (memOk_sendMsg h) (fun _ ht1 => ht1)

end Sys2Proof.Machine
end

section
/-!
SUPPORT. The memories stay canonical (O58): copies, gathers and scatters.
-/
namespace Sys2Proof.Machine

variable {s : State}

theorem memOk_engineFault {c slot act : Nat} {cause : Cause} {v : Word} (h : s.memOk) :
    (s.engineFault c slot act cause v).memOk := by
  unfold State.engineFault
  dsimp only
  exact memOk_ite (memOk_raiseAsync h) (memOk_endLaunchOf h)

theorem memOk_engineFlags {c slot act : Nat} {f : Flags} (h : s.memOk) : (s.engineFlags c slot act f).memOk := by
  unfold State.engineFlags
  exact memOk_ite h h

theorem memOk_holdOp {x : Txn} {o : HeldOp} (h : s.memOk) : ExcOk Stop.memOk Done.memOk (s.holdOp x o) := by
  unfold State.holdOp
  split
  · trivial
  · exact h

theorem memOk_copyRes {sat raise : Bool} {a b c : Reg} (h : s.memOk) :
    ExcOk Stop.memOk Done.memOk (s.copyRes sat raise a b c) := by
  unfold State.copyRes
  dsimp only
  split
  · exact memOk_stopWith
  split
  · exact memOk_stopWith
  split
  · exact memOk_stopWith
  split
  · exact h
  split
  · exact memOk_holdOp h
  · split <;> exact h

theorem memOk_modCopy {c n : Nat} {f : CopyOp → CopyOp} (h : s.memOk) : (s.modCopy c n f).memOk := h

theorem memOk_askPiece {c n : Nat} {o : CopyOp} {pos len : Nat} {p : Place} {op : MsgBody} (h : s.memOk) :
    (s.askPiece c n o pos len p op).memOk := by
  unfold State.askPiece
  split
  · exact h
  split
  · exact h
  · exact memOk_modCopy (memOk_post h)

theorem memOk_askWindow {c n : Nat} {o : CopyOp} {pos len addr : Nat} (h : s.memOk) :
    (s.askWindow c n o pos len addr).memOk := by
  unfold State.askWindow
  split
  · exact h
  split
  · exact h
  · exact h

theorem memOk_readPiece {c n : Nat} {o : CopyOp} {pos len : Nat} (h : s.memOk) :
    (s.readPiece c n o pos len).memOk := by
  unfold State.readPiece
  dsimp only
  split
  · exact h
  · exact h
  · split
    · next t e => exact (OptOk.of_eq e (memOk_touchTiles h) : t.memOk)
    · exact h
  · exact memOk_askWindow h
  · exact memOk_askPiece h
  · exact memOk_askPiece h
  · trivial

theorem memOk_readPieces {c n : Nat} {o : CopyOp} {ps : List (Nat × Nat)} (h : s.memOk) :
    (s.readPieces c n o ps).memOk := by
  induction ps generalizing s with
  | nil => exact h
  | cons p r ih =>
    have hp := memOk_readPiece (c := c) (n := n) (o := o) (pos := p.1) (len := p.2) h
    unfold State.readPieces
    split
    · next t bs e =>
      have hr := ih (Piece.memOk_of_got e hp)
      split
      · next e' => exact Piece.memOk_of_got (s := _) e' hr
      · exact hr
    · exact hp

theorem memOk_freeOverlap {c : Nat} {o : CopyOp} {first : Nat} {bs : List (Byte × Bool)} (h : s.memOk) :
    (s.freeOverlap c o first bs).1.memOk := by
  unfold State.freeOverlap
  dsimp only
  split <;> exact h

theorem memOk_pieceReady {c : Nat} {a : Word} {pos len : Nat} (h : s.memOk) :
    OptOk (fun r => r.2.memOk) (s.pieceReady c a pos len) := by
  unfold State.pieceReady
  split
  · trivial
  · split
    · exact memOk_snoopRange h
    split
    · next e =>
        have ht := OptOk.of_eq e (memOk_touchTiles h)
        exact ht
    · exact h
  · exact h
  · exact h
  · exact h

theorem memOk_piecesReady {c : Nat} {a : Word} {x : List (Nat × Nat)} (h : s.memOk) :
    ExcOk (fun _ => True) (fun r => r.2.memOk) (s.piecesReady c a x) := by
  induction x generalizing s with
  | nil => exact h
  | cons p r ih =>
    unfold State.piecesReady
    split
    · trivial
    · next e =>
      have ht := OptOk.of_eq e (memOk_pieceReady h)
      exact ht
    · next e =>
      have ht := OptOk.of_eq e (memOk_pieceReady h)
      exact ih ht

theorem memOk_writePiece {c n : Nat} {o : CopyOp} {pos : Nat} {bs : List (Byte × Bool)} (h : s.memOk) :
    (s.writePiece c n o pos bs).memOk := by
  have hl : (s.logMoved c (badGranules (atPos o.dst pos).toNat bs)).memOk := memOk_logMoved h
  unfold State.writePiece
  dsimp only
  split
  · split
    · exact memOk_raise (memOk_modCore hl)
    · exact memOk_modCore hl
  · split
    · exact memOk_raise (memOk_modCore hl)
    · exact memOk_modCore hl
  · split
    · exact memOk_raise (memOk_modCore hl)
    · exact memOk_modCore hl
  · split
    · exact memOk_raise (memOk_with (memOk_homeWrite hl))
    · exact memOk_with (memOk_homeWrite hl)
  · split
    · exact memOk_raise (memOk_withHost (memOk_askHost hl) (Memory.wf_writeBytes hl.2 _ _))
    · exact memOk_withHost (memOk_askHost hl) (Memory.wf_writeBytes hl.2 _ _)
  · exact memOk_modCopy (memOk_post hl)
  · exact memOk_modCopy (memOk_post hl)
  · exact hl

theorem memOk_copyStop {c n : Nat} {o : CopyOp} {v : Word} {back : Bool} (h : s.memOk) :
    (s.copyStop c n o v back).memOk := by
  unfold State.copyStop
  dsimp only
  exact memOk_ite (memOk_modCopy h) (memOk_engineFault (memOk_modCopy h))

theorem memOk_copySource {c n : Nat} {o : CopyOp} {lo hi : Nat} (h : s.memOk) :
    (s.copySource c n o lo hi).memOk := by
  unfold State.copySource
  split
  · exact h
  split
  · split
    · next e => exact memOk_modCopy (Piece.memOk_of_got e (memOk_readPieces h))
    · exact memOk_readPieces h
  · exact memOk_readPieces h

theorem memOk_copyDeliver {c n : Nat} {o : CopyOp} (h : s.memOk) : (s.copyDeliver c n o).memOk := by
  unfold State.copyDeliver
  dsimp only
  split
  · next e => exact Piece.memOk_of_wait e (memOk_copySource h)
  · exact memOk_copyStop h
  · next e =>
    have ht := Piece.memOk_of_got e (memOk_copySource h)
    split
    · exact memOk_copyStop ht
    · next e' =>
      have hu := ExcOk.of_ok e' (memOk_piecesReady ht)
      exact hu
    · next e' =>
      have hu := ExcOk.of_ok e' (memOk_piecesReady ht)
      exact memOk_foldl (memOk_modCopy (memOk_freeOverlap hu)) (fun _ _ hv => memOk_writePiece hv)

theorem memOk_gatherRes {a : Reg} {isScatter : Bool} (h : s.memOk) :
    ExcOk Stop.memOk Done.memOk (s.gatherRes a isScatter) := by
  unfold State.gatherRes
  dsimp only
  split
  · exact memOk_stopWith
  split
  · trivial
  split
  · exact memOk_stopWith
  split
  · exact memOk_stopWith
  split
  · exact memOk_holdOp h
  · split <;> exact h

theorem memOk_modGather {c n : Nat} {f : GatherOp → GatherOp} (h : s.memOk) : (s.modGather c n f).memOk := h
theorem memOk_gatherTidy {c : Nat} (h : s.memOk) : (s.gatherTidy c).memOk := h

theorem memOk_gatherStop {c n : Nat} {o : GatherOp} {p : Nat} {back : Bool} (h : s.memOk) :
    (s.gatherStop c n o p back).memOk := by
  unfold State.gatherStop
  dsimp only
  exact memOk_engineFault (memOk_gatherTidy (memOk_modGather h))

theorem memOk_gatherIssue {c n : Nat} {o : GatherOp} (h : s.memOk) : (s.gatherIssue c n o).memOk := by
  unfold State.gatherIssue
  dsimp only
  split
  · exact memOk_gatherStop h
  · exact memOk_ite (memOk_gatherStop h) (memOk_ite h (memOk_modGather (memOk_post (memOk_logMoved h))))

theorem memOk_gatherRaise {c : Nat} {o : GatherOp} {n : Nat} (h : s.memOk) : (s.gatherRaise c o n).memOk := by
  unfold State.gatherRaise
  split
  · exact memOk_raise h
  · exact h

theorem memOk_gatherLand {c n : Nat} {o : GatherOp} {p : Nat} {bs : List Byte} {bad : Bool} (h : s.memOk) :
    (s.gatherLand c n o p bs bad).memOk := by
  unfold State.gatherLand
  dsimp only
  exact memOk_gatherTidy (memOk_modGather (memOk_gatherRaise (memOk_logMoved h)))

theorem memOk_scatterLand {c n : Nat} {o : GatherOp} (h : s.memOk) : (s.scatterLand c n o).memOk := by
  unfold State.scatterLand
  exact memOk_gatherTidy (memOk_modGather (memOk_gatherRaise h))

end Sys2Proof.Machine
end

section
/-!
SUPPORT. The memories stay canonical (O58): launches and multicasts of a slot.
-/
namespace Sys2Proof.Machine

variable {s : State}

theorem memOk_streamFlushOne {c i r : Nat} (h : s.memOk) : (s.streamFlushOne c i r).memOk := by
  unfold State.streamFlushOne
  split
  · split <;> exact h
  · exact h

theorem memOk_streamFlush {c i r n : Nat} (h : s.memOk) : (s.streamFlush c i r n).memOk := by
  induction n generalizing s with
  | zero => exact h
  | succ n ih => exact ih (memOk_streamFlushOne h)

theorem memOk_settleStream {r : Reg} (h : s.memOk) : (s.settleStream r).memOk := by
  unfold State.settleStream
  dsimp only
  exact memOk_modMe (memOk_foldl (memOk_ite (memOk_popStream h) h) (fun _ _ ht => memOk_writeReg ht))

theorem memOk_sbindRes {a b : Reg} (h : s.memOk) : ExcOk Stop.memOk Done.memOk (s.sbindRes a b) := by
  unfold State.sbindRes
  dsimp only
  split
  · exact memOk_stopWith
  split
  · exact memOk_modMe (memOk_streamFlush (memOk_settleStream h))
  refine ExcOk.bind memOk_checkMem (fun x ht => ?_)
  split
  · split
    · trivial
    split
    · exact memOk_stopWith
    · exact memOk_modMe (memOk_streamFlush (memOk_settleStream h))
  · exact memOk_stopWith

theorem memOk_streamAhead {c i r : Nat} (h : s.memOk) : (s.streamAhead c i r).memOk := by
  unfold State.streamAhead
  dsimp only
  split
  · exact memOk_ite h h
  · exact h

theorem memOk_mswapRes {acc : Bool} (h : s.memOk) : ExcOk Stop.memOk Done.memOk (s.mswapRes acc) := by
  unfold State.mswapRes
  dsimp only
  refine ExcOk.bind memOk_noTxn (fun x ht => ?_)
  split <;> split <;> exact h

theorem memOk_mwaitRes (h : s.memOk) : ExcOk Stop.memOk Done.memOk s.mwaitRes := by
  unfold State.mwaitRes
  dsimp only
  refine ExcOk.bind memOk_noTxn (fun x ht => ?_)
  split <;> exact h

theorem memOk_pushHeader {bs : List Byte} (h : s.memOk) : (s.pushHeader bs).memOk := h

theorem memOk_dlaunchRes {a : Reg} (h : s.memOk) : ExcOk Stop.memOk Done.memOk (s.dlaunchRes a) := by
  unfold State.dlaunchRes
  dsimp only
  refine ExcOk.bind memOk_noTxn (fun x ht => ?_)
  refine ExcOk.bind memOk_checkMem (fun x1 ht1 => ?_)
  split
  · exact memOk_stopWith
  refine ExcOk.bind (memOk_release h) (fun t ht2 => ?_)
  split
  · exact ht2
  · exact ExcOk.bind (memOk_load ht2) (fun _ ht3 => memOk_pushHeader ht3)

theorem memOk_captureAt {src a : Word} : ExcOk Stop.memOk (fun _ => True) (s.captureAt src a) := by
  unfold State.captureAt
  refine ExcOk.bind memOk_checkMem (fun x ht => ?_)
  split
  · trivial
  · split
    · trivial
    · exact memOk_stopWith
  · exact memOk_stopWith

theorem memOk_capturePieces {src : Word} {x : List (Nat × Nat)} :
    ExcOk Stop.memOk (fun _ => True) (s.capturePieces src x) := by
  induction x with
  | nil => trivial
  | cons p r ih => exact ExcOk.bind memOk_captureAt (fun _ _ => ExcOk.bind ih (fun _ _ => trivial))

theorem memOk_mcstRes {a b c : Reg} (h : s.memOk) : ExcOk Stop.memOk Done.memOk (s.mcstRes a b c) := by
  unfold State.mcstRes
  dsimp only
  split
  · exact memOk_stopWith
  next t ms e =>
  have ht : t.memOk := by
    split at e
    · have ht := OptOk.of_eq e (memOk_groupOf h)
      exact ht
    · cases e
  split
  · exact memOk_stopWith
  refine ExcOk.bind memOk_captureAt (fun x _ => ExcOk.ite_bind (p := fun _ => True) trivial memOk_capturePieces
    (fun _ _ => ?_))
  split
  · exact memOk_stopWith
  split
  · exact memOk_holdOp ht
  refine ExcOk.bind (memOk_release ht) (fun u hu => ?_)
  split
  · exact hu
  split
  · next e' =>
    have hv := OptOk.of_eq e' (memOk_captureLine hu)
    exact memOk_postMcast (memOk_logMoved hv)
  · exact hu

theorem memOk_composeRes {d b : Reg} (h : s.memOk) : ExcOk Stop.memOk Done.memOk (s.composeRes d b) := by
  unfold State.composeRes
  dsimp only
  refine ExcOk.bind memOk_noTxn (fun x ht => ?_)
  split
  · exact memOk_stopWith
  split
  · exact memOk_stopWith
  · exact h

end Sys2Proof.Machine
end

section
/-!
SUPPORT. The memories stay canonical (O58): comparisons into masks.
-/
namespace Sys2Proof.Machine

variable {s : State}

theorem memOk_issueList {c tag : Nat} {r : Nat × Nat × Nat × Nat} (h : s.memOk) : (s.issueList c tag r).1.memOk := by
  unfold State.issueList
  dsimp only
  split
  · split <;> exact memOk_modLaunch h
  · exact h

theorem memOk_tksendRes {a b c : Reg} (h : s.memOk) : ExcOk Stop.memOk Done.memOk (s.tksendRes a b c) := by
  unfold State.tksendRes
  dsimp only
  refine ExcOk.bind memOk_noTxn (fun x ht => ?_)
  split
  · exact memOk_stopWith
  split
  · split
    · exact memOk_stopWith
    split
    · exact memOk_stopWith
    split
    · trivial
    split
    · exact ExcOk.bind (memOk_hold (memOk_issueList h)) (fun _ ht1 => ht1)
    split
    · exact memOk_modMe (memOk_post (memOk_issueList h))
    · exact memOk_issueList h
  · exact memOk_stopWith

theorem memOk_joinRound {key c tag : Nat} {r : Nat × Nat × Nat × Nat} {result sw : Nat} {l : MergeList} {num : Nat}
    (h : s.memOk) : OptOk State.memOk (s.joinRound key c tag r result sw l num) := by
  unfold State.joinRound
  dsimp only
  split
  · split
    · trivial
    · exact h
  · split
    · trivial
    · exact h

theorem memOk_enterFrom {x : List Msg} {x' : List Msg} (h : s.memOk) : (s.enterFrom x x').memOk := by
  induction x' generalizing s x with
  | nil => exact h
  | cons m rest ih =>
    unfold State.enterFrom
    dsimp only
    split
    · split
      · exact ih h
      split
      · next e => exact ih (OptOk.of_eq e (memOk_joinRound h))
      · exact ih h
    · exact ih h

theorem memOk_enterLists (h : s.memOk) : s.enterLists.memOk := by
  unfold State.enterLists
  exact memOk_enterFrom h

theorem memOk_writeResult {site : Nat} {x : Round} {l : MergeList} (h : s.memOk) :
    (s.writeResult site x l).memOk := by
  unfold State.writeResult
  exact memOk_raise (memOk_modCore h)

theorem memOk_setRound {x y : Round} (h : s.memOk) : (s.setRound x y).memOk := h

theorem memOk_mergeAt {x : Round} {level unit : Nat} (h : s.memOk) : (s.mergeAt x level unit).memOk := by
  unfold State.mergeAt
  dsimp only
  split
  · split
    · exact memOk_with (memOk_writeResult h)
    · exact h
  · split
    · exact memOk_ite h (memOk_setRound h)
    · exact h

theorem memOk_bkselRes {ty : KeyType} {d b : Reg} (h : s.memOk) :
    ExcOk Stop.memOk Done.memOk (s.bkselRes ty d b) := by
  unfold State.bkselRes
  dsimp only
  refine ExcOk.bind memOk_noTxn (fun x ht => ?_)
  split
  · exact memOk_stopWith
  split
  · split
    · exact memOk_stopWith
    split
    · trivial
    · exact memOk_setX h
  · exact memOk_stopWith

end Sys2Proof.Machine
end

section
/-!
SUPPORT. The memories stay canonical (O58): matrix commands.
-/
namespace Sys2Proof.Machine

variable {s : State}

theorem memOk_matrixFault {c : Nat} {e : MEntry} (h : s.memOk) : (s.matrixFault c e).memOk := by
  unfold State.matrixFault
  exact memOk_engineFault h

theorem memOk_matrixPoison {c : Nat} {e : MEntry} {v : Word} (h : s.memOk) : (s.matrixPoison c e v).memOk := by
  unfold State.matrixPoison
  dsimp only
  exact memOk_ite (memOk_rollback h) (memOk_engineFault h)

theorem memOk_runMatrix {c code : Nat} (h : s.memOk) : (s.runMatrix c code).memOk := by
  unfold State.runMatrix
  dsimp only
  split
  · split
    · exact h
    split
    · exact h
    split
    · exact memOk_matrixPoison h
    split
    · exact memOk_matrixFault h
    · exact memOk_matrixPoison h
    · exact h
  · exact h

theorem memOk_completeMatrix {c : Nat} (h : s.memOk) : (s.completeMatrix c).memOk := by
  unfold State.completeMatrix
  dsimp only
  split
  · split
    · exact memOk_ite (memOk_ite (memOk_raise (memOk_engineFlags h)) (memOk_engineFlags h)) h
    · exact memOk_ite (memOk_matrixFault h) h
  · exact h

theorem memOk_runMarker {c : Nat} (h : s.memOk) : (s.runMarker c).memOk := by
  unfold State.runMarker
  dsimp only
  split
  · split
    · exact memOk_ite (memOk_completeWait h) h
    · exact h
  · exact h

end Sys2Proof.Machine
end

section
/-!
SUPPORT. The memories stay canonical (O58): ends of waits, held traps and drains.
-/
namespace Sys2Proof.Machine

variable {s : State}

theorem memOk_unissued {c i : Nat} (h : s.memOk) : (s.unissued c i).memOk := by
  unfold State.unissued
  split
  · exact memOk_modLaunch h
  · exact h

theorem memOk_leaveWait {c i : Nat} (h : s.memOk) : (s.leaveWait c i).memOk := by
  unfold State.leaveWait
  exact memOk_modSlot (memOk_modCore (memOk_unissued h))

theorem memOk_takeHeld {c i : Nat} (h : s.memOk) : (s.takeHeld c i).memOk := by
  unfold State.takeHeld
  dsimp only
  split
  · exact h
  split
  · exact h
  · exact memOk_takeTrap (memOk_ite (memOk_abortTxn (memOk_modSlot (memOk_leaveWait h))) (memOk_modSlot
      (memOk_leaveWait h)))

theorem memOk_watchdog {c i : Nat} (h : s.memOk) : (s.watchdog c i).memOk := by
  unfold State.watchdog
  dsimp only
  exact memOk_ite h (memOk_ite (memOk_endLaunchOf h) (memOk_raiseAsync h))

theorem memOk_actAs {c i : Nat} (h : s.memOk) : (s.actAs c i).memOk := h

theorem memOk_swwaitEnd {c i : Nat} (h : s.memOk) : (s.swwaitEnd c i).memOk := by
  unfold State.swwaitEnd
  dsimp only
  split
  · exact memOk_ite h (memOk_ite (memOk_consumePoison h) (memOk_completeWait (memOk_setX (memOk_acquire
      (memOk_actAs h)))))
  · exact h

theorem memOk_waitevEnd {c i : Nat} (h : s.memOk) : (s.waitevEnd c i).memOk := by
  unfold State.waitevEnd
  split
  · exact memOk_ite h (memOk_completeWait (memOk_modCore (memOk_actAs h)))
  · exact h

theorem memOk_chrdEnd {c i : Nat} (h : s.memOk) : (s.chrdEnd c i).memOk := by
  unfold State.chrdEnd
  dsimp only
  split
  · exact memOk_ite h (memOk_finishC (memOk_leaveWait (memOk_actAs h)) (memOk_popRes (memOk_leaveWait
      (memOk_actAs h))))
  · exact h

theorem memOk_resume {c i : Nat} (h : s.memOk) : (s.resume c i).memOk := by
  unfold State.resume
  dsimp only
  split
  · exact memOk_with (memOk_actAs h)
  · exact h

theorem memOk_portEnd {c i : Nat} (h : s.memOk) : (s.portEnd c i).memOk := by
  unfold State.portEnd
  dsimp only
  split
  · next e => exact Issued.memOk_of_done e (memOk_issueWords (memOk_modSlot (memOk_actAs h)))
  · next e => exact memOk_with (Issued.memOk_of_one e (memOk_issueWords (memOk_modSlot (memOk_actAs h))))
  · next e => exact memOk_with (Issued.memOk_of_two e (memOk_issueWords (memOk_modSlot (memOk_actAs h))))

theorem memOk_composeStep {c i : Nat} {d : Reg} {mask : Nat} {grant : Option (Nat × Nat)} (h : s.memOk) :
    (s.composeStep c i d mask grant).memOk := by
  unfold State.composeStep
  dsimp only
  split
  · exact memOk_ite h (memOk_modSlot (memOk_ite h (memOk_foldl h (fun _ _ ht => ht))))
  · exact memOk_ite h (memOk_completeWait (memOk_setX (memOk_ite h h)))

theorem memOk_stopEnd {c i : Nat} (h : s.memOk) : (s.stopEnd c i).memOk := by
  unfold State.stopEnd
  dsimp only
  split
  · exact memOk_ite h (memOk_resume (memOk_handedBack h))
  · exact memOk_ite h (memOk_handedBack h)
  · exact memOk_ite (memOk_resume h) (memOk_ite (memOk_drainAsid (memOk_actAs h)) (memOk_completeWait
      (memOk_drainAsid (memOk_actAs h))))
  · exact h

theorem memOk_stallEnd {c i : Nat} (h : s.memOk) : (s.stallEnd c i).memOk := by
  unfold State.stallEnd
  dsimp only
  split
  · exact memOk_stopEnd h
  split
  · exact memOk_portEnd h
  · exact memOk_resume h
  · exact memOk_resume h
  · exact memOk_resume h
  · exact memOk_ite (memOk_completeWait (memOk_actAs h)) h
  · exact memOk_ite h (memOk_completeWait (memOk_modSlot (memOk_actAs h)))
  · split
    · next e =>
      have ht := ExcOk.of_ok e (memOk_barAwait (memOk_actAs h))
      exact memOk_completeWait ht
    · exact memOk_actAs h
  · exact memOk_composeStep h
  · exact memOk_ite (memOk_completeWait (memOk_modMe (memOk_post (memOk_actAs h)))) h
  · exact memOk_stopEnd h

theorem memOk_flushStreams {c i : Nat} (h : s.memOk) : (s.flushStreams c i).memOk := by
  unfold State.flushStreams
  exact memOk_foldl h (fun _ _ ht => memOk_streamFlush ht)

theorem memOk_begin {c i : Nat} {chan : Nat} {source : Source} {parent : Option Place} {claim : Nat} {pc : Word}
    {xs : List Word} {wid : Word} (h : s.memOk) : (s.begin c i chan source parent claim pc xs wid).memOk := by
  unfold State.begin
  dsimp only
  split
  · exact memOk_flushStreams h
  · exact memOk_setSlot (memOk_with (memOk_flushStreams h))

theorem memOk_startItem {c i : Nat} {l : Launch} (h : s.memOk) : (s.startItem c i l).memOk := by
  unfold State.startItem
  split
  · exact memOk_begin h
  · exact h

theorem memOk_startArrival {c i : Nat} (h : s.memOk) : (s.startArrival c i).memOk := by
  unfold State.startArrival
  dsimp only
  split
  · split
    · exact memOk_ite (memOk_consumePoison (memOk_modSlot (memOk_modCore (memOk_begin h)))) (memOk_modCore
        (memOk_begin h))
    · exact h
  · exact h

theorem memOk_fire {c i ch : Nat} {l : Launch} (h : s.memOk) : (s.fire c i ch l).memOk := by
  unfold State.fire
  split
  · exact memOk_begin h
  · exact h

theorem memOk_fill {c : Nat} (h : s.memOk) : (s.fill c).memOk := by
  unfold State.fill
  dsimp only
  split
  · exact h
  split
  · split
    · exact memOk_startItem h
    · exact memOk_startArrival h
    · exact memOk_fire h
  · exact h

theorem memOk_shipChildren {c d n : Nat} (h : s.memOk) : (s.shipChildren c d n).memOk := by
  induction n generalizing s with
  | zero => exact h
  | succ n ih =>
    unfold State.shipChildren
    split
    · exact memOk_ite (ih (memOk_modCore (memOk_setCore (memOk_logMoved h)))) h
    · exact h

theorem memOk_shipBatches {c d n : Nat} (h : s.memOk) : (s.shipBatches c d n).memOk := by
  induction n generalizing s with
  | zero => exact h
  | succ n ih =>
    unfold State.shipBatches
    dsimp only
    split
    · exact memOk_ite (ih (memOk_modCore (memOk_setCore h))) h
    · exact h

theorem memOk_level {c : Nat} (h : s.memOk) : (s.level c).memOk := by
  unfold State.level
  dsimp only
  split
  · exact h
  split
  · exact h
  · exact memOk_ite (memOk_modCore (memOk_shipChildren (memOk_shipBatches h))) h

theorem memOk_strike {x : Upset} (h : s.memOk) : (s.strike x).memOk := by
  unfold State.strike
  dsimp only
  split
  · exact h
  · exact h
  · exact h
  · exact h
  · exact h
  · exact h
  · exact h
  · exact h
  · exact h
  · exact h
  · exact h
  · exact memOk_ite (memOk_abortTxn h) h

end Sys2Proof.Machine
end

section
/-!
SUPPORT. The memories stay canonical (O58): messages at their target.
-/
namespace Sys2Proof.Machine

variable {s : State}

theorem memOk_sendFrom {kept : List Msg} {x : List Msg} (h : s.memOk) : (s.sendFrom kept x).memOk := by
  induction x generalizing s kept with
  | nil => exact h
  | cons m r ih => exact memOk_ite (ih (memOk_leave h)) (ih h)

theorem memOk_sendOut (h : s.memOk) : s.sendOut.memOk := by
  unfold State.sendOut
  exact memOk_ite (memOk_sendFrom h) h

theorem memOk_dropMsg {k : Nat} (h : s.memOk) : (s.dropMsg k).memOk := h

theorem memOk_deliver {k : Nat} {m : Msg} (h : s.memOk) : (s.deliver k m).memOk := by
  unfold State.deliver
  split
  · exact h
  split
  · exact memOk_dropMsg h
  split
  · exact h
  split
  · exact memOk_setCore (memOk_dropMsg h)
  · exact h

theorem memOk_onMsg {k : Nat} {p : MsgBody → Bool} {f : Msg → State} (h : s.memOk) (hf : ∀ m, (f m).memOk) :
    (s.onMsg k p f).memOk := by
  unfold State.onMsg
  split
  · exact hf _
  · exact h

theorem memOk_answerTo {n : Nat} {m : Msg} {body : MsgBody} (h : s.memOk) : (s.answerTo n m body).memOk := by
  unfold State.answerTo
  exact memOk_post h

theorem memOk_ask {k : Nat} {m : Msg} {slot : Nat} (h : s.memOk) : (s.ask k m slot).memOk := by
  unfold State.ask
  dsimp only
  split
  · exact h
  split
  · exact memOk_dropMsg h
  split
  · exact h
  · split
    · exact h
    · exact memOk_with (memOk_dropMsg h)
  · exact memOk_answerTo (memOk_modCore (memOk_dropMsg h))
  · exact memOk_answerTo (memOk_modCore (memOk_dropMsg h))
  · exact memOk_answerTo (memOk_modCore (memOk_dropMsg h))

theorem memOk_spawnAnswered {k : Nat} {m : Msg} {i : Nat} {accepted : Bool} (h : s.memOk) :
    (s.spawnAnswered k m i accepted).memOk := by
  unfold State.spawnAnswered
  dsimp only
  split
  · exact h
  split
  · exact memOk_ite (memOk_dropMsg h) h
  split
  · next n _ _ pc _ =>
    exact memOk_ite (memOk_ite h (memOk_completeWait (memOk_modMe (memOk_bear (memOk_post (memOk_actAs
      (memOk_dropMsg h)))))))
      (memOk_finishC (memOk_actAs (memOk_dropMsg h)) (r := .ok (((s.dropMsg k).actAs n i).inlineChild pc))
        (memOk_inlineChild (pc := pc) (memOk_actAs (memOk_dropMsg h))))
  · exact memOk_dropMsg h

theorem memOk_childEnded {k : Nat} {m : Msg} (h : s.memOk) : (s.childEnded k m).memOk := by
  unfold State.childEnded
  split
  · exact h
  split
  · exact memOk_ite (memOk_dropMsg h) h
  · exact memOk_modCore (memOk_dropMsg h)

theorem memOk_portAccess {n : Nat} {m : Msg} {op : RemoteOp} {off : Nat} (h : s.memOk) :
    (s.portAccess n m op off).1.memOk := by
  unfold State.portAccess
  dsimp only
  split
  · exact h
  · dsimp only
    exact memOk_raise h
  · dsimp only
    exact memOk_arrive (memOk_modCore h)
  · refine memOk_fst_ite h ?_
    dsimp only
    cases newBytes op _ with
    | none => cases opRaise op with
      | none => exact h
      | some r => exact memOk_raise h
    | some new => cases opRaise op with
      | none => exact memOk_modCore h
      | some r => exact memOk_raise (memOk_modCore h)

theorem memOk_respond {n : Nat} {m : Msg} {w : Waiter} {bytes : List Byte} {nack bad : Bool} (h : s.memOk) :
    (s.respond n m w bytes nack bad).memOk := by
  unfold State.respond
  dsimp only
  exact memOk_ite h (memOk_ite (memOk_with (memOk_answerTo h)) (memOk_answerTo h))

theorem memOk_packageAnswer {m : Msg} {w : Waiter} {bytes : List Byte} {nack bad : Bool} (h : s.memOk) :
    (s.packageAnswer m w bytes nack bad).memOk := by
  unfold State.packageAnswer
  exact memOk_ite h h

theorem memOk_accessLm {k : Nat} {m : Msg} {op : RemoteOp} {off : Nat} {w : Waiter} (h : s.memOk) :
    (s.accessLm k m op off w).memOk := by
  unfold State.accessLm
  split
  · exact h
  split
  · exact memOk_ite (memOk_dropMsg h) (memOk_packageAnswer (memOk_dropMsg h))
  split
  · exact h
  split
  · exact h
  dsimp only
  exact memOk_respond (memOk_portAccess (memOk_dropMsg h))

theorem memOk_homeAccess {op : RemoteOp} {off : Nat} (h : s.memOk) :
    OptOk (fun r => r.1.memOk) (s.homeAccess op off) := by
  unfold State.homeAccess
  dsimp only
  split
  · exact OptOk.map (memOk_touchTiles h) (fun _ ht => ht)
  · split
    · exact h
    split
    · trivial
    · exact OptOk.map (memOk_touchTiles h) (fun _ ht => memOk_atomicDone ht)
  · split
    · exact h
    split
    · trivial
    refine OptOk.map (memOk_touchTiles h) (fun _ ht => memOk_with ?_)
    split
    · exact memOk_homeWrite ht
    · exact memOk_atomicWrite ht

theorem memOk_accessGlobal {k : Nat} {m : Msg} {op : RemoteOp} {off : Nat} {w : Waiter} (h : s.memOk) :
    (s.accessGlobal k m op off w).memOk := by
  unfold State.accessGlobal
  split
  · exact h
  split
  · exact memOk_packageAnswer (memOk_dropMsg h)
  split
  · next e =>
    have ht := OptOk.of_eq e (memOk_homeAccess h)
    exact memOk_packageAnswer (memOk_dropMsg ht)
  · exact memOk_snoopRange h

theorem memOk_remoteAccess {k : Nat} {m : Msg} (h : s.memOk) : (s.remoteAccess k m).memOk := by
  unfold State.remoteAccess
  split
  · exact memOk_accessLm h
  · exact memOk_accessGlobal h
  · exact h

theorem memOk_codeCame {n i : Nat} {va : Word} {bs : List Byte} {issues : Bool} (h : s.memOk) :
    (s.codeCame n i va bs issues).memOk := by
  unfold State.codeCame
  dsimp only
  exact memOk_ite h (memOk_resume h)

theorem memOk_answerSlot {n i : Nat} {land : Landing} {a : Word} {acq : Option Scope} {bs : List Byte}
    {nack bad : Bool} (h : s.memOk) : (s.answerSlot n i land a acq bs nack bad).memOk := by
  unfold State.answerSlot
  dsimp only
  split
  · exact memOk_finishC (memOk_actAs h) memOk_stopWith
  split
  · exact memOk_finishC (memOk_actAs h) trivial
  split
  · exact memOk_codeCame (memOk_actAs h)
  · exact memOk_codeCame (memOk_actAs h)
  · exact memOk_resume (memOk_actAs h)
  · exact memOk_ite (memOk_actAs h) (memOk_finishC (memOk_actAs h) (memOk_pushHeader (memOk_actAs h)))
  · exact memOk_finishC (memOk_actAs h) (memOk_ite (memOk_modMe (memOk_actAs h)) (memOk_actAs h))
  · exact memOk_finishC (memOk_actAs h) (memOk_landed (memOk_actAs h))

theorem memOk_barAnswered {n i : Nat} {sc : Scope} {sw : Word} {bs : List Byte} (h : s.memOk) :
    (s.barAnswered n i sc sw bs).memOk := by
  unfold State.barAnswered
  dsimp only
  exact memOk_ite (memOk_completeWait (memOk_barDone (memOk_modSlot (memOk_actAs h)))) (memOk_modSlot (memOk_actAs h))

theorem memOk_copyCame {n : Nat} {op pos : Nat} {bs : List Byte} {nack bad : Bool} (h : s.memOk) :
    (s.copyCame n op pos bs nack bad).memOk := by
  unfold State.copyCame
  split
  · exact h
  split
  · exact h
  · exact memOk_ite (memOk_copyStop h) (memOk_modCopy h)

theorem memOk_copyWent {n : Nat} {op count : Nat} {nack : Bool} (h : s.memOk) :
    (s.copyWent n op count nack).memOk := by
  unfold State.copyWent
  dsimp only
  split
  · exact h
  split
  · exact h
  split
  · exact memOk_copyStop h
  refine memOk_modCopy ?_
  split
  · exact memOk_ite (memOk_raise h) h
  · exact h

theorem memOk_answered {n : Nat} {w : Waiter} {bs : List Byte} {nack bad : Bool} (h : s.memOk) :
    (s.answered n w bs nack bad).memOk := by
  unfold State.answered
  split
  · split
    · exact memOk_answerSlot h
    · exact memOk_ite (memOk_finishC (memOk_actAs h) trivial) (memOk_barAnswered h)
    · exact h
  · exact memOk_copyCame h
  · exact memOk_copyWent h
  · split
    · split
      · exact memOk_ite (memOk_gatherStop h) (memOk_gatherLand h)
      · exact h
    · exact h
  · split
    · split
      · exact memOk_ite (memOk_gatherStop h) (memOk_scatterLand h)
      · exact h
    · exact h
  · exact h

theorem memOk_answer {k : Nat} {m : Msg} (h : s.memOk) : (s.answer k m).memOk := by
  unfold State.answer
  split
  · split
    · exact h
    split
    · exact memOk_dropMsg h
    split
    · exact h
    · exact memOk_ite h (memOk_answered (memOk_dropMsg h))
  · exact h

theorem memOk_woken {k : Nat} {m : Msg} {i sw : Nat} {g : BitVec 32} (h : s.memOk) :
    (s.woken k m i sw g).memOk := by
  unfold State.woken
  split
  · exact h
  split
  · exact memOk_ite (memOk_dropMsg h) h
  extract_lets t mine asked u v
  have hv : v.memOk := memOk_modSlot (memOk_actAs (memOk_dropMsg h))
  refine memOk_ite (memOk_dropMsg h) ?_
  split
  · exact memOk_ite (memOk_completeWait (memOk_barDone hv)) hv
  · exact hv

theorem memOk_escape {k : Nat} (h : s.memOk) : (s.escape k).memOk := by
  unfold State.escape
  split
  · exact memOk_ite h h
  · exact h

theorem memOk_reach {k : Nat} {m : Msg} (h : s.memOk) : (s.reach k m).memOk := by
  unfold State.reach
  split
  · exact memOk_ask h
  · exact memOk_spawnAnswered h
  · exact memOk_childEnded h
  · exact memOk_remoteAccess h
  · exact memOk_remoteAccess h
  · exact memOk_answer h
  · exact memOk_woken h
  · exact memOk_ite (memOk_deliver h) h

theorem memOk_forward {k : Nat} (h : s.memOk) : (s.forward k).memOk := by
  unfold State.forward
  split
  · exact memOk_ite (memOk_reach h) h
  · exact h

end Sys2Proof.Machine
end

section
/-!
SUPPORT. The memories stay canonical (O58): launches and the dispatcher.
-/
namespace Sys2Proof.Machine

variable {s : State}

theorem memOk_dispAsk {asid : Nat} {ranges : List (Nat × Nat)} (h : s.memOk) : (s.dispAsk asid ranges).memOk := by
  unfold State.dispAsk
  dsimp only
  refine memOk_foldl h (fun t1 x1 ht => ?_)
  refine memOk_foldl ht (fun t2 x2 ht1 => ?_)
  split
  · exact memOk_askHost ht1
  · exact ht1

theorem memOk_writeCompletion {asid : Nat} {w : List Word} {st : Status} {cause : Nat} (h : s.memOk) :
    (s.writeCompletion asid w st cause).memOk := by
  unfold State.writeCompletion
  dsimp only
  split
  · exact h
  split
  · split
    · next t e => exact (ExcOk.of_ok e (memOk_agentWrite h) : t.memOk)
    · next t e => exact (ExcOk.of_error e (memOk_agentWrite h) : t.memOk)
  · exact memOk_withHost (memOk_askHost h) (Memory.wf_writeBytes h.2 _ _)
  · exact memOk_ite h (memOk_sendPacket h)
  · exact h

theorem memOk_vacateCore {c : Nat} (h : s.memOk) : (s.vacateCore c).memOk := h

theorem memOk_forget {l : Nat} (h : s.memOk) : (s.forget l).memOk := by
  unfold State.forget
  dsimp only
  refine memOk_with ?_
  split <;> exact h

theorem memOk_vacateAll {x : Launch} (h : s.memOk) : (s.vacateAll x).memOk := by
  unfold State.vacateAll
  exact memOk_foldl h (fun _ _ ht => memOk_vacateCore (memOk_foldl (memOk_drainAll ht)
    (fun _ _ ht1 => memOk_flushStreams ht1)))

theorem memOk_endOne {l : Nat} {st : Status} {cause : Nat} (h : s.memOk) : (s.endOne l st cause).memOk := by
  unfold State.endOne
  split
  · exact memOk_forget (memOk_writeCompletion (memOk_vacateAll h))
  · exact h

theorem memOk_snoopWords {offs : List (Option Nat)} (h : s.memOk) : (s.snoopWords offs).memOk := by
  unfold State.snoopWords
  exact memOk_foldl h (fun _ _ ht => memOk_snoopRange ht)

theorem memOk_postWord {asid : Nat} {w : List Word} {st : Status} {cause : Nat} (h : s.memOk) :
    (s.postWord asid w st cause).memOk := by
  unfold State.postWord
  dsimp only
  exact memOk_ite (memOk_writeCompletion h) (memOk_with (memOk_snoopWords h))

theorem memOk_retryWords (h : s.memOk) : s.retryWords.memOk := by
  unfold State.retryWords
  exact memOk_ite h (memOk_foldl h (fun _ _ ht => memOk_postWord ht))

theorem memOk_finish {l : Nat} {st : Status} {cause : Nat} (h : s.memOk) : (s.finish l st cause).memOk := by
  unfold State.finish
  dsimp only
  exact memOk_ite (memOk_modLaunch (memOk_snoopWords h)) (memOk_with (memOk_foldl (memOk_endOne h)
    (fun _ _ ht => memOk_endOne ht)))

theorem memOk_qrec {q : Nat} {deferrable : Bool} {ws : List Word} (h : s.memOk) : (s.qrec q deferrable ws).memOk := by
  unfold State.qrec
  dsimp only
  exact memOk_ite h (memOk_ite h h)

theorem memOk_takeHeader {n : Nat} (h : s.memOk) : OptOk (fun r => r.1.memOk) (s.takeHeader n) := by
  unfold State.takeHeader
  dsimp only
  split
  · split
    · exact h
    · trivial
  · split
    · exact h
    · trivial

theorem memOk_accept (h : s.memOk) : s.accept.memOk := by
  have hs := memOk_retryWords h
  unfold State.accept
  dsimp only
  refine memOk_ite hs ?_
  split
  · exact hs
  next t w parent agrees cap e =>
  have ht := OptOk.of_eq e (OptOk.bind_any (fun _ => memOk_takeHeader hs))
  split
  · exact memOk_postWord (memOk_dispAsk ht)
  · exact memOk_postWord (memOk_dispAsk ht)
  · exact memOk_with (memOk_dispAsk ht)

theorem memOk_handOver {c : Nat} {hm : DevHeader} (h : s.memOk) : (s.handOver c hm).memOk := h

theorem memOk_subDispatch {die : Nat} (h : s.memOk) : (s.subDispatch die).memOk := by
  unfold State.subDispatch
  split
  · exact memOk_handOver h
  · exact h

theorem memOk_handOverAll {c : Nat} (h : s.memOk) : (s.handOverAll c).memOk := by
  unfold State.handOverAll
  exact memOk_foldl h (fun _ _ ht => memOk_handOver ht)

theorem memOk_watch {off : Nat} (h : s.memOk) : (s.watch off).memOk := h

theorem memOk_readCounter {l : Nat} (h : s.memOk) : (s.readCounter l).memOk := by
  unfold State.readCounter
  dsimp only
  split
  · exact h
  split
  · exact h
  split
  · exact memOk_finish h
  · exact memOk_modLaunch (memOk_watch (memOk_dispAsk h))

theorem memOk_giveFirst {l : Launch} (h : s.memOk) : (s.giveFirst l).memOk := by
  unfold State.giveFirst
  dsimp only
  split
  · exact h
  · split <;> exact h

theorem memOk_becomeReady {l : Nat} {x : Launch} (h : s.memOk) : (s.becomeReady l x).memOk := by
  unfold State.becomeReady
  dsimp only
  cases x.watching with
  | none => exact memOk_ite (memOk_finish (memOk_modLaunch h)) (memOk_giveFirst (memOk_modLaunch h))
  | some off => exact memOk_ite (memOk_finish (memOk_modLaunch (memOk_modDir h))) (memOk_giveFirst (memOk_modLaunch
    (memOk_modDir h)))

theorem memOk_ready {l : Nat} (h : s.memOk) : (s.ready l).memOk := by
  unfold State.ready
  dsimp only
  split
  · exact h
  split
  · exact h
  split
  · split
    · exact memOk_becomeReady (memOk_dispAsk h)
    · exact memOk_finish (memOk_dispAsk h)
    · exact memOk_finish (memOk_dispAsk h)
  · exact memOk_becomeReady h

theorem memOk_captureLaunch {x : Launch} (h : s.memOk) : ExcOk State.memOk State.memOk (s.captureLaunch x) := by
  unfold State.captureLaunch
  dsimp only
  split
  · exact h
  split
  · exact h
  split
  · exact memOk_log (memOk_dispAsk h)
  · exact ExcOk.map (memOk_agentWrite (memOk_dispAsk h)) (fun _ ht => memOk_with (memOk_logMoved ht))

theorem memOk_start {l c : Nat} (h : s.memOk) : (s.start l c).memOk := by
  unfold State.start
  dsimp only
  split
  · exact h
  split
  · exact h
  next x _ _ =>
  have hx : ExcOk State.memOk State.memOk (if x.started then .ok s else s.captureLaunch x) := by
    split
    · exact h
    · exact memOk_captureLaunch h
  split
  · next t e => exact (ExcOk.of_error e hx : t.memOk)
  · next t e => exact memOk_with (memOk_modLaunch (memOk_setCore (ExcOk.of_ok e hx)))

theorem memOk_giveBatch {l : Nat} {x : Launch} {c : Nat} {b : Batch} (h : s.memOk) : (s.giveBatch l x c b).memOk := by
  unfold State.giveBatch
  split
  · exact h
  · exact h
  · exact h
  · exact memOk_modLaunch h

theorem memOk_dealBatch {l c : Nat} (h : s.memOk) : (s.dealBatch l c).memOk := by
  unfold State.dealBatch
  dsimp only
  split
  · exact h
  split
  · exact memOk_ite h (memOk_modLaunch (memOk_giveBatch h))
  · exact h

theorem memOk_completeLaunch {l : Nat} (h : s.memOk) : (s.completeLaunch l).memOk := by
  unfold State.completeLaunch
  dsimp only
  split
  · exact h
  · exact memOk_ite h (memOk_ite (memOk_finish (memOk_foldl h (fun _ _ ht => memOk_handOverAll
      (memOk_drainAll ht)))) (memOk_foldl h (fun _ _ ht => memOk_handOverAll (memOk_drainAll ht))))

theorem memOk_leaveEnding {l c asid : Nat} (h : s.memOk) : (s.leaveEnding l c asid).2.memOk := by
  unfold State.leaveEnding
  dsimp only
  split
  · exact memOk_drainAll (memOk_foldl h (fun _ _ ht => ht))
  split
  · exact memOk_snoopWords (memOk_drainAll (memOk_foldl h (fun _ _ ht => ht)))
  · exact memOk_modLaunch (memOk_vacateCore (memOk_foldl (memOk_handOverAll (memOk_drainAll (memOk_foldl h
      (fun _ _ ht => ht)))) (fun _ _ ht => memOk_writeCompletion ht)))

theorem memOk_tearDown {l c : Nat} (h : s.memOk) : (s.tearDown l c).memOk := by
  unfold State.tearDown
  split
  · exact h
  split
  · exact h
  next x _ _ _ _ _ =>
  have hx : (if (s.core c).launch = some l then s.leaveEnding l c x.asid else (true, s)).2.memOk := by
    split
    · exact memOk_leaveEnding h
    · exact h
  dsimp only
  split
  · exact memOk_ite (memOk_finish hx) hx
  · exact hx

theorem memOk_kill {v : Word} (h : s.memOk) : (s.kill v).memOk := by
  unfold State.kill
  dsimp only
  exact memOk_ite h (memOk_with (memOk_foldl h (fun _ _ ht => memOk_endLaunch ht)))

theorem memOk_killed (h : s.memOk) : s.killed.memOk := by
  unfold State.killed
  dsimp only
  exact memOk_ite h h

theorem memOk_invalidate {v : Word} (h : s.memOk) : (s.invalidate v).memOk := by
  unfold State.invalidate
  dsimp only
  exact memOk_ite h (memOk_with (memOk_ite (memOk_with (memOk_foldl h (fun _ _ ht => memOk_abortCore
    (memOk_drainAll ht)))) h))

theorem memOk_invalidated (h : s.memOk) : s.invalidated.memOk := by
  unfold State.invalidated
  dsimp only
  exact memOk_ite h (memOk_ite (memOk_drainAsid h) (memOk_with (memOk_drainAsid h)))

end Sys2Proof.Machine
end

section
/-!
SUPPORT. The memories stay canonical (O58): saved and moved contexts.
-/
namespace Sys2Proof.Machine

variable {s : State}

theorem memOk_turnTo {c cls : Nat} (h : s.memOk) : (s.turnTo c cls).memOk := h

theorem memOk_turnEnd {c : Nat} (h : s.memOk) : (s.turnEnd c).memOk := by
  unfold State.turnEnd
  exact memOk_ite (memOk_turnTo h) h

theorem memOk_turnFor {c l : Nat} (h : s.memOk) : (s.turnFor c l).memOk := by
  unfold State.turnFor
  dsimp only
  exact memOk_ite h (memOk_turnTo h)

theorem memOk_requestPreempt {c : Nat} (h : s.memOk) : (s.requestPreempt c).memOk := by
  unfold State.requestPreempt
  exact memOk_ite h h

theorem memOk_partCaravan {c i : Nat} (h : s.memOk) : (s.partCaravan c i).memOk := by
  unfold State.partCaravan
  dsimp only
  split
  · exact memOk_modSlot (memOk_freeCaravan h)
  · exact memOk_ite h (memOk_part (memOk_leaveWait (memOk_ite (memOk_abortTxn h) h)))

theorem memOk_partMember {c : Nat} (h : s.memOk) : (s.partMember c).memOk := by
  unfold State.partMember
  split
  · exact memOk_partCaravan h
  · exact h

theorem memOk_partCore {c : Nat} (h : s.memOk) : (s.partCore c).memOk := by
  unfold State.partCore
  exact memOk_foldl (memOk_partMember h) (fun _ _ ht => memOk_ite (memOk_partCaravan ht) ht)

theorem memOk_halt {c : Nat} (h : s.memOk) : (s.halt c).memOk := by
  unfold State.halt
  exact memOk_modCore (memOk_modCore (memOk_handOverAll (memOk_foldl (memOk_foldl
    (memOk_foldl h (fun _ _ ht => memOk_ite (memOk_abortTxn ht) ht)) (fun _ _ ht => memOk_ite
      (memOk_leaveWait ht) ht))
    (fun _ _ ht => memOk_modSlot (memOk_flushStreams ht)))))

theorem memOk_logContext {c : Nat} (h : s.memOk) : (s.logContext c).memOk := by
  unfold State.logContext
  exact memOk_logMoved h

theorem memOk_setPlace {l o : Nat} {w : Where} (h : s.memOk) : (s.setPlace l o w).memOk := by
  unfold State.setPlace
  exact memOk_modLaunch h

theorem memOk_saveImage {c l : Nat} (h : s.memOk) : (s.saveImage c l).memOk := by
  unfold State.saveImage
  exact memOk_setCore (memOk_setPlace (memOk_with (memOk_logContext (memOk_halt h))))

theorem memOk_moveContext {c d l : Nat} (h : s.memOk) : (s.moveContext c d l).memOk := by
  unfold State.moveContext
  dsimp only
  exact memOk_ite (memOk_setPlace (memOk_setCore (memOk_logContext (memOk_halt h)))) (memOk_modLaunch
    (memOk_setPlace (memOk_modCore (memOk_turnFor (memOk_setCore (memOk_logContext (memOk_halt h)))))))

theorem memOk_endRun {c : Nat} (h : s.memOk) : (s.endRun c).memOk := by
  unfold State.endRun
  split
  · exact memOk_ite (memOk_completeMatrix h) h
  · exact h

theorem memOk_stopStep {c : Nat} (h : s.memOk) : (s.stopStep c).memOk := by
  have hp : (((s.drainAll c).endRun c).partCore c).memOk := memOk_partCore (memOk_endRun (memOk_drainAll h))
  unfold State.stopStep
  dsimp only
  split
  · refine memOk_ite hp ?_
    split
    · exact memOk_saveImage hp
    · exact memOk_ite (memOk_moveContext hp) hp
  · exact hp

theorem memOk_preempt {c : Nat} (h : s.memOk) : (s.preempt c).memOk := by
  unfold State.preempt
  split
  · exact memOk_ite h (memOk_ite (memOk_stopStep h) h)
  · exact memOk_stopStep h
  · exact h

theorem memOk_writeImage {c : Nat} (h : s.memOk) : ExcOk State.memOk State.memOk (s.writeImage c) := by
  unfold State.writeImage
  dsimp only
  split
  · exact ExcOk.map (memOk_agentWrite h) (fun _ ht => ht)
  · exact h

theorem memOk_imageDone {c : Nat} (h : s.memOk) : (s.imageDone c).memOk := by
  unfold State.imageDone
  dsimp only
  split
  · split
    · exact h
    split
    · next e =>
        have ht := ExcOk.of_error e (memOk_writeImage h)
        exact ht
    · next e =>
        have ht := ExcOk.of_ok e (memOk_writeImage h)
        exact ht
  · exact h

theorem memOk_loadImage {n c : Nat} {img : Image} (h : s.memOk) : (s.loadImage n c img).memOk := by
  unfold State.loadImage
  dsimp only
  exact memOk_setPlace (memOk_modCore (memOk_with (memOk_turnFor (memOk_logMoved h))))

theorem memOk_keepFor {n c : Nat} (h : s.memOk) : (s.keepFor n c).memOk := h

theorem memOk_restoreImage {n c : Nat} (h : s.memOk) : (s.restoreImage n c).memOk := by
  unfold State.restoreImage
  split
  · exact memOk_ite (memOk_loadImage h) h
  · exact memOk_ite h h
  · exact memOk_ite (memOk_foldl h (fun _ _ ht => memOk_keepFor ht)) h
  · exact h

theorem memOk_leaveFor {l : Nat} {p : Nat × Nat × Nat} (h : s.memOk) : (s.leaveFor l p).memOk := by
  unfold State.leaveFor
  dsimp only
  exact memOk_setPlace h

theorem memOk_migrateLive {c d : Nat} (h : s.memOk) : (s.migrateLive c d).memOk := by
  unfold State.migrateLive
  dsimp only
  refine memOk_ite (memOk_stopStep h) (memOk_ite (memOk_modCore h) ?_)
  split
  · exact h
  · refine memOk_ite ?_ h
    split
    · exact h
    · exact memOk_stopStep (memOk_modLaunch (memOk_foldl h (fun _ _ ht => memOk_leaveFor ht)))

theorem memOk_ackGeneration {l c : Nat} (h : s.memOk) : (s.ackGeneration l c).memOk := by
  unfold State.ackGeneration
  dsimp only
  split
  · exact h
  · exact memOk_ite h (memOk_ite (memOk_with (memOk_modLaunch h)) (memOk_modLaunch h))

theorem memOk_retireCore {c : Nat} (h : s.memOk) : (s.retireCore c).memOk := by
  unfold State.retireCore
  dsimp only
  split
  · exact memOk_endLaunchOf h
  · exact memOk_ite (memOk_with (memOk_log h)) (memOk_ite (memOk_endLaunchOf (memOk_with (memOk_log h)))
      (memOk_stopStep (memOk_modCore (memOk_with (memOk_log h)))))

theorem memOk_raiseChk {c i : Nat} {matrix : Bool} (h : s.memOk) : (s.raiseChk c i matrix).memOk := by
  unfold State.raiseChk
  dsimp only
  split
  · split
    · exact memOk_ite (memOk_raiseAsync h) h
    · exact h
  · exact memOk_ite (memOk_raiseAsync h) h

theorem memOk_mismatch {c i : Nat} {persists matrix : Bool} (h : s.memOk) :
    (s.mismatch c i persists matrix).memOk := by
  unfold State.mismatch
  split
  · exact h
  dsimp only
  exact memOk_retireCore (memOk_raiseChk (memOk_partMember h))

end Sys2Proof.Machine
end

section
/-!
SUPPORT. The memories stay canonical (O58): packets, streams and route tables.
-/
namespace Sys2Proof.Machine

variable {s : State}

theorem memOk_setIn {id : StreamId} {x : InStream} (h : s.memOk) : (s.setIn id x).memOk := h
theorem memOk_acknowledge {id : StreamId} (h : s.memOk) : (s.acknowledge id).memOk := h

theorem memOk_ackStream {id : StreamId} {seq : BitVec 32} (h : s.memOk) : (s.ackStream id seq).memOk := by
  unfold State.ackStream
  dsimp only
  split
  · exact memOk_ite h h
  · exact h

theorem memOk_responseIn {m : Msg} (h : s.memOk) : (s.responseIn m).memOk := by
  unfold State.responseIn
  split
  · refine memOk_foldl (memOk_with h) (fun _ _ ht => memOk_ite ?_ ht)
    split
    · exact memOk_ackStream ht
    · exact ht
  · exact h

theorem memOk_enterRing {die : Nat} {m : Msg} (h : s.memOk) : (s.enterRing die m).memOk := h

theorem memOk_takeIn {p : Packet} (h : s.memOk) : (s.takeIn p).memOk := by
  unfold State.takeIn
  dsimp only
  split
  · exact memOk_with (memOk_responseIn h)
  · exact memOk_enterRing (memOk_responseIn h)

theorem memOk_takeHeldIn {id : StreamId} {n : Nat} (h : s.memOk) : (s.takeHeldIn id n).memOk := by
  induction n generalizing s with
  | zero => exact h
  | succ n ih =>
    unfold State.takeHeldIn
    dsimp only
    split
    · exact ih (memOk_takeIn (memOk_setIn h))
    · exact h

theorem memOk_holdPacket {p : Packet} (h : s.memOk) : (s.holdPacket p).memOk := by
  unfold State.holdPacket
  dsimp only
  exact memOk_ite h (memOk_setIn h)

theorem memOk_streamIn {p : Packet} (h : s.memOk) : (s.streamIn p).memOk := by
  unfold State.streamIn
  dsimp only
  split
  · exact memOk_acknowledge h
  · exact h
  · exact memOk_holdPacket h
  · exact memOk_acknowledge (memOk_takeHeldIn (memOk_takeIn (memOk_setIn h)))

theorem memOk_sendAnswer {child : Node} {id : StreamId} {seq : BitVec 32} {ver : BitVec 16} {a : McAnswer}
    (h : s.memOk) : (s.sendAnswer child id seq ver a).memOk := by
  unfold State.sendAnswer
  dsimp only
  split <;> exact h

theorem memOk_record {id : StreamId} {seq : BitVec 32} {a : McAnswer} (h : s.memOk) : (s.record id seq a).memOk := h

theorem memOk_writeLine {g off : Nat} {bs : List Byte} {bad : List Nat} (h : s.memOk) :
    OptOk (fun r => r.1.memOk) (s.writeLine g off bs bad) := by
  unfold State.writeLine
  dsimp only
  split
  · exact h
  split
  · exact h
  split
  · exact h
  split
  · trivial
  · exact OptOk.map (memOk_touchTiles h) (fun _ ht => memOk_with (memOk_homeWrite ht))

theorem memOk_lineIn {p : Packet} (h : s.memOk) : (s.lineIn p).memOk := h

theorem memOk_linesIn {id : StreamId} {n : Nat} (h : s.memOk) : (s.linesIn id n).memOk := by
  induction n generalizing s with
  | zero => exact h
  | succ n ih =>
    unfold State.linesIn
    dsimp only
    split
    · exact ih (memOk_lineIn (memOk_setIn h))
    · exact h

theorem memOk_writeAt {k : Nat} {m : Msg} (h : s.memOk) : (s.writeAt k m).memOk := by
  unfold State.writeAt
  dsimp only
  split
  · split
    · exact h
    split
    · exact memOk_snoopRange h
    · next e =>
      have ht := OptOk.of_eq e (memOk_writeLine h)
      exact memOk_sendAnswer (memOk_record (memOk_dropMsg ht))
  · exact h

theorem memOk_mcastIn {p : Packet} (h : s.memOk) : (s.mcastIn p).memOk := by
  unfold State.mcastIn
  dsimp only
  split
  · split
    · exact memOk_sendAnswer h
    · exact memOk_lineIn h
  · exact h
  · exact memOk_holdPacket h
  · exact memOk_linesIn (memOk_lineIn (memOk_setIn h))

theorem memOk_delivery {p : Packet} (h : s.memOk) : (s.delivery p).memOk := by
  unfold State.delivery
  dsimp only
  split
  · split
    · exact memOk_writeAt h
    · exact h
  · exact memOk_mcastIn h

theorem memOk_packetIn {p : Packet} (h : s.memOk) : (s.packetIn p).memOk := by
  unfold State.packetIn
  split
  · exact memOk_delivery h
  · exact memOk_ite (memOk_streamIn h) h

theorem memOk_replay {id : StreamId} {timeouts : Nat} (h : s.memOk) : (s.replay id timeouts).memOk := by
  unfold State.replay
  dsimp only
  split <;> exact h

theorem memOk_retry {id : StreamId} (h : s.memOk) : (s.retry id).memOk := by
  unfold State.retry
  dsimp only
  split
  · exact h
  · exact memOk_ite h (memOk_ite (memOk_log (memOk_replay h)) (memOk_replay h))

theorem memOk_unspray {at_ gone : Node} (h : s.memOk) : (s.unspray at_ gone).memOk := by
  unfold State.unspray
  dsimp only
  split
  · exact h
  · exact memOk_ite h h

theorem memOk_prune {n : Nat} (h : s.memOk) : (s.prune n).memOk := by
  induction n generalizing s with
  | zero => exact h
  | succ n ih => exact ih (memOk_with h)

theorem memOk_removeLink {p q : Node} (h : s.memOk) : (s.removeLink p q).memOk := by
  unfold State.removeLink
  dsimp only
  exact memOk_ite (memOk_with (memOk_prune (memOk_unspray (memOk_unspray h)))) h

theorem memOk_activateSwitch {n : Nat} {v : BitVec 16} (h : s.memOk) : (s.activateSwitch n v).memOk := by
  unfold State.activateSwitch
  dsimp only
  split
  · split
    · exact memOk_ite h h
    · exact h
  · exact h

theorem memOk_launchPackets {at_ : Node} {p : Packet} {ns : List Node} (h : s.memOk) :
    (s.launchPackets at_ p ns).memOk :=
  h

theorem memOk_sprayOne {ns : List Node} (h : s.memOk) : (s.sprayOne ns).1.memOk := by
  unfold State.sprayOne
  split <;> exact h

theorem memOk_route {at_ : Node} {t : RouteTable} {p : Packet} (h : s.memOk) : (s.route at_ t p).memOk := by
  unfold State.route
  dsimp only
  split
  · split
    · refine memOk_foldl (memOk_launchPackets h) (fun t1 x1 ht => ?_)
      split <;> exact ht
    · exact memOk_launchPackets h
  · exact memOk_launchPackets (memOk_sprayOne h)

theorem memOk_atSwitch {n : Nat} {p : Packet} (h : s.memOk) : (s.atSwitch n p).memOk := by
  unfold State.atSwitch
  split
  · exact h
  split
  · exact memOk_route h
  split
  · exact memOk_ite (memOk_route (memOk_activateSwitch h)) h
  · exact h

theorem memOk_forwardPacket {k : Nat} (h : s.memOk) : (s.forwardPacket k).memOk := by
  unfold State.forwardPacket
  dsimp only
  split
  · exact h
  split
  · exact h
  · exact memOk_ite h h
  split
  · exact memOk_atSwitch h
  · exact memOk_route h

theorem memOk_install {n : Node} {die : Nat} {t : RouteTable} (h : s.memOk) : (s.install n die t).memOk := by
  unfold State.install
  dsimp only
  split
  · exact h
  · exact memOk_ite h h

theorem memOk_dropPackage {q : Nat} (h : s.memOk) : (s.dropPackage q).memOk := by
  unfold State.dropPackage
  dsimp only
  refine memOk_foldl h (fun t1 x1 ht => ?_)
  split
  · exact memOk_endLaunch ht
  · exact ht

theorem memOk_activateDie {v : BitVec 16} {die : Nat} (h : s.memOk) : (s.activateDie v die).memOk := by
  unfold State.activateDie
  dsimp only
  split
  · exact memOk_ite (memOk_foldl h (fun _ _ ht => memOk_replay ht)) h
  · exact h

theorem memOk_activate {v : BitVec 16} (h : s.memOk) : (s.activate v).memOk := by
  unfold State.activate
  dsimp only
  exact memOk_foldl (memOk_foldl (memOk_foldl h (fun _ _ ht => memOk_activateSwitch ht))
    (fun _ _ ht => memOk_activateDie ht)) (fun _ _ ht => memOk_dropPackage ht)

theorem memOk_mergeAnswer {sw : Nat} {child : Node} {id : StreamId} {seq : BitVec 32} {ver : BitVec 16}
    {children : Nat} {a : McAnswer} (h : s.memOk) : (s.mergeAnswer sw child id seq ver children a).memOk := by
  unfold State.mergeAnswer
  dsimp only
  exact memOk_ite h (memOk_ite (memOk_sendAnswer h) h)

theorem memOk_raiseAggregate {m : McSent} {a : McAnswer} (h : s.memOk) : (s.raiseAggregate m a).memOk := by
  unfold State.raiseAggregate
  dsimp only
  split
  · exact h
  split
  · exact memOk_ite (memOk_raiseMulticast h) h
  · exact h

theorem memOk_aggregate {group : Nat} {seq : BitVec 32} {ver : BitVec 16} {a : McAnswer} (h : s.memOk) :
    (s.aggregate group seq ver a).memOk := by
  unfold State.aggregate
  dsimp only
  split
  · exact h
  split
  · exact memOk_raiseAggregate h
  · exact memOk_ite h (memOk_raiseAggregate h)

theorem memOk_mcinv {v : Word} (h : s.memOk) : (s.mcinv v).memOk := by
  unfold State.mcinv
  dsimp only
  exact memOk_ite h (memOk_ite (memOk_with (memOk_ite h h)) (memOk_ite h h))

end Sys2Proof.Machine
end

section
/-!
SUPPORT. The memories stay canonical (O58): the host's accesses.
-/
namespace Sys2Proof.Machine

variable {s : State}

theorem memOk_say {a : Answer} (h : s.memOk) : (s.say a).memOk := h

theorem memOk_hostRequest {x : HostReq} (h : s.memOk) : OptOk State.memOk (s.hostRequest x) := by
  unfold State.hostRequest
  dsimp only
  split
  · exact OptOk.map (memOk_touchTiles h) (fun _ ht => memOk_say (memOk_foldl ht (fun _ _ ht1 => ht1)))
  · exact OptOk.map (memOk_touchTiles h) (fun _ ht => memOk_say ht)
  · exact OptOk.map (memOk_touchTiles h) (fun _ ht => memOk_homeWrite ht)

theorem memOk_drainHost {n : Nat} (h : s.memOk) : (s.drainHost n).memOk := by
  induction n generalizing s with
  | zero => exact h
  | succ n ih =>
    unfold State.drainHost
    split
    · exact h
    split
    · next e => exact ih (memOk_with (OptOk.of_eq e (memOk_hostRequest h)))
    · exact h

theorem memOk_hostAsks {q : HostReq} (h : s.memOk) : (s.hostAsks q).memOk := by
  unfold State.hostAsks
  exact memOk_drainHost h

theorem memOk_snoopAnswered {off : Nat} (h : s.memOk) : (s.snoopAnswered off).memOk := by
  unfold State.snoopAnswered
  exact memOk_ite h h

theorem memOk_headerCame {c : Nat} {bs : List Byte} (h : s.memOk) : (s.headerCame c bs).memOk := by
  unfold State.headerCame
  exact memOk_ite h (memOk_ite h (memOk_finishC h (memOk_pushHeader h)))

theorem memOk_windowCame {c n : Nat} {bs : List Byte} (h : s.memOk) : (s.windowCame c n bs).memOk := by
  unfold State.windowCame
  split
  · exact h
  split
  · exact h
  · exact memOk_modCopy h

theorem memOk_hostReadDone {c i : Nat} {bs : List Byte} (h : s.memOk) : (s.hostReadDone c i bs).memOk := by
  unfold State.hostReadDone
  dsimp only
  refine memOk_ite (memOk_windowCame h) ?_
  split
  · next land a acq l _ =>
    have ht : (match (s.actAs c i).translate c ((s.actAs c i).asidOf c) a.toNat with
        | some t => match (s.actAs c i).homeOf (t.phys a.toNat) t.uncached with
          | .host b => { s.actAs c i with hostMem := (s.actAs c i).hostMem.writeBytes b bs }
          | _ => s.actAs c i
        | none => s.actAs c i).memOk := by
      split
      · split
        · exact memOk_withHost (memOk_actAs h) (Memory.wf_writeBytes h.2 _ _)
        · exact h
      · exact h
    split
    · exact memOk_headerCame ht
    · exact memOk_codeCame ht
    · exact memOk_codeCame ht
    · exact memOk_finishC ht (memOk_landed ht)
  · exact memOk_ite (memOk_resume (memOk_modSlot (memOk_modSlot h))) (memOk_modSlot h)
  · exact h

theorem memOk_mailboxGo {box : Nat} {v : Word} (h : s.memOk) : (s.mailboxGo box v).memOk := by
  unfold State.mailboxGo
  dsimp only
  exact memOk_ite h (memOk_ite h h)

theorem memOk_dispWrite {off : Nat} {v : Word} (h : s.memOk) : OptOk State.memOk (s.dispWrite off v) := by
  unfold State.dispWrite
  dsimp only
  split
  · exact h
  split
  · exact memOk_invalidate h
  split
  · exact memOk_kill h
  split
  · exact h
  split
  · exact h
  · trivial

theorem memOk_fabWrite {die off : Nat} {v : Word} (h : s.memOk) : OptOk State.memOk (s.fabWrite die off v) := by
  unfold State.fabWrite
  dsimp only
  split
  · exact h
  split
  · exact memOk_ite h h
  split
  · exact h
  split
  · exact h
  split
  · exact memOk_mcinv h
  split
  · exact h
  · trivial

theorem memOk_boxWrite {die off : Nat} {v : Word} (h : s.memOk) : OptOk State.memOk (s.boxWrite die off v) := by
  unfold State.boxWrite
  split
  · exact memOk_mailboxGo h
  split
  · exact h
  split
  · exact h
  · trivial

theorem memOk_barWrite {die off : Nat} {v : Word} (h : s.memOk) : (s.barWrite die off v).memOk := by
  unfold State.barWrite
  dsimp only
  refine OptOk.getD ?_ (memOk_say h)
  split
  · exact memOk_dispWrite h
  split
  · exact memOk_fabWrite h
  · exact memOk_boxWrite h

end Sys2Proof.Machine
end

section
/-!
SUPPORT. The memories stay canonical (O58): mailboxes, power and bring-up.
-/
namespace Sys2Proof.Machine

variable {s : State}

theorem memOk_boxDone {box status : Nat} (h : s.memOk) : (s.boxDone box status).memOk := h

theorem memOk_serve {box code : Nat} {f : Mbox → Except Nat State} (h : s.memOk)
    (hf : ∀ m t, f m = .ok t → t.memOk) : (s.serve box code f).memOk := by
  unfold State.serve
  split
  · split
    · exact memOk_boxDone h
    · split
      · next e => exact memOk_boxDone (hf _ _ e)
      · exact memOk_boxDone h
  · exact h

theorem memOk_mailboxDone {box : Nat} (h : s.memOk) : (s.mailboxDone box).memOk := by
  unfold State.mailboxDone
  dsimp only
  exact memOk_ite h h

theorem memOk_setcap {t : State} {m : Mbox} (h : s.memOk) (e : s.setcap m = .ok t) : t.memOk := by
  unfold State.setcap at e
  dsimp only at e
  split at e
  · cases e
    exact memOk_log (memOk_with h)
  · cases e

theorem memOk_stopPart (h : s.memOk) : s.stopPart.memOk := by
  unfold State.stopPart
  dsimp only
  exact memOk_with (memOk_foldl h (fun _ _ ht => memOk_endLaunch ht))

theorem memOk_sample {recs : List SensorRec} (h : s.memOk) : (s.sample recs).memOk := by
  unfold State.sample
  dsimp only
  exact memOk_ite (memOk_stopPart (memOk_ite h h)) (memOk_ite h h)

theorem memOk_boxData {box : Nat} {bs : List Byte} (h : s.memOk) : (s.boxData box bs).memOk := h

theorem memOk_readlog {t : State} {box : Nat} {m : Mbox} (h : s.memOk) (e : s.readlog box m = .ok t) : t.memOk := by
  unfold State.readlog at e
  dsimp only at e
  split at e
  · cases e
  · cases e
    exact memOk_boxData h

theorem memOk_fwwrite {m : Mbox} (h : s.memOk) : ExcOk (fun _ => True) State.memOk (s.fwwrite m) := by
  unfold State.fwwrite
  dsimp only
  split
  · trivial
  · exact h

theorem memOk_fwactivate (h : s.memOk) : ExcOk (fun _ => True) State.memOk s.fwactivate := by
  unfold State.fwactivate
  dsimp only
  split
  · exact h
  · trivial

theorem memOk_measure {nonce : List Byte} (h : s.memOk) : (s.measure nonce).memOk := by
  unfold State.measure
  dsimp only
  exact memOk_ite h (memOk_say h)

theorem memOk_savepool {m : Mbox} (h : s.memOk) : ExcOk (fun _ => True) State.memOk (s.savepool m) := by
  unfold State.savepool
  dsimp only
  split
  · exact h
  · trivial

theorem memOk_cappool {t : State} {m : Mbox} (h : s.memOk) (e : s.cappool m = .ok t) : t.memOk := by
  unfold State.cappool at e
  dsimp only at e
  split at e
  · cases e
    exact memOk_with h
  · cases e

theorem memOk_powerUp {inp : BringupInput} (h : s.memOk) : (s.powerUp inp).memOk := by
  unfold State.powerUp
  split
  extract_lets base dflt tele fab t u
  have ht : t.memOk := ⟨rfl, h.2⟩
  have hu : u.memOk := memOk_ite (memOk_log ht) ht
  exact memOk_ite (memOk_with (memOk_log hu)) (memOk_with hu)

end Sys2Proof.Machine
end

section
/-!
SUPPORT. The memories stay canonical (O58): turns and the end of a cycle.
-/
namespace Sys2Proof.Machine

variable {s : State}

theorem memOk_arriveAt {c l : Nat} (h : s.memOk) : (s.arriveAt c l).memOk := by
  unfold State.arriveAt
  dsimp only
  exact memOk_with (memOk_modLaunch (memOk_setPlace h))

theorem memOk_settleCore {c : Nat} (h : s.memOk) : (s.settleCore c).memOk := by
  have ht : (match (s.core c).stage, (s.core c).launch with
      | .restoring due, some l => if due ≤ s.cycle then s.arriveAt c l else s
      | _, _ => s).memOk := by
    split
    · exact memOk_ite (memOk_arriveAt h) h
    · exact h
  exact memOk_ite (memOk_modCore ht) ht

theorem memOk_tick (h : s.memOk) : s.tick.memOk := h

theorem memOk_endCycle (h : s.memOk) : s.endCycle.memOk := by
  unfold State.endCycle
  dsimp only
  exact memOk_with (memOk_drainHost (memOk_foldl (memOk_sendOut (memOk_tick h)) (fun _ _ ht => memOk_settleCore ht)))

end Sys2Proof.Machine
end

section
/-!
SUPPORT. Every operation, and every step, keeps the memories canonical (O58).
-/
namespace Sys2Proof.Machine

variable {s : State}

theorem memOk_execCommit {c i : Nat} (h : s.memOk) : OutOk (execCommit c i s) := by
  unfold execCommit
  split
  · split
    · next e => exact memOk_completeWait (ExcOk.of_ok e (memOk_commit h))
    · next e =>
      have ht := ExcOk.of_error e (memOk_commit h)
      exact memOk_modSlot ht
    · exact memOk_abortTxn (memOk_keepFlags h)
    · exact h
  · exact h

theorem memOk_execCopyDelivery {c n : Nat} (h : s.memOk) : OutOk (execCopyDelivery c n s) := by
  unfold execCopyDelivery
  refine OutOk.of_next ?_
  split
  · exact memOk_ite (memOk_copyDeliver h) h
  · exact h

theorem memOk_execCopyComplete {c n : Nat} (h : s.memOk) : OutOk (execCopyComplete c n s) := by
  unfold execCopyComplete
  refine OutOk.of_next ?_
  split
  · exact memOk_ite (memOk_ite (memOk_modCore h) (memOk_engineFlags (memOk_modCore h))) h
  · exact h

theorem memOk_execGatherElementIssue {c n : Nat} (h : s.memOk) : OutOk (execGatherElementIssue c n s) := by
  unfold execGatherElementIssue
  refine OutOk.of_next ?_
  split
  · exact memOk_ite (memOk_gatherIssue h) h
  · exact h

theorem memOk_execSpawnAsk {k : Nat} (h : s.memOk) : OutOk (execSpawnAsk k s) := by
  unfold execSpawnAsk
  refine OutOk.of_next ?_
  split
  · split
    · exact memOk_ask h
    · exact h
  · exact h

theorem memOk_execSpawnAnswer {k : Nat} (h : s.memOk) : OutOk (execSpawnAnswer k s) := by
  unfold execSpawnAnswer
  refine OutOk.of_next ?_
  split
  · split
    · exact memOk_spawnAnswered h
    · exact h
  · exact h

theorem memOk_execRemoteAccess {k : Nat} (h : s.memOk) : OutOk (execRemoteAccess k s) := by
  unfold execRemoteAccess
  refine OutOk.of_next ?_
  split
  · exact memOk_remoteAccess h
  · exact h

theorem memOk_execWakeAnswer {k : Nat} (h : s.memOk) : OutOk (execWakeAnswer k s) := by
  unfold execWakeAnswer
  refine OutOk.of_next ?_
  split
  · split
    · exact memOk_woken h
    · exact h
  · exact h

theorem memOk_execListMerge {n : Nat} (h : s.memOk) : OutOk (execListMerge n s) := by
  unfold execListMerge
  refine OutOk.of_next ?_
  split
  · exact memOk_mergeAt (memOk_enterLists h)
  · exact memOk_enterLists h

theorem memOk_execSetcap {box : Nat} (h : s.memOk) : OutOk (execSetcap box s) := by
  unfold execSetcap
  exact memOk_serve h (fun _ _ e => memOk_setcap h e)

theorem memOk_execSensors {box : Nat} (h : s.memOk) : OutOk (execSensors box s) := by
  unfold execSensors
  exact memOk_serve h (fun _ _ e => ExcOk.of_ok (q := fun _ => True) e (memOk_boxData h))

theorem memOk_execReadlog {box : Nat} (h : s.memOk) : OutOk (execReadlog box s) := by
  unfold execReadlog
  exact memOk_serve h (fun _ _ e => memOk_readlog h e)

theorem memOk_execFwwrite {box : Nat} (h : s.memOk) : OutOk (execFwwrite box s) := by
  unfold execFwwrite
  exact memOk_serve h (fun _ _ e => ExcOk.of_ok e (memOk_fwwrite h))

theorem memOk_execFwactivate {box : Nat} (h : s.memOk) : OutOk (execFwactivate box s) := by
  unfold execFwactivate
  exact memOk_serve h (fun _ _ e => ExcOk.of_ok e (memOk_fwactivate h))

theorem memOk_execSavepool {box : Nat} (h : s.memOk) : OutOk (execSavepool box s) := by
  unfold execSavepool
  exact memOk_serve h (fun _ _ e => ExcOk.of_ok e (memOk_savepool h))

theorem memOk_execCappool {box : Nat} (h : s.memOk) : OutOk (execCappool box s) := by
  unfold execCappool
  exact memOk_serve h (fun _ _ e => memOk_cappool h e)

/-- Every operation keeps the memories canonical: A-words write registers only, a C-word what its answer holds, and an
event what the function of the part does. -/
theorem memOk_exec {i : Instr} (h : s.memOk) : OutOk (exec i s) :=
  match i with
  | .addA .. | .subA .. | .andA .. | .orA .. | .xorA .. | .shlA .. | .shrA .. | .sraA .. | .sltA .. | .sltnA .. |
    .minA .. | .maxA .. | .minnA .. | .maxnA .. | .mul .. | .mulh .. | .mulhn .. | .div .. | .divn .. | .rem .. |
    .remn .. | .popc .. | .clz .. | .ctz .. | .addiA .. | .andiA .. | .oriA .. | .xoriA .. | .sltiA .. |
    .shlImmA .. | .shrImmA .. | .sraImmA .. | .extr .. | .ins .. | .widf .. | .vadd .. | .vsub .. | .vmul .. |
    .vmin .. | .vmax .. | .vminn .. | .vmaxn .. | .vdot .. | .vshlVector .. | .vshrVector .. | .vsraVector .. |
    .vfma .. | .vabs .. | .vneg .. | .vredsum .. | .vredmax .. | .vredmin .. | .vrcp .. | .vrsq .. | .vexp2 .. |
    .vlog2 .. | .vtanh .. | .vsplat .. | .vzmask .. | .vand .. | .vor .. | .vxor .. | .vandn .. | .vperm .. |
    .vshlScalar .. | .vshrScalar .. | .vsraScalar .. | .vext .. | .vins .. | .vcmprs .. | .vexpnd .. | .vcmp .. |
    .vsel .. | .vcvt .. | .vmov .. | .nopA => memOk_runA h
  | .addC .. | .subC .. | .andC .. | .orC .. | .xorC .. | .shlC .. | .shrC .. | .sraC .. | .sltC .. | .sltnC .. |
    .minC .. | .maxC .. | .minnC .. | .maxnC .. => memOk_runC h (memOk_scalarRes h)
  | .addiC .. | .andiC .. | .oriC .. | .xoriC .. | .sltiC .. | .shlImmC .. | .shrImmC .. | .sraImmC .. =>
    memOk_runC h (memOk_immRes h)
  | .waitev .. => memOk_runC h (memOk_waitevRes h)
  | .asinv .. => memOk_runC h (memOk_asinvRes h)
  | .mswap .. => memOk_runC h (memOk_mswapRes h)
  | .trap .. | .bkpt => memOk_runC h (memOk_trapRes h)
  | .crr .. => memOk_runC h (memOk_crrRes h)
  | .crw .. | .crs .. | .crc .. => memOk_runC h (memOk_crwRes h)
  | .hmask .. | .hunmask .. => memOk_runC h (memOk_maskRes h)
  | .lih .. | .liq .. | .liw .. | .jal .. => memOk_runC h (memOk_setX h)
  | .beq .. | .bne .. | .blt .. | .bge .. | .bltn .. | .bgen .. | .bbs .. | .bbc .. | .j .. => memOk_runC h
    (memOk_branch h)
  | .jalr .. => memOk_runC h (memOk_jalrRes h)
  | .rpt .. => memOk_runC h (memOk_rptRes h)
  | .tbegin .. => memOk_runC h (memOk_tbeginRes h)
  | .tabort .. => memOk_runC h (memOk_tabortRes h)
  | .ldB .. | .ldH .. | .ldW .. | .ldD .. | .ldnB .. | .ldnH .. | .ldnW .. => memOk_runC h (memOk_ldRes h)
  | .vld .. | .lda .. => memOk_runC h (memOk_loadRes h)
  | .stB .. | .stH .. | .stW .. | .stD .. => memOk_runC h (memOk_stRes h)
  | .vst .. => memOk_runC h (memOk_storeRes h)
  | .st4 .. => memOk_runC h (memOk_st4Res h)
  | .stl .. => memOk_runC h (memOk_stlRes h)
  | .amo .. | .cas .. => memOk_runC h (memOk_amoRes h)
  | .fence .. => memOk_runC h (memOk_fenceRes h)
  | .fencex .. => memOk_runC h (memOk_fencexRes h)
  | .swset .. => memOk_runC h (memOk_swsetRes h)
  | .swwait .. => memOk_runC h (memOk_swwaitRes h)
  | .bar .. => memOk_runC h (memOk_barRes h)
  | .tred .. => memOk_runC h (memOk_tredRes h)
  | .send .. => memOk_runC h (memOk_sendRes h)
  | .spawn .. | .spawnq .. => memOk_runC h (memOk_spawnRes h)
  | .migrate .. => memOk_runC h (memOk_migrateRes h)
  | .callat .. => memOk_runC h (memOk_callatRes h)
  | .reply .. => memOk_runC h (memOk_replyRes h)
  | .chrd .. => memOk_runC h (memOk_chrdRes h)
  | .copy .. => memOk_runC h (memOk_copyRes h)
  | .gather .. | .scatter .. => memOk_runC h (memOk_gatherRes h)
  | .dlaunch .. => memOk_runC h (memOk_dlaunchRes h)
  | .tskip .. => memOk_runC h (memOk_tskipRes h)
  | .mcst .. => memOk_runC h (memOk_mcstRes h)
  | .tksend .. => memOk_runC h (memOk_tksendRes h)
  | .bksel .. => memOk_runC h (memOk_bkselRes h)
  | .sbind .. => memOk_runC h (memOk_sbindRes h)
  | .compose .. => memOk_runC h (memOk_composeRes h)
  | .mzero .. | .mldw .. | .mma .. | .mmas .. | .mmab .. | .madp .. | .mdrain .. => memOk_runMatrix h
  | .matrixCommandComplete .. => memOk_completeMatrix h
  | .mswapMarker .. => memOk_runMarker h
  | .slotFill .. => memOk_fill h
  | .loadLevel .. => memOk_level h
  | .classTurnEnd .. => memOk_turnEnd h
  | .preemptionRequest .. => memOk_requestPreempt h
  | .preemption .. => memOk_preempt h
  | .imageSaveDone .. => memOk_imageDone h
  | .takeTrap .. => memOk_takeHeld h
  | .watchdogFire .. => memOk_watchdog h
  | .swwaitReturn .. => memOk_swwaitEnd h
  | .waitevReturn .. => memOk_waitevEnd h
  | .chrdWake .. => memOk_chrdEnd h
  | .stallRelease .. => memOk_stallEnd h
  | .commit .. => memOk_execCommit h
  | .streamPrefetch .. => memOk_streamAhead h
  | .streamWrite .. => memOk_streamFlushOne h
  | .copyDelivery .. => memOk_execCopyDelivery h
  | .copyComplete .. => memOk_execCopyComplete h
  | .gatherElementIssue .. => memOk_execGatherElementIssue h
  | .writeBufferDrain .. => OptOk.getD (memOk_drainNth h) (memOk_snoopWb h)
  | .illegalEncoding .. => memOk_trapNow h
  | .dataMessage .. | .spawnMessage .. | .migrateMessage .. | .callMessage .. | .replyMessage .. =>
    memOk_onMsg h (fun _ => memOk_deliver h)
  | .niRetry .. => memOk_onMsg h (fun _ => memOk_ite (memOk_deliver h) h)
  | .spawnAsk .. => memOk_execSpawnAsk h
  | .spawnAnswer .. => memOk_execSpawnAnswer h
  | .childEndReport .. => memOk_onMsg h (fun _ => memOk_childEnded h)
  | .remoteAccess .. => memOk_execRemoteAccess h
  | .remoteResponse .. | .gatherReply .. | .scatterDelivery .. => memOk_onMsg h (fun _ => memOk_answer h)
  | .wakeAnswer .. => memOk_execWakeAnswer h
  | .escapeChannelMove .. => memOk_escape h
  | .forwarding .. => memOk_forward h
  | .listMerge .. => memOk_execListMerge h
  | .launchReady .. => memOk_ready h
  | .waitCounterRead .. => memOk_readCounter h
  | .launchComplete .. => memOk_completeLaunch h
  | .batchDeal .. => memOk_dealBatch h
  | .launchStart .. => memOk_start h
  | .teardown .. => memOk_tearDown h
  | .newGenerationAck .. => memOk_ackGeneration h
  | .subDispatch .. => memOk_subDispatch h
  | .restore .. => memOk_restoreImage h
  | .liveMigration .. => memOk_migrateLive h
  | .setcap .. => memOk_execSetcap h
  | .sensors .. => memOk_execSensors h
  | .readlog .. => memOk_execReadlog h
  | .fwwrite .. => memOk_execFwwrite h
  | .fwactivate .. => memOk_execFwactivate h
  | .savepool .. => memOk_execSavepool h
  | .cappool .. => memOk_execCappool h
  | .mailboxUnknownCmd .. => memOk_ite h (memOk_boxDone h)
  | .mailboxDone .. => memOk_mailboxDone h
  | .zynongPacketReceive .. => memOk_packetIn h
  | .retryTimeout .. => memOk_retry h
  | .switchForward .. => memOk_forwardPacket h
  | .answerMerge .. => memOk_mergeAnswer h
  | .multicastAggregate .. => memOk_aggregate h
  | .yield => memOk_runC h (memOk_yieldRes h)
  | .endI => memOk_runC h (memOk_endRes h)
  | .eret => memOk_runC h (memOk_eretRes h)
  | .l1wb => memOk_runC h (memOk_l1wbRes h)
  | .l1inv => memOk_runC h (memOk_l1invRes h)
  | .mwait => memOk_runC h (memOk_mwaitRes h)
  | .release => memOk_runC h (memOk_releaseRes h)
  | .tend => memOk_runC h (memOk_tendRes h)
  | .alive | .nopC => memOk_runC h h
  | .launchAccept => memOk_accept h
  | .tinvComplete => memOk_invalidated h
  | .lkillComplete => memOk_killed h
  | .mcinvComplete | .powerWindow .. | .linkFailure .. => h
  | .instructionFetchFault => memOk_ite (memOk_consumePoison h) (memOk_trapNow h)
  | .qrecWrite .. => memOk_qrec h
  | .tinvctlRange .. => memOk_overLinks h (fun _ ht => memOk_ite ht (memOk_invalidate ht))
  | .tinvctlAll .. => memOk_overLinks h (fun _ ht => memOk_ite (memOk_invalidate ht) ht)
  | .lkillLaunch .. => memOk_overLinks h (fun _ ht => memOk_ite ht (memOk_kill ht))
  | .lkillAsid .. => memOk_overLinks h (fun _ ht => memOk_ite (memOk_kill ht) ht)
  | .mcinvGroup .. | .mcinvMap .. => memOk_overLinks h (fun _ ht => memOk_ite (memOk_mcinv ht) ht)
  | .registerWrite .. => memOk_overLinks h (fun _ ht => memOk_ite (memOk_barWrite ht) ht)
  | .checkerMismatch .. => memOk_mismatch h
  | .uncorrectableError .. => memOk_strike h
  | .sensorSample .. => memOk_sample h
  | .powerGood .. => memOk_powerUp h
  | .getMeasurements .. => memOk_measure h
  | .acknowledgement .. => memOk_ackStream h
  | .spraySetRemove .. => memOk_removeLink h
  | .shadowInstall .. => memOk_install h
  | .versionActivation .. => memOk_activate h
  | .mcstDelivery .. => memOk_ite (memOk_delivery h) h
  | .bar2Read .. | .bar2Write .. => memOk_overLinks h (fun _ ht => memOk_ite (memOk_hostAsks ht) (memOk_say ht))
  | .hostWriteBack .. | .cxlMemRead .. => memOk_overCxl h (fun _ ht => memOk_ite (memOk_hostAsks ht) (memOk_say ht))
  | .backInvalidateAnswer .. => memOk_overCxl h (fun _ ht => memOk_snoopAnswered ht)
  | .hostWindowReadCompletion .. => memOk_hostReadDone h

theorem memOk_runPair {c a : Instr} (h : s.memOk) : OutOk (runPair s c a) := by
  have ha : OutOk (exec a s) := memOk_exec h
  unfold runPair
  split
  · next t e =>
    rw [e] at ha
    exact memOk_exec (memOk_modMe ha)
  · exact ha

theorem memOk_runIssued {x : Issued} (h : x.memOk) : OutOk (runIssued x) := by
  cases x with
  | done t => exact h
  | one t i => exact memOk_exec (s := t) h
  | two t c a => exact memOk_runPair (s := t) h

theorem memOk_step (h : s.memOk) : OutOk (step s) := by
  unfold step
  split
  · split
    · exact memOk_exec (memOk_with h)
    · trivial
  · split
    · exact memOk_exec (memOk_with h)
    · split
      · exact memOk_runIssued (memOk_issue (memOk_with h))
      · exact memOk_endCycle h

end Sys2Proof.Machine
end

section
/-!
CERTIFICATE. O58: every step keeps both memories canonical.
-/
namespace Sys2Proof.Proofs

open Sys2Proof.Machine

/-- Settles O58: every write to device memory or to the host's is a run of byte writes, which keeps the canonical form, and
power-good starts from an empty device memory. -/
theorem stepKeepsMemoryCanonical : Obligations.StepKeepsMemoryCanonical := by
  unfold Obligations.StepKeepsMemoryCanonical
  intro s t hs ht
  have h : OutOk (step s) := memOk_step hs
  rw [ht] at h
  exact h

end Sys2Proof.Proofs
end

section
/-!
SUPPORT. A register's stored fields under its top bit, and the dispatcher's, the fabric's and a mailbox's registers by their
offsets (O60).
-/
namespace Sys2Proof.Machine

variable {s : State} {die off : Nat}

theorem withTop_ofNat {b : Bool} {n : Nat} (hn : n < 2 ^ 63) :
    withTop b (BitVec.ofNat 64 n) = BitVec.ofNat 64 (bit b * 2 ^ 63 + n) := by
  cases b with
  | false => simp [withTop, bit]
  | true =>
    have hor : n ||| 2 ^ 63 = 2 ^ 63 + n := by
      simpa [Nat.or_comm] using (Nat.two_pow_add_eq_or_of_lt hn 1).symm
    apply BitVec.eq_of_toNat_eq
    rw [withTop, BitVec.toNat_or, BitVec.toNat_ofNat, BitVec.toNat_ofNat, BitVec.toNat_ofNat, bit, if_pos rfl, Nat.one_mul,
      Nat.mod_eq_of_lt (b := 2 ^ 64) (by omega), Nat.mod_eq_of_lt (by decide), hor, Nat.mod_eq_of_lt (by omega)]

theorem withTop_of_msb_false {v : Word} (hv : v.getLsbD 63 = false) (b : Bool) :
    withTop b v = if b then v + 2 ^ 63 else v := by
  have hlt : v.toNat < 2 ^ 63 := by
    have := BitVec.msb_eq_false_iff_two_mul_lt.mp (show v.msb = false from hv)
    omega
  have h := withTop_ofNat (b := b) hlt
  rw [BitVec.ofNat_toNat, BitVec.setWidth_eq] at h
  rw [h]
  cases b with
  | false => simp [bit]
  | true =>
    have htop : BitVec.ofNat 64 (bit true * 2 ^ 63) = (2 : Word) ^ 63 := by
      simp [bit, ← BitVec.toNat_inj]
    rw [BitVec.ofNat_add, BitVec.ofNat_toNat, BitVec.setWidth_eq, BitVec.add_comm, htop, if_pos rfl]

theorem barRead_disp (h : off < 0x4000) : s.barRead die off = s.dispReg off := if_pos h

theorem barRead_fab (h : 0x4000 ≤ off) (h' : off < 0x8000) : s.barRead die off = s.fabReg die off := by
  rw [State.barRead, if_neg (by omega), if_pos h']

theorem barRead_box (h : 0x8000 ≤ off) : s.barRead die off = s.boxReg die off := by
  rw [State.barRead, if_neg (by omega), if_neg (by omega)]

theorem dispReg_weight {c : Nat} (hc : c < 16) :
    s.dispReg (0x100 + 8 * c) = some (BitVec.ofNat 64 (s.disp.weight c)) := by
  rw [State.dispReg, if_neg (by omega), if_neg (by omega), if_neg (by omega), if_pos (by omega)]
  congr 4
  omega

theorem dispReg_queue {q : Nat} (hq : q < 16) :
    s.dispReg (0x200 + 8 * q) = some (withTop (s.disp.queue q).en (BitVec.ofNat 64
      ((s.disp.queue q).cls * 2 ^ 48 + (s.disp.queue q).asid * 2 ^ 32 + (s.disp.queue q).recs.length))) := by
  have hn : (0x200 + 8 * q - 0x200) / 8 = q := by omega
  rw [State.dispReg, if_neg (by omega), if_neg (by omega), if_neg (by omega), if_neg (by omega), if_pos (by omega), hn]

theorem dispReg_none (h : (0x018 ≤ off ∧ off < 0x100) ∨ (0x180 ≤ off ∧ off < 0x200) ∨ 0x280 ≤ off) :
    s.dispReg off = none := by
  rw [State.dispReg, if_neg (by omega), if_neg (by omega), if_neg (by omega), if_neg (by omega), if_neg (by omega)]

theorem fabReg_none (h : 0x4030 ≤ off) : s.fabReg die off = none := by
  rw [State.fabReg, if_neg (by omega), if_neg (by omega), if_neg (by omega), if_neg (by omega), if_neg (by omega),
    if_neg (by omega)]

theorem boxReg_data (h : 0x8100 ≤ off) (h' : off + 8 ≤ 0x10000) :
    s.boxReg die off = some (BitVec.ofNat 64 ((s.tele.mbox die).data.num off 8)) := by
  rw [State.boxReg, if_neg (by omega), if_neg (by omega), if_pos ⟨h, h'⟩]
  rfl

theorem boxReg_none (h : (0x8010 ≤ off ∧ off < 0x8100) ∨ 0x10000 ≤ off) : s.boxReg die off = none := by
  rw [State.boxReg, if_neg (by omega), if_neg (by omega), if_neg (by omega)]

theorem barRead_none (h : (0x018 ≤ off ∧ off < 0x100) ∨ (0x180 ≤ off ∧ off < 0x200) ∨ (0x280 ≤ off ∧ off < 0x4000) ∨
    (0x4030 ≤ off ∧ off < 0x8000) ∨ (0x8010 ≤ off ∧ off < 0x8100) ∨ 0x10000 ≤ off) : s.barRead die off = none := by
  rcases Nat.lt_or_ge off 0x4000 with hd | hd
  · rw [barRead_disp hd]
    exact dispReg_none (by omega)
  rcases Nat.lt_or_ge off 0x8000 with hf | hf
  · rw [barRead_fab hd hf]
    exact fabReg_none (by omega)
  · rw [barRead_box hf]
    exact boxReg_none (by omega)

end Sys2Proof.Machine
end

section
/-!
CERTIFICATE. O60: what a read through BAR0 gives.
-/
namespace Sys2Proof.Proofs

open Sys2Proof.Machine

/-- Settles O60: each offset takes one branch of the dispatcher's, the fabric's or the mailbox's registers, and the top bit
stands apart from the fields below it. -/
theorem registerReads : Obligations.RegisterReads := by
  unfold Obligations.RegisterReads
  intro s die
  dsimp only
  have hfab : ∀ off, 0x4000 ≤ off → off < 0x8000 → s.barRead die off = s.fabReg die off := fun _ => barRead_fab
  have hbox : ∀ off, 0x8000 ≤ off → s.barRead die off = s.boxReg die off := fun _ => barRead_box
  refine ⟨rfl, ?_, ?_, ?_, ?_, ?_, ?_, ?_, rfl, rfl, ?_, ?_, ?_, ?_, ?_, fun _ => barRead_none⟩
  · rintro v hv rfl
    exact congrArg some (withTop_of_msb_false hv _)
  · rintro v hv rfl
    exact congrArg some (withTop_of_msb_false hv _)
  · intro c hc
    rw [barRead_disp (by omega), dispReg_weight hc]
    simp
  · intro q hq hcls hasid hlen
    rw [barRead_disp (by omega), dispReg_queue hq, withTop_ofNat (by omega)]
    simp only [Nat.add_assoc]
  · intro hn
    simp [hfab, State.fabReg, hn, bit]
  · intro t ht
    simp [hfab, State.fabReg, ht, bit, Nat.add_assoc]
  · intro n hn
    simp [hfab, State.fabReg, hn]
  · simp [hfab, State.fabReg]
  · rintro v hv rfl
    exact congrArg some (withTop_of_msb_false hv _)
  · rintro v hv rfl
    exact congrArg some (withTop_of_msb_false hv _)
  · rintro n rfl hn
    have hw := withTop_ofNat (b := (s.tele.mbox die).busy) (n := (s.tele.mbox die).status) (by omega)
    simpa [hbox, State.boxReg] using hw
  · intro off h h'
    rw [hbox off (by omega), boxReg_data h h']

end Sys2Proof.Proofs
end

section
/-!
SUPPORT. Accesses of a slot's own spaces: what CheckMem passes, what a load reads, and what a C-word's write of a v register
leaves.
-/
namespace Sys2Proof.Machine

/-- Own LM, the A buffer and the C window: the spaces of a core itself that its loads and stores reach. -/
def Space.near : Space → Bool
  | .lm _ | .abuf _ | .cbuf _ => true
  | _ => false

section
variable {s : State} {a : Word} {size off : Nat} {u : Use} {sp : Space} {acq : Option Scope} {land : Landing}

/-- CheckMem passes an aligned access of a near space that admits the use (Table 14.1). -/
theorem checkMem_near (hsp : spaceOf s.pkg a = sp) (hn : sp.near = true) (hal : a.toNat % size = 0)
    (had : u.admits s.cur.2 sp = true) : s.checkMem a size u = .ok ⟨sp, none⟩ := by
  cases sp with
  | lm _ | abuf _ | cbuf _ => simp [State.checkMem, hsp, hal, had, forbiddenInTxn, Use.contains]
  | _ => cases hn

theorem loadRes_of_load {bs : List Byte} {k : Checked} {t : State} (hk : s.checkMem a size .load = .ok k)
    (hl : s.load a size k land acq = .ok (t, bs)) : s.loadRes a size land acq = go (t.landed land acq bs) := by
  simp [State.loadRes, hk, hl, bind, Except.bind]

theorem load_lm (h : s.here.lmBad off size = false) :
    s.load a size ⟨.lm off, none⟩ land acq = .ok (s, s.here.lm.bytes off size) := by simp [State.load, h]

theorem load_abuf (h : s.here.abufBad off size = false) :
    s.load a size ⟨.abuf off, none⟩ land acq = .ok (s, s.here.abuf.bytes off size) := by simp [State.load, h]

theorem load_cbuf (h : s.here.cBad off size = false) :
    s.load a size ⟨.cbuf off, none⟩ land acq = .ok (s, s.here.cRead off size) := by simp [State.load, h]

end

/-- A load extends its bytes from their size (R321). -/
theorem extendLoad_eq {n : Nat} (hn : 0 < n) (h8 : n ≤ 8) (signed : Bool) {bs : List Byte} (hlen : bs.length = n) :
    extendLoad n signed bs = if signed then (BitVec.ofNat (8 * n) (natOfBytes bs)).signExtend 64
      else (BitVec.ofNat (8 * n) (natOfBytes bs)).zeroExtend 64 := by
  have hlt : natOfBytes bs < 2 ^ (8 * n) := by
    have := Memory.natOfBytes_lt bs
    rwa [hlen, show (256 : Nat) = 2 ^ 8 from rfl, ← Nat.pow_mul] at this
  have hmod : natOfBytes bs % 2 ^ (8 * n) = natOfBytes bs := Nat.mod_eq_of_lt hlt
  cases signed with
  | false =>
    apply BitVec.eq_of_toNat_eq
    simp [extendLoad, hmod]
  | true =>
    have hneg : 2 * natOfBytes bs < 2 ^ (8 * n) ↔ ¬2 ^ (8 * n - 1) ≤ natOfBytes bs := by
      rw [show 2 ^ (8 * n) = 2 * 2 ^ (8 * n - 1) by rw [← Nat.pow_succ']; congr 1; omega]
      omega
    simp only [if_true, BitVec.signExtend, BitVec.toInt_eq_toNat_cond, BitVec.toNat_ofNat, hmod, hneg, extendLoad]
    by_cases hs : 2 ^ (8 * n - 1) ≤ natOfBytes bs
    · simp [hs]
    · simp [hs]

/-- A lone C-word that writes a v register and goes on. -/
theorem finishC_v {s : State} (h : Lone s) {d : Reg} (hd : s.me.writesInto (.v d)) (v : Vec) :
    Retired s (s.finishC (go (s.setV d v))) [.v d] {} ∧ GoesOn s (s.finishC (go (s.setV d v))) ∧
      (s.finishC (go (s.setV d v))).me.settled (.v d) = v := by
  have hw : s.setV d v = s.setSlot s.cur.1 s.cur.2 (s.me.place s.cur.1 s.cycle { reg := .v d, val := v, latency := 1 }) :=
    writeReg_of (by exact hd)
  obtain ⟨hb, hf, hr, hn, hi, hl⟩ := writeReg_system s.me s.cur.1 s.cycle { reg := .v d, val := v, latency := 1 }
  rw [go, finishC_go h, hw, retire_setSlot h hb]
  refine ⟨retired_of ?_ ?_ ?_ hr hn hi (by rw [hb]), goesOn_of hl (by rw [hb]) (by rw [hb]), ?_⟩
  · intro r hr
    exact settled_place_ne _ _ _ _ (fun h => hr (by simp [← h]))
  · rw [hf, or_empty]
  · rw [system_place]
  · rw [me_setSlot, settled_finished]
    exact settled_place_self s.me s.cur.1 s.cycle { reg := .v d, val := v, latency := 1 }

end Sys2Proof.Machine
end

section
/-!
CERTIFICATE. O18: loads from own LM, the A buffer and the C window.
-/
namespace Sys2Proof.Proofs

open Sys2Proof.Machine

/-- Settles O18: CheckMem passes the near space, the load gives its bytes, and the register takes them extended. -/
theorem localLoads : Obligations.LocalLoads := by
  unfold Obligations.LocalLoads
  intro s d b imm off n bs hlone a hsrc hal
  obtain ⟨hload, hlen⟩ : (∀ land, s.loadRes a n land none = go (s.landed land none bs)) ∧ bs.length = n := by
    rcases hsrc with ⟨hsp, hbad, rfl⟩ | ⟨hsp, hbad, rfl⟩ | ⟨hsp, hbad, hbs⟩
    · exact ⟨fun land => loadRes_of_load (checkMem_near hsp rfl hal rfl) (load_lm hbad), by simp⟩
    · exact ⟨fun land => loadRes_of_load (checkMem_near hsp rfl hal rfl) (load_abuf hbad), by simp⟩
    · obtain rfl : bs = s.here.cRead off n := hbs
      refine ⟨fun land => loadRes_of_load (checkMem_near hsp rfl hal rfl) (load_cbuf hbad), ?_⟩
      rw [CoreSt.cRead]
      split <;> simp
  constructor
  · intro hd p hp hn
    have hx : ∀ signed, 0 < n → n ≤ 8 → ∀ i, exec i s = .next (s.finishC (s.ldRes d b imm n signed)) →
        LeavesX s i d (if signed then (BitVec.ofNat (8 * n) (natOfBytes bs)).signExtend 64
          else (BitVec.ofNat (8 * n) (natOfBytes bs)).zeroExtend 64) := by
      intro signed h0 h8 i hi
      have hres : s.ldRes d b imm n signed = go (s.setX d (extendLoad n signed bs)) := hload (.x d n signed)
      obtain ⟨hret, hgo, hval⟩ := finishC_x hlone hd (extendLoad n signed bs)
      rw [hres] at hi
      rw [← extendLoad_eq h0 h8 signed hlen]
      exact ⟨_, hi, hret, hgo, hval⟩
    simp only [List.mem_cons, List.not_mem_nil, or_false] at hp
    rcases hp with rfl | rfl | rfl | rfl | rfl | rfl | rfl
    case inr.inr.inr.inl =>
      dsimp only at hn
      subst hn
      simpa using hx false (by decide) (by decide) (.ldD d b imm) rfl
    all_goals
      dsimp only at hn
      subst hn
      exact hx _ (by decide) (by decide) _ rfl
  · rintro hd rfl
    have hres : s.loadRes a 16 (.v d) none = go (s.setV d (vecOf16 bs)) := hload (.v d)
    obtain ⟨hret, hgo, hval⟩ := finishC_v hlone hd (vecOf16 bs)
    refine ⟨_, ?_, hret, hgo, hval⟩
    show Host.Outcome.next (s.finishC (s.loadRes a 16 (.v d) none)) = _
    rw [hres]

end Sys2Proof.Proofs
end

section
/-!
SUPPORT. Stores into a slot's own spaces: what a C-word that changes its own core leaves, the bytes of a stored number, the
zero map's byte of a stored vector, and a byte with a nibble replaced.
-/
namespace Sys2Proof.Machine

/-! ### A C-word that changes its own core -/

@[simp] theorem here_modHere (s : State) (f : CoreSt → CoreSt) : (s.modHere f).here = f s.here := by
  simp [State.here, State.modHere, State.modCore]

theorem modHere_congr {s : State} {f g : CoreSt → CoreSt} (h : f s.here = g s.here) : s.modHere f = s.modHere g :=
  congrArg (s.setCore s.cur.1) h

theorem me_modHere {s : State} {f : CoreSt → CoreSt} (h : (f s.here).slots = s.here.slots) : (s.modHere f).me = s.me := by
  have hc : (s.modHere f).core s.cur.1 = f s.here := here_modHere s f
  simp only [State.me, State.slot, CoreSt.slot, cur_modHere, hc, h]
  rfl

/-- It goes on, and its core is as the change left it but for the slot. -/
theorem finishC_modHere {s : State} (h : Lone s) {f : CoreSt → CoreSt} (hf : (f s.here).slots = s.here.slots) :
    GoesOn s (s.finishC (go (s.modHere f))) ∧ Retired (s.modHere f) (s.finishC (go (s.modHere f))) [] {} ∧
      ∃ u, (s.finishC (go (s.modHere f))).here = (f s.here).setSlot s.cur.2 u := by
  have hme := me_modHere hf
  obtain ⟨hgo, hret⟩ := finishC_goesOn h (cur_modHere s f) (congrArg Slot.bundle hme) (congrArg Slot.loop hme)
  refine ⟨hgo, hret, (s.finishC (go (s.modHere f))).me, ?_⟩
  have hcur := congrArg State.cur hret.elsewhere
  have hcore := congrArg (fun t => t.core s.cur.1) hret.elsewhere
  simp only [cur_setSlot, cur_modHere] at hcur
  rw [State.here, hcur]
  refine hcore.trans ?_
  have hc : (s.modHere f).core s.cur.1 = f s.here := here_modHere s f
  simp only [cur_modHere, core_setSlot, hc]

@[simp] theorem lm_setSlot (k : CoreSt) (i : Nat) (u : Slot) : (k.setSlot i u).lm = k.lm := rfl
@[simp] theorem poison_setSlot (k : CoreSt) (i : Nat) (u : Slot) : (k.setSlot i u).poison = k.poison := rfl
@[simp] theorem evSeen_setSlot (k : CoreSt) (i : Nat) (u : Slot) : (k.setSlot i u).evSeen = k.evSeen := rfl
@[simp] theorem abuf_setSlot (k : CoreSt) (i : Nat) (u : Slot) : (k.setSlot i u).abuf = k.abuf := rfl
@[simp] theorem zmap_setSlot (k : CoreSt) (i : Nat) (u : Slot) : (k.setSlot i u).zmap = k.zmap := rfl
@[simp] theorem acc0v_setSlot (k : CoreSt) (i : Nat) (u : Slot) : (k.setSlot i u).acc0v = k.acc0v := rfl
@[simp] theorem acc1v_setSlot (k : CoreSt) (i : Nat) (u : Slot) : (k.setSlot i u).acc1v = k.acc1v := rfl

/-! ### The three spaces -/

/-- The visible bank that a C window offset names (R107). -/
def CoreSt.bankOf (k : CoreSt) (off : Nat) : Memory := if off < 0x4000 then k.acc0v.data else k.acc1v.data

/-- The part of the state that a store to the A buffer may change, as another state has it. -/
def State.withAbufOf (s t : State) : State :=
  s.modHere (fun k => { k with abuf := t.here.abuf, zmap := t.here.zmap, poison := t.here.poison })

/-- The same for a store to the C window at an offset. -/
def State.withBankOf (s t : State) (off : Nat) : State :=
  s.modHere (fun k => if off < 0x4000 then { k with acc0v := { k.acc0v with data := t.here.acc0v.data, bad := t.here.acc0v.bad } }
    else { k with acc1v := { k.acc1v with data := t.here.acc1v.data, bad := t.here.acc1v.bad } })

section
variable {s : State}

/-- A bundle that writes bytes of own LM changes own LM alone. -/
theorem finishC_lmWrite (h : Lone s) (off : Nat) (bs : List Byte) :
    let t := s.finishC (go (s.modHere (fun k => k.lmWrite off bs)))
    GoesOn s t ∧ Retired (s.withLmOf t) t [] {} ∧ t.here.lm = s.here.lm.writeBytes off bs := by
  obtain ⟨hgo, hret, u, hu⟩ := finishC_modHere h (f := fun k => k.lmWrite off bs) rfl
  refine ⟨hgo, ?_, by rw [hu]; rfl⟩
  rw [State.withLmOf, hu]
  exact hret

/-- A bundle that writes bytes of the A buffer, and perhaps its zero map, changes these alone. -/
theorem finishC_abufWrite (h : Lone s) (off : Nat) (bs : List Byte) (zs : Memory → Memory) :
    let t := s.finishC (go (s.modHere (fun k => { k.abufWrite off bs with zmap := zs k.zmap })))
    GoesOn s t ∧ Retired (s.withAbufOf t) t [] {} ∧ t.here.abuf = s.here.abuf.writeBytes off bs ∧
      t.here.zmap = zs s.here.zmap := by
  obtain ⟨hgo, hret, u, hu⟩ := finishC_modHere h (f := fun k => { k.abufWrite off bs with zmap := zs k.zmap }) rfl
  refine ⟨hgo, ?_, by rw [hu]; rfl, by rw [hu]; rfl⟩
  rw [State.withAbufOf, hu]
  exact hret

/-- A bundle that writes bytes of the C window changes its visible bank alone. -/
theorem finishC_cWrite (h : Lone s) {off : Nat} (hoff : off < 0x8000) (bs : List Byte) :
    let t := s.finishC (go (s.modHere (fun k => k.cWrite off bs)))
    GoesOn s t ∧ Retired (s.withBankOf t off) t [] {} ∧ t.here.bankOf off = (s.here.bankOf off).writeBytes (off % 0x4000) bs := by
  have hslots : (s.here.cWrite off bs).slots = s.here.slots := by
    unfold CoreSt.cWrite
    split <;> rfl
  obtain ⟨hgo, hret, u, hu⟩ := finishC_modHere h (f := fun k => k.cWrite off bs) hslots
  have hwith : s.withBankOf (s.finishC (go (s.modHere (fun k => k.cWrite off bs)))) off = s.modHere (fun k => k.cWrite off bs) := by
    refine modHere_congr ?_
    dsimp only
    rw [hu]
    unfold CoreSt.cWrite
    split <;> rfl
  refine ⟨hgo, by rw [hwith]; exact hret, ?_⟩
  rw [hu]
  rcases Nat.lt_or_ge off 0x4000 with hlo | hhi
  · simp [CoreSt.bankOf, CoreSt.cWrite, hlo, Bank.store, Nat.mod_eq_of_lt hlo]
  · have hmod : off % 0x4000 = off - 0x4000 := by omega
    simp [CoreSt.bankOf, CoreSt.cWrite, Nat.not_lt.mpr hhi, Bank.store, hmod]

end

theorem lt_of_spaceOf_cbuf {pkg off : Nat} {a : Word} (h : spaceOf pkg a = .cbuf off) : off < 0x8000 := by
  unfold spaceOf at h
  dsimp only at h
  split at h
  · cases h
  split at h
  · cases h
  split at h
  case h_4 =>
    split at h
    · next hlt =>
      cases h
      exact hlt
    · cases h
  case h_6 => cases h
  all_goals split at h <;> cases h

/-! ### Bytes of a stored value -/

/-- Two bytes of a number in a row are one of its halfwords. -/
theorem natOfBytes_halfword (n v i : Nat) (h : 2 * i + 2 ≤ n) :
    natOfBytes (((bytesOfNat n v).drop (2 * i)).take 2) = v / 65536 ^ i % 65536 := by
  have hget : ∀ k, k < n → (bytesOfNat n v)[k]? = some (BitVec.ofNat 8 (v / 256 ^ k)) := by
    intro k hk
    have hl : k < (bytesOfNat n v).length := by simpa using hk
    have hd := Memory.getD_bytesOfNat n v k hk
    rw [List.getD_eq_getElem?_getD, List.getElem?_eq_getElem hl] at hd
    rw [List.getElem?_eq_getElem hl]
    exact congrArg some hd
  have hl : ((bytesOfNat n v).drop (2 * i)).take 2 =
      [BitVec.ofNat 8 (v / 256 ^ (2 * i)), BitVec.ofNat 8 (v / 256 ^ (2 * i + 1))] := by
    apply List.ext_getElem? fun k => ?_
    match k with
    | 0 => simp [hget (2 * i) (by omega)]
    | 1 => simp [hget (2 * i + 1) (by omega)]
    | k + 2 => simp
  have hpow : 256 ^ (2 * i) = 65536 ^ i := by rw [Nat.pow_mul]
  rw [hl, Nat.pow_succ, ← Nat.div_div_eq_div_mul, hpow]
  simp only [natOfBytes, BitVec.toNat_ofNat]
  omega

/-- The zero map's byte of a stored vector: bit i for a halfword i that is neither 0x0000 nor 0x8000 (R146). -/
theorem zeroMapByte_bytesOfNat (v : Nat) : zeroMapByte (bytesOfNat 16 v) =
    BitVec.ofNat 8 (((List.range 8).map (fun i => if v / 65536 ^ i % 65536 % 0x8000 = 0 then 0 else 2 ^ i)).sum) := by
  have hbit : ∀ i, i < 8 → bit (decide (natOfBytes (((bytesOfNat 16 v).drop (2 * i)).take 2) % 0x8000 ≠ 0)) =
      if v / 65536 ^ i % 65536 % 0x8000 = 0 then 0 else 1 := by
    intro i hi
    rw [natOfBytes_halfword 16 v i (by omega), bit]
    simp
  have hmap : (List.range 8).map (fun i => bit (decide (natOfBytes (((bytesOfNat 16 v).drop (2 * i)).take 2) % 0x8000 ≠ 0))) =
      (List.range 8).map (fun i => if v / 65536 ^ i % 65536 % 0x8000 = 0 then 0 else 1) :=
    List.map_congr_left (fun i hi => hbit i (List.mem_range.mp hi))
  have hpack : ∀ f : Nat → Prop, [DecidablePred f] → packLanes 1 ((List.range 8).map (fun i => if f i then 0 else 1)) =
      ((List.range 8).map (fun i => if f i then 0 else 2 ^ i)).sum := by
    intro f _
    have hpow : ∀ i, (if f i then 0 else 2 ^ i) = 2 ^ i * (if f i then 0 else 1) := fun i => by split <;> simp
    have hle : ∀ i, (if f i then 0 else 1) ≤ 1 := fun i => by split <;> simp
    simp only [hpow, List.range, List.range.loop, List.map, packLanes, List.sum_cons, List.sum_nil]
    have h0 := hle 0; have h1 := hle 1; have h2 := hle 2; have h3 := hle 3
    have h4 := hle 4; have h5 := hle 5; have h6 := hle 6; have h7 := hle 7
    omega
  rw [zeroMapByte, hmap, hpack]

/-- A byte with a nibble replaced (R361). -/
theorem putNibble_eq (hi : Bool) (v : BitVec 4) (old : Byte) :
    putNibble hi v old = if hi then v ++ old.setWidth 4 else old.extractLsb' 4 4 ++ v := by
  have happ : ∀ x y : BitVec 4, (x ++ y : Byte).toNat = x.toNat * 16 + y.toNat := fun x y => by
    rw [show (x ++ y : Byte).toNat = x.toNat <<< 4 ||| y.toNat from BitVec.toNat_append ..,
      ← Nat.shiftLeft_add_eq_or_of_lt y.isLt, Nat.shiftLeft_eq]
  have hv := v.isLt
  have ho := old.isLt
  cases hi with
  | false =>
    apply BitVec.eq_of_toNat_eq
    have hhi : (old.extractLsb' 4 4).toNat = old.toNat / 16 := by
      rw [BitVec.extractLsb'_toNat, Nat.shiftRight_eq_div_pow]
      omega
    simp only [putNibble, Bool.false_eq_true, if_false, happ, hhi, BitVec.toNat_ofNat]
    omega
  | true =>
    apply BitVec.eq_of_toNat_eq
    simp only [putNibble, if_true, happ, BitVec.toNat_setWidth, BitVec.toNat_ofNat]
    omega

theorem read_writeBytes_one (m : Memory) (off x : Nat) (b : Byte) :
    (m.writeBytes off [b]).read x = if x = off then b else m.read x := by
  rw [Memory.writeBytes, Memory.writeBytes, Memory.read_write]

end Sys2Proof.Machine
end

section
/-!
CERTIFICATE. O19: stores to own LM, the A buffer and the C window.
-/
namespace Sys2Proof.Machine

section
variable {s : State} {a : Word} {bs : List Byte} {u : Use} {v : Bool} {off : Nat} {sp : Space}

theorem storeRes_of_store {k : Checked} {t : State} (hk : s.checkMem a bs.length u = .ok k) (hs : s.store a bs k v = .ok t) :
    s.storeRes a bs u v = go t := by
  simp [State.storeRes, hk, hs, bind, Except.bind]

/-- The uses of plain stores are admitted in the near spaces (Table 5.2). -/
theorem admits_store_near {i : Nat} (hu : u = .store ∨ u = .queueStore ∨ u = .nibble) (hn : sp.near = true) :
    u.admits i sp = true := by
  cases sp with
  | lm _ | abuf _ | cbuf _ => rcases hu with rfl | rfl | rfl <;> rfl
  | _ => cases hn

theorem storeRes_lm (hu : u = .store ∨ u = .queueStore ∨ u = .nibble) (hal : a.toNat % bs.length = 0)
    (hsp : spaceOf s.pkg a = .lm off) : s.storeRes a bs u v = go (s.modHere (fun k => k.lmWrite off bs)) :=
  storeRes_of_store (checkMem_near hsp rfl hal (admits_store_near hu rfl)) rfl

theorem storeRes_abuf (hu : u = .store ∨ u = .queueStore ∨ u = .nibble) (hal : a.toNat % bs.length = 0)
    (hsp : spaceOf s.pkg a = .abuf off) : s.storeRes a bs u v = go (s.modHere (fun k => { k.abufWrite off bs with
      zmap := if v && s.me.linkmap.getLsbD 8 then k.zmap.write (off / 16) (zeroMapByte bs) else k.zmap })) := by
  refine storeRes_of_store (checkMem_near hsp rfl hal (admits_store_near hu rfl)) (congrArg Except.ok ?_)
  refine modHere_congr ?_
  dsimp only
  split <;> rfl

theorem storeRes_cbuf (hu : u = .store ∨ u = .queueStore ∨ u = .nibble) (hal : a.toNat % bs.length = 0)
    (hsp : spaceOf s.pkg a = .cbuf off) : s.storeRes a bs u v = go (s.modHere (fun k => k.cWrite off bs)) :=
  storeRes_of_store (checkMem_near hsp rfl hal (admits_store_near hu rfl)) rfl

end

section
variable {s : State} {a b : Reg} {near : BitVec 10} {hi : Bool} {off : Nat}

theorem st4Res_lm (hsp : spaceOf s.pkg (s.effAddr b near) = .lm off) : s.st4Res a b near hi =
    go (s.modHere (fun k => k.lmWrite off [putNibble hi ((s.X a).setWidth 4) (s.here.lm.read off)])) := by
  have hk := checkMem_near (u := .nibble) hsp rfl (Nat.mod_one _) rfl
  simp [State.st4Res, hk, bind, Except.bind, State.atomic, nibbleBytes, Memory.bytes]

theorem st4Res_abuf (hsp : spaceOf s.pkg (s.effAddr b near) = .abuf off) : s.st4Res a b near hi =
    go (s.modHere (fun k => k.abufWrite off [putNibble hi ((s.X a).setWidth 4) (s.here.abuf.read off)])) := by
  have hk := checkMem_near (u := .nibble) hsp rfl (Nat.mod_one _) rfl
  simp [State.st4Res, hk, bind, Except.bind, State.atomic, nibbleBytes, Memory.bytes]

theorem st4Res_cbuf (hsp : spaceOf s.pkg (s.effAddr b near) = .cbuf off) : s.st4Res a b near hi =
    go (s.modHere (fun k => k.cWrite off [putNibble hi ((s.X a).setWidth 4) ((s.here.bankOf off).read (off % 0x4000))])) := by
  have hk := checkMem_near (u := .nibble) hsp rfl (Nat.mod_one _) rfl
  have hread : s.here.cRead off 1 = [(s.here.bankOf off).read (off % 0x4000)] := by
    have hoff := lt_of_spaceOf_cbuf hsp
    rcases Nat.lt_or_ge off 0x4000 with hlo | hge
    · simp [CoreSt.cRead, CoreSt.bankOf, hlo, Memory.bytes, Nat.mod_eq_of_lt hlo]
    · have hmod : off % 0x4000 = off - 0x4000 := by omega
      simp [CoreSt.cRead, CoreSt.bankOf, Nat.not_lt.mpr hge, Memory.bytes, hmod]
  simp [State.st4Res, hk, bind, Except.bind, State.atomic, nibbleBytes, hread]

end

end Sys2Proof.Machine

namespace Sys2Proof.Proofs

open Sys2Proof.Machine

/-- Settles O19: a store is one change of the running core, which the slot's retirement keeps. -/
theorem localStores : Obligations.LocalStores := by
  unfold Obligations.LocalStores
  intro s a b imm near hi off hlone
  dsimp only
  constructor
  · intro p hp hal
    obtain ⟨u, vst, hu, hvst, hexec⟩ : ∃ u vst, (u = .store ∨ u = .queueStore ∨ u = .nibble) ∧ (vst = decide (p.2.1 = 16)) ∧
        exec p.1 s = .next (s.finishC (s.storeRes (s.X b + imm.signExtend 64) (bytesOfNat p.2.1 p.2.2) u vst)) := by
      simp only [List.mem_cons, List.not_mem_nil, or_false] at hp
      rcases hp with rfl | rfl | rfl | rfl | rfl
      · exact ⟨.store, false, .inl rfl, rfl, rfl⟩
      · exact ⟨.store, false, .inl rfl, rfl, rfl⟩
      · exact ⟨.store, false, .inl rfl, rfl, rfl⟩
      · exact ⟨.queueStore, false, .inr (.inl rfl), rfl, rfl⟩
      · exact ⟨.queueStore, true, .inr (.inl rfl), rfl, rfl⟩
    have hal' : (s.X b + imm.signExtend 64).toNat % (bytesOfNat p.2.1 p.2.2).length = 0 := by simpa using hal
    refine ⟨fun hsp => ?_, fun hsp => ?_, fun hsp => ?_⟩
    · rw [hexec, storeRes_lm hu hal' hsp]
      obtain ⟨hgo, hret, hlm⟩ := finishC_lmWrite hlone off (bytesOfNat p.2.1 p.2.2)
      exact ⟨_, rfl, hgo, hret, fun x => by rw [hlm]; exact Memory.read_setNum ..⟩
    · rw [hexec, storeRes_abuf hu hal' hsp]
      obtain ⟨hgo, hret, habuf, hzmap⟩ := finishC_abufWrite hlone off (bytesOfNat p.2.1 p.2.2) (fun z =>
        if vst && s.me.linkmap.getLsbD 8 then z.write (off / 16) (zeroMapByte (bytesOfNat p.2.1 p.2.2)) else z)
      refine ⟨_, rfl, hgo, hret, fun x => by rw [habuf]; exact Memory.read_setNum .., fun x => ?_⟩
      rw [hzmap, hvst]
      by_cases h16 : p.2.1 = 16
      · by_cases hl : s.me.linkmap.getLsbD 8 = true
        · simp only [h16, hl, decide_true, Bool.and_self, if_true, true_and, Memory.read_write, zeroMapByte_bytesOfNat]
        · simp only [Bool.eq_false_of_not_eq_true hl, Bool.and_false, Bool.false_eq_true, if_false, false_and, and_false]
      · simp only [h16, decide_false, Bool.false_and, Bool.false_eq_true, if_false, false_and]
    · rw [hexec, storeRes_cbuf hu hal' hsp]
      obtain ⟨hgo, hret, hbank⟩ := finishC_cWrite hlone (lt_of_spaceOf_cbuf hsp) (bytesOfNat p.2.1 p.2.2)
      exact ⟨_, rfl, hgo, hret, fun x => by rw [CoreSt.bankOf] at hbank; rw [hbank]; exact Memory.read_setNum ..⟩
  · have hexec : exec (.st4 a b near hi) s = .next (s.finishC (s.st4Res a b near hi)) := rfl
    have hone : ∀ (m m' : Memory) (o : Nat), m' = m.writeBytes o [putNibble hi ((s.X a).setWidth 4) (m.read o)] →
        (∀ x, x ≠ o → m'.read x = m.read x) ∧ m'.read o = (if hi then (s.X a).setWidth 4 ++ (m.read o).setWidth 4
          else (m.read o).extractLsb' 4 4 ++ (s.X a).setWidth 4) := by
      rintro m m' o rfl
      refine ⟨fun x hx => by rw [read_writeBytes_one, if_neg hx], ?_⟩
      rw [read_writeBytes_one, if_pos rfl, putNibble_eq]
    refine ⟨fun hsp => ?_, fun hsp => ?_, fun hsp => ?_⟩
    · rw [hexec, st4Res_lm hsp]
      obtain ⟨hgo, hret, hlm⟩ := finishC_lmWrite hlone off [putNibble hi ((s.X a).setWidth 4) (s.here.lm.read off)]
      exact ⟨_, rfl, hgo, hret, hone _ _ _ hlm⟩
    · rw [hexec, st4Res_abuf hsp]
      obtain ⟨hgo, hret, habuf, hzmap⟩ := finishC_abufWrite hlone off
        [putNibble hi ((s.X a).setWidth 4) (s.here.abuf.read off)] id
      exact ⟨_, rfl, hgo, hret, hone _ _ _ habuf, hzmap⟩
    · rw [hexec, st4Res_cbuf hsp]
      obtain ⟨hgo, hret, hbank⟩ := finishC_cWrite hlone (lt_of_spaceOf_cbuf hsp)
        [putNibble hi ((s.X a).setWidth 4) ((s.here.bankOf off).read (off % 0x4000))]
      exact ⟨_, rfl, hgo, hret, hone _ _ _ hbank⟩

end Sys2Proof.Proofs
end

section
/-!
SUPPORT. What CheckMem refuses, in the order of Table 14.1, and the instructions that begin with it.
-/
namespace Sys2Proof.Machine

/-! ### What CheckMem refuses -/

section
variable {s : State} {a : Word} {size : Nat} {u : Use} {sp : Space}

theorem checkMem_outside (htx : s.me.txn = none) (hsp : spaceOf s.pkg a = .outside) :
    s.checkMem a size u = .error (s.stopWith .access a) := by
  simp [State.checkMem, htx, hsp]

/-- A package outside the domain is outside what a remote address reaches (R109). -/
theorem remoteOk_of_not_inDomain {c : Nat} {r : RemoteAddr} {raiseOk : Bool} (h : s.inDomain r.place.pkg = false) :
    s.remoteOk c a r raiseOk = false := by
  simp [State.remoteOk, h]

theorem checkMem_out_of_domain {r : RemoteAddr} (htx : s.me.txn = none) (hsp : spaceOf s.pkg a = .remote r)
    (h : s.inDomain r.place.pkg = false) : s.checkMem a size u = .error (s.stopWith .access a) := by
  simp [State.checkMem, htx, hsp, remoteOk_of_not_inDomain h]

/-- The core's own address spaces, which have no check before the alignment's. -/
def Space.ownCore : Space → Bool
  | .lm _ | .wbuf _ | .abuf _ | .cbuf _ => true
  | _ => false

theorem checkMem_misaligned (htx : s.me.txn = none) (hsp : spaceOf s.pkg a = sp) (ho : sp.ownCore = true)
    (h : a.toNat % size ≠ 0) : s.checkMem a size u = .error (s.stopWith .align a) := by
  cases sp with
  | lm _ | wbuf _ | abuf _ | cbuf _ => simp [State.checkMem, htx, hsp, h]
  | _ => cases ho

theorem checkMem_not_admitted (htx : s.me.txn = none) (hsp : spaceOf s.pkg a = sp) (ho : sp.ownCore = true)
    (hal : a.toNat % size = 0) (h : u.admits s.cur.2 sp = false) : s.checkMem a size u = .error (s.stopWith .space a) := by
  cases sp with
  | lm _ | wbuf _ | abuf _ | cbuf _ => simp [State.checkMem, htx, hsp, hal, h]
  | _ => cases ho

end

/-! ### The instructions that begin with CheckMem -/

/-- An instruction that checks an access of a size at an address first, for a use, and stops with what the check says. -/
def State.ChecksFirst (s : State) (i : Instr) (a : Word) (size : Nat) (u : Use) : Prop :=
  ∃ r : Res, exec i s = .next (s.finishC r) ∧ ∀ e, s.checkMem a size u = .error e → r = .error e

section
variable {s : State} {i : Instr} {a : Word} {size : Nat} {u : Use}

theorem loadRes_checksFirst {land : Landing} {acq : Option Scope} (h : exec i s = .next (s.finishC (s.loadRes a size land acq))) :
    s.ChecksFirst i a size .load :=
  ⟨_, h, fun e he => by simp [State.loadRes, he, bind, Except.bind]⟩

theorem storeRes_checksFirst {v : Nat} {vst : Bool}
    (h : exec i s = .next (s.finishC (s.storeRes a (bytesOfNat size v) u vst))) : s.ChecksFirst i a size u :=
  ⟨_, h, fun e he => by simp [State.storeRes, he, bind, Except.bind]⟩

theorem st4_checksFirst (d b : Reg) (near : BitVec 10) (hi : Bool) :
    s.ChecksFirst (.st4 d b near hi) (s.X b + near.signExtend 64) 1 .nibble :=
  ⟨_, rfl, fun e (he : s.checkMem (s.effAddr b near) 1 .nibble = .error e) => by simp [State.st4Res, he, bind, Except.bind]⟩

theorem stl_checksFirst (dbl : Bool) (sc : Scope) (d b : Reg) :
    s.ChecksFirst (.stl dbl sc d b) (s.X b) (if dbl then 8 else 4) .store :=
  ⟨_, rfl, fun e he => by simp [State.stlRes, he, bind, Except.bind]⟩

theorem amoRes_checksFirst {dbl ar signed : Bool} {op : RemoteOp} {d : Reg}
    (h : exec i s = .next (s.finishC (s.amoRes a dbl ar op d signed))) : s.ChecksFirst i a (if dbl then 8 else 4) .atomic :=
  ⟨_, h, fun e he => by simp [State.amoRes, he, bind, Except.bind]⟩

theorem tred_checksFirst (vec : Bool) (rop : RedOp) (ty : LaneType) (b c : Reg) :
    s.ChecksFirst (.tred vec rop ty b c) (s.X b) (if vec then 16 else laneWidth ty / 8) .atomic :=
  ⟨_, rfl, fun e he => by simp [State.tredRes, he, bind, Except.bind]⟩

/-- Where its check stops, with a trap vector and outside a transaction, the trap is taken. -/
theorem State.ChecksFirst.trap {cause : Cause} {v : Word} (h : s.ChecksFirst i a size u) (htx : s.me.txn = none)
    (htv : s.here.tvec ≠ 0) (he : s.checkMem a size u = .error (s.stopWith cause v)) :
    ∃ t : State, exec i s = .next t ∧ TrapTaken s t cause v s.me.bundle.here s.here.tvec := by
  obtain ⟨r, hr, hstop⟩ := h
  refine ⟨_, hr, ?_⟩
  rw [hstop _ he]
  exact finishC_trap htx htv

end

end Sys2Proof.Machine
end

section
/-!
CERTIFICATE. O20: ACCESS, ALIGN and SPACE of every access of the LSU, in order.
-/
namespace Sys2Proof.Proofs

open Sys2Proof.Machine

/-- Settles O20: every form of the LSU checks its access first, and CheckMem stops in the order of Table 14.1. -/
theorem memoryAccessTraps : Obligations.MemoryAccessTraps := by
  unfold Obligations.MemoryAccessTraps
  intro s d b c imm near hi dbl ar vec sc op rop ty _ htx htv _
  extract_lets at_ size atomics traps
  have hatomic : ∀ p ∈ atomics, s.ChecksFirst p.1 p.2.1 p.2.2 .atomic := by
    intro p hp
    simp only [atomics, List.mem_cons, List.not_mem_nil, or_false] at hp
    rcases hp with rfl | rfl | rfl
    · exact amoRes_checksFirst rfl
    · exact amoRes_checksFirst rfl
    · exact tred_checksFirst ..
  constructor
  · intro p hp
    obtain ⟨u, hu⟩ : ∃ u, s.ChecksFirst p.1 p.2.1 p.2.2 u := by
      rw [List.mem_append] at hp
      rcases hp with hp | hp
      · simp only [List.mem_cons, List.not_mem_nil, or_false] at hp
        rcases hp with rfl | rfl | rfl | rfl | rfl | rfl | rfl | rfl | rfl | rfl | rfl | rfl | rfl | rfl | rfl | rfl
        iterate 8 exact ⟨_, loadRes_checksFirst rfl⟩
        iterate 5 exact ⟨_, storeRes_checksFirst rfl⟩
        · exact ⟨_, st4_checksFirst ..⟩
        · exact ⟨_, loadRes_checksFirst rfl⟩
        · exact ⟨_, stl_checksFirst ..⟩
      · exact ⟨_, hatomic p hp⟩
    refine ⟨fun hsp => ?_, fun r hsp hdom => ?_, fun off hsp hal => ?_, fun off hsp hal => ?_⟩
    · exact hu.trap htx htv (checkMem_outside htx hsp)
    · exact hu.trap htx htv (checkMem_out_of_domain htx hsp hdom)
    · rcases hsp with hsp | hsp
      · exact hu.trap htx htv (checkMem_misaligned htx hsp rfl hal)
      · exact hu.trap htx htv (checkMem_misaligned htx hsp rfl hal)
    · exact hu.trap htx htv (checkMem_not_admitted htx hsp rfl hal rfl)
  · intro p hp off hsp hal
    rcases hsp with hsp | hsp
    · exact (hatomic p hp).trap htx htv (checkMem_not_admitted htx hsp rfl hal rfl)
    · exact (hatomic p hp).trap htx htv (checkMem_not_admitted htx hsp rfl hal rfl)

end Sys2Proof.Proofs
end

section
/-!
SUPPORT. The ends of blocking waits: what a bundle leaves that retires when its wait ends, and CHRD's pop.
-/
namespace Sys2Proof.Machine

/-! ### A bundle that retires when its wait ends -/

/-- The slot's bundle pops no link port and no stream, and has kept no A-word's effects (R52, R67, R68). -/
structure Slot.Quiet (t : Slot) : Prop where
  stash : t.bundle.stash = none
  ports : t.bundle.popPorts = []
  streams : t.bundle.popStreams = []

theorem Slot.Quiet.of_bundle {t u : Slot} (h : t.Quiet) (hb : u.bundle = t.bundle) : u.Quiet :=
  ⟨by rw [hb, h.stash], by rw [hb, h.ports], by rw [hb, h.streams]⟩

@[simp] theorem slot_modCore (s : State) (c i : Nat) (f : CoreSt → CoreSt) : (s.modCore c f).slot c i = (f (s.core c)).slot i :=
  congrArg (fun k : CoreSt => k.slot i) (core_setCore_self s c (f (s.core c)))

@[simp] theorem slot_actAs (s : State) (c i d j : Nat) : (s.actAs c i).slot d j = s.slot d j := rfl
@[simp] theorem core_actAs (s : State) (c i d : Nat) : (s.actAs c i).core d = s.core d := rfl

section
variable {s : State} {c i : Nat}

theorem retire_quiet (h : (s.slot c i).Quiet) : s.retire c i none = s.setSlot c i ((s.slot c i).finished s.cycle) := by
  unfold State.retire
  rw [applyPops_none h.ports h.streams]
  simp [h.stash, modSlot_eq, Slot.finished]

/-- The same after the bundle's C-word has written an x register. -/
theorem retire_setX_quiet (hcur : s.cur = (c, i)) (h : (s.slot c i).Quiet) {d : Reg} (hd : (s.slot c i).writesInto (.x d))
    (v : Word) : (s.setX d v).retire c i none = s.setSlot c i
      (((s.slot c i).place c s.cycle { reg := .x d, val := v.setWidth 128, latency := 1 }).finished s.cycle) := by
  have hact : s.actAs c i = s := by
    show { s with cur := (c, i) } = s
    rw [← hcur]
  have := retire_setX v h.stash h.ports h.streams hd
  rwa [hact] at this

/-- A slot whose bundle has retired waits for nothing, stands at the next bundle, and has counted it. -/
theorem ended_finished {t u : Slot} (hl : t.loop = u.loop) (hb : t.bundle = u.bundle) (hr : t.retired = u.retired)
    (now : Nat) : (t.finished now).wait = .none ∧ (t.finished now).pc = u.advance.pc ∧
      (t.finished now).retired = u.retired + 1 :=
  ⟨wait_finished .., pc_finished now hl hb, by rw [retired_finished, hr]⟩

/-- The same of a slot whose C-word wrote a register as it ended. -/
theorem ended_place (u : Slot) (now : Nat) (w : RegWrite) : ((u.place c now w).finished now).wait = .none ∧
    ((u.place c now w).finished now).pc = u.advance.pc ∧ ((u.place c now w).finished now).retired = u.retired + 1 := by
  obtain ⟨hb, -, hr, -, -, hl⟩ := writeReg_system u c now w
  exact ended_finished hl hb hr now

/-! ### SWWAIT -/

@[simp] theorem dropL1_slot (sc : Scope) : (s.dropL1 c sc).slot c i = s.slot c i := by
  unfold State.dropL1
  split
  · exact slot_modCore ..
  · rfl

theorem acquireAt_frame (sc : Scope) : (s.acquireAt c i sc).slot c i = s.slot c i ∧ (s.acquireAt c i sc).cur = s.cur ∧
    (s.acquireAt c i sc).cycle = s.cycle ∧ (s.acquireAt c i sc).mem = s.mem ∧ (s.acquireAt c i sc).net = s.net := by
  unfold State.acquireAt
  split
  · exact ⟨rfl, rfl, rfl, rfl, rfl⟩
  · refine ⟨dropL1_slot .., ?_⟩
    unfold State.dropL1
    split <;> exact ⟨rfl, rfl, rfl, rfl⟩

theorem num4_lt (m : Memory) (a : Nat) : m.num a 4 < 2 ^ 32 := Memory.num_lt m a 4

theorem generationLm_eq_iff (m : Memory) (o : Nat) (g : BitVec 32) : generationLm m o = g ↔ m.num (o + 8) 4 = g.toNat := by
  have h := num4_lt m (o + 8)
  rw [generationLm, ← BitVec.toNat_inj, BitVec.toNat_ofNat, Nat.mod_eq_of_lt h]

theorem zext_generationLm (m : Memory) (o : Nat) : zext (generationLm m o) = BitVec.ofNat 64 (m.num (o + 8) 4) := by
  have h := num4_lt m (o + 8)
  apply BitVec.eq_of_toNat_eq
  simp only [zext, generationLm, BitVec.toNat_setWidth, BitVec.toNat_ofNat]
  omega

/-- SWWAIT's slot goes on with the new generation (R116). -/
theorem swwaitEnd_moved {a : Reg} {off : Nat} {g : BitVec 32} (hrun : s.coreRuns c = true) (hq : (s.slot c i).Quiet)
    (hw : (s.slot c i).wait = .swwait a off g) (hd : (s.slot c i).writesInto (.x a)) (hbad : (s.core c).lmBad (off + 8) 4 = false)
    (hg : (s.core c).lm.num (off + 8) 4 ≠ g.toNat) :
    s.swwaitEnd c i = ((s.actAs c i).acquireAt c i .domain).setSlot c i (((s.slot c i).place c s.cycle
        { reg := .x a, val := (BitVec.ofNat 64 ((s.core c).lm.num (off + 8) 4)).setWidth 128, latency := 1 }).finished s.cycle) := by
  obtain ⟨hslot, hcur, hcyc, -⟩ := acquireAt_frame (s := s.actAs c i) (c := c) (i := i) .domain
  have hne : generationLm (s.core c).lm off ≠ g := fun h => hg ((generationLm_eq_iff ..).mp h)
  have hret := retire_setX_quiet (s := (s.actAs c i).acquireAt c i .domain) hcur (by rw [hslot]; exact hq)
    (by rw [hslot]; exact hd) (zext (generationLm (s.core c).lm off))
  rw [hslot, hcyc, zext_generationLm] at hret
  unfold State.swwaitEnd
  rw [hw]
  simp only [hne, hrun, hbad, Bool.true_eq_false, Bool.false_eq_true, or_self, if_false, zext_generationLm]
  exact hret

theorem swwaitEnd_still {a : Reg} {off : Nat} {g : BitVec 32} (hw : (s.slot c i).wait = .swwait a off g)
    (hg : (s.core c).lm.num (off + 8) 4 = g.toNat) : s.swwaitEnd c i = s := by
  simp only [State.swwaitEnd, hw, (generationLm_eq_iff ..).mpr hg, true_or, if_true]

/-! ### WAITEV -/

/-- A slot's mark of a seen event is taken away. -/
def CoreSt.unseen (k : CoreSt) (i : Nat) : CoreSt := { k with evSeen := k.evSeen.filter (· != i) }

theorem waitevEnd_returns {off : Nat} (hrun : s.coreRuns c = true) (hq : (s.slot c i).Quiet)
    (hw : (s.slot c i).wait = .waitev off) (h : (s.core c).lm.word off ≠ 0 ∨ (s.core c).evSeen.contains i = true) :
    s.waitevEnd c i = ((s.actAs c i).modCore c (fun k => k.unseen i)).setSlot c i ((s.slot c i).finished s.cycle) := by
  have hgo : ¬(((s.core c).lm.word off = 0 ∧ (s.core c).evSeen.contains i = false) ∨ s.coreRuns c = false) := by
    generalize (s.core c).lm.word off = word at h ⊢
    simpa [hrun, or_iff_not_imp_left] using h
  have hslot : ((s.actAs c i).modCore c (fun k => k.unseen i)).slot c i = s.slot c i := slot_modCore ..
  have hret := retire_quiet (s := (s.actAs c i).modCore c (fun k => k.unseen i)) (by rw [hslot]; exact hq)
  rw [hslot] at hret
  unfold State.waitevEnd
  rw [hw]
  exact (if_neg hgo).trans hret

theorem waitevEnd_still {off : Nat} (hw : (s.slot c i).wait = .waitev off) (h0 : (s.core c).lm.word off = 0)
    (hs : (s.core c).evSeen.contains i = false) : s.waitevEnd c i = s := by
  unfold State.waitevEnd
  rw [hw]
  exact if_pos (.inl ⟨h0, hs⟩)

/-- A write that leaves the doubleword of a slot in WAITEV other than 0 is seen (R398). -/
theorem evSeen_seeEvents {k : CoreSt} {off : Nat} (hi : i < 4) (hw : (k.slot i).wait = .waitev off) :
    k.seeEvents.evSeen.contains i = (k.evSeen.contains i || k.lm.word off != 0) := by
  generalize hword : k.lm.word off = word
  have hiff : i ∈ k.seeEvents.evSeen ↔ i ∈ k.evSeen ∨ word ≠ 0 := by
    simp only [CoreSt.seeEvents, List.mem_append, List.mem_filter, List.mem_range, hi, hw, hword, true_and, Bool.and_eq_true,
      Bool.not_eq_true', List.contains_eq_mem, decide_eq_false_iff_not, bne_iff_ne]
    clear hw hword
    tauto
  rw [Bool.eq_iff_iff]
  simpa [List.contains_eq_mem] using hiff

/-! ### Stalled bundles -/

theorem stallEnd_mwait {n : Nat} (hrun : s.coreRuns c = true) (hq : (s.slot c i).Quiet) (hw : (s.slot c i).wait = .mwait n)
    (hd : (s.core c).doneUpTo n = true) : s.stallEnd c i = (s.actAs c i).setSlot c i ((s.slot c i).finished s.cycle) := by
  have hret := retire_quiet (s := s.actAs c i) (c := c) (i := i) hq
  simp only [State.stallEnd, hrun, hw, hd, Bool.not_true, Bool.false_eq_true, if_false, if_true, State.completeWait]
  exact hret

/-- A stalled bundle's word is executed anew. -/
theorem stallEnd_resumes {h : Header} {w : Instr} (hrun : s.coreRuns c = true)
    (hw : (s.slot c i).wait = .stall ∨ (∃ q, (s.slot c i).wait = .full q) ∨ (s.slot c i).wait = .leaving)
    (hdec : decodeWord (s.slot c i).bundle.word = .ok (h, w)) :
    s.stallEnd c i = { s with cur := (c, i), agenda := w :: s.agenda } := by
  have hres : s.resume c i = { s with cur := (c, i), agenda := w :: s.agenda } := by simp only [State.resume, hdec, State.actAs]
  rcases hw with hw | ⟨q, hw⟩ | hw
  all_goals simp only [State.stallEnd, hrun, hw, Bool.not_true, Bool.false_eq_true, if_false, hres]

/-! ### A remote barrier's wake answer -/

/-- The wait of a BAR on a remote sync word ends with the wake answer of its generation (R291). -/
theorem woken_barrier {k sw : Nat} {m : Msg} {g : BitVec 32} {sc : Scope} {r : RemoteAddr} (hrun : s.coreRuns c = true)
    (hq : (s.slot c i).Quiet) (hord : s.inOrder k m = true) (ht : s.takerOf m = some c)
    (hw : (s.slot c i).wait = .barrier sc) (hsp : spaceOf s.pkg (s.slot c i).barAddr = .remote r) (hp : r.place = m.src)
    (ho : r.off = sw) (hbw : (s.slot c i).barWait = true) (hbg : (s.slot c i).barGen = g) :
    ∃ t : State, s.woken k m i sw g = t.setSlot c i
      (Slot.finished { s.slot c i with barWait := false, barWoken := none } s.cycle) ∧ t.net = s.net.eraseIdx k := by
  let u := ((s.dropMsg k).actAs c i).setSlot c i { s.slot c i with barWait := false, barWoken := none }
  have hmod : (((s.dropMsg k).actAs c i).modSlot c i (fun t => { t with barWoken := some g })).modMe
      (fun t => { t with barWait := false, barWoken := none }) = u := by
    show (State.setSlot _ c i _).setSlot c i { State.slot (State.setSlot _ c i _) c i with barWait := false, barWoken := none } = u
    rw [slot_setSlot_self, setSlot_setSlot]
    rfl
  have hu : u.slot c i = { s.slot c i with barWait := false, barWoken := none } := slot_setSlot_self ..
  obtain ⟨hslot, -, hcyc, -, hnet⟩ := acquireAt_frame (s := u) (c := c) (i := i) sc
  refine ⟨u.acquireAt c i sc, ?_, hnet⟩
  have hret := retire_quiet (s := u.acquireAt c i sc) (c := c) (i := i) (by rw [hslot, hu]; exact hq.of_bundle rfl)
  rw [hslot, hu, hcyc] at hret
  have hrun' : (((s.dropMsg k).actAs c i).modSlot c i (fun t => { t with barWoken := some g })).coreRuns c = true := by
    rw [← hrun]
    simp only [State.coreRuns, CoreSt.works, State.launchOf, modSlot_eq, core_setSlot]
    rfl
  have hwoken : s.woken k m i sw g = (u.acquire sc).completeWait c i := by
    simp only [State.woken, hord, ht, hw, hsp, hp, ho, hbw, hbg, Bool.not_true, Bool.false_eq_true, if_false, beq_self_eq_true,
      Bool.and_self, Bool.or_true, Bool.or_false, hrun', if_true, State.barDone, hmod]
  exact hwoken.trans hret

end

end Sys2Proof.Machine
end
section
/-!
SUPPORT. CHRD: its pop of a word, its wait behind other slots, and the slot that the next word wakes.
-/
namespace Sys2Proof.Machine

/-- The slot after a pop: a claim on the channel has one word less, and the watchdog counts anew (R31, R213). -/
def Slot.afterPop (t : Slot) (ch : Nat) : Slot :=
  { t with claim := if t.chan = ch then t.claim - 1 else t.claim, watch := 0, wdogFired := false }

/-- The core after a slot's pop: the rest of the channel's words stays. -/
def CoreSt.afterPop (k : CoreSt) (i ch : Nat) (r : List FifoWord) : CoreSt :=
  { k with fifos := put k.fifos ch r }.setSlot i ((k.slot i).afterPop ch)

section
variable {k : CoreSt} {i ch n : Nat} {w : Word} {r : List FifoWord}

@[simp] theorem listOf_put_self {α : Type} (l : List (Nat × List α)) (n : Nat) (x : List α) : listOf (put l n x) n = x := by
  simp [listOf]

theorem listOf_put_ne {α : Type} (l : List (Nat × List α)) {n m : Nat} (x : List α) (h : n ≠ m) :
    listOf (put l n x) m = listOf l m := by
  simp [listOf, find_put_ne l x h]

/-- The oldest word leaves its channel (R31). -/
theorem pop_eq (ho : k.oasis = []) (hcon : k.containedAt (k.slot i).chan = false)
    (hf : listOf k.fifos ch = ⟨⟨w, false⟩, n, none⟩ :: r) : k.pop i ch = (k.afterPop i ch r, some ⟨⟨w, false⟩, n, none⟩) := by
  have hslot : (if k.claims i ch then { k.slot i with claim := (k.slot i).claim - 1 } else k.slot i).progress =
      (k.slot i).afterPop ch := by
    by_cases hc : (k.slot i).chan = ch
    · rcases Nat.eq_zero_or_pos (k.slot i).claim with h0 | h0
      · simp [CoreSt.claims, Slot.afterPop, Slot.progress, hc, h0]
      · simp [CoreSt.claims, Slot.afterPop, Slot.progress, hc, h0]
    · simp [CoreSt.claims, Slot.afterPop, Slot.progress, hc]
  have hchan : (if k.claims i ch then { k.slot i with claim := (k.slot i).claim - 1 } else k.slot i).chan = (k.slot i).chan := by
    split <;> rfl
  have hsettle : (k.afterPop i ch r).settle = k.afterPop i ch r := by
    have ho' : (k.afterPop i ch r).oasis = [] := ho
    rw [CoreSt.settle, ho']
    rfl
  simp only [CoreSt.pop, hf, List.findIdx?_cons, Option.isNone_none, if_true, hslot, hchan, hcon, Bool.false_eq_true, if_false,
    List.eraseIdx_cons_zero, List.getElem?_cons_zero]
  exact congrArg (·, _) hsettle

theorem words_pos (hf : listOf k.fifos ch = ⟨⟨w, false⟩, n, none⟩ :: r) : 0 < (k.words ch).length := by
  simp [CoreSt.words, hf]

theorem claims_iff : k.claims i ch = true ↔ (k.slot i).chan = ch ∧ 0 < (k.slot i).claim := by simp [CoreSt.claims]

theorem canPop_iff : k.canPop i ch = true ↔
    0 < (k.words ch).length ∧ (k.claims i ch = true ∨ k.otherClaims i ch < (k.words ch).length) := by
  simp [CoreSt.canPop]

/-- Some slot has blocked on a channel (R33). -/
theorem any_waits_iff (l : List (Nat × Nat)) : l.any (fun p => p.2 == ch) = true ↔ ¬∀ p ∈ l, p.2 ≠ ch := by simp

/-- The first slot that blocked on a channel, of those that may pop, is the one that its next word goes to (R33). -/
theorem nextReader_eq {pre post : List (Nat × Nat)} (hw : k.chrdWaiters = pre ++ (i, ch) :: post)
    (hpre : ∀ p ∈ pre, p.2 ≠ ch ∨ k.canPop p.1 ch = false) (hcan : k.canPop i ch = true) : k.nextReader ch = some i := by
  have hnone : pre.find? (fun p => p.2 == ch && k.canPop p.1 ch) = none := by
    rw [List.find?_eq_none]
    intro p hp
    rcases hpre p hp with h | h <;> simp [h]
  simp [CoreSt.nextReader, hw, List.find?_append, hnone, hcan]

end

theorem modSlot_modCore (s : State) (c i : Nat) (f : CoreSt → CoreSt) (g : Slot → Slot) : (s.modCore c f).modSlot c i g =
    s.setCore c ((f (s.core c)).setSlot i (g ((f (s.core c)).slot i))) := by
  simp [State.modSlot, State.setSlot, State.modCore, State.slot]

section
variable {s : State} {c i ch n : Nat} {d : Reg} {w : Word} {r : List FifoWord}

/-- The slot after a CHRD that has popped a word: the word is in its register. -/
def Slot.readChannel (t : Slot) (c now ch : Nat) (d : Reg) (w : Word) : Slot :=
  (t.afterPop ch).place c now { reg := .x d, val := w.setWidth 128, latency := 1 }

theorem readChannel_shape (t : Slot) (c now ch : Nat) (d : Reg) (w : Word) : ∃ x v p px pv,
    t.readChannel c now ch d w = { t.afterPop ch with x := x, v := v, pend := p, poisonX := px, poisonV := pv } := place_shape ..

theorem settled_readChannel_self (t : Slot) (now : Nat) : (t.readChannel c now ch d w).settled (.x d) = xValue d w :=
  settled_place_x ..

theorem settled_readChannel_ne (t : Slot) (now : Nat) {q : RegName} (h : q ≠ .x d) :
    (t.readChannel c now ch d w).settled q = t.settled q :=
  (settled_place_ne _ _ _ _ (Ne.symm h)).trans (settled_congr (t := t.afterPop ch) (u := t) rfl rfl rfl q)

/-- The state after a CHRD that has popped a word. -/
def State.afterPop (s : State) (c i ch : Nat) (d : Reg) (w : Word) (r : List FifoWord) : State :=
  (s.setCore c ((s.core c).afterPop i ch r)).setSlot c i (((s.slot c i).readChannel c s.cycle ch d w).finished s.cycle)

@[simp] theorem slot_afterPop : (s.afterPop c i ch d w r).slot c i =
    ((s.slot c i).readChannel c s.cycle ch d w).finished s.cycle := slot_setSlot_self ..

theorem core_afterPop : (s.afterPop c i ch d w r).core c =
    ({ s.core c with fifos := put (s.core c).fifos ch r } : CoreSt).setSlot i
      (((s.slot c i).readChannel c s.cycle ch d w).finished s.cycle) := by
  rw [State.afterPop, core_setSlot, core_setCore_self, CoreSt.afterPop, core_setSlot_setSlot]

/-- A CHRD that pops leaves the word in its register, its channel without the word, and goes on (R301). -/
theorem finishC_popRes (hcur : s.cur = (c, i)) (hq : (s.slot c i).Quiet) (hcon : s.contained c i = false)
    (ho : (s.core c).oasis = []) (hf : listOf (s.core c).fifos ch = ⟨⟨w, false⟩, n, none⟩ :: r)
    (hd : (s.slot c i).writesInto (.x d)) :
    s.finishC (s.popRes d ch) = s.afterPop c i ch d w r := by
  have hpop := pop_eq (i := i) ho hcon hf
  have hres : s.popRes d ch = go ((s.setCore c ((s.core c).afterPop i ch r)).setX d w) := by
    simp only [State.popRes, hcur, hpop, Bool.false_eq_true, if_false]
  have hslot : (s.setCore c ((s.core c).afterPop i ch r)).slot c i = (s.slot c i).afterPop ch := by
    simp [State.slot, CoreSt.afterPop]
  have hme : s.me = s.slot c i := by rw [State.me, hcur]
  have hret := retire_setX_quiet (s := s.setCore c ((s.core c).afterPop i ch r)) hcur (by rw [hslot]; exact hq.of_bundle rfl)
    (d := d) (by rw [hslot]; exact hd) w
  rw [hres, finishC_go_of_stash (by rw [hme]; exact hq.stash), hcur, hret, hslot]
  rfl

theorem goesOn_finished {s t : State} {u : Slot} {now : Nat} (ht : t.me = u.finished now) (hl : u.loop = s.me.loop)
    (hb : u.bundle = s.me.bundle) : GoesOn s t := by
  obtain ⟨f, g, n, h⟩ := retireCount_shape u now
  rw [GoesOn, ht]
  exact advance_congr (by rw [h]; exact hl) (by rw [h]; exact congrArg _ hb) (by rw [h]; exact congrArg _ hb)

theorem chrd_pops (htx : s.me.txn = none) (hcan : s.here.canPop s.cur.2 ch = true) {ch6 : BitVec 6} (hch : ch6.toNat = ch)
    (hfirst : s.here.claims s.cur.2 ch = true ∨ ∀ p ∈ s.here.chrdWaiters, p.2 ≠ ch) : s.chrdRes d ch6 = s.popRes d ch := by
  have hbehind : (s.here.chrdWaiters.any (fun p => p.2 == ch) && !s.here.claims s.cur.2 ch) = false := by
    rw [Bool.eq_false_iff]
    intro h
    rw [Bool.and_eq_true, any_waits_iff, Bool.not_eq_true'] at h
    rcases hfirst with hc | hw
    · rw [hc] at h; cases h.2
    · exact h.1 hw
  have hcan' : (s.core s.cur.1).canPop s.cur.2 ch = true := hcan
  have hbehind' : ((s.core s.cur.1).chrdWaiters.any (fun p => p.2 == ch) && !(s.core s.cur.1).claims s.cur.2 ch) = false := hbehind
  simp only [State.chrdRes, noTxn_ok htx, bind, Except.bind, hch, hcan', hbehind', Bool.not_false, Bool.and_self, if_true]

/-- A CHRD with no word for it, or behind slots that blocked before it, blocks (R33). -/
theorem chrd_blocks (htx : s.me.txn = none) {ch6 : BitVec 6} (hch : ch6.toNat = ch)
    (h : s.here.canPop s.cur.2 ch = false ∨ (s.here.claims s.cur.2 ch = false ∧ ¬∀ p ∈ s.here.chrdWaiters, p.2 ≠ ch)) :
    s.chrdRes d ch6 = .error (.wait (s.modHere (fun k => { k with chrdWaiters := k.chrdWaiters ++ [(s.cur.2, ch)] })) (.chrd d ch)) := by
  have hno : ((s.core s.cur.1).canPop s.cur.2 ch && !((s.core s.cur.1).chrdWaiters.any (fun p => p.2 == ch) &&
      !(s.core s.cur.1).claims s.cur.2 ch)) = false := by
    rcases h with hc | ⟨hc, hw⟩
    · rw [show (s.core s.cur.1).canPop s.cur.2 ch = false from hc, Bool.false_and]
    · rw [show (s.core s.cur.1).claims s.cur.2 ch = false from hc,
        show (s.core s.cur.1).chrdWaiters.any (fun p => p.2 == ch) = true from (any_waits_iff _).mpr hw, Bool.not_false,
        Bool.and_self, Bool.not_true, Bool.and_false]
  simp only [State.chrdRes, noTxn_ok htx, bind, Except.bind, hch, hno, Bool.false_eq_true, if_false]
  rfl

/-- What makes a CHRD block: no word, or no claim and either slots that blocked before it or words that others claim. -/
theorem blocks_of {k : CoreSt} (h : listOf k.fifos ch = [] ∨ (¬((k.slot i).chan = ch ∧ 0 < (k.slot i).claim) ∧
    ((¬∀ p ∈ k.chrdWaiters, p.2 ≠ ch) ∨ (k.words ch).length ≤ k.otherClaims i ch))) :
    k.canPop i ch = false ∨ (k.claims i ch = false ∧ ¬∀ p ∈ k.chrdWaiters, p.2 ≠ ch) := by
  rcases h with hnil | ⟨hc, hw | hle⟩
  · left
    simp [CoreSt.canPop, CoreSt.words, hnil]
  · exact .inr ⟨Bool.eq_false_iff.mpr (fun h => hc (claims_iff.mp h)), hw⟩
  · left
    rw [Bool.eq_false_iff]
    intro h
    rcases (canPop_iff.mp h).2 with h | h
    · exact hc (claims_iff.mp h)
    · omega

/-- A woken CHRD has left the list of the slots that wait, and pops (R33). -/
theorem chrdEnd_next (hw : (s.slot c i).wait = .chrd d ch) (hrun : s.coreRuns c = true)
    (hnext : (s.core c).nextReader ch = some i) :
    s.chrdEnd c i = ((s.actAs c i).leaveWait c i).finishC (((s.actAs c i).leaveWait c i).popRes d ch) := by
  simp only [State.chrdEnd, hw, hnext, hrun, ne_eq, not_true_eq_false, Bool.true_eq_false, or_self, if_false]

/-- The core after a slot's CHRD has left its wait. -/
def CoreSt.afterChrdWait (k : CoreSt) (i : Nat) : CoreSt :=
  { k with chrdWaiters := k.chrdWaiters.filter (fun p => p.1 != i) }.setSlot i { k.slot i with wait := .none }

theorem leaveWait_chrd (hw : (s.slot c i).wait = .chrd d ch) : s.leaveWait c i =
    s.setCore c ((s.core c).afterChrdWait i) := by
  have hun : s.unissued c i = s := by
    unfold State.unissued
    split
    · next h _ => rw [hw] at h; cases h
    · rfl
  rw [State.leaveWait, hun, modSlot_modCore]
  rfl

end

end Sys2Proof.Machine
end

section
/-!
CERTIFICATE. O29: ends of SWWAIT, WAITEV, MWAIT, stalls, barriers and CHRD.
-/
namespace Sys2Proof.Proofs

open Sys2Proof.Machine

/-- Settles O29: each end is a retirement of the slot's bundle after its awaited effect, and CHRD's is its pop. -/
theorem endsOfWaits : Obligations.EndsOfWaits := by
  unfold Obligations.EndsOfWaits
  refine ⟨?waits, ?chrd, ?waiters, ?wakes⟩
  case waits =>
    intro s c i hi hrun hports hstreams hstash
    dsimp only
    have hq : (s.slot c i).Quiet := ⟨hstash, hports, hstreams⟩
    refine ⟨fun a off g hw hd hbad => ⟨fun hne => ?_, fun heq => ?_⟩, fun off hw => ⟨fun h => ?_, fun h0 hs => ?_, fun at_ bs => ?_⟩,
      fun n hw hdone => ?_, fun h w q hw hdec => ?_, fun k m sw g sc r hk hord hb ht hw hsp hp ho hbw hbg => ?_⟩
    · obtain ⟨-, -, -, hmem, hnet⟩ := acquireAt_frame (s := s.actAs c i) (c := c) (i := i) .domain
      refine ⟨_, congrArg Host.Outcome.next (swwaitEnd_moved hrun hq hw hd hbad hne), ?_, ?_⟩
      · rw [slot_setSlot_self]
        obtain ⟨hwait, hpc, hret⟩ := ended_place (c := c) (s.slot c i) s.cycle { reg := .x a, val := _, latency := 1 }
        exact ⟨hwait, hpc, hret, hmem, hnet⟩
      · rw [slot_setSlot_self, settled_finished, settled_place_x]
    · exact congrArg Host.Outcome.next (swwaitEnd_still hw heq)
    · refine ⟨_, congrArg Host.Outcome.next (waitevEnd_returns hrun hq hw h), ?_, ?_⟩
      · rw [slot_setSlot_self]
        obtain ⟨hwait, hpc, hret⟩ := ended_finished (t := s.slot c i) rfl rfl rfl s.cycle
        exact ⟨hwait, hpc, hret, rfl, rfl⟩
      · rw [core_setSlot, evSeen_setSlot, core_modCore_self, CoreSt.unseen]
        simp
    · exact congrArg Host.Outcome.next (waitevEnd_still hw h0 hs)
    · exact evSeen_seeEvents hi hw
    · refine ⟨_, congrArg Host.Outcome.next (stallEnd_mwait hrun hq hw hdone), ?_⟩
      rw [slot_setSlot_self]
      obtain ⟨hwait, hpc, hret⟩ := ended_finished (t := s.slot c i) rfl rfl rfl s.cycle
      exact ⟨hwait, hpc, hret, rfl, rfl⟩
    · exact congrArg Host.Outcome.next (stallEnd_resumes hrun (by
        rcases hw with hw | hw | hw
        · exact .inl hw
        · exact .inr (.inl ⟨q, hw⟩)
        · exact .inr (.inr hw)) hdec)
    · obtain ⟨t, ht, hnet⟩ := woken_barrier hrun hq hord ht hw hsp hp ho hbw hbg
      have hexec : exec (.wakeAnswer k) s = .next (s.woken k m i sw g) := by
        show Host.Outcome.next _ = _
        simp only [hk, hb]
      refine ⟨_, hexec.trans (congrArg Host.Outcome.next ht), ?_⟩
      obtain ⟨l, pc, f, g', n, hfin⟩ := finished_shape { s.slot c i with barWait := false, barWoken := none } s.cycle
      rw [slot_setSlot_self, hfin]
      exact ⟨rfl, rfl, rfl, hnet⟩
  case chrd =>
    intro s d ch hlone htx hcon ho
    have hq : (s.slot s.cur.1 s.cur.2).Quiet := ⟨hlone.stash, hlone.ports, hlone.streams⟩
    have hclaims : s.here.claims s.cur.2 ch.toNat = true ↔ s.me.chan = ch.toNat ∧ 0 < s.me.claim := claims_iff
    refine ⟨fun w n r hf hd hfirst => ?_, fun h => ?_⟩
    · have hpos := words_pos (k := s.here) hf
      have hcan : s.here.canPop s.cur.2 ch.toNat = true := by
        refine canPop_iff.mpr ⟨hpos, ?_⟩
        rcases hfirst with hc | ⟨-, h0⟩
        · exact .inl (hclaims.mpr hc)
        · exact .inr (by omega)
      have hres := chrd_pops (d := d) htx hcan rfl (hfirst.imp hclaims.mpr And.left)
      have hfin := finishC_popRes rfl hq hcon ho hf hd
      obtain ⟨x, v, p, px, pv, hread⟩ := readChannel_shape s.me s.cur.1 s.cycle ch.toNat d w
      obtain ⟨l, pc, f, g, m, hend⟩ := finished_shape (s.me.readChannel s.cur.1 s.cycle ch.toNat d w) s.cycle
      have hme : (s.afterPop s.cur.1 s.cur.2 ch.toNat d w r).me =
        (s.me.readChannel s.cur.1 s.cycle ch.toNat d w).finished s.cycle := slot_afterPop
      have hhere : (s.afterPop s.cur.1 s.cur.2 ch.toNat d w r).here = _ := core_afterPop
      refine ⟨s.afterPop s.cur.1 s.cur.2 ch.toNat d w r, ?_, goesOn_finished hme ?_ ?_, ?_, ?_, fun c hc => ?_, ?_, ?_, fun q hq => ?_,
        rfl, ?_⟩
      · show Host.Outcome.next (s.finishC (s.chrdRes d ch)) = _
        rw [hres, hfin]
      · rw [hread]; rfl
      · rw [hread]; rfl
      · rw [hme, settled_finished, settled_readChannel_self]
      · rw [hhere]; exact listOf_put_self ..
      · rw [hhere]; exact listOf_put_ne _ _ (Ne.symm hc)
      · rw [hme, hend, hread]; rfl
      · rw [hme, hend, hread]; rfl
      · rw [hme, settled_finished, settled_readChannel_ne _ _ hq]
      · rw [hhere]; rfl
    · have hres := chrd_blocks (d := d) htx rfl (blocks_of h)
      have hfin := (finishC_wait hlone _ (.chrd d ch.toNat)).trans
        (modSlot_modCore s s.cur.1 s.cur.2 (fun k => { k with chrdWaiters := k.chrdWaiters ++ [(s.cur.2, ch.toNat)] }) _)
      refine ⟨_, congrArg Host.Outcome.next ((congrArg s.finishC hres).trans hfin), ?_⟩
      simp only [State.me, State.here, State.slot, cur_setCore, core_setCore_self, slot_core_setSlot]
      exact ⟨trivial, rfl, rfl, rfl⟩
  case waiters =>
    intro s c i ch pre post hw hpre hwords hother
    have hcan : (s.core c).canPop i ch = true :=
      canPop_iff.mpr ⟨List.length_pos_iff.mpr hwords, .inr (by rw [hother]; exact List.length_pos_iff.mpr hwords)⟩
    have hnext := nextReader_eq hw hpre hcan
    refine ⟨hnext, fun j d hj hwait => ?_⟩
    show Host.Outcome.next (s.chrdEnd c j) = _
    simp [State.chrdEnd, hwait, hnext, Ne.symm hj]
  case wakes =>
    intro s c i ch n d w r hw _ hrun hcon ho hnext hf hports hstreams hstash hd
    have hq : (s.slot c i).Quiet := ⟨hstash, hports, hstreams⟩
    have hleft := leaveWait_chrd (s := s.actAs c i) hw
    generalize hu : (s.actAs c i).leaveWait c i = u at hleft
    have hcore : u.core c = (s.core c).afterChrdWait i := by rw [hleft, core_setCore_self]; rfl
    have hslot : u.slot c i = { s.slot c i with wait := .none } := by
      rw [State.slot, hcore, CoreSt.afterChrdWait, slot_core_setSlot]
      rfl
    have hfin := finishC_popRes (s := u) (c := c) (i := i) (ch := ch) (d := d) (w := w) (r := r) (by rw [hleft]; rfl)
      (by rw [hslot]; exact hq.of_bundle rfl) (by rw [State.contained, hcore, hslot]; exact hcon) (by rw [hcore]; exact ho)
      (by rw [hcore]; exact hf) (by rw [hslot]; exact hd)
    obtain ⟨x, v, p, px, pv, hread⟩ := readChannel_shape (u.slot c i) c u.cycle ch d w
    refine ⟨u.afterPop c i ch d w r, ?_, ?_, ?_, ?_, ?_⟩
    · show Host.Outcome.next (s.chrdEnd c i) = _
      rw [chrdEnd_next hw hrun hnext, hu, hfin]
    · rw [slot_afterPop, wait_finished]
    · rw [core_afterPop]; exact listOf_put_self ..
    · rw [slot_afterPop, settled_finished, settled_readChannel_self]
    · rw [core_afterPop, hcore]
      simp [CoreSt.afterChrdWait, CoreSt.setSlot]

end Sys2Proof.Proofs
end

section
/-!
SUPPORT. A part in which no write is buffered and no transaction is open: what drains, aborts and translated accesses are there.
-/
namespace Sys2Proof.Machine

theorem mem_of_find {α : Type} {l : List (Nat × α)} {n : Nat} {x : α} (h : find l n = some x) : (n, x) ∈ l := by
  induction l with
  | nil => cases h
  | cons p r ih =>
    obtain ⟨k, v⟩ := p
    simp only [find] at h
    split at h
    · next hk =>
      cases h
      exact hk ▸ List.mem_cons_self ..
    · exact List.mem_cons_of_mem _ (ih h)

section
variable {s : State} {c asid : Nat}

/-- A core is one of those listed, or idle. -/
theorem core_listed_or_idle (s : State) (c : Nat) : (c, s.core c) ∈ s.cores ∨ s.core c = idleCore c := by
  rw [State.core]
  cases h : find s.cores c with
  | none => exact .inr rfl
  | some k => exact .inl (mem_of_find h)

theorem wb_core_nil (h : ∀ p ∈ s.cores, p.2.wb = []) (c : Nat) : (s.core c).wb = [] := by
  rcases core_listed_or_idle s c with hc | hc
  · exact h _ hc
  · rw [hc]; rfl

theorem slot_idleCore (c i : Nat) : (idleCore c).slot i = idleSlot := by
  simp [idleCore, CoreSt.slot]

theorem txn_slot_none (h : s.txns = []) (c i : Nat) : (s.slot c i).txn = none := by
  rw [State.slot, slot_mod]
  rcases core_listed_or_idle s c with hc | hc
  · have hcore := List.flatMap_eq_nil_iff.mp h _ hc
    have hslot := List.filterMap_eq_nil_iff.mp hcore (i % 4) (List.mem_range.mpr (Nat.mod_lt _ (by decide)))
    exact Option.map_eq_none_iff.mp hslot
  · rw [hc, slot_idleCore]; rfl

/-- A core without an open transaction has none to abort. -/
theorem abortCore_none (h : ∀ i, (s.slot c i).txn = none) : s.abortCore c = s :=
  List.foldl_fixed' (fun i => by simp [Slot.aborts, h i]) _

theorem drainAsid_none (h : ∀ p ∈ s.cores, p.2.wb = []) (asid : Nat) : s.drainAsid asid = s := by
  have hfix : ∀ cs : List (Nat × CoreSt), (∀ p ∈ cs, p.2.wb = []) → cs.foldl (fun (s : State) (p : Nat × CoreSt) =>
      if p.2.wb.any (fun e => e.asid == asid) then s.drainAll p.1 else s) s = s := by
    intro cs hcs
    induction cs with
    | nil => rfl
    | cons p r ih =>
      rw [List.foldl_cons, hcs p (List.mem_cons_self ..)]
      exact ih (fun q hq => hcs q (List.mem_cons_of_mem _ hq))
  exact hfix s.cores h

/-! ### Accesses translated under an ASID -/

/-- A core has an access under way that was translated under an ASID (R127). -/
def State.coreOpen (s : State) (asid c : Nat) (k : CoreSt) : Bool :=
  k.wb.any (fun e => e.asid == asid) ||
    (s.asidOf c == asid && (k.cq.any (fun o => decide (0 < o.outstanding)) || k.slots.toList.any (fun t => match t.wait with
      | .answer _ addr _ => spaceOf s.pkg addr == .global
      | .hostRead .. => true
      | _ => false)))

theorem translatedOpen_eq (s : State) (asid : Nat) :
    s.translatedOpen asid = s.cores.any (fun (p : Nat × CoreSt) => s.coreOpen asid p.1 p.2) := rfl

/-- A change of a core that leaves its write buffer, its copies and its slots opens no access. -/
theorem translatedOpen_setCore {t : State} {k : CoreSt} (ht : t.cores = put s.cores c k) (hp : t.pkg = s.pkg)
    (ha : ∀ d, t.asidOf d = s.asidOf d) (hwb : k.wb = (s.core c).wb) (hcq : k.cq = (s.core c).cq)
    (hsl : k.slots = (s.core c).slots) (h : s.translatedOpen asid = false) : t.translatedOpen asid = false := by
  rw [translatedOpen_eq, List.any_eq_false] at h ⊢
  have hopen : ∀ d (x : CoreSt), t.coreOpen asid d x = s.coreOpen asid d x := fun d x => by
    simp only [State.coreOpen, ha, hp]
  intro p hmem
  rw [ht] at hmem
  rw [hopen]
  rcases mem_put hmem with rfl | hmem
  · have hk : s.coreOpen asid c k = s.coreOpen asid c (s.core c) := by simp only [State.coreOpen, hwb, hcq, hsl]
    rw [hk]
    rcases core_listed_or_idle s c with hc | hc
    · exact h _ hc
    · rw [hc]
      simp [State.coreOpen, idleCore, idleSlot]
  · exact h _ hmem

/-! ### The host's invalidations -/

/-- A core without its L1 lines of an ASID (R127). -/
def CoreSt.withoutAsid (k : CoreSt) (asid : Nat) : CoreSt :=
  { k with l1d := k.l1d.filter (fun l => l.asid != asid), l1i := k.l1i.filter (fun e => e.1 != asid) }

/-- Every core without its L1 lines of an ASID. -/
def State.withoutL1 (s : State) (asid : Nat) : State :=
  { s with cores := s.cores.map (fun (p : Nat × CoreSt) => (p.1, p.2.withoutAsid asid)) }

/-- A write to TINVCTL while BUSY is clear, where nothing must drain and nothing aborts. -/
theorem invalidate_eq {v : Word} (hb : s.disp.tinvBusy = false)
    (h : ((∀ p ∈ s.cores, p.2.wb = []) ∧ s.txns = []) ∨ bitAt v 17 = false) :
    s.invalidate v = { (if bitAt v 17 then s.withoutL1 (bits v 15 0) else s) with
      tlb := s.tlb.filter (fun t => !s.covered v t)
      disp := { s.disp with tinvctl := v &&& 0x0000FFFF0003FFFF, tinvBusy := true } } := by
  by_cases h17 : bitAt v 17 = true
  · obtain ⟨hwb, htx⟩ := h.resolve_right (by simp [h17])
    have hfold : ∀ (u : State) (cs : List Nat), u.cores = s.cores → cs.foldl (fun (s : State) c => (s.drainAll c).abortCore c) u = u := by
      intro u cs hu
      refine List.foldl_fixed' (fun c => ?_) _
      have hcore : u.core c = s.core c := by rw [State.core, hu]; rfl
      rw [drainAll_nil (by rw [hcore]; exact wb_core_nil hwb c),
        abortCore_none (fun i => by rw [State.slot, hcore]; exact txn_slot_none htx c i)]
    simp only [State.invalidate, hb, h17, Bool.false_eq_true, if_false, if_true]
    rw [hfold { s with tlb := s.tlb.filter (fun t => !s.covered v t) } _ rfl]
    rfl
  · simp only [State.invalidate, hb, h17, Bool.false_eq_true, if_false]

theorem covered_range {v : Word} (h : bitAt v 16 = false) (t : TlbEntry) : s.covered v t =
    decide (t.asid = bits v 15 0 ∧ t.va < s.disp.tinvva.toNat / 65536 * 65536 + (bits v 47 32 + 1) * 65536 ∧
      s.disp.tinvva.toNat / 65536 * 65536 < t.va + t.size) := by
  rw [Bool.eq_iff_iff]
  simp [State.covered, h]

theorem covered_all {v : Word} (h : bitAt v 16 = true) (t : TlbEntry) : s.covered v t = decide (t.asid = bits v 15 0) := by
  rw [Bool.eq_iff_iff]
  simp [State.covered, h]

theorem invalidated_eq (hb : s.disp.tinvBusy = true) (hwb : ∀ p ∈ s.cores, p.2.wb = []) : s.invalidated =
    if s.translatedOpen (bits s.disp.tinvctl 15 0) then s else { s with disp := { s.disp with tinvBusy := false } } := by
  simp only [State.invalidated, hb, drainAsid_none hwb, Bool.not_true, Bool.false_eq_true, if_false]

theorem mcinv_eq {v : Word} (hb : s.fab.mcinvBusy = false) : s.mcinv v = { s with fab := { s.fab with
    mcinv := v &&& 0x30FFF, mcinvBusy := true
    groups := if bitAt v 16 then s.fab.groups.filter (fun e => e.2.1 != bits v 11 0) else s.fab.groups
    inmap := if bitAt v 17 then put s.fab.inmap (bits v 11 0) (s.tableWord (s.fab.mcmapbase.toNat + 8 * bits v 11 0))
      else s.fab.inmap } } := by
  rw [State.mcinv, if_neg (by simp [hb])]
  cases bitAt v 16 with
  | true => cases bitAt v 17 <;> rfl
  | false => cases bitAt v 17 <;> rfl

/-! ### ASINV -/

/-- The part without an ASID's translation leaves, and the running core without its L1 lines of it (R127). -/
def State.withoutAsid (s : State) (asid : Nat) : State :=
  { s.modHere (fun k => k.withoutAsid asid) with tlb := s.tlb.filter (fun t => t.asid != asid) }

theorem here_withoutAsid (s : State) (asid : Nat) : (s.withoutAsid asid).here = s.here.withoutAsid asid :=
  here_modHere s (fun k => k.withoutAsid asid)

theorem me_withoutAsid (s : State) (asid : Nat) : (s.withoutAsid asid).me = s.me :=
  me_modHere (s := s) (f := fun k => k.withoutAsid asid) rfl

theorem asidOf_withoutAsid (s : State) (asid d : Nat) : (s.withoutAsid asid).asidOf d = s.asidOf d :=
  congrArg (fun x : Option Launch => (x.map Launch.asid).getD 0) (launchOf_modCore s s.cur.1 d (fun k => k.withoutAsid asid) (fun _ => rfl))

/-- ASINV where nothing must drain, nothing aborts and no access is open is one step (R127, R290). -/
theorem asinvRes_eq {a : Reg} (htx : s.txns = []) (hme : s.me.txn = none) (hwb : ∀ p ∈ s.cores, p.2.wb = [])
    (hopen : s.translatedOpen (bits (s.X a) 15 0) = false) : s.asinvRes a = go (s.withoutAsid (bits (s.X a) 15 0)) := by
  generalize hasid : bits (s.X a) 15 0 = asid at hopen
  have hdrained : s.drained (.asinv asid false) = .ok s := by
    have hnil : (s.core s.cur.1).wb = [] := wb_core_nil hwb _
    rw [State.drained, drainAll_nil hnil]
    simp [hme, hnil]
  have hcore : (s.withoutAsid asid).core s.cur.1 = s.here.withoutAsid asid := here_withoutAsid s asid
  have habort : (s.withoutAsid asid).abortCore s.cur.1 = s.withoutAsid asid :=
    abortCore_none (fun i => by rw [State.slot, hcore]; exact txn_slot_none htx s.cur.1 i)
  have hwb' : ∀ p ∈ (s.withoutAsid asid).cores, p.2.wb = [] := by
    intro p hp
    rcases mem_put hp with rfl | hp
    · exact wb_core_nil hwb s.cur.1
    · exact hwb p hp
  have hopen' : (s.withoutAsid asid).translatedOpen asid = false :=
    translatedOpen_setCore (s := s) (t := s.withoutAsid asid) rfl rfl (asidOf_withoutAsid s asid) rfl rfl rfl hopen
  have hstep : s.asinvRes a = (do
      let t := if (s.withoutAsid asid).asidOf s.cur.1 = asid then (s.withoutAsid asid).abortCore s.cur.1 else s.withoutAsid asid
      let t := t.drainAsid asid
      if t.translatedOpen asid then .error (.wait t (.asinv asid true)) else go t) := by
    simp only [State.asinvRes, noTxn_ok hme, hasid, hdrained, bind, Except.bind]
    rfl
  rw [hstep, habort, ite_self]
  simp only [drainAsid_none hwb', hopen', Bool.false_eq_true, if_false]

end

end Sys2Proof.Machine
end

section
/-!
CERTIFICATE. O52: TINVCTL, MCINV and ASINV.
-/
namespace Sys2Proof.Proofs

open Sys2Proof.Machine

/-- Settles O52: an invalidation where nothing is under way is its filter of the leaves and of the lines. -/
theorem invalidations : Obligations.Invalidations := by
  unfold Obligations.Invalidations
  refine ⟨?tinv, ?complete, ?mcinv, ?asinv⟩
  case tinv =>
    intro s v asid lo hi drops left hup
    have hrange : ∀ f : State → State, s.overLinks f = f s := fun f => if_pos hup
    refine ⟨fun hb => ?_, fun hb h => ⟨fun h16 => ?_, fun h16 => ?_⟩⟩
    · have hinv : s.invalidate v = s := by simp [State.invalidate, hb]
      constructor
      · show Host.Outcome.next (s.overLinks _) = _
        rw [hrange, hinv, ite_self]
      · show Host.Outcome.next (s.overLinks _) = _
        rw [hrange, hinv, ite_self]
    · show Host.Outcome.next (s.overLinks _) = _
      rw [hrange, if_neg (by simp [h16]), invalidate_eq hb h]
      simp only [covered_range h16]
      rfl
    · show Host.Outcome.next (s.overLinks _) = _
      rw [hrange, if_pos h16, invalidate_eq hb h]
      simp only [covered_all h16]
      rfl
  case complete =>
    intro s
    refine ⟨fun hb => ?_, fun hb hwb => ⟨fun ho => ?_, fun ho => ?_⟩⟩
    · show Host.Outcome.next s.invalidated = _
      simp [State.invalidated, hb]
    · show Host.Outcome.next s.invalidated = _
      rw [invalidated_eq hb hwb, if_pos ho]
    · show Host.Outcome.next s.invalidated = _
      rw [invalidated_eq hb hwb, if_neg (by simp [ho])]
  case mcinv =>
    intro s v g
    refine ⟨fun hup hb => ?_, fun hup hb => ⟨fun h16 => ?_, fun h17 => ?_⟩, rfl⟩
    · have hinv : s.mcinv v = s := by simp [State.mcinv, hb]
      constructor
      · show Host.Outcome.next (s.overLinks _) = _
        rw [State.overLinks, if_pos hup, hinv, ite_self]
      · show Host.Outcome.next (s.overLinks _) = _
        rw [State.overLinks, if_pos hup, hinv, ite_self]
    · refine ⟨s.mcinv v, ?_, ?_⟩
      · show Host.Outcome.next (s.overLinks _) = _
        rw [State.overLinks, if_pos hup, if_pos h16]
      · rw [mcinv_eq hb]
        exact ⟨rfl, if_pos h16, rfl, rfl⟩
    · refine ⟨s.mcinv v, ?_, ?_⟩
      · show Host.Outcome.next (s.overLinks _) = _
        rw [State.overLinks, if_pos hup, if_pos h17]
      · rw [mcinv_eq hb]
        refine ⟨rfl, ?_, fun e he => ?_, rfl, rfl⟩
        · exact (congrArg (find · g) (if_pos h17)).trans (find_put_self ..)
        · exact (congrArg (find · e) (if_pos h17)).trans (find_put_ne _ _ (Ne.symm he))
  case asinv =>
    intro s a hlone htx hme hwb _ asid hopen
    have hres : s.asinvRes a = go (s.withoutAsid asid) := asinvRes_eq htx hme hwb hopen
    have hmeEq := me_withoutAsid s asid
    obtain ⟨hgo, hret⟩ := finishC_goesOn (t := s.withoutAsid asid) hlone rfl (congrArg Slot.bundle hmeEq) (congrArg Slot.loop hmeEq)
    refine ⟨s.finishC (go (s.withoutAsid asid)), ?_, hgo, fun r => ?_, ?_, ?_⟩
    · show Host.Outcome.next (s.finishC (s.asinvRes a)) = _
      rw [hres]
    · rw [hret.registers r (by simp), hmeEq]
    · rw [hret.system, hmeEq]
    · rw [hret.elsewhere]
      generalize (s.finishC (go (s.withoutAsid asid))).me = u
      have hcore : ((s.withoutAsid asid).setSlot s.cur.1 s.cur.2 u).here = (s.withoutAsid asid).here.setSlot s.cur.2 u :=
        core_setSlot ..
      rw [show (s.withoutAsid asid).setSlot (s.withoutAsid asid).cur.1 (s.withoutAsid asid).cur.2 u =
        (s.withoutAsid asid).setSlot s.cur.1 s.cur.2 u from rfl, hcore, here_withoutAsid]
      refine ⟨rfl, rfl, rfl, rfl, fun c hc => ?_, rfl⟩
      exact (core_setCore_ne _ _ (Ne.symm hc)).trans (core_setCore_ne _ _ (Ne.symm hc))

end Sys2Proof.Proofs
end

section
/-!
SUPPORT. Device memory for the host, its directory, and completions of reads of the host window (R120, R242 to R246).
-/
namespace Sys2Proof.Machine

/-! ### The directory -/

section
variable {s : State}

theorem dirOf_modDir (s : State) (off x : Nat) (f : DirEntry → DirEntry) :
    (s.modDir off f).dirOf x = if off / 256 = x / 256 then f (s.dirOf x) else s.dirOf x := by
  by_cases h : off / 256 = x / 256
  · simp [State.modDir, State.dirOf, h]
  · simp [State.modDir, State.dirOf, h, find_put_ne]

/-- No L2 holds the line in M, O or E. -/
def DirEntry.recalled (e : DirEntry) : Prop := ∀ p ∈ e.l2, p.2 ≠ .m ∧ p.2 ≠ .o ∧ p.2 ≠ .e

theorem recalled_recall (e : DirEntry) : e.recall.recalled := by
  intro p hp
  obtain ⟨q, -, rfl⟩ := List.mem_map.mp hp
  dsimp only
  split <;> simp_all

/-- The recall of some lines changes the directory alone. -/
theorem recallLines_frame (ls : List Nat) (s : State) :
    ∃ d, ls.foldl (fun (s : State) l => s.modDir l DirEntry.recall) s = { s with dir := d } := by
  induction ls generalizing s with
  | nil => exact ⟨s.dir, rfl⟩
  | cons l ls ih =>
    obtain ⟨d, hd⟩ := ih (s.modDir l DirEntry.recall)
    exact ⟨d, hd⟩

/-- After the recall of some lines no L2 holds one of them in M, O or E (R121). -/
theorem recallLines_recalled {ls : List Nat} {x : Nat} (h : (s.dirOf x).recalled ∨ ∃ l ∈ ls, l / 256 = x / 256) :
    ((ls.foldl (fun (s : State) l => s.modDir l DirEntry.recall) s).dirOf x).recalled := by
  induction ls generalizing s with
  | nil => simpa using h
  | cons l ls ih =>
    refine ih ?_
    by_cases hl : l / 256 = x / 256
    · left
      rw [dirOf_modDir, if_pos hl]
      exact recalled_recall _
    · rw [dirOf_modDir, if_neg hl]
      simpa [hl] using h

theorem mem_linesOf {off n x : Nat} (hlo : off ≤ x) (hhi : x < off + n) : ∃ l ∈ linesOf off n, l / 256 = x / 256 := by
  refine ⟨256 * (off / 256 + (x / 256 - off / 256)), List.mem_map_of_mem (List.mem_range.mpr ?_), ?_⟩
  · omega
  · omega

/-! ### Host requests where no transaction is open -/

theorem plainAccess_none (h : s.txns = []) (tile : Nat) (isWrite : Bool) : s.plainAccess tile isWrite = some s := by
  simp [State.plainAccess, State.hits, h]

theorem touchTiles_none (h : s.txns = []) (isWrite : Bool) (tiles : List Nat) : s.touchTiles isWrite tiles = some s := by
  induction tiles with
  | nil => rfl
  | cons t r ih => rw [State.touchTiles, plainAccess_none h, Option.bind_some, ih]

/-- A write from outside the package changes its bytes of device memory and no L1 (R121, R166). -/
theorem homeWrite_outside (s : State) (off : Nat) (bs : List Byte) : s.homeWrite .outside off bs =
    { s with mem := s.mem.writeBytes off bs
             memPoison := s.memPoison.filter (fun g => !(covered off bs.length).contains g) } := by
  simp [State.homeWrite, State.claimLines, State.writerOf, State.grantLines, State.dropLines, Writer.keeps]

/-- A host request that meets nothing in its way is performed at once. -/
theorem hostAsks_first {q : HostReq} {t : State} (hin : s.fab.inbound = [])
    (h : ({ s with fab := { s.fab with inbound := [q] } } : State).hostRequest q = some t) :
    s.hostAsks q = { t with fab := { t.fab with inbound := [] } } := by
  simp [State.hostAsks, hin, State.drainHost, h]

/-- A host request behind one that cannot be performed waits (R166, R176). -/
theorem hostAsks_behind {q p : HostReq} {r : List HostReq} (hin : s.fab.inbound = q :: r)
    (h : ({ s with fab := { s.fab with inbound := s.fab.inbound ++ [p] } } : State).hostRequest q = none) :
    s.hostAsks p = { s with fab := { s.fab with inbound := s.fab.inbound ++ [p] } } := by
  rw [State.hostAsks]
  generalize hs : ({ s with fab := { s.fab with inbound := s.fab.inbound ++ [p] } } : State) = t at h
  have ht : t.fab.inbound = q :: (r ++ [p]) := by rw [← hs, hin]; rfl
  simp only [State.drainHost, ht, h]

theorem hostRequest_read (htx : s.txns = []) (off n : Nat) : ∃ d, s.hostRequest (.read off n) =
    some { s with dir := d, answers := s.answers ++ [.data (s.mem.bytes off n)] } ∧
      ∀ x, off ≤ x → x < off + n → (({ s with dir := d } : State).dirOf x).recalled := by
  obtain ⟨d, hd⟩ := recallLines_frame (linesOf off n) s
  refine ⟨d, ?_, fun x hlo hhi => ?_⟩
  · simp only [State.hostRequest, touchTiles_none htx, Option.map_some, hd, State.say]
  · rw [← hd]
    exact recallLines_recalled (.inr (mem_linesOf hlo hhi))

theorem hostRequest_line (htx : s.txns = []) (off : Nat) : s.hostRequest (.line off) =
    some { s.modDir (off / 64 * 64) (fun e => { e.recall with hostShares := true }) with
      answers := s.answers ++ [.data (s.mem.bytes (off / 64 * 64) 64)] } := by
  simp only [State.hostRequest, touchTiles_none htx, Option.map_some, State.say, State.modDir]

theorem hostRequest_write (htx : s.txns = []) (off : Nat) (bs : List Byte) : s.hostRequest (.write off bs) =
    some { s with mem := s.mem.writeBytes off bs
                  memPoison := s.memPoison.filter (fun g => !(covered off bs.length).contains g) } := by
  simp only [State.hostRequest, touchTiles_none htx, Option.map_some, homeWrite_outside]

theorem hostReach_iff {off n : Nat} : hostReach off n = true ↔ off + n ≤ 768 * 2 ^ 30 - 2 ^ 31 := decide_eq_true_iff

theorem hostReach_false {off n : Nat} (h : 768 * 2 ^ 30 - 2 ^ 31 < off + n) : hostReach off n = false := by
  rw [Bool.eq_false_iff, Ne, hostReach_iff]
  omega

/-! ### Reads of the host window -/

theorem walkFrom_actAs (c i sector asid va : Nat) (level table : Nat) :
    (s.actAs c i).walkFrom sector asid va level table = s.walkFrom sector asid va level table := by
  induction level generalizing table with
  | zero => rfl
  | succ n ih =>
    unfold State.walkFrom
    simp only [ih]
    rfl

theorem translate_actAs (c i d asid va : Nat) : (s.actAs c i).translate d asid va = s.translate d asid va := by
  simp only [State.translate, State.translateFor, State.walk, walkFrom_actAs]
  rfl

/-- The completion that a slot's load of the host window awaits: the bytes are in the host's memory, and in the register
(R244). -/
theorem hostReadDone_load {c i h : Nat} {d : Reg} {size link : Nat} {signed : Bool} {a : Word} {tr : TlbEntry} {bs : List Byte}
    (hi : i < 4) (hw : (s.slot c i).wait = .hostRead (.x d size signed) a none link)
    (htr : s.translate c (s.asidOf c) a.toNat = some tr) (hh : s.homeOf (tr.phys a.toNat) tr.uncached = .host h) :
    let v := { s.actAs c i with hostMem := s.hostMem.writeBytes h bs }
    s.hostReadDone c i bs = v.finishC (go (v.setX d (extendLoad size signed bs))) := by
  have htr' : (s.actAs c i).translate c ((s.actAs c i).asidOf c) a.toNat = some tr := (translate_actAs ..).trans htr
  have hh' : (s.actAs c i).homeOf (tr.phys a.toNat) tr.uncached = .host h := hh
  simp only [State.hostReadDone, Nat.not_le.mpr hi, if_false, hw, htr', hh', State.landed]
  rfl

/-- A completion of a SYSTEM release's zero-length read (R313). -/
theorem hostReadDone_fence {c i : Nat} (bs : List Byte) (hi : i < 4) (hw : (s.slot c i).wait = .hostFence) :
    let u := s.modSlot c i (fun v => { v with hostLinks := v.hostLinks.tail })
    s.hostReadDone c i bs = if (s.slot c i).hostLinks.tail = [] ∧ s.coreRuns c = true then
      (u.modSlot c i (fun t => { t with wait := .stall })).resume c i else u := by
  have hrun : (s.modSlot c i (fun v => { v with hostLinks := v.hostLinks.tail })).coreRuns c = s.coreRuns c := by
    simp only [State.coreRuns, CoreSt.works, State.launchOf, modSlot_eq, core_setSlot]
    rfl
  have hlinks : ((s.modSlot c i (fun v => { v with hostLinks := v.hostLinks.tail })).slot c i).hostLinks =
      (s.slot c i).hostLinks.tail := by rw [modSlot_eq, slot_setSlot_self]
  simp only [State.hostReadDone, Nat.not_le.mpr hi, if_false, hw, hrun, hlinks]

/-- A completion for the n-th copy of a core (R148, R244). -/
theorem hostReadDone_copy {c n pos : Nat} {o : CopyOp} {rest : List Nat} (bs : List Byte) (ho : (s.core c).cq[n]? = some o)
    (hw : o.window = pos :: rest) : s.hostReadDone c (4 + n) bs = s.modCopy c n (fun o => { o with
      window := rest, parts := o.parts ++ [(pos, bs, false)], outstanding := o.outstanding - 1 }) := by
  have hn : 4 + n - 4 = n := by omega
  simp only [State.hostReadDone, Nat.le_add_right, if_true, hn, State.windowCame, ho, hw]

end

end Sys2Proof.Machine
end

section
/-!
CERTIFICATE. O53: BAR2, CXL.mem and the host window.
-/
namespace Sys2Proof.Proofs

open Sys2Proof.Machine

/-- Settles O53: a host request that meets nothing is performed at once (`hostAsks_first`), and a completion of the host window
ends what awaits it (`hostReadDone_load`, `hostReadDone_fence`, `hostReadDone_copy`). -/
theorem hostMemoryAccess : Obligations.HostMemoryAccess := by
  unfold Obligations.HostMemoryAccess
  extract_lets reach
  refine ⟨?requests, ?snoop, ?window⟩
  case requests =>
    intro s off size bs
    extract_lets replies base cxl
    have hup : ∀ f : State → State, s.linksUp = true → s.overLinks f = f s := fun f h => if_pos h
    have hdown : ∀ f : State → State, s.linksUp = false → s.overLinks f = s := fun f h => if_neg (by simp [h])
    have hcxl : ∀ f : State → State, cxl → s.overCxl f = f s := fun f h => if_pos (by simpa [cxl] using h)
    have hnocxl : ∀ f : State → State, ¬cxl → s.overCxl f = s := fun f h => if_neg (by simpa [cxl] using h)
    refine ⟨fun h => ⟨?_, ?_⟩, fun h => ⟨?_, ?_, ?_⟩, fun h hr => ?_, fun hr => ⟨fun h => ?_, fun h => ?_⟩, fun h hr => ?_,
      fun hin htx h => ⟨fun hr => ?_, fun hr => ?_, fun hc hr => ?_⟩, fun q r h hin hr hq => ?_⟩
    · exact congrArg Host.Outcome.next (hdown _ h)
    · exact congrArg Host.Outcome.next (hdown _ h)
    · exact congrArg Host.Outcome.next (hnocxl _ h)
    · exact congrArg Host.Outcome.next (hnocxl _ h)
    · exact congrArg Host.Outcome.next (hnocxl _ h)
    · exact congrArg Host.Outcome.next ((hup _ h).trans (if_neg (by simp [hostReach_false hr])))
    · exact congrArg Host.Outcome.next ((hup _ h).trans (if_neg (by simp [hostReach_false hr])))
    · exact congrArg Host.Outcome.next ((hcxl _ h).trans (if_neg (by simp [hostReach_false hr])))
    · exact congrArg Host.Outcome.next ((hcxl _ h).trans (if_neg (by simp [hostReach_false (off := off / 64 * 64) hr])))
    · obtain ⟨d, hreq, hrec⟩ := hostRequest_read (s := { s with fab := { s.fab with inbound := [.read off size] } }) htx off size
      exact ⟨_, congrArg Host.Outcome.next ((hup _ h).trans ((if_pos (hostReach_iff.mpr hr)).trans (hostAsks_first hin hreq))),
        rfl, rfl, rfl, rfl, hrec⟩
    · have hdone := hostAsks_first hin
        (hostRequest_write (s := { s with fab := { s.fab with inbound := [.write off bs] } }) htx off bs)
      refine ⟨_, congrArg Host.Outcome.next ((hup _ h).trans ((if_pos (hostReach_iff.mpr hr)).trans hdone)), fun hc => ?_, rfl, rfl,
        fun x => Memory.read_writeBytes ..⟩
      exact congrArg Host.Outcome.next ((hcxl _ ⟨h, hc⟩).trans ((if_pos (hostReach_iff.mpr hr)).trans hdone))
    · have hdone := hostAsks_first hin (hostRequest_line (s := { s with fab := { s.fab with inbound := [.line off] } }) htx off)
      refine ⟨_, congrArg Host.Outcome.next ((hcxl _ ⟨h, hc⟩).trans ((if_pos (hostReach_iff.mpr hr)).trans hdone)), rfl, rfl, rfl, ?_⟩
      exact congrArg DirEntry.hostShares
        ((dirOf_modDir s base base (fun e => { e.recall with hostShares := true })).trans (if_pos rfl))
    · exact congrArg Host.Outcome.next ((hup _ h).trans ((if_pos (hostReach_iff.mpr hr)).trans (hostAsks_behind hin hq)))
  case snoop =>
    intro s off hlinks hc
    have hans : exec (.backInvalidateAnswer off) s = .next (s.snoopAnswered off) :=
      congrArg Host.Outcome.next (if_pos (by simp [hlinks, hc]))
    refine ⟨fun hs => ?_, fun hs => ⟨_, hans, ?_⟩⟩
    · rw [hans, State.snoopAnswered, if_neg (by simp [hs])]
    · have hdir : (s.modDir off (fun e => { e with hostShares := false, snooping := false })).dirOf off = _ :=
        (dirOf_modDir s off off _).trans (if_pos rfl)
      rw [State.snoopAnswered, if_pos hs, hdir]
      exact ⟨rfl, rfl, rfl, rfl, rfl⟩
  case window =>
    intro s c i hi
    extract_lets u
    refine ⟨fun d size signed a tr h bs link hlone hd hw htr hh => ?_, fun bs hw ht => ?_, fun bs n o pos rest ho hw => ?_,
      fun bs hw ht hrun => ?_, fun bs h w hw ht hrun hdec => ?_, fun bs hw => ?_⟩
    · let v : State := { u with hostMem := s.hostMem.writeBytes h bs }
      have hv : Lone v := hlone.of_me rfl
      obtain ⟨hret, hgo, hval⟩ := finishC_x hv (d := d) hd (extendLoad size signed bs)
      refine ⟨_, congrArg Host.Outcome.next (hostReadDone_load hi hw htr hh), hgo, hret.waits, hval,
        fun r hr => hret.registers r (by simpa using hr), fun x => ?_, ?_⟩
      · rw [hret.elsewhere]
        exact Memory.read_writeBytes ..
      · rw [hret.elsewhere]
        rfl
    · exact congrArg Host.Outcome.next ((hostReadDone_fence bs hi hw).trans (if_neg (fun h => ht h.1)))
    · refine ⟨_, congrArg Host.Outcome.next (hostReadDone_copy bs ho hw), ?_, ?_, fun d hd => ?_, rfl⟩
      · rw [State.modCopy, core_modCore_self, modifyNth, List.getElem?_modify_eq, ho]
        rfl
      · rw [State.modCopy, core_modCore_self]
      · exact core_setCore_ne _ _ (Ne.symm hd)
    · refine congrArg Host.Outcome.next ((hostReadDone_fence bs hi hw).trans ((if_neg (by simp [hrun])).trans ?_))
      rw [modSlot_eq, modSlot_eq, ht]
    · refine congrArg Host.Outcome.next ((hostReadDone_fence bs hi hw).trans ((if_pos ⟨ht, hrun⟩).trans ?_))
      simp only [modSlot_eq, slot_setSlot_self, setSlot_setSlot, ht]
      rw [State.resume, slot_setSlot_self]
      simp only [hdec]
      rfl
    · show Host.Outcome.next (s.hostReadDone c i bs) = _
      simp only [State.hostReadDone, Nat.not_le.mpr hi, if_false, hw]

end Sys2Proof.Proofs
end

section
/-!
SUPPORT. Loads, stores and atomics of global memory homed in the package, where no transaction, poison or host copy stands in
the way (R117 to R122).
-/
namespace Sys2Proof.Machine

/-! ### Bytes -/

theorem byte_natOfBytes (bs : List Byte) (k : Nat) (h : k < bs.length) : BitVec.ofNat 8 (natOfBytes bs / 256 ^ k) = bs.getD k 0 := by
  induction bs generalizing k with
  | nil => simp at h
  | cons b r ih =>
    have hb := b.isLt
    cases k with
    | zero =>
      apply BitVec.eq_of_toNat_eq
      simp only [natOfBytes, Nat.pow_zero, Nat.div_one, BitVec.toNat_ofNat, List.getD_cons_zero]
      omega
    | succ k =>
      rw [List.getD_cons_succ, ← ih k (by simpa using h), Nat.pow_succ', ← Nat.div_div_eq_div_mul, natOfBytes]
      congr 2
      omega

/-- A byte of memory is its part of the number that it belongs to. -/
theorem read_num (m : Memory) {a n x : Nat} (hlo : a ≤ x) (hhi : x < a + n) :
    BitVec.ofNat 8 (m.num a n / 256 ^ (x - a)) = m.read x := by
  have hk : x - a < n := by omega
  have hx : a + (x - a) = x := by omega
  rw [Memory.num, byte_natOfBytes _ _ (by simpa using hk), Memory.getD_bytes m a n _ hk, hx]

/-- A byte of a number depends on the number's low bytes alone. -/
theorem byte_mod {v n k : Nat} (h : k < n) : BitVec.ofNat 8 (v % 256 ^ n / 256 ^ k) = BitVec.ofNat 8 (v / 256 ^ k) := by
  obtain ⟨j, rfl⟩ : ∃ j, n = k + (j + 1) := ⟨n - k - 1, by omega⟩
  apply BitVec.eq_of_toNat_eq
  rw [BitVec.toNat_ofNat, BitVec.toNat_ofNat, Nat.pow_add, Nat.mod_mul_right_div_self,
    Nat.mod_mod_of_dvd _ (show 2 ^ 8 ∣ 256 ^ (j + 1) from dvd_pow_self 256 j.succ_ne_zero)]

theorem read_setNum_mod (m : Memory) (a n x : Nat) {v w : Nat} (h : v % 256 ^ n = w % 256 ^ n) :
    (m.setNum a n v).read x = if a ≤ x ∧ x < a + n then BitVec.ofNat 8 (w / 256 ^ (x - a)) else m.read x := by
  rw [Memory.read_setNum]
  split
  · next hx =>
    have hk : x - a < n := by omega
    rw [← byte_mod (v := v) hk, h, byte_mod hk]
  · rfl

/-- A range inside a range that has been read. -/
theorem bytes_drop_take (m : Memory) {a j n k : Nat} (h : j + n ≤ k) : ((m.bytes a k).drop j).take n = m.bytes (a + j) n := by
  apply List.ext_getElem
  · simp only [List.length_take, List.length_drop, Memory.length_bytes]
    omega
  · intro i _ _
    simp [Memory.bytes, Nat.add_assoc]

theorem placed_bytesOfNat (a n v : Nat) :
    placed a (bytesOfNat n v) = (List.range n).map (fun k => (a + k, BitVec.ofNat 8 (v / 256 ^ k))) := by
  induction n generalizing a v with
  | zero => rfl
  | succ n ih =>
    rw [bytesOfNat, placed, ih, List.range_succ_eq_map, List.map_cons, List.map_map, Nat.pow_zero, Nat.div_one, Nat.add_zero]
    congr 1
    refine List.map_congr_left fun k _ => ?_
    simp only [Function.comp, Nat.succ_eq_add_one, Nat.pow_succ', Nat.div_div_eq_div_mul, Nat.add_assoc, Nat.add_comm 1 k]

/-! ### States that differ in device memory and in what is cached of it -/

/-- The same slot runs, the host's memory is the same, and so is every core but for its L1. -/
structure State.Alike (s t : State) : Prop where
  cur : t.cur = s.cur
  hostMem : t.hostMem = s.hostMem
  core : ∀ c, ∃ l, t.core c = { s.core c with l1d := l }

namespace State.Alike
variable {s t u : State}

theorem refl (s : State) : s.Alike s := ⟨rfl, rfl, fun _ => ⟨_, rfl⟩⟩

theorem trans (h : s.Alike t) (g : t.Alike u) : s.Alike u where
  cur := g.cur.trans h.cur
  hostMem := g.hostMem.trans h.hostMem
  core c := by
    obtain ⟨l, hl⟩ := h.core c
    obtain ⟨k, hk⟩ := g.core c
    exact ⟨k, by rw [hk, hl]⟩

theorem here (h : s.Alike t) : ∃ l, t.here = { s.here with l1d := l } := by
  rw [State.here, State.here, h.cur]
  exact h.core s.cur.1

theorem slot (h : s.Alike t) (c i : Nat) : t.slot c i = s.slot c i := by
  obtain ⟨l, hl⟩ := h.core c
  rw [State.slot, hl]
  rfl

theorem me (h : s.Alike t) : t.me = s.me := by rw [State.me, State.me, h.cur, h.slot]

theorem lm (h : s.Alike t) : t.here.lm = s.here.lm := by
  obtain ⟨l, hl⟩ := h.here
  rw [hl]

theorem wb (h : s.Alike t) (c : Nat) : (t.core c).wb = (s.core c).wb := by
  obtain ⟨l, hl⟩ := h.core c
  rw [hl]

theorem lone (h : s.Alike t) (hs : Lone s) : Lone t := hs.of_me (congrArg Slot.bundle h.me)

theorem modCore {f : CoreSt → CoreSt} (hf : ∀ k : CoreSt, ∃ l, f k = { k with l1d := l }) (s : State) (c : Nat) :
    s.Alike (s.modCore c f) where
  cur := rfl
  hostMem := rfl
  core d := by
    by_cases hd : c = d
    · subst hd
      rw [core_modCore_self]
      exact hf _
    · rw [State.modCore, core_setCore_ne _ _ hd]
      exact ⟨_, rfl⟩

theorem claimLines (s : State) (w : Writer) (off n : Nat) : s.Alike (s.claimLines w off n) := by
  obtain ⟨d, hd⟩ : ∃ d, s.grantLines (s.writerOf w (linesOf off n)) (linesOf off n) = { s with dir := d } := by
    have hfold : ∀ (ls : List Nat) (f : DirEntry → DirEntry) (s : State),
        ∃ d, ls.foldl (fun (s : State) l => s.modDir l f) s = { s with dir := d } := by
      intro ls f
      induction ls with
      | nil => exact fun s => ⟨s.dir, rfl⟩
      | cons l ls ih => exact fun s => ih (s.modDir l f)
    unfold State.grantLines
    split
    · exact hfold _ _ s
    · exact ⟨_, rfl⟩
    · exact ⟨s.dir, rfl⟩
  refine ⟨?_, ?_, fun c => ?_⟩
  · show State.cur (State.dropLines _ _ _) = _
    rw [hd]; rfl
  · show State.hostMem (State.dropLines _ _ _) = _
    rw [hd]; rfl
  · show ∃ l, State.core (State.dropLines _ _ _) c = _
    rw [core_dropLines, hd, CoreSt.without]
    split <;> exact ⟨_, rfl⟩

theorem homeWrite (s : State) (w : Writer) (off : Nat) (bs : List Byte) : s.Alike (s.homeWrite w off bs) :=
  (show s.Alike { s with mem := s.mem.writeBytes off bs
                         memPoison := s.memPoison.filter (fun g => !(Machine.covered off bs.length).contains g) } from
    ⟨rfl, rfl, fun _ => ⟨_, rfl⟩⟩).trans (claimLines ..)

end State.Alike

theorem mem_homeWrite (s : State) (w : Writer) (off : Nat) (bs : List Byte) :
    (s.homeWrite w off bs).mem = s.mem.writeBytes off bs := mem_claimLines ..

section
variable {s t : State} {c : Nat}

theorem cacheLeaf_frame (s : State) (e : TlbEntry) : ∃ tlb, s.cacheLeaf e = { s with tlb := tlb } := by
  unfold State.cacheLeaf
  split
  · exact ⟨s.tlb, rfl⟩
  · exact ⟨_, rfl⟩

/-- A change of a core that keeps its slots opens no transaction. -/
theorem txns_modCore (h : s.txns = []) {f : CoreSt → CoreSt} (hf : ∀ k, (f k).slots = k.slots) : (s.modCore c f).txns = [] := by
  refine List.flatMap_eq_nil_iff.mpr fun p hp => ?_
  rcases mem_put hp with rfl | hp
  · refine List.filterMap_eq_nil_iff.mpr fun i _ => ?_
    have hslot : (f (s.core c)).slot i = s.slot c i := congrArg (fun v => Vector.get v (Fin.ofNat 4 i)) (hf (s.core c))
    rw [hslot, txn_slot_none h c i]
    rfl
  · exact List.flatMap_eq_nil_iff.mp h p hp

/-! ### The ends of the bundles -/

theorem finishC_go_congr (hs : Lone s) (ha : s.Alike t) (u : State) : s.finishC (go u) = t.finishC (go u) := by
  rw [go, finishC_go hs, finishC_go (ha.lone hs), ha.cur]

theorem here_of_elsewhere {u : State} (h : u = t.setSlot t.cur.1 t.cur.2 u.me) : u.here = t.here.setSlot t.cur.2 u.me := by
  have hcur := congrArg State.cur h
  rw [State.here, hcur]
  exact (congrArg (fun x => State.core x t.cur.1) h).trans (core_setSlot ..)

/-- What a bundle leaves that writes no register, and whose operation changes nothing of its slot but the watchdog's count. -/
theorem finishC_kept (hs : Lone s) (hc : t.cur = s.cur) {n : Nat} {fired : Bool}
    (hme : t.me = { s.me with watch := n, wdogFired := fired }) : let u := s.finishC (go t)
    GoesOn s u ∧ (∀ r, u.me.settled r = s.me.settled r) ∧ u.me.system = t.me.system ∧ u.mem = t.mem ∧
      u.hostMem = t.hostMem ∧ u.here = t.here.setSlot t.cur.2 u.me := by
  obtain ⟨hgo, hret⟩ := finishC_goesOn hs hc (by rw [hme]) (by rw [hme])
  have hmem := congrArg State.mem hret.elsewhere
  have hhost := congrArg State.hostMem hret.elsewhere
  refine ⟨hgo, fun r => ?_, hret.system, hmem, hhost, here_of_elsewhere hret.elsewhere⟩
  rw [hret.registers r (by simp), hme]
  exact settled_congr (t := { s.me with watch := n, wdogFired := fired }) (u := s.me) rfl rfl rfl r

/-- What a bundle leaves that writes a register after a change of device memory and of what is cached of it. -/
theorem leaves_of_alike {u : State} {r : RegName} {v : Vec} (ha : s.Alike t)
    (h : Retired t u [r] {} ∧ GoesOn t u ∧ u.me.settled r = v) :
    GoesOn s u ∧ u.me.settled r = v ∧ (∀ q, q ≠ r → u.me.settled q = s.me.settled q) ∧ u.mem = t.mem ∧
      u.hostMem = s.hostMem ∧ u.here.lm = s.here.lm ∧ u.me.system = s.me.system ∧ u.here.l1d = t.here.l1d := by
  obtain ⟨hret, hgo, hval⟩ := h
  have hhere := here_of_elsewhere hret.elsewhere
  have hmem := congrArg State.mem hret.elsewhere
  have hhost := congrArg State.hostMem hret.elsewhere
  refine ⟨by rw [GoesOn, ← ha.me]; exact hgo, hval, fun q hq => ?_, hmem, hhost.trans ha.hostMem, ?_, ?_, ?_⟩
  · rw [hret.registers q (by simpa using hq), ha.me]
  · rw [hhere, lm_setSlot, ha.lm]
  · rw [hret.system, ha.me]
  · rw [hhere]
    rfl

/-! ### CheckMem -/

/-- CheckMem passes an access of global memory that its leaf allows (Table 14.1). -/
theorem checkMem_global {a : Word} {n : Nat} {use : Use} {e : TlbEntry} (hsp : spaceOf s.pkg a = .global)
    (hleaf : s.leafFor use a = some e) (hall : use.allowed e = true) (htx : s.me.txn = none)
    (hcon : s.contained s.cur.1 s.cur.2 = false) (hal : a.toNat % n = 0) (had : use.admits s.cur.2 .global = true)
    (hhost : use = .atomic ∨ use = .nibble → e.pa / 2 ^ 55 % 2 = 0) : s.checkMem a n use = .ok ⟨.global, some e⟩ := by
  have hpass : (!use.allowed e || ((use == .atomic || use == .nibble) && e.pa / 2 ^ 55 % 2 == 1)) = false := by
    by_cases h : use = .atomic ∨ use = .nibble
    · rw [hall, hhost h]
      simp
    · obtain ⟨h1, h2⟩ := not_or.mp h
      simp [hall, h1, h2]
  simp only [State.checkMem, hsp, if_true, hleaf, htx, Option.isSome_none, Bool.false_and, Bool.false_eq_true, if_false,
    reduceCtorEq, hal, ne_eq, not_true_eq_false, had, Bool.not_true, hpass, hcon]

/-! ### Loads -/

theorem loadBad_of_memBad {off n : Nat} {unc : Bool} (htx : s.me.txn = none) (hbad : s.memBad off n = false) :
    s.loadBad off n unc = false := by
  simp only [State.loadBad, htx, State.badBut]
  rw [List.any_eq_false]
  intro g hg
  have := List.any_eq_false.mp hbad g hg
  rw [Bool.eq_false_iff.mpr this, Bool.false_and]
  exact Bool.false_ne_true

/-- A cached read that misses, with an empty write buffer: the home's bytes, and the line in the L1 (R117, R118). -/
theorem cachedRead_miss {va pa n : Nat} (hl1 : (s.core c).l1d = []) (hwb : (s.core c).wb = []) :
    let line : Line := { asid := s.asidOf c, va := va / 64 * 64, pa := pa / 64 * 64
                         data := s.mem.bytes (pa / 64 * 64 % 2 ^ 42) 64 }
    s.cachedRead c va pa n = ((s.modDir (pa / 64 * 64 % 2 ^ 42) (fun e => e.grantRead (dieOf c))).modCore c
      (fun k => k.fillL1 line), ((s.mem.bytes (pa / 64 * 64 % 2 ^ 42) 64).drop (va % 64)).take n) := by
  simp only [State.cachedRead, hl1, List.find?_nil, State.lineData, hwb, List.filter_nil, List.foldl_nil]

theorem covers_fillL1 (k : CoreSt) {l : Line} {asid va : Nat} (h : l.covers asid va = true) :
    (k.fillL1 l).l1d.any (fun l => l.covers asid va) = true := by
  simp [CoreSt.fillL1, h]

/-- An aligned range stays inside its line. -/
theorem inLine {va n : Nat} (hn : n ∣ 64) (hal : va % n = 0) : va % 64 + n ≤ 64 := by
  obtain ⟨j, hj⟩ := hn
  obtain ⟨i, rfl⟩ := Nat.dvd_of_mod_eq_zero hal
  rw [hj, Nat.mul_mod_mul_left]
  rcases Nat.eq_zero_or_pos j with rfl | hpos
  · omega
  · calc n * (i % j) + n = n * (i % j + 1) := by ring
      _ ≤ n * j := Nat.mul_le_mul_left n (Nat.mod_lt i hpos)

theorem homeOf_own {pa off : Nat} {unc unc' : Bool} (h : s.homeOf pa unc' = .own off unc) : unc' = unc ∧ off = pa % 2 ^ 42 := by
  unfold State.homeOf at h
  split at h
  · cases h
  · split at h
    · cases h
      exact ⟨rfl, rfl⟩
    · cases h

/-- A load of global memory homed here, uncached, or cached where L1 and write buffer are empty: the bytes of the home, and
memory as it was (R117, R119, R321). -/
theorem load_own {va : Word} {n off : Nat} {e : TlbEntry} {unc : Bool} {land : Landing} {acq : Option Scope}
    (hhome : s.homeOf (e.phys va.toNat) e.uncached = .own off unc) (htx : s.me.txn = none) (htxs : s.txns = [])
    (hbad : s.memBad off n = false) (hn : n ∣ 64) (hal : va.toNat % n = 0)
    (hc : unc = true ∨ (s.here.l1d = [] ∧ s.here.wb = [] ∧ e.phys va.toNat % 64 = va.toNat % 64)) :
    ∃ t, s.load va n ⟨.global, some e⟩ land acq = .ok (t, s.mem.bytes off n) ∧ s.Alike t ∧ t.mem = s.mem ∧
      (unc = false → t.here.l1d.any (fun l => l.covers (s.asidOf s.cur.1) va.toNat) = true) := by
  obtain ⟨tlb, htlb⟩ := cacheLeaf_frame s e
  have hhome' : ({ s with tlb := tlb } : State).homeOf (e.phys va.toNat) e.uncached = .own off unc := hhome
  have hbad' : ({ s with tlb := tlb } : State).loadBad off n unc = false := loadBad_of_memBad htx hbad
  have htx' : ({ s with tlb := tlb } : State).me.txn = none := htx
  have hload : s.load va n ⟨.global, some e⟩ land acq = if unc then .ok ({ s with tlb := tlb }, s.mem.bytes off n)
      else .ok (({ s with tlb := tlb } : State).cachedRead s.cur.1 va.toNat (e.phys va.toNat) n) := by
    simp only [State.load, htlb, hhome', hbad', htx', Option.isSome_none, Bool.false_eq_true, if_false,
      plainAccess_none (s := { s with tlb := tlb }) htxs]
  cases unc with
  | true => exact ⟨_, hload, ⟨rfl, rfl, fun _ => ⟨_, rfl⟩⟩, rfl, fun h => by cases h⟩
  | false =>
    obtain ⟨hl1, hwb, hpa⟩ := hc.resolve_left (by simp)
    obtain ⟨-, hoff⟩ := homeOf_own hhome
    have hbytes : ((s.mem.bytes (e.phys va.toNat / 64 * 64 % 2 ^ 42) 64).drop (va.toNat % 64)).take n = s.mem.bytes off n := by
      rw [bytes_drop_take _ (inLine hn hal), ← hpa, hoff]
      congr 1
      omega
    have hmiss := cachedRead_miss (s := { s with tlb := tlb }) (c := s.cur.1) (va := va.toNat) (pa := e.phys va.toNat) (n := n) hl1 hwb
    refine ⟨_, hload.trans (congrArg Except.ok (hmiss.trans (congrArg (Prod.mk _) hbytes))), ?_, rfl, fun _ => ?_⟩
    · exact (show s.Alike (State.modDir { s with tlb := tlb } _ _) from ⟨rfl, rfl, fun _ => ⟨_, rfl⟩⟩).trans
        (State.Alike.modCore (fun k => ⟨_, rfl⟩) _ _)
    · refine (congrArg (fun k : CoreSt => k.l1d.any _) (core_modCore_self ..)).trans (covers_fillL1 _ ?_)
      simp only [Line.covers, Bool.and_eq_true]
      constructor <;> exact beq_self_eq_true _

/-! ### Stores -/

/-- An uncached store to global memory homed here is performed at once, and is a progress event (R121, R213). -/
theorem store_own_uncached {va : Word} {off : Nat} {e : TlbEntry} {bs : List Byte} {v : Bool}
    (hhome : s.homeOf (e.phys va.toNat) e.uncached = .own off true) (htx : s.me.txn = none) (htxs : s.txns = [])
    (hclear : s.hostClear off = true) : ∃ t, s.store va bs ⟨.global, some e⟩ v = .ok (t.modMe Slot.progress) ∧ s.Alike t ∧
      t.mem = s.mem.writeBytes off bs := by
  obtain ⟨tlb, htlb⟩ := cacheLeaf_frame s e
  have hhome' : ({ s with tlb := tlb } : State).homeOf (e.phys va.toNat) e.uncached = .own off true := hhome
  have htx' : ({ s with tlb := tlb } : State).me.txn = none := htx
  have hclear' : ({ s with tlb := tlb } : State).hostClear off = true := hclear
  refine ⟨({ s with tlb := tlb } : State).homeWrite .far off bs, ?_, ?_, mem_homeWrite ..⟩
  · simp only [State.store, htlb, hhome', State.storeHome, htx', hclear', Option.isSome_none, Bool.not_true, Bool.false_eq_true,
      if_false, plainAccess_none (s := { s with tlb := tlb }) htxs]
  · exact (show s.Alike { s with tlb := tlb } from ⟨rfl, rfl, fun _ => ⟨_, rfl⟩⟩).trans (State.Alike.homeWrite ..)

/-- A core whose slot has stored bytes of a line that its empty write buffer now holds (R117). -/
def CoreSt.buffered (k : CoreSt) (asid va pa i : Nat) (bs : List Byte) : CoreSt :=
  (k.storeL1 asid va pa bs).mergeWb asid va (pa / 64 * 64) i (placed pa bs)

theorem wb_buffered {k : CoreSt} (h : k.wb = []) (asid va pa i : Nat) (bs : List Byte) : (k.buffered asid va pa i bs).wb =
    [{ asid, va := va / 64 * 64, pa := pa / 64 * 64, stores := placed pa bs, slots := [i] }] := by
  have hs : (k.storeL1 asid va pa bs).wb = [] := h
  simp [CoreSt.buffered, CoreSt.mergeWb, hs]

/-- A cached store to global memory homed here waits in the write buffer (R117). -/
theorem store_own_buffered {va : Word} {off : Nat} {e : TlbEntry} {bs : List Byte} {v : Bool}
    (hhome : s.homeOf (e.phys va.toNat) e.uncached = .own off false) (htx : s.me.txn = none) (hwb : s.here.wb = []) :
    ∃ tlb, s.store va bs ⟨.global, some e⟩ v = .ok (({ s with tlb := tlb } : State).modHere (fun k =>
      k.buffered (s.asidOf s.cur.1) va.toNat (e.phys va.toNat) s.cur.2 bs)) := by
  obtain ⟨tlb, htlb⟩ := cacheLeaf_frame s e
  have hhome' : ({ s with tlb := tlb } : State).homeOf (e.phys va.toNat) e.uncached = .own off false := hhome
  have htx' : ({ s with tlb := tlb } : State).me.txn = none := htx
  have hwb' : (({ s with tlb := tlb } : State).core s.cur.1).wb = [] := hwb
  refine ⟨tlb, ?_⟩
  simp only [State.store, htlb, hhome', State.storeHome, htx', Option.isSome_none, Bool.false_eq_true, if_false, Bool.not_false,
    if_true, State.enterWb, hwb', List.any_nil, List.length_nil, Bool.false_or, decide_true, Nat.zero_lt_succ]
  rfl

/-! ### The write buffer drains -/

/-- The stores of an entry, performed at the home in order (R117). -/
def State.homeStores (s : State) (w : Writer) (ps : List (Nat × Byte)) : State :=
  ps.foldl (fun s p => s.homeWrite w (p.1 % 2 ^ 42) [p.2]) s

theorem homeStores_alike (w : Writer) (ps : List (Nat × Byte)) (s : State) : s.Alike (s.homeStores w ps) := by
  induction ps generalizing s with
  | nil => exact .refl s
  | cons p r ih => exact (State.Alike.homeWrite s w _ _).trans (ih _)

/-- Each byte is the last one stored to it, or as it was. -/
theorem read_homeStores (w : Writer) (ps : List (Nat × Byte)) (s : State) (x : Nat) : (s.homeStores w ps).mem.read x =
    (((ps.filter (fun p => p.1 % 2 ^ 42 == x)).getLast?).map Prod.snd).getD (s.mem.read x) := by
  induction ps generalizing s with
  | nil => rfl
  | cons p r ih =>
    have hp : (s.homeWrite w (p.1 % 2 ^ 42) [p.2]).mem.read x = if x = p.1 % 2 ^ 42 then p.2 else s.mem.read x := by
      rw [mem_homeWrite, read_writeBytes_one]
    refine (ih (s.homeWrite w (p.1 % 2 ^ 42) [p.2])).trans ?_
    rw [hp]
    by_cases hx : p.1 % 2 ^ 42 = x
    · rw [List.filter_cons_of_pos (by simpa using hx), if_pos hx.symm, List.getLast?_cons]
      cases (r.filter (fun p => p.1 % 2 ^ 42 == x)).getLast? <;> rfl
    · rw [List.filter_cons_of_neg (by simpa using hx), if_neg (Ne.symm hx)]

theorem progress_frame (c : Nat) (is : List Nat) (s : State) :
    (is.foldl (fun s i => s.modSlot c i Slot.progress) s).mem = s.mem ∧
    (is.foldl (fun s i => s.modSlot c i Slot.progress) s).hostMem = s.hostMem ∧
    ((is.foldl (fun s i => s.modSlot c i Slot.progress) s).core c).wb = (s.core c).wb := by
  induction is generalizing s with
  | nil => exact ⟨rfl, rfl, rfl⟩
  | cons i r ih =>
    obtain ⟨hmem, hhost, hwb⟩ := ih (s.modSlot c i Slot.progress)
    exact ⟨hmem, hhost, hwb.trans (by rw [modSlot_eq, core_setSlot]; rfl)⟩

/-- An entry that nothing keeps back leaves the write buffer, its stores performed (R117). -/
theorem drainNth_free {k : Nat} {e : WbEntry} (he : (s.core c).wb[k]? = some e) (hclear : s.hostClear (e.pa % 2 ^ 42) = true)
    (htxs : s.txns = []) : ∃ t, s.drainNth c k = some t ∧ (t.core c).wb = (s.core c).wb.eraseIdx k ∧ t.hostMem = s.hostMem ∧
      t.mem = (s.homeStores (.die (dieOf c)) e.stores).mem := by
  have ha := homeStores_alike (.die (dieOf c)) e.stores s
  obtain ⟨hmem, hhost, hwb⟩ := progress_frame c e.slots (s.homeStores (.die (dieOf c)) e.stores)
  let u := e.slots.foldl (fun s i => s.modSlot c i Slot.progress) (s.homeStores (.die (dieOf c)) e.stores)
  refine ⟨(u.drainPoison e).modCore c (fun x => { x with wb := x.wb.eraseIdx k }), ?_, ?_, hhost.trans ha.hostMem, hmem⟩
  · simp only [State.drainNth, he, State.drainEntry, hclear, Bool.not_true, Bool.false_eq_true, if_false, plainAccess_none htxs,
      Option.map_some]
    rfl
  · rw [core_modCore_self]
    exact congrArg (fun l => List.eraseIdx l k) (hwb.trans (ha.wb c))

/-! ### Atomics -/

/-- An atomic on global memory homed here is one step: its old bytes, and its new ones where it writes some (R122). -/
theorem atomic_own {va : Word} {n off : Nat} {e : TlbEntry} {unc : Bool} {f : List Byte → Option (List Byte)} {op : RemoteOp}
    {land : Landing} (hhome : s.homeOf (e.phys va.toNat) e.uncached = .own off unc) (htx : s.me.txn = none) (htxs : s.txns = [])
    (hbad : s.memBad off n = false) (hclear : s.hostClear off = true) (hwb : s.here.wb = []) (hland : land ≠ .none) :
    ∃ t, s.atomic va n ⟨.global, some e⟩ f op land none = .ok (t, s.mem.bytes off n) ∧ s.Alike t ∧
      t.mem = (f (s.mem.bytes off n)).elim s.mem (fun new => s.mem.writeBytes off new) := by
  obtain ⟨tlb, htlb⟩ := cacheLeaf_frame s e
  let w : State := { s with tlb := tlb }
  let drop := fun (k : CoreSt) => { k with l1d := k.l1d.filter (fun l => !l.covers (w.asidOf w.cur.1) va.toNat) }
  have hhome' : w.homeOf (e.phys va.toNat) e.uncached = .own off unc := hhome
  have htx' : w.me.txn = none := htx
  have hdrained : w.drained = .ok w := by
    have hnil : (w.core w.cur.1).wb = [] := hwb
    rw [State.drained, drainAll_nil hnil]
    simp [htx', hnil]
  have hbefore : w.beforeAtomic va = .ok (w.modHere drop) := by
    simp only [State.beforeAtomic, hdrained, bind, Except.bind]
    rfl
  have halike : s.Alike (w.modHere drop) :=
    (show s.Alike w from ⟨rfl, rfl, fun _ => ⟨_, rfl⟩⟩).trans (State.Alike.modCore (fun k => ⟨_, rfl⟩) w w.cur.1)
  have hbad' : (w.modHere drop).memBad off n = false := hbad
  have hclear' : (w.modHere drop).hostClear off = true := hclear
  have htxs' : (w.modHere drop).txns = [] := txns_modCore (s := w) htxs (fun _ => rfl)
  refine ⟨(w.modHere drop).atomicDone off n (f (s.mem.bytes off n)), ?_, ?_, ?_⟩
  · simp only [State.atomic, htlb, show ({ s with tlb := tlb } : State) = w from rfl, hhome', htx', Option.isSome_none,
      Bool.false_eq_true, if_false, hbefore, bind, Except.bind, hbad', hclear', and_false, Bool.not_true,
      plainAccess_none htxs', hland]
    rfl
  · unfold State.atomicDone
    split
    · exact halike.trans (State.Alike.homeWrite ..)
    · exact halike.trans (State.Alike.claimLines ..)
  · cases f (s.mem.bytes off n) with
    | none => exact mem_claimLines ..
    | some new => exact mem_homeWrite ..

/-- An AMO or CAS without acquire and release that is one step ends with the old value in its register. -/
theorem amoRes_of_atomic {va : Word} {dbl signed : Bool} {op : RemoteOp} {d : Reg} {k : Checked} {old : List Byte}
    (hk : s.checkMem va (if dbl then 8 else 4) .atomic = .ok k)
    (ha : s.atomic va (if dbl then 8 else 4) k (newBytes op) op (.x d (if dbl then 8 else 4) signed) none = .ok (t, old)) :
    s.amoRes va dbl false op d signed = go (t.setX d (extendLoad (if dbl then 8 else 4) signed old)) := by
  simp only [State.amoRes, hk, bind, Except.bind, Bool.not_false, if_true, pure, Except.pure, Bool.false_and,
    Bool.false_eq_true, if_false, ha, State.landed]

/-- A CAS leaves the new value where it found the expected one, else the old value (R300). -/
theorem read_cas (m : Memory) (a n x : Nat) (expected new : Word) (dbl : Bool) :
    ((newBytes (.cas dbl expected new) (m.bytes a n)).elim m (fun bs => m.writeBytes a bs)).read x =
      if a ≤ x ∧ x < a + n then
        BitVec.ofNat 8 ((if m.num a n = expected.toNat % 2 ^ (8 * n) then new.toNat else m.num a n) / 256 ^ (x - a))
      else m.read x := by
  simp only [newBytes, Memory.length_bytes]
  by_cases h : m.num a n = expected.toNat % 2 ^ (8 * n)
  · rw [if_pos h, if_pos (show natOfBytes (m.bytes a n) = _ from h)]
    exact Memory.read_setNum ..
  · rw [if_neg h, if_neg (show ¬natOfBytes (m.bytes a n) = _ from h)]
    split
    · next hx => exact (read_num m hx.1 hx.2).symm
    · rfl

/-- What three operations of Table 14.4 leave, in the bytes of their size. -/
theorem combine_mod {op : AmoOp} {n old v w : Nat} (h : (op, w) ∈ [(AmoOp.add, old + v), (.swp, v), (.and, old &&& v)]) :
    combine op n old (v % 2 ^ (8 * n)) % 256 ^ n = w % 256 ^ n := by
  have hpow : 256 ^ n = 2 ^ (8 * n) := by rw [Nat.pow_mul]
  rw [hpow]
  simp only [List.mem_cons, List.not_mem_nil, or_false, Prod.mk.injEq] at h
  rcases h with ⟨rfl, rfl⟩ | ⟨rfl, rfl⟩ | ⟨rfl, rfl⟩
  · simp [combine]
  · simp [combine]
  · simp [combine, Nat.and_mod_two_pow]

/-! ### The bundles -/

section
variable {i : Instr} {va : Word} {n off : Nat} {e : TlbEntry} {unc : Bool}

/-- A bundle that loads from the home leaves its value, the line where it is cached, and memory as it was. -/
theorem exec_load_own {land : Landing} {r : RegName} {v : Vec} (hs : Lone s) (hk : s.checkMem va n .load = .ok ⟨.global, some e⟩)
    (hhome : s.homeOf (e.phys va.toNat) e.uncached = .own off unc) (htx : s.me.txn = none) (htxs : s.txns = [])
    (hbad : s.memBad off n = false) (hn : n ∣ 64) (hal : va.toNat % n = 0)
    (hc : unc = true ∨ (s.here.l1d = [] ∧ s.here.wb = [] ∧ e.phys va.toNat % 64 = va.toNat % 64))
    (hexec : exec i s = .next (s.finishC (s.loadRes va n land none)))
    (hend : ∀ w, s.Alike w → let u := w.finishC (go (w.landed land none (s.mem.bytes off n)))
      Retired w u [r] {} ∧ GoesOn w u ∧ u.me.settled r = v) :
    ∃ u, exec i s = .next u ∧ GoesOn s u ∧ u.me.settled r = v ∧ (∀ q, q ≠ r → u.me.settled q = s.me.settled q) ∧
      u.mem = s.mem ∧ u.hostMem = s.hostMem ∧ u.here.lm = s.here.lm ∧ u.me.system = s.me.system ∧
      (unc = false → u.here.l1d.any (fun l => l.covers (s.asidOf s.cur.1) va.toNat) = true) := by
  obtain ⟨w, hload, hw, hmem, hl1⟩ := load_own (land := land) (acq := none) hhome htx htxs hbad hn hal hc
  obtain ⟨hgo, hval, hregs, hum, hhost, hlm, hsys, hl1d⟩ := leaves_of_alike hw (hend w hw)
  refine ⟨_, ?_, hgo, hval, hregs, hum.trans hmem, hhost, hlm, hsys, fun h => by rw [hl1d]; exact hl1 h⟩
  rw [hexec, loadRes_of_load hk hload, finishC_go_congr hs hw]

/-- A bundle that stores uncached changes its bytes of memory. -/
theorem exec_store_uncached {bs : List Byte} {use : Use} {v : Bool} (hs : Lone s)
    (hk : s.checkMem va bs.length use = .ok ⟨.global, some e⟩) (hhome : s.homeOf (e.phys va.toNat) e.uncached = .own off true)
    (htx : s.me.txn = none) (htxs : s.txns = []) (hclear : s.hostClear off = true)
    (hexec : exec i s = .next (s.finishC (s.storeRes va bs use v))) :
    ∃ u, exec i s = .next u ∧ GoesOn s u ∧ (∀ r, u.me.settled r = s.me.settled r) ∧ u.hostMem = s.hostMem ∧
      u.here.lm = s.here.lm ∧ u.mem = s.mem.writeBytes off bs := by
  obtain ⟨w, hstore, hw, hmem⟩ := store_own_uncached (bs := bs) (v := v) hhome htx htxs hclear
  have hme : (w.modMe Slot.progress).me = { s.me with watch := 0, wdogFired := false } := by
    rw [me_modMe, hw.me]
    rfl
  obtain ⟨hgo, hregs, -, hum, hhost, hhere⟩ := finishC_kept (t := w.modMe Slot.progress) hs hw.cur hme
  have hcore : (w.modMe Slot.progress).here = w.here.setSlot w.cur.2 w.me.progress := core_setSlot ..
  refine ⟨_, ?_, hgo, hregs, hhost.trans hw.hostMem, ?_, hum.trans hmem⟩
  · rw [hexec, storeRes_of_store hk hstore]
  · rw [hhere, hcore, lm_setSlot, lm_setSlot, hw.lm]

/-- A bundle that stores cached changes no memory: its bytes are in the write buffer. -/
theorem exec_store_buffered {bs : List Byte} {use : Use} {v : Bool} (hs : Lone s)
    (hk : s.checkMem va bs.length use = .ok ⟨.global, some e⟩) (hhome : s.homeOf (e.phys va.toNat) e.uncached = .own off false)
    (htx : s.me.txn = none) (hwb : s.here.wb = []) (hexec : exec i s = .next (s.finishC (s.storeRes va bs use v))) :
    ∃ u, exec i s = .next u ∧ GoesOn s u ∧ (∀ r, u.me.settled r = s.me.settled r) ∧ u.me.system = s.me.system ∧
      u.mem = s.mem ∧ u.hostMem = s.hostMem ∧ u.here.lm = s.here.lm ∧ u.here.wb = [{
        asid := s.asidOf s.cur.1, va := va.toNat / 64 * 64, pa := e.phys va.toNat / 64 * 64
        stores := placed (e.phys va.toNat) bs, slots := [s.cur.2] }] := by
  obtain ⟨tlb, hstore⟩ := store_own_buffered (bs := bs) (v := v) hhome htx hwb
  generalize hw : ({ s with tlb := tlb } : State).modHere (fun k =>
    k.buffered (s.asidOf s.cur.1) va.toNat (e.phys va.toNat) s.cur.2 bs) = w at hstore
  have hme : w.me = s.me := by rw [← hw]; exact me_modHere (s := { s with tlb := tlb }) rfl
  have hcore : w.here = s.here.buffered (s.asidOf s.cur.1) va.toNat (e.phys va.toNat) s.cur.2 bs := by
    rw [← hw]; exact here_modHere ..
  obtain ⟨hgo, hregs, hsys, hum, hhost, hhere⟩ := finishC_kept (t := w) hs (by rw [← hw]; rfl) hme
  refine ⟨_, ?_, hgo, hregs, by rw [hsys, hme], ?_, ?_, ?_, ?_⟩
  · rw [hexec, storeRes_of_store hk hstore]
  · rw [hum, ← hw]; rfl
  · rw [hhost, ← hw]; rfl
  · rw [hhere, hcore]; rfl
  · rw [hhere, hcore]; exact wb_buffered hwb ..

/-- A bundle with an atomic leaves the old value in its register and the new bytes in memory. -/
theorem exec_atomic_own {dbl : Bool} {op : RemoteOp} {r : Reg} (hn : n = if dbl then 8 else 4) (hs : Lone s)
    (hk : s.checkMem va n .atomic = .ok ⟨.global, some e⟩) (hhome : s.homeOf (e.phys va.toNat) e.uncached = .own off unc)
    (htx : s.me.txn = none) (htxs : s.txns = []) (hbad : s.memBad off n = false) (hclear : s.hostClear off = true)
    (hwb : s.here.wb = []) (hr : s.me.writesInto (.x r)) (hexec : exec i s = .next (s.finishC (s.amoRes va dbl false op r true))) :
    ∃ u, exec i s = .next u ∧ GoesOn s u ∧
      u.mem = (newBytes op (s.mem.bytes off n)).elim s.mem (fun new => s.mem.writeBytes off new) ∧
      u.me.settled (.x r) = xValue r ((BitVec.ofNat (8 * n) (s.mem.num off n)).signExtend 64) ∧
      (∀ q, q ≠ .x r → u.me.settled q = s.me.settled q) := by
  have hsize : 0 < n ∧ n ≤ 8 := by
    rw [hn]
    split <;> decide
  obtain ⟨w, hstep, hw, hmem⟩ := atomic_own (n := n) (f := newBytes op) (op := op) (land := .x r n true) hhome htx htxs hbad
    hclear hwb (by simp)
  have hext := extendLoad_eq hsize.1 hsize.2 true (Memory.length_bytes s.mem off n)
  obtain ⟨hgo, hval, hregs, hum, -⟩ := leaves_of_alike hw
    (finishC_x (hw.lone hs) (by rw [hw.me]; exact hr) (extendLoad n true (s.mem.bytes off n)))
  refine ⟨_, ?_, hgo, hum.trans hmem, hval.trans (by rw [hext]; rfl), hregs⟩
  subst hn
  rw [hexec, amoRes_of_atomic hk hstep, finishC_go_congr hs hw]

end

end

end Sys2Proof.Machine
end

section
/-!
CERTIFICATE. O24: loads, stores and atomics of global memory homed here.
-/
namespace Sys2Proof.Proofs

open Sys2Proof.Machine

/-- Settles O24: an access passes CheckMem (`checkMem_global`) and is performed at the home (`load_own`, `store_own_uncached`,
`atomic_own`) or in the write buffer (`store_own_buffered`), which drains (`drainNth_free`). -/
theorem globalMemory : Obligations.GlobalMemory := by
  unfold Obligations.GlobalMemory
  refine ⟨?accesses, ?drain, ?atomics⟩
  case accesses =>
    intro s a b d imm t off n unc use hlone
    extract_lets va pa ext
    intro hsp hleaf hall hhome htx htxs hcon hal hbad hclear
    constructor
    · rintro rfl hc p hp hn hd
      have hk : s.checkMem va n .load = .ok ⟨.global, some t⟩ :=
        checkMem_global hsp hleaf hall htx hcon hal rfl (by simp)
      have hx : ∀ signed, n ∣ 64 → 0 < n → n ≤ 8 → s.me.writesInto (.x d) →
          exec p.1 s = .next (s.finishC (s.ldRes d b imm n signed)) → _ :=
        fun signed h64 h0 h8 hd hexec => exec_load_own (land := .x d n signed) (r := .x d) (v := xValue d (ext signed)) hlone hk
          hhome htx htxs hbad h64 hal hc hexec (fun w hw => by
            simp only [ext, Memory.num]
            rw [← extendLoad_eq h0 h8 signed (Memory.length_bytes ..)]
            exact finishC_x (hw.lone hlone) (by rw [hw.me]; exact hd) _)
      simp only [List.mem_cons, List.not_mem_nil, or_false] at hp
      rcases hp with rfl | rfl | rfl | rfl | rfl | rfl | rfl | rfl
      case inr.inr.inr.inr.inr.inr.inr =>
        dsimp only at hn
        subst hn
        exact exec_load_own (land := .v d) hlone hk hhome htx htxs hbad (by decide) hal hc rfl
          (fun w hw => finishC_v (hw.lone hlone) (by rw [hw.me]; exact hd) _)
      all_goals
        dsimp only at hn
        subst hn
        exact hx _ (by decide) (by decide) (by decide) hd rfl
    · intro p hp hn hu
      obtain ⟨vst, hexec, had, hno⟩ : ∃ vst, exec p.1 s = .next (s.finishC (s.storeRes va (bytesOfNat n p.2.2.2) use vst)) ∧
          use.admits s.cur.2 .global = true ∧ ¬(use = .atomic ∨ use = .nibble) := by
        simp only [List.mem_cons, List.not_mem_nil, or_false] at hp
        rcases hp with rfl | rfl | rfl | rfl | rfl
        all_goals
          dsimp only at hn hu
          subst hn hu
          exact ⟨_, rfl, rfl, by simp⟩
      have hk : s.checkMem va (bytesOfNat n p.2.2.2).length use = .ok ⟨.global, some t⟩ := by
        rw [Memory.length_bytesOfNat]
        exact checkMem_global hsp hleaf hall htx hcon hal had (fun h => absurd h hno)
      constructor
      · rintro rfl
        obtain ⟨u, hu, hgo, hregs, hhost, hlm, hmem⟩ := exec_store_uncached hlone hk hhome htx htxs hclear hexec
        exact ⟨u, hu, hgo, hregs, hhost, hlm, fun x => by rw [hmem]; exact Memory.read_setNum ..⟩
      · rintro rfl hwb
        obtain ⟨u, hu, hgo, hregs, hsys, hmem, hhost, hlm, huwb⟩ := exec_store_buffered hlone hk hhome htx hwb hexec
        exact ⟨u, hu, hgo, hregs, hsys, hmem, hhost, hlm, _, huwb, rfl, rfl, placed_bytesOfNat ..⟩
  case drain =>
    intro s c k e he hclear htxs
    obtain ⟨t, ht, hwb, hhost, hmem⟩ := drainNth_free he hclear htxs
    refine ⟨t, ?_, hwb, hhost, fun x => ?_⟩
    · show Host.Outcome.next ((s.drainNth c k).getD _) = _
      rw [ht, Option.getD_some]
    · rw [hmem]
      exact read_homeStores ..
  case atomics =>
    intro s dbl a b c d t off unc hlone
    extract_lets n va old wr
    intro hsp hleaf hr hw hpa hhome htx htxs hcon hal hbad hclear hwb
    have hk : s.checkMem va n .atomic = .ok ⟨.global, some t⟩ :=
      checkMem_global hsp hleaf (by simp [Use.allowed, hr, hw]) htx hcon hal rfl (fun _ => hpa)
    refine ⟨fun hd p hp => ?_, fun ha => ?_⟩
    · have hsigned : AmoOp.extends p.1 = true := by
        simp only [List.mem_cons, List.not_mem_nil, or_false] at hp
        rcases hp with rfl | rfl | rfl <;> rfl
      have hexec : exec (.amo p.1 dbl false d b c) s =
          .next (s.finishC (s.amoRes va dbl false (.amo p.1 dbl (s.X c)) d true)) := by
        rw [← hsigned]
        rfl
      obtain ⟨u, hu, hgo, hmem, hval, hregs⟩ := exec_atomic_own rfl hlone hk hhome htx htxs hbad hclear hwb hd hexec
      refine ⟨u, hu, hgo, fun x => ?_, hval, hregs⟩
      simp only [hmem, newBytes, Memory.length_bytes, Option.elim_some]
      exact read_setNum_mod s.mem off n x (combine_mod hp)
    · obtain ⟨u, hu, hgo, hmem, hval, -⟩ := exec_atomic_own (i := .cas dbl false a b c) (op := .cas dbl (s.X a) (s.X c)) rfl hlone
        hk hhome htx htxs hbad hclear hwb ha rfl
      exact ⟨u, hu, hgo, fun x => by rw [hmem]; exact read_cas s.mem off n x (s.X a) (s.X c) dbl, hval⟩

end Sys2Proof.Proofs
end
